-- ==== Sys2Proof/Word.lean ====
section
/-! DEFINITION. The word types of the device and the sorted association lists that hold its sparse state. -/

namespace Sys2Proof

/-- A 64-bit lane value, uniform register, special register or control register. -/
abbrev Word := BitVec 64

/-- A set of lanes: bit `l` is lane `l` (R37). -/
abbrev Mask := BitVec 32

/-- One byte. -/
abbrev Byte := BitVec 8

/-- A finite map from numbers to values, held as a list of pairs with rising keys.
An absent key has the value that the map's user names as its default. -/
abbrev AMap (α : Type) := List (Nat × α)

end Sys2Proof
end

