-- ==== Sys2Proof/Config.lean ====
section
/-! DEFINITION. What an implementation fixes, and the free values: constants without a body, of which nothing can be proved. -/

namespace Sys2Proof.Config

/-- The free values of everything the spec calls undefined (R6, R45, R341, R360). Applied to `State.fresh`,
which every use advances. DESIGN CHOICE of form only, log 4; safe: no number is chosen. -/
opaque freeValue : Nat → Word

/-- Which members of a contiguous-16 run an inconsistent access uses (R162 leaves it undefined). Log 4; safe. -/
opaque freeMember : Nat → Word → Nat

/-- Whether the first of two merging entries gives the clause flags and the place in the clause, where the two differ in them
(R19 is silent): applied to their PC and masks. Log 11; safe. -/
opaque mergeKeeps : Word → Mask → Mask → Bool

/-- Free 64 KiB frames of a die at an epoch's end (R178), a count that firmware keeps: applied to `State.fresh` and the die. Log 22; safe. -/
opaque freeFrames : Nat → Nat → Nat

/-- Whether, and at which address, an access matches a watchpoint whose address is not aligned to its length, which software must not set
(R6, R59): applied to the watched address, LOG2LEN, the access's address and its size. Log 43; safe. -/
opaque watchMisaligned : Nat → Nat → Word → Nat → Option Word

/-- Ed448 signature check over key, message and signature (R417, R420; the algorithm is named and not given). Log 5; safe. -/
opaque ed448Verify : List Byte → List Byte → List Byte → Bool

/-- The Ed448 signature the control cores make with the package's identity key (R420). Log 5; safe. -/
opaque ed448Sign : List Byte → List Byte

/-- The identity public key of the package, 57 bytes (R420), fixed by fuses at manufacture. Log 5; safe. -/
opaque identityKey : List Byte

/-- The serial number of the package (R420). Log 5; safe. -/
opaque serial : Word

/-- The fused root key hash, 32 bytes (R417). Log 5; safe. -/
opaque rootKeyHash : List Byte

/-- The fused minimum security version (R417). Log 5; safe. -/
opaque minSecurityVersion : BitVec 32

/-- The bytes of the boot ROM, whose hash extends MEAS0 (R416, R418). Log 5; safe. -/
opaque romBytes : List Byte

/-- How far an extension set raises the minor version above 1: the spec gives no number (R1, R266). DESIGN CHOICE, log 35. -/
opaque extensionMinor : BitVec 8 → Nat

/-- AES-256-GCM sealing of a payload (R156): key number, counter, header and flits give ciphertext flits and a tag. Log 5; safe. -/
opaque gcmSeal : Word → Word → BitVec 512 → List (BitVec 512) → List (BitVec 512) × BitVec 128

/-- The 56-bit identity of the link of a port, fixed at link training (R154). Log 5; safe. -/
opaque linkIdentity : Nat → BitVec 56

/-- AES-256-GCM of a hop (R154): port, number of the link's key, nonce and flits give the flits on the link and HOPTAG. Log 5; safe. -/
opaque hopSeal : Nat → Nat → BitVec 96 → List (BitVec 512) → List (BitVec 512) × BitVec 128

/-- AES-256-GCM of an ENDPOINT control flit under the link's control key (R154): port, number of the key, nonce and flits give the flits on the
link and HOPTAG. Log 5; safe. -/
opaque controlSeal : Nat → Nat → BitVec 96 → List (BitVec 512) → List (BitVec 512) × BitVec 128

/-- AES-256-GCM opening of a sealed payload (R156): none when the tag does not verify. Log 5; safe. -/
opaque gcmOpen : Word → Word → BitVec 512 → List (BitVec 512) → BitVec 128 → Option (List (BitVec 512))


end Sys2Proof.Config
end

