-- ==== Sys2Proof/Syntax.lean ====
section
/-! DEFINITION. The instructions of the device, and the steps of its agents: one constructor for each row of the opcode table.
The operand forms are those of the encoding chapter (R249 to R263); the events carry what the outside agent or the engine brings. -/

namespace Sys2Proof

/-- The types of the 4-bit TYPE field (R261). -/
inductive Ty where
  | n8 | i8 | n16 | i16 | n32 | i32 | n64 | i64 | f16 | bf16 | f32 | f64 | bx8 | bx4 | b32 | b64
  deriving DecidableEq, Repr

/-- The constant operand codes 0xD0 to 0xD7 (R262). -/
inductive Konst where
  | zero | one | ones | fOne | fHalf | fTwo | fMinusOne | lane
  deriving DecidableEq, Repr

/-- An 8-bit operand code (R262). -/
inductive Opnd where
  /-- vector register v0 to v127 -/
  | v (n : BitVec 7)
  /-- uniform register s0 to s63 -/
  | s (n : BitVec 6)
  /-- predicate p0 to p7 -/
  | p (n : BitVec 3)
  /-- constant -/
  | k (c : Konst)
  /-- code 0xFF, no operand -/
  | none
  /-- a reserved code: no well-formed instruction holds it -/
  | reserved (code : BitVec 8)
  deriving DecidableEq, Repr

/-- What format X adds to format F (R253, R254). -/
inductive Ext where
  /-- format F -/
  | f
  /-- format X with L = 1: operand b is a literal -/
  | lit (v : BitVec 32)
  /-- format X with L = 0: extended modifier and source modifiers of b and a -/
  | sm (xmod : BitVec 8) (smb sma : BitVec 12)
  deriving DecidableEq, Repr

/-- The fields of a format F or X instruction but its opcode (R252, R253). -/
structure Fx where
  ty : Ty
  d : Opnd
  a : Opnd
  b : Opnd
  c : Opnd
  lua : Bool
  lub : Bool
  luc : Bool
  guard : BitVec 3
  gneg : Bool
  fen : Bool
  fsel : Bool
  reuse : Bool
  md : BitVec 7
  ext : Ext
  deriving DecidableEq, Repr

/-- The fields of a format C instruction but its opcode (R250). -/
structure CForm where
  g : Bool
  lub : Bool
  lua : Bool
  vb : BitVec 7
  va : BitVec 7
  vd : BitVec 7
  deriving DecidableEq, Repr

/-- The fields of a format I instruction but its opcode (R251). -/
structure IForm where
  imm : BitVec 9
  lua : Bool
  va : BitVec 7
  vd : BitVec 7
  deriving DecidableEq, Repr

/-- One half of a format P pair but its opcode (R258). -/
structure PHalf where
  gneg : Bool
  guard : BitVec 3
  lus : Bool
  vs : BitVec 7
  vd : BitVec 7
  deriving DecidableEq, Repr

/-- The pair opcodes OPP 0x00 to 0x12 (R258). -/
inductive PairOp where
  | iaddI32 | isubI32 | iaddI64 | andB64 | orB64 | xorB64 | iminI32 | imaxI32 | faddF32 | fmulF32
  | fminF32 | fmaxF32 | faddBf16 | fmulBf16 | faddF16 | fmulF16 | movB64 | faddF64 | fmulF64
  deriving DecidableEq, Repr

/-- The fields of a clause header (R260). `len` is LEN, the body length less 1. -/
structure Header where
  len : BitVec 5
  pri : BitVec 8
  bv : Bool
  flagB : BitVec 4
  av : Bool
  flagA : BitVec 4
  wait : BitVec 12
  deriving DecidableEq, Repr

/-- A pattern that is no instruction: its cause and subcode as a body instruction (R264), the subcode it raises where a
clause header is expected (R260, R274), and its parcels (parcel 0 in the low bits). -/
structure Illegal where
  cause : BitVec 8
  sub : BitVec 8
  hdrSub : BitVec 8
  parcels : BitVec 96
  deriving DecidableEq, Repr

/-- The five supply rails (R413). -/
inductive Rail where
  | vddC | vddS | vddq | vddX | vddB
  deriving DecidableEq, Repr

/-- One control-window write as it arrives (R61): the master (R180), whether the access came through export entry 0
(R419), the offset, the size in bytes and the data. -/
structure CtlWrite where
  master : BitVec 7
  viaEntry0 : Bool
  off : BitVec 26
  size : Nat
  data : Word
  deriving DecidableEq, Repr

/-- A signed boot image (R417). -/
structure SignedImage where
  key : List Byte
  secver : BitVec 32
  sig : List Byte
  body : List Byte
  deriving DecidableEq, Repr

/-- What a base die finds at boot (R416): its firmware image, its extension microcode with the set it loads, the
spillway size and the host node its firmware writes; what the test of its HBM finds, a reason to halt or none, the node number that the
training of its links gives, and the MAP that its firmware sets. -/
structure BootPlan where
  firmware : SignedImage
  microcode : Option (SignedImage × BitVec 8)
  spillMib : Word
  hostNode : BitVec 14
  hbm : Option (BitVec 8) := none
  node : BitVec 14 := 0
  map : BitVec 8 := 0xE4
  deriving DecidableEq, Repr

/-- The rectangle a cluster is placed on (R16): its die and the core at its low corner. -/
structure Rect where
  die : BitVec 2
  x0 : Nat
  y0 : Nat
  deriving DecidableEq, Repr

/-- A merge set record: die, coordinator slice and record number (R99). -/
structure SetId where
  die : BitVec 2
  slice : BitVec 8
  record : BitVec 3
  deriving DecidableEq, Repr

/-- A fabric packet: its header flit (R136) and its payload flits, the mask flit included. -/
structure Packet where
  kind : BitVec 8
  trim : Bool := false
  notrim : Bool := false
  cm : Bool := false
  sealed : Bool := false
  rel : Bool := false
  refill : Bool := false
  resend : Bool := false
  masked : Bool := false
  cls : BitVec 2 := 0
  len : BitVec 3 := 0
  polder : BitVec 6 := 0
  src : BitVec 14 := 0
  plane : BitVec 2 := 0
  dst : BitVec 14 := 0
  stag : BitVec 12 := 0
  ck : Bool := false
  op : BitVec 4 := 0
  tyField : BitVec 4 := 0
  status : BitVec 8 := 0
  ctx : BitVec 10 := 0
  cont : BitVec 10 := 0
  gen : BitVec 6 := 0
  off : BitVec 42 := 0
  tag : BitVec 4 := 0
  rcore : BitVec 9 := 0
  tck : Bool := false
  tref : Bool := false
  /-- a reserved header bit arrived set (R136) -/
  reservedSet : Bool := false
  sealCtr : Word := 0
  sealTag : BitVec 128 := 0
  hopTag : BitVec 128 := 0
  payload : List (BitVec 512) := []
  /-- handle and contributor id of an MSTAGE, whose place in the frame the spec does not give (log 12) -/
  handle : Word := 0
  cid : BitVec 16 := 0
  /-- not of the frame: the lane of an atomic, which its source keeps beside the packet, and the die of the port by which a packet came
  in, which the routes decide (R136, log 30) -/
  lane : BitVec 5 := 0
  inDie : BitVec 2 := 0
  /-- not of the frame either: the sectors of its line that a read is for, which R91 has compared and whose place R136 does not give (log
  49) -/
  sectors : BitVec 4 := 0xF
  deriving DecidableEq, Repr

/-- One constructor for each row of the opcode table: the instructions of the lanes, and the indivisible steps
of the agents that run beside them. The lanes' instructions come first: the compiler builds no value of a constructor
past the 245th, and the decoder must build these. -/
inductive Instr where
  /-- R264: Lanes reaching a pattern that is not an instruction raise ILLOP or ILLENC precisely. -/
  | reservedOpcode (r : Illegal)
  /-- R18: Lanes enter a clause header, wait for its wait-mask flags and take its priority and flags. -/
  | clause (h : Header)
  /-- R275: Takes an issue slot and does nothing. -/
  | nop (f : Fx)
  /-- R273: Branches active lanes to a PC-relative clause header, the others falling through. -/
  | bra (f : Fx)
  /-- R273: Branches each active lane to the absolute header address in its operand. -/
  | brx (f : Fx)
  /-- R273: Branches PC-relatively and writes the following header as the return address. -/
  | call (f : Fx)
  /-- R273: Branches to a register target and writes the following header as the return address. -/
  | callx (f : Fx)
  /-- R274: Returns to the header address in its operand, acting as BRX. -/
  | ret (f : Fx)
  /-- R27: Places active lanes in waiting-join and releases all when every non-exited lane waits. -/
  | join (f : Fx)
  /-- R277: Ends the active lanes, ending the group when all have exited and draining the team when all groups have ended. -/
  | exit (f : Fx)
  /-- R278: Makes the entry ineligible until the group issues elsewhere or the rotation passes every other slot. -/
  | yield (f : Fx)
  /-- R279: Keeps the entry ineligible until the masked flags are 0. -/
  | waitf (f : Fx)
  /-- R28: Active lanes arrive at a team barrier and wait for its generation to complete. -/
  | barSync (f : Fx)
  /-- R28: Active lanes arrive at a team barrier without waiting. -/
  | barArv (f : Fx)
  /-- R28: Active lanes wait for a team barrier's current generation without arriving. -/
  | barWait (f : Fx)
  /-- R29: Active lanes arrive and wait until every non-exited lane of the cluster has arrived. -/
  | cbar (f : Fx)
  /-- R281: Writes to every active lane whether any active lane's predicate bit is set. -/
  | voteAny (f : Fx)
  /-- R281: Writes to every active lane whether every active lane's predicate bit is set. -/
  | voteAll (f : Fx)
  /-- R281: Writes the mask of active lanes with the predicate set into a register. -/
  | voteBal (f : Fx)
  /-- R281: Computes a predicate per lane from three predicates through a lookup table. -/
  | plop (f : Fx)
  /-- R281: Sets a predicate from a predicate, a uniform mask or per-lane non-zero values. -/
  | pmov (f : Fx)
  /-- R282: Releases at .dev, reads a 128-byte record and enqueues it on a queue of the context, writing a status. -/
  | launch (f : Fx)
  /-- R284: Raises TRAPI precisely in the active lanes with the operand in TADDR. -/
  | trap (f : Fx)
  /-- R284: Raises BKPT precisely in the active lanes. -/
  | bkpt (f : Fx)
  /-- R287: Integer add, wrapping or saturating. -/
  | iadd (f : Fx)
  /-- R287: Integer subtract, wrapping or saturating. -/
  | isub (f : Fx)
  /-- R288: 64-bit add with a per-lane carry in and out through a predicate. -/
  | iaddc (f : Fx)
  /-- R287: Integer multiply, wrapping. -/
  | imul (f : Fx)
  /-- R287: High half of the exact integer product. -/
  | imulh (f : Fx)
  /-- R287: Integer multiply-add, wrapping. -/
  | imad (f : Fx)
  /-- R289: Widening multiply-add of narrow elements into double-width results. -/
  | imadw (f : Fx)
  /-- R290: Integer quotient truncated toward zero, with corner cases, ASTAT.DIV and optional ARITH trap. -/
  | idiv (f : Fx)
  /-- R290: Integer remainder with the dividend's sign, with corner cases, ASTAT.DIV and optional ARITH trap. -/
  | irem (f : Fx)
  /-- R287: Integer minimum in the type's signedness. -/
  | imin (f : Fx)
  /-- R287: Integer maximum in the type's signedness. -/
  | imax (f : Fx)
  /-- R287: Integer absolute value, wrapping or saturating. -/
  | iabs (f : Fx)
  /-- R287: Integer negation, wrapping or saturating. -/
  | ineg (f : Fx)
  /-- R287: Absolute difference plus an accumulator. -/
  | isad (f : Fx)
  /-- R291: Integer comparison writing one predicate bit per active lane. -/
  | icmp (f : Fx)
  /-- R292: Selects whole lanes from two sources by a predicate. -/
  | ipick (f : Fx)
  /-- R293: Shift left by a per-element count. -/
  | shl (f : Fx)
  /-- R293: Logical shift right. -/
  | shr (f : Fx)
  /-- R293: Arithmetic shift right. -/
  | sar (f : Fx)
  /-- R293: Rotate left or right. -/
  | rot (f : Fx)
  /-- R293: Funnel shift of two operands by a count. -/
  | fshf (f : Fx)
  /-- R294: Bitwise and. -/
  | andBits (f : Fx)
  /-- R294: Bitwise or. -/
  | orBits (f : Fx)
  /-- R294: Bitwise exclusive or. -/
  | xorBits (f : Fx)
  /-- R294: Bitwise complement. -/
  | notBits (f : Fx)
  /-- R294: Bitwise three-input lookup table. -/
  | blut (f : Fx)
  /-- R295: Counts set bits per element. -/
  | popc (f : Fx)
  /-- R295: Counts leading zeros per element. -/
  | clz (f : Fx)
  /-- R295: Counts trailing zeros per element. -/
  | ctz (f : Fx)
  /-- R295: Reverses bit order per element. -/
  | brev (f : Fx)
  /-- R296: Extracts a bit field, sign-extending for signed types. -/
  | bfx (f : Fx)
  /-- R296: Inserts a bit field. -/
  | bfi (f : Fx)
  /-- R297: Integer dot product into two 32-bit sums per lane. -/
  | idot (f : Fx)
  /-- R298: Copies a register, constant or literal. -/
  | mov (f : Fx)
  /-- R299: Converts between integer widths, wrapping or saturating. -/
  | cvti (f : Fx)
  /-- R300: Adds a scaled index within the low 56 address bits, keeping the top byte. -/
  | lea (f : Fx)
  /-- R300: Replaces an address's memory tag bits. -/
  | tags (f : Fx)
  /-- R300: Reads an address's memory tag bits. -/
  | tagg (f : Fx)
  /-- R301: Narrows two registers into one, wrapping or saturating. -/
  | pack (f : Fx)
  /-- R301: Widens the low or high half of a register. -/
  | unpk (f : Fx)
  /-- R305: Floating-point add under the rounding mode. -/
  | fadd (f : Fx)
  /-- R305: Floating-point subtract. -/
  | fsub (f : Fx)
  /-- R305: Floating-point multiply. -/
  | fmul (f : Fx)
  /-- R305: Fused multiply-add with one rounding. -/
  | ffma (f : Fx)
  /-- R305: Floating-point minimum under R237. -/
  | fmin (f : Fx)
  /-- R305: Floating-point maximum under R237. -/
  | fmax (f : Fx)
  /-- R306: Floating-point comparison writing one predicate bit per active lane. -/
  | fsetp (f : Fx)
  /-- R307: Tests elements against a class mask into a predicate. -/
  | fcls (f : Fx)
  /-- R308: Rounds to an integral value of the same type. -/
  | frnd (f : Fx)
  /-- R309: Correctly rounded reciprocal. -/
  | frcp (f : Fx)
  /-- R309: Correctly rounded reciprocal square root. -/
  | frsq (f : Fx)
  /-- R309: Correctly rounded square root. -/
  | fsqrt (f : Fx)
  /-- R309: Correctly rounded division. -/
  | fdiv (f : Fx)
  /-- R310: Correctly rounded 2^x. -/
  | fex2 (f : Fx)
  /-- R310: Correctly rounded log2 x. -/
  | flg2 (f : Fx)
  /-- R310: Correctly rounded sin(πx). -/
  | fsin (f : Fx)
  /-- R310: Correctly rounded cos(πx). -/
  | fcos (f : Fx)
  /-- R310: Correctly rounded tanh x. -/
  | ftanh (f : Fx)
  /-- R310: Correctly rounded logistic sigmoid. -/
  | fsig (f : Fx)
  /-- R311: Converts between float types, narrowing, widening or swapping half formats. -/
  | cvtf (f : Fx)
  /-- R312: Converts float to integer, saturating and setting ASTAT.SAT. -/
  | f2i (f : Fx)
  /-- R312: Converts integer to float under the mode. -/
  | i2f (f : Fx)
  /-- R313: Encodes lanes' values into BX blocks with their scale pairs. -/
  | bxenc (f : Fx)
  /-- R314: Decodes BX blocks into float elements. -/
  | bxdec (f : Fx)
  /-- R317: Exchanges whole lanes by a per-lane index within segments, with a fill. -/
  | lxch (f : Fx)
  /-- R318: Assembles each lane's bytes from two sources by a selector. -/
  | prm (f : Fx)
  /-- R319: Broadcasts one lane's value. -/
  | lbc (f : Fx)
  /-- R320: Reduces across lanes in the fixed tree, or with index. -/
  | redc (f : Fx)
  /-- R321: Segmented inclusive or exclusive serial scan across lanes. -/
  | scan (f : Fx)
  /-- R322: Compares active lanes' values, giving match masks or an all-equal predicate. -/
  | matchLanes (f : Fx)
  /-- R323: Chooses a lane with probability proportional to its weight. -/
  | csamp (f : Fx)
  /-- R324: Computes per-lane random values from RNGKEY and RNGCTR and advances RNGCTR. -/
  | rng (f : Fx)
  /-- R332: Loads per-lane values from memory through the selected cache path. -/
  | ld (f : Fx)
  /-- R333: Stores per-lane values to memory through the selected cache path. -/
  | st (f : Fx)
  /-- R332: Loads per-lane values from scratch. -/
  | lds (f : Fx)
  /-- R333: Stores per-lane values to scratch. -/
  | sts (f : Fx)
  /-- R336: Loads one uniform value into an s register. -/
  | ldu (f : Fx)
  /-- R336: Stores one uniform value. -/
  | stu (f : Fx)
  /-- R337: Loads the scale pair of each lane's BX element block. -/
  | ldbxs (f : Fx)
  /-- R339: Atomic read-modify-write at the home, returning old values. -/
  | atom (f : Fx)
  /-- R339: Atomic reduction at the home with no returned value. -/
  | red (f : Fx)
  /-- R341: Queues an asynchronous copy on a channel and returns its end position. -/
  | copy (f : Fx)
  /-- R126: Queues the longest copy prefix the sluice admits and returns the accepted length. -/
  | copyf (f : Fx)
  /-- R342: Reads a copy channel's position with acquire at .team. -/
  | wptr (f : Fx)
  /-- R343: Appends active lanes' words to a FIFO slot. -/
  | pushf (f : Fx)
  /-- R343: Removes words from a FIFO slot into active lanes. -/
  | popf (f : Fx)
  /-- R75: Switches one of the team's bank slots to a new mode. -/
  | bankcfg (f : Fx)
  /-- R214: Acquire fence at a scope. -/
  | fenceAcq (f : Fx)
  /-- R214: Release fence at a scope. -/
  | fenceRel (f : Fx)
  /-- R214: Release then acquire fence at a scope. -/
  | fenceAr (f : Fx)
  /-- R346: Writes back the context's dirty bytes of a range to their homes. -/
  | cwb (f : Fx)
  /-- R346: Invalidates clean sectors of a range, keeping dirty bytes. -/
  | cinv (f : Fx)
  /-- R346: Writes back every dirty byte of the context on the core and waits for every earlier write to perform at its home. -/
  | flush (f : Fx)
  /-- R347: Prefetches sectors toward the L1 or L2 without faults. -/
  | pref (f : Fx)
  /-- R348: Reads the memory tag of each lane's sector. -/
  | ldtag (f : Fx)
  /-- R348: Sets the memory tag of each lane's sector, optionally zeroing it. -/
  | sttag (f : Fx)
  /-- R349: Sets a watchpoint's address, configuration and lane mask. -/
  | watch (f : Fx)
  /-- R355: Sets the group's matrix format register. -/
  | oprf (f : Fx)
  /-- R359: Matrix multiply-accumulate of one K step on the group's sub-array. -/
  | mma (f : Fx)
  /-- R359: Wide matrix multiply-accumulate of a doubled K step. -/
  | mmaw (f : Fx)
  /-- R364: Opens a merge set from a descriptor and returns a handle or failure status. -/
  | mopen (f : Fx)
  /-- R365: Stages per-lane elements into a contributor's slot. -/
  | mstg (f : Fx)
  /-- R366: Closes a contributor after its stages are accepted. -/
  | mclose (f : Fx)
  /-- R367: Aborts a contributor or a whole merge set. -/
  | mabort (f : Fx)
  /-- R367: Reads a merge set's or contributor's status word. -/
  | mstat (f : Fx)
  /-- R369: Loads per-lane values over the fabric. -/
  | rld (f : Fx)
  /-- R371: Stores per-lane values over the fabric, optionally with release. -/
  | rst (f : Fx)
  /-- R372: Performs per-lane atomics over the fabric. -/
  | ratom (f : Fx)
  /-- R371: Writes one uniform value over the fabric with release. -/
  | puts (f : Fx)
  /-- R370: Reads one whole remote line into a register. -/
  | getf (f : Fx)
  /-- R373: Reads and clears FSTAT bits in one step. -/
  | fstatc (f : Fx)
  /-- R374: Returns a vacate charge class's cost, engine and flags. -/
  | vcost (f : Fx)
  /-- R375: Tests whether a given charge and save change would pass the sluice. -/
  | vchk (f : Fx)
  /-- R376: Marks a task boundary where lanes wait during a soft stage. -/
  | vckpt (f : Fx)
  /-- R376: Sets a predicate telling whether a soft stage is in progress. -/
  | vckptPoll (f : Fx)
  /-- R377: Reads a special register. -/
  | getsr (f : Fx)
  /-- R378: Writes a special register's RW and W1C fields, loading a scale window descriptor for SCLWIN. -/
  | setsr (f : Fx)
  /-- R379: Writes back and invalidates instruction-cache lines of a scope on every core of the context. -/
  | icinv (f : Fx)
  /-- R380: Parks the lanes and sends a service request record to the polder's owner. -/
  | sysc (f : Fx)
  /-- R381: Ends handler service and resumes TLANES at TPC. -/
  | tret (f : Fx)
  /-- R256: Compact 32-bit integer add. -/
  | iaddI32C (c : CForm)
  /-- R256: Compact 32-bit integer subtract. -/
  | isubI32C (c : CForm)
  /-- R256: Compact 32-bit integer multiply. -/
  | imulI32C (c : CForm)
  /-- R256: Compact signed 32-bit minimum. -/
  | iminI32C (c : CForm)
  /-- R256: Compact signed 32-bit maximum. -/
  | imaxI32C (c : CForm)
  /-- R256: Compact 64-bit integer add. -/
  | iaddI64C (c : CForm)
  /-- R256: Compact 64-bit integer subtract. -/
  | isubI64C (c : CForm)
  /-- R256: Compact 64-bit and. -/
  | andB64C (c : CForm)
  /-- R256: Compact 64-bit or. -/
  | orB64C (c : CForm)
  /-- R256: Compact 64-bit xor. -/
  | xorB64C (c : CForm)
  /-- R256: Compact 32-bit shift left. -/
  | shlB32C (c : CForm)
  /-- R256: Compact 32-bit logical shift right. -/
  | shrN32C (c : CForm)
  /-- R256: Compact 32-bit arithmetic shift right. -/
  | sarI32C (c : CForm)
  /-- R256: Compact 64-bit shift left. -/
  | shlB64C (c : CForm)
  /-- R256: Compact 64-bit logical shift right. -/
  | shrN64C (c : CForm)
  /-- R256: Compact unsigned 32-bit minimum. -/
  | iminN32C (c : CForm)
  /-- R256: Compact unsigned 32-bit maximum. -/
  | imaxN32C (c : CForm)
  /-- R256: Compact f32 add, RNE. -/
  | faddF32C (c : CForm)
  /-- R256: Compact f32 subtract, RNE. -/
  | fsubF32C (c : CForm)
  /-- R256: Compact f32 multiply, RNE. -/
  | fmulF32C (c : CForm)
  /-- R256: Compact f32 minimum. -/
  | fminF32C (c : CForm)
  /-- R256: Compact f32 maximum. -/
  | fmaxF32C (c : CForm)
  /-- R256: Compact f16 add, RNE. -/
  | faddF16C (c : CForm)
  /-- R256: Compact f16 multiply, RNE. -/
  | fmulF16C (c : CForm)
  /-- R256: Compact bf16 add, RNE. -/
  | faddBf16C (c : CForm)
  /-- R256: Compact bf16 multiply, RNE. -/
  | fmulBf16C (c : CForm)
  /-- R256: Compact f64 add, RNE. -/
  | faddF64C (c : CForm)
  /-- R256: Compact f64 multiply, RNE. -/
  | fmulF64C (c : CForm)
  /-- R256: Compact 64-bit register move. -/
  | movB64C (c : CForm)
  /-- R256: Compact f64 minimum. -/
  | fminF64C (c : CForm)
  /-- R256: Compact f64 maximum. -/
  | fmaxF64C (c : CForm)
  /-- R257: 32-bit integer add of an immediate. -/
  | iaddI32I (i : IForm)
  /-- R257: 64-bit integer add of an immediate. -/
  | iaddI64I (i : IForm)
  /-- R257: 32-bit and with an immediate. -/
  | andB32I (i : IForm)
  /-- R257: 32-bit or with an immediate. -/
  | orB32I (i : IForm)
  /-- R257: 32-bit xor with an immediate. -/
  | xorB32I (i : IForm)
  /-- R257: 32-bit shift left by an immediate count 0 to 31. -/
  | shlB32I (i : IForm)
  /-- R257: 32-bit logical shift right by an immediate count. -/
  | shrN32I (i : IForm)
  /-- R257: 32-bit arithmetic shift right by an immediate count. -/
  | sarI32I (i : IForm)
  /-- R257: 64-bit shift left by an immediate count 0 to 63. -/
  | shlB64I (i : IForm)
  /-- R257: 64-bit logical shift right by an immediate count. -/
  | shrN64I (i : IForm)
  /-- R257: Moves an immediate into both 32-bit sub-elements. -/
  | movI32I (i : IForm)
  /-- R257: Moves a sign-extended immediate into 64 bits. -/
  | movI64I (i : IForm)
  /-- R257: 32-bit multiply by an immediate. -/
  | imulI32I (i : IForm)
  /-- R257: Signed 32-bit minimum with an immediate. -/
  | iminI32I (i : IForm)
  /-- R257: Signed 32-bit maximum with an immediate. -/
  | imaxI32I (i : IForm)
  /-- R258: Pair half: 32-bit add into its destination. -/
  | iaddI32P (h0 : PHalf) (op1 : PairOp) (h1 : PHalf)
  /-- R258: Pair half: 32-bit subtract. -/
  | isubI32P (h0 : PHalf) (op1 : PairOp) (h1 : PHalf)
  /-- R258: Pair half: 64-bit add. -/
  | iaddI64P (h0 : PHalf) (op1 : PairOp) (h1 : PHalf)
  /-- R258: Pair half: 64-bit and. -/
  | andB64P (h0 : PHalf) (op1 : PairOp) (h1 : PHalf)
  /-- R258: Pair half: 64-bit or. -/
  | orB64P (h0 : PHalf) (op1 : PairOp) (h1 : PHalf)
  /-- R258: Pair half: 64-bit xor. -/
  | xorB64P (h0 : PHalf) (op1 : PairOp) (h1 : PHalf)
  /-- R258: Pair half: signed 32-bit minimum. -/
  | iminI32P (h0 : PHalf) (op1 : PairOp) (h1 : PHalf)
  /-- R258: Pair half: signed 32-bit maximum. -/
  | imaxI32P (h0 : PHalf) (op1 : PairOp) (h1 : PHalf)
  /-- R258: Pair half: f32 add. -/
  | faddF32P (h0 : PHalf) (op1 : PairOp) (h1 : PHalf)
  /-- R258: Pair half: f32 multiply. -/
  | fmulF32P (h0 : PHalf) (op1 : PairOp) (h1 : PHalf)
  /-- R258: Pair half: f32 minimum. -/
  | fminF32P (h0 : PHalf) (op1 : PairOp) (h1 : PHalf)
  /-- R258: Pair half: f32 maximum. -/
  | fmaxF32P (h0 : PHalf) (op1 : PairOp) (h1 : PHalf)
  /-- R258: Pair half: bf16 add. -/
  | faddBf16P (h0 : PHalf) (op1 : PairOp) (h1 : PHalf)
  /-- R258: Pair half: bf16 multiply. -/
  | fmulBf16P (h0 : PHalf) (op1 : PairOp) (h1 : PHalf)
  /-- R258: Pair half: f16 add. -/
  | faddF16P (h0 : PHalf) (op1 : PairOp) (h1 : PHalf)
  /-- R258: Pair half: f16 multiply. -/
  | fmulF16P (h0 : PHalf) (op1 : PairOp) (h1 : PHalf)
  /-- R258: Pair half: 64-bit move from the second source. -/
  | movB64P (h0 : PHalf) (op1 : PairOp) (h1 : PHalf)
  /-- R258: Pair half: f64 add. -/
  | faddF64P (h0 : PHalf) (op1 : PairOp) (h1 : PHalf)
  /-- R258: Pair half: f64 multiply. -/
  | fmulF64P (h0 : PHalf) (op1 : PairOp) (h1 : PHalf)
  /-- R415: Package reset, asserted by a rail leaving its range or by a trip and released when every rail is in range, brings every register to its reset value, zeroes the vector clocks and QUAR bits, and invalidates every cache. -/
  | packageReset
  /-- R413: A supply rail leaves its range and asserts package reset. -/
  | railOutOfRange (r : Rail)
  /-- R412: A die reaches the trip temperature and asserts package reset at once, losing every context. -/
  | thermalTrip (d : BitVec 2)
  /-- R412: A die reaches the throttle temperature and requests firmware to lower clocks through CCLK writes. -/
  | throttleRequest (d : BitVec 2)
  /-- R414: Every 1 ms the power monitor updates PPOWER with the averaged package power and the hottest die temperature. -/
  | powerSample (tmax : BitVec 16) (watts : BitVec 13)
  /-- R416: After package reset, control core 0 of each base die runs the boot ROM through stages 0 to 4, or halts at stage 0xF. -/
  | boot (d : BitVec 2) (b : BootPlan)
  /-- R62: A write setting DCFG.LOCK freezes DSPILL until package reset and lets launch ports accept records. -/
  | dcfgLock (w : CtlWrite)
  /-- R415: A master 64 write of CRST resets a core that belongs to no polder and holds no team: CCYC, CFENCE, counters, register files, banks and instruction cache; otherwise it is refused. -/
  | coreReset (w : CtlWrite)
  /-- R61: An aligned 8-byte control-window write to a register with no row of its own takes effect in arrival order, or is refused and sets DERR. -/
  | registerWrite (w : CtlWrite)
  /-- R64: A PCFG write taking STATE from 0 to 1 activates a free polder, and firmware grants it 0x07 in target access table kinds 0 to 3. -/
  | polderActivate (w : CtlWrite)
  /-- R153: A PCFG write taking STATE from 1 to 2 stops dispatch, kills the polder's contexts, discards its fabric state, NACKs its gaps and held packets, and sets a tombstone. -/
  | polderTeardown (w : CtlWrite)
  /-- R153: Once tombstones and quarantine are in place, the device moves the polder's STATE from 2 to 3. -/
  | teardownComplete (p : BitVec 6)
  /-- R64: A PCFG write taking STATE from 3 to 0 after scrubbing frees the polder, refused while its tombstone is valid. -/
  | polderRelease (w : CtlWrite)
  /-- R68: A context descriptor CTXCFG write changes the context's polder, slot, defaults and VALID, clearing the per-context counters when VALID goes from 0 to 1. -/
  | ctxcfgWrite (w : CtlWrite)
  /-- R70: A write of VBNDNS makes each core in hardware conversion mode set every valid slot's VBND to floor(VBNDNS × MHZ / 1,000). -/
  | cboundWrite (w : CtlWrite)
  /-- R70: A master's write of a slot's VBND in host-assisted mode sets the bound, which applies from the first issue after the write. -/
  | vbndWrite (w : CtlWrite)
  /-- R71: A CCLK write raises the clock, lowers it after the bound checks, starts a pending hardware-mode lowering, or is refused during a vacate. -/
  | cclkWrite (w : CtlWrite)
  /-- R71: A pending clock lowering takes effect at the first cycle in which every valid slot's VEST is within its new VBND. -/
  | clockLowerApply (k : BitVec 9)
  /-- R180: A master 64 write of a target access table entry changes the rights applied to later requests at that target. -/
  | tatWrite (w : CtlWrite)
  /-- R182: A master 64 write raises a vacate charge class's CHARGE for operations issued afterwards, refused if lower than the reset value. -/
  | vctWrite (w : CtlWrite)
  /-- R183: A write of an export table entry defines, changes or withdraws an export range, refused if it overlaps another valid entry. -/
  | exportWrite (w : CtlWrite)
  /-- R140: A firmware write of the plane map drains each changed entry's old plane before the new plane is used. -/
  | fplaneWrite (w : CtlWrite)
  /-- R168: A write of CTLBI starts invalidating a page or all entries of a context and sets BUSY. -/
  | ctlbiWrite (w : CtlWrite)
  /-- R168: A write of PTLBI starts invalidating an IPA page or all entries of a polder and sets BUSY. -/
  | ptlbiWrite (w : CtlWrite)
  /-- R169: An invalidation completes and BUSY clears once no TLB holds a matching entry, affected L1 lines are written back and invalidated, and accesses and walks through old entries are done. -/
  | invalidationComplete (polder : Bool) (n : BitVec 10)
  /-- R130: A consumer's write of CONS frees ring space, and held records are then written in order. -/
  | faultQueueConsume (w : CtlWrite)
  /-- R132: A CRESUME write with RETRY returns a record's parked entry to ready, continues a paused copy, or retries a deferred write-back. -/
  | resumeRetry (w : CtlWrite)
  /-- R132: A CRESUME write with FAIL kills the context, or stops a paused copy. -/
  | resumeFail (w : CtlWrite)
  /-- R197: A CVAC write with GO sets the hold and requests a vacate of every team of the context with latency LNS. -/
  | vacateGo (w : CtlWrite)
  /-- R203: A CVAC write with KILL kills the context at once: its teams become KILLED, records are retired, state is scrubbed and a KILL record is written. -/
  | contextKill (w : CtlWrite)
  /-- R197: A CVAC write with RESUME clears the hold and sets PHASE to 0, so saved and flushed teams are dispatched again. -/
  | vacateResume (w : CtlWrite)
  /-- R420: A write of ATTCTL.GO sets BUSY and starts an attestation report, refused while BUSY or before stage 2. -/
  | attestGo (w : CtlWrite)
  /-- R420: The signed 528-byte report is written to the host window, DONE is set and BUSY cleared. -/
  | attestDone (d : BitVec 2)
  /-- R192: Self-test asks to fence a matrix sub-array, and class 6 and 7 instructions stop being eligible on the core. -/
  | selfTestFenceRequest (k : BitVec 9) (sub : BitVec 2)
  /-- R192: At the first cycle in which the doubled VEST of every context fits its VBND, CFENCE takes the bit, MFENCE is set and D_M doubles. -/
  | subarrayFence (k : BitVec 9)
  /-- R116: A 128-byte write to a launch port appends the record to its queue, or is answered ACCESS, FULL or NOTREADY. -/
  | launchPortWrite (off : BitVec 20) (size : Nat) (data : BitVec 1024)
  /-- R118: When a record reaches the head of its queue, the dispatcher checks it and retires it unrun with a status if a check fails. -/
  | recordHeadCheck (c : BitVec 10) (q : BitVec 3)
  /-- R16: The dispatcher places every team of a cluster in one step on a rectangle where every core meets R15 and the save reservation. -/
  | clusterPlace (c : BitVec 10) (q : BitVec 3) (r : Rect)
  /-- R36: After the hold ends, a saved team is placed again with its frontier, registers and handed-off results restored, and an acquire at .dev is performed. -/
  | teamResume (launch cluster : Nat) (r : Rect)
  /-- R34: A draining team's handed-off and long operations finish, its slots, registers and banks are released, and the team is DONE. -/
  | teamDrainDone (k : BitVec 9) (team : BitVec 5)
  /-- R122: When a completed team leaves a core idle, the border controller moves the core to another polder, writing back, scrubbing and resetting its banks. -/
  | borderMove (k : BitVec 9)
  /-- R198: A vacate request's stages start on a core at its arrival, or after the save of an earlier vacate there, converting Lc and Gc and starting the soft stage. -/
  | vacateStart (k : BitVec 9) (c : BitVec 10)
  /-- R198: The soft stage ends when grace expires, VEST reaches Lc − t, or no team is left, and each remaining team is flushed or marked for saving. -/
  | softStageEnd (k : BitVec 9) (c : BitVec 10)
  /-- R201: At t_e + Q the save lane begins writing each saved team's image into the spillway as its engines drain. -/
  | saveBegin (k : BitVec 9) (c : BitVec 10)
  /-- R201: The save on a core ends: VMEAS and SAVES are written, the teams are released, and CVSTS takes PHASE 3 when every core is done. -/
  | saveComplete (k : BitVec 9) (c : BitVec 10)
  /-- R203: If a core's save has not ended VBND + KMARGIN cycles after t_e, the core kills the context. -/
  | killTimerExpire (k : BitVec 9) (c : BitVec 10)
  /-- R194: A STALL-mode sluice hold that lasts VSTALLMAX consecutive cycles raises VBT. -/
  | vbtStallTimeout (k : BitVec 9) (slot : BitVec 5) (lanes : BitVec 32)
  /-- R335: A load's data arrives and is written to the destination lanes, and the flag count retires. -/
  | loadReturn (k : BitVec 9) (op : Nat)
  /-- R335: A store performs in the L1, at its bank or at its home, releasing its charge and flag count. -/
  | storePerform (k : BitVec 9) (op : Nat)
  /-- R191: A class 1 operation writes its result and removes its engine V charge. -/
  | vectorResultWrite (k : BitVec 9) (op : Nat)
  /-- R359: A matrix operation writes its accumulators, removes its engine M charge and retires its flag count. -/
  | mmaComplete (k : BitVec 9) (op : Nat)
  /-- R92: A copy moves one beat, checks its tags, advances the channel position, and pauses or stops on a fault. -/
  | copyBeat (k : BitVec 9) (op : Nat)
  /-- R123: A copy delivers its last byte, removing its engine C charge and retiring its flag count. -/
  | copyComplete (k : BitVec 9) (op : Nat)
  /-- R76: A bank transition and its write-backs complete, removing the engine B charge and releasing held accesses. -/
  | bankTransitionComplete (k : BitVec 9) (op : Nat)
  /-- R127: A waiting PUSHF or POPF is accepted when the slot has room or words, and takes effect on the queue. -/
  | fifoOpAccept (k : BitVec 9) (op : Nat)
  /-- R127: A PUSHF or POPF unaccepted for 2^20 cycles raises FIFO FULLTO or EMPTYTO in its lanes. -/
  | fifoTimeout (k : BitVec 9) (op : Nat)
  /-- R128: A port tracker entry completes and frees, retiring its charge, or on failure delivers all ones, sets FSTAT.HANDOFF and writes a KIND 4 record. -/
  | portTrackerComplete (k : BitVec 9) (op : Nat)
  /-- R214: A fence, CWB or FLUSH whose waits are all met completes and releases the group's held memory accesses. -/
  | fenceComplete (k : BitVec 9) (op : Nat)
  /-- R219: A write-back of dirty bytes is acknowledged or refused, and a refusal parks the waiting fences with a KIND 2 record or gives a KIND 4 record. -/
  | writebackAck (k : BitVec 9) (wb : Nat)
  /-- R221: An L1 line is replaced and its dirty bytes are written back to their homes. -/
  | l1Eviction (k : BitVec 9) (way : BitVec 6) (line : BitVec 7)
  /-- R339: An atomic or RED is performed at its home as one read-modify-write in lane order, and the old values return. -/
  | atomicPerform (k : BitVec 9) (op : Nat)
  /-- R103: A merge stage arrives at its home and is added into the contributor slot's berm line, or is refused with a retry or a MERGE subcode. -/
  | stageAccept (k : BitVec 9) (op : Nat)
  /-- R102: A slice asks the coordinator for a contributor slot, which grants it to the first asking id while free and tells every slice. -/
  | slotRequest (set : SetId) (slice : BitVec 8) (id : BitVec 16)
  /-- R105: A close reaches the coordinator, which sets the contributor CLOSED and sends measure requests to every slice of the set. -/
  | closeAccept (k : BitVec 9) (op : Nat)
  /-- R106: A slice receives a measure request and answers with its partial sum of squares after every accepted stage of the slot. -/
  | measureRequest (set : SetId) (slice : BitVec 8) (id : BitVec 16)
  /-- R106: The coordinator receives the last partial, sums them, and computes the scale s or rejects or marks the contributor. -/
  | measureComplete (set : SetId) (id : BitVec 16)
  /-- R108: When a contributor's turn comes, the coordinator gives it a sequence number and issues its commit to every slice, or retires a marked contributor as REJECTED. -/
  | commitIssue (set : SetId)
  /-- R108: A slice applies a commit in sequence order, fusing s times each touched staged value into T. -/
  | commitApply (set : SetId) (slice : BitVec 8)
  /-- R109: After a retirement's commit is applied everywhere, the coordinator adds to the signal word with release at .dev, and completes the set when all have retired. -/
  | signalUpdate (set : SetId)
  /-- R178: At an epoch end each base die decides migration or replication of its hot pages, halves counts and clears WRITTEN. -/
  | epochEnd (d : BitVec 2)
  /-- R179: A 64 KiB page is split if needed, marked MIG, invalidated and copied to another die. -/
  | pageMigrate (d e : BitVec 2) (p : BitVec 6) (page : BitVec 36) (replicate : Bool) (frames : List (BitVec 40))
  /-- R179: The page copy ends, the leaves are rewritten, MIG clears after a PTLBI, and a migrated page's old frame enters quarantine. -/
  | migrationCopyDone (p : BitVec 6) (page : BitVec 36)
  /-- R175: After an RDUPW fault, the base die splits the leaf if needed, collapses the piece onto the writer's die, invalidates, quarantines the other copies and readies the lanes. -/
  | pieceCollapse (w : BitVec 2) (p : BitVec 6) (page : BitVec 36)
  /-- R93: When a quarantined frame has been zeroed and every cached copy invalidated, its QUAR bit clears. -/
  | quarantineClear (frame : BitVec 40)
  /-- R209: A stamped write or update from another die arrives and is applied when the vector clock test passes, otherwise held. -/
  | crossDieWrite (src dst : BitVec 2)
  /-- R209: A 40-byte clock notice arrives and advances the die's clock when its test passes, otherwise it is held. -/
  | clockNotice (src dst : BitVec 2)
  /-- R209: A held write, notice or settle whose vector clock test now passes is applied. -/
  | heldWriteApply (src dst : BitVec 2)
  /-- R224: A settle carrying a line and the home's clock arrives and is applied under the clock test, ignoring bytes of a newer own write. -/
  | settle (src dst : BitVec 2)
  /-- R205: Every 1,024 core cycles the port's token bucket is refilled by r, capped at 2r. -/
  | tokenRefill (k : BitVec 9)
  /-- R206: At each 1,024-cycle base-die interval the die marks idle polders, redistributes the pool into EFF and publishes occupancy. -/
  | tokenInterval (d : BitVec 2)
  /-- R208: At each interval end a port's rate controller cuts RATE by 1/8 after a marked interval or adds AI after an unmarked one. -/
  | rateInterval (port : BitVec 4)
  /-- R138: A packet leaves a port when the next hop has credit for it, its polder's RATE and send allowance allow, and its plane is not draining. -/
  | fabricSend (port : BitVec 4)
  /-- R144: A switch egress queue takes a packet, trimming it into a skim, marking CM or combining atomics as the thresholds give. -/
  | switchEgressEnqueue (port : BitVec 4) (p : Packet)
  /-- R157: The response to a combined ATOMREQ returns to the switch, which hands each original packet its running old value. -/
  | combinedResponse (p : Packet)
  /-- R147: A read request arrives at the target and is answered with RDRSP, waiting while its line has an open gap, or is NACKed. -/
  | rdreq (p : Packet)
  /-- R143: A read response arrives and writes its lanes through the continuation, readying the parked-remote entry when all have answered. -/
  | rdrsp (p : Packet)
  /-- R147: A write packet arrives and is applied, held behind a gap, rejected, NACKed or acknowledged APPLIEDTAG. -/
  | wrPacket (p : Packet)
  /-- R143: A remote atomic request arrives and is performed at the home, answered by ATOMRSP or NACK. -/
  | atomreq (p : Packet)
  /-- R143: A remote atomic response arrives and writes its lane's destination, retiring the flag when all have arrived. -/
  | atomrsp (p : Packet)
  /-- R148: A PUTS packet with REL arrives and performs after every earlier gap of its source has filled or expired. -/
  | putsPacket (p : Packet)
  /-- R143: A line-read request arrives at the target and is answered with GETRSP or NACK. -/
  | getreq (p : Packet)
  /-- R143: A line response arrives and writes the lanes of the GETF, readying its entry. -/
  | getrsp (p : Packet)
  /-- R110: A remote merge stage arrives, is translated through the export and staged at its home, or is NACKed. -/
  | mstage (p : Packet)
  /-- R110: A remote close arrives, is held as a release behind earlier gaps and stages, then goes to the coordinator and is answered with CK = 1. -/
  | mclosePacket (p : Packet)
  /-- R145: A trimmed packet's header arrives and is recorded as a gap and acknowledged GAP, or answered REJECT when the gap list is full. -/
  | skim (p : Packet)
  /-- R147: A refill arrives and, once lower tags are received, performs with every held packet of its line in tag order, freeing the gap. -/
  | refill (p : Packet)
  /-- R146: A refill request arrives at the source, which resends the retained payload with REFILL and NOTRIM. -/
  | refillreq (p : Packet)
  /-- R146: The destination sends a paced refill request for its oldest recorded gap of a source within RGAP and RMAX. -/
  | refillRequestSend (src : BitVec 14)
  /-- R142: An acknowledgement arrives at the source, freeing an APPLIED payload, noting GAP or HELD, resending on REJECT, or accepting a remote close. -/
  | ack (p : Packet)
  /-- R143: A negative answer arrives and faults the request's lanes, fails its port tracker entry, or refuses a remote close. -/
  | nack (p : Packet)
  /-- R172: The host translation agent's answer arrives and completes a lower-half translation, or faults XLATE HOST or PERM. -/
  | xlrsp (p : Packet)
  /-- R172: The host's invalidation arrives and is carried out as CTLBI for the named pages, then answered with XLRSP OP 3. -/
  | xlinv (p : Packet)
  /-- R172: An XLREQ unanswered after FTIMEOUT faults XLATE TIMEOUT. -/
  | xlreqTimeout (req : BitVec 32)
  /-- R138: An ENDPOINT flit returns credits to a link hop's class queues. -/
  | creditReturn (port : BitVec 4) (cls : BitVec 2) (flits : Nat)
  /-- R154: A KEYSWITCH flit arrives and the link changes to its next hop key at the packet boundary. -/
  | keyswitch (port : BitVec 4)
  /-- R155: A data counter reaching 2^40 − 2 with no next key sends KEYHALT, stops data and sets HALT. -/
  | keyhalt (port : BitVec 4)
  /-- R154: Firmware installs a next hop key by exchange with the peer, clearing HALT and resuming data. -/
  | hopKeyInstall (port : BitVec 4)
  /-- R154: A packet failing its hop tag or CRC is discarded and replayed from the link replay buffer. -/
  | hopAuthFail (port : BitVec 4)
  /-- R140: A port's link goes down and DOWN is set. -/
  | linkDown (port : BitVec 4)
  /-- R140: A plane becomes dead when a port has DOWN or HALT or accepts no flit for DEADT cycles, and its map entries begin draining. -/
  | planeDead (plane : BitVec 2)
  /-- R140: When a draining entry's retained packets and continuations have ended, it moves to the least-used live plane and PEND clears. -/
  | planeRemap (entry : BitVec 2)
  /-- R140: A dead plane's ports recover and DEAD clears, leaving the map unchanged. -/
  | planeRevive (plane : BitVec 2)
  /-- R149: A gap whose age reaches FTIMEOUT expires, is NACKed GAPTO, and releases the packets held behind it. -/
  | gapExpire (i : BitVec 9)
  /-- R143: A continuation unanswered after FTIMEOUT gives its lanes all ones, sets the FSTAT bit and frees the entry. -/
  | continuationTimeout (k : BitVec 9) (entry : BitVec 10)
  /-- R153: A polder tombstone's count reaches 0 and V clears, allowing reuse of the polder's numbers. -/
  | tombstoneExpire (p : BitVec 6)
  /-- R137: A packet arrives whose KIND is none of those defined, and it is discarded and counted as malformed. -/
  | malformedPacket (p : Packet)
  /-- R367: The coordinator's answer to a MOPEN, MABORT or MSTAT reaches the issuing core, writes the result word to the destination and readies any parked lanes. -/
  | coordinatorAnswer (k : BitVec 9) (op : Nat)
  /-- R156: Firmware or the host installs the next flow key for a polder's sealed flows, as FMODE.KEYROT selects. -/
  | flowKeyInstall (host : Bool) (p : BitVec 6) (key : Word)
  /-- R405: Device firmware on a control core writes table entries or other memory, and the write performs at its home. -/
  | controlCoreWrite (pa : BitVec 42) (bytes : List Byte)
  deriving DecidableEq, Repr

end Sys2Proof
end

