-- ==== Sys2Proof/WellFormed.lean ====
section
/-! DEFINITION. When an instruction is well formed: the checks of R251, R256 to R264 that need nothing but the instruction
itself. Each check is named, and answers the breached subcodes of R264 in the order of R265. The checks that need the
clause (a flag not valid in the header, a transfer before the last body instruction) are made where the instruction issues. -/

namespace Sys2Proof

/-- The four-bit code of a type (R261). -/
def Ty.code : Ty → Nat
  | .n8 => 0 | .i8 => 1 | .n16 => 2 | .i16 => 3 | .n32 => 4 | .i32 => 5 | .n64 => 6 | .i64 => 7
  | .f16 => 8 | .bf16 => 9 | .f32 => 10 | .f64 => 11 | .bx8 => 12 | .bx4 => 13 | .b32 => 14 | .b64 => 15

/-- The element width in bits (R232, R234, R329). -/
def Ty.width : Ty → Nat
  | .n8 | .i8 => 8
  | .n16 | .i16 | .f16 | .bf16 => 16
  | .n32 | .i32 | .f32 | .b32 => 32
  | .n64 | .i64 | .f64 | .b64 | .bx8 | .bx4 => 64

def Ty.signed : Ty → Bool
  | .i8 | .i16 | .i32 | .i64 => true
  | _ => false

def Ty.isFloat : Ty → Bool
  | .f16 | .bf16 | .f32 | .f64 => true
  | _ => false

/-- Integer and bit types (R232). -/
def Ty.isIntOrBit (t : Ty) : Bool := t.code < 8 || t.code ≥ 14

/-- What a field of an entry may hold: the keys of R268 and R327. -/
inductive Kind where
  | v | s | p | k | zero | l | absent
  deriving DecidableEq, Repr

/-- Whether an entry allows a clause flag. -/
inductive FlagUse where
  | no | yes | required
  deriving DecidableEq, Repr

/-- One row of the encoding tables (R272, R280 to R285, R304, R315, R327, R353): what d, a, b and c may be, the types,
the MOD bits it defines, whether it defines XMOD, its flag use, whether an s destination runs on the uniform datapath
(R46) or every form does (R336), the largest literal, and whether it is a control transfer. -/
structure Form where
  d : List Kind
  a : List Kind
  b : List Kind
  c : List Kind := [.absent]
  tys : List Ty
  mods : Nat := 0
  lut : Bool := false
  flag : FlagUse := .no
  uniformOk : Bool := false
  uniformOnly : Bool := false
  litMax : Nat := 0xFFFFFFFF
  transfer : Bool := false
  deriving DecidableEq, Repr

/-- Subcodes of ILLENC (R264). -/
def subResv : Nat := 1
def subOpnd : Nat := 2
def subType : Nat := 3
def subSmod : Nat := 4
def subModf : Nat := 5
def subFlag : Nat := 6
def subPair : Nat := 7
def subClause : Nat := 8

namespace Form

/-- A row without a type carries TYPE = 0 (R261). -/
def untyped : List Ty := [.n8]
def ints : List Ty := [.n8, .i8, .n16, .i16, .n32, .i32, .n64, .i64]
def floats : List Ty := [.f16, .bf16, .f32, .f64]
def bits : List Ty := [.b32, .b64]
def unsignedBits : List Ty := [.n8, .n16, .n32, .n64, .b32, .b64]
def signeds : List Ty := [.i8, .i16, .i32, .i64]
def narrow : List Ty := [.n8, .i8, .n16, .i16, .n32, .i32]
def allTys : List Ty := ints ++ floats ++ [.bx8, .bx4] ++ bits
/-- the types of accesses without blocks -/
def memTys : List Ty := ints ++ floats ++ bits
def atomTys : List Ty := [.n32, .i32, .n64, .i64] ++ floats ++ bits
def none' : List Kind := [.absent]
/-- any source, and any source or literal -/
def src : List Kind := [.v, .s, .k]
def srcL : List Kind := [.v, .s, .k, .l]
def vs : List Kind := [.v, .s]
/-- base and offset of a memory operand (R326, R327) -/
def base : List Kind := [.v, .s, .zero]
def off : List Kind := [.v, .s, .l, .absent]
def ubase : List Kind := [.s, .zero]
def uoff : List Kind := [.s, .l, .absent]

def bare (tys : List Ty := untyped) : Form := { d := none', a := none', b := none', tys := tys }
def alu1 (tys : List Ty) (mods : Nat := 0) : Form := { d := vs, a := src, b := none', tys := tys, mods := mods, uniformOk := true }
def alu2 (tys : List Ty) (mods : Nat := 0) : Form := { d := vs, a := src, b := srcL, tys := tys, mods := mods, uniformOk := true }
def alu3 (tys : List Ty) (mods : Nat := 0) : Form := { d := vs, a := src, b := srcL, c := src, tys := tys, mods := mods, uniformOk := true }
def load (tys : List Ty) (mods : Nat) : Form := { d := [.v], a := base, b := off, tys := tys, mods := mods, flag := .yes }
def store (tys : List Ty) (mods : Nat) : Form := { d := none', a := base, b := off, c := src, tys := tys, mods := mods, flag := .yes }

end Form

open Form in
/-- The encoding rows by OP8 (R255, R272, R280 to R285, R304, R315, R327, R353). None is a code that is reserved, an
extension code, or 0x00. -/
def form (op8 : Nat) : Option Form :=
  match op8 with
  | 0x01 => some bare
  | 0x02 => some { bare [.i64] with b := [.l, .s], transfer := true }
  | 0x03 => some { bare [.b64] with a := vs, transfer := true }
  | 0x04 => some { bare [.i64] with d := vs, b := [.l, .s], transfer := true }
  | 0x05 => some { bare [.b64] with d := vs, a := vs, transfer := true }
  | 0x06 => some { bare [.b64] with a := vs, transfer := true }
  | 0x07 => some bare
  | 0x08 => some bare
  | 0x09 => some bare
  | 0x0A => some { bare [.n32] with b := [.l, .s], litMax := 0xFFF }
  | 0x0B => some { bare [.n32] with b := [.absent, .l, .s], mods := 0b111111, litMax := 1024 }
  | 0x0C => some bare
  | 0x0D => some { bare with d := [.p, .v, .s], a := [.p, .k], mods := 0b11, uniformOk := true }
  | 0x0E => some { bare with d := [.p], a := [.p, .k], b := [.p, .k], c := [.p, .k], lut := true }
  | 0x0F => some { bare with d := [.p], a := [.p, .s, .v] }
  | 0x10 => some { bare with d := [.s], a := [.s], mods := 0b111, flag := .yes, uniformOnly := true }
  | 0x11 => some { bare [.n64] with b := [.absent, .l, .s] }
  | 0x12 => some bare
  | 0x20 => some (alu2 ints 1)
  | 0x21 => some (alu2 ints 1)
  | 0x22 => some { alu2 [.n64] with d := [.v], c := [.p, .zero], uniformOk := false }
  | 0x23 => some (alu2 ints)
  | 0x24 => some (alu2 ints)
  | 0x25 => some (alu3 ints)
  | 0x26 => some (alu3 narrow)
  | 0x27 => some (alu2 ints)
  | 0x28 => some (alu2 ints)
  | 0x29 => some (alu2 ints)
  | 0x2A => some (alu2 ints)
  | 0x2B => some (alu1 signeds 1)
  | 0x2C => some (alu1 ints 1)
  | 0x2D => some (alu3 ints)
  | 0x2E => some { alu2 ints 0b1111 with d := [.p], c := [.absent, .p], uniformOk := false }
  | 0x2F => some { alu2 [.b64] with d := [.v], c := [.p], uniformOk := false }
  | 0x30 => some (alu2 (ints ++ bits))
  | 0x31 => some (alu2 unsignedBits)
  | 0x32 => some (alu2 signeds)
  | 0x33 => some (alu2 unsignedBits 1)
  | 0x34 => some (alu3 [.n32, .n64, .b32, .b64] 1)
  | 0x35 => some (alu2 bits)
  | 0x36 => some (alu2 bits)
  | 0x37 => some (alu2 bits)
  | 0x38 => some (alu1 bits)
  | 0x39 => some { alu3 bits with lut := true }
  | 0x3A => some (alu1 unsignedBits)
  | 0x3B => some (alu1 unsignedBits)
  | 0x3C => some (alu1 unsignedBits)
  | 0x3D => some (alu1 unsignedBits)
  | 0x3E => some (alu2 [.n32, .i32, .n64, .i64, .b32, .b64])
  | 0x3F => some (alu3 [.n32, .n64, .b32, .b64])
  | 0x40 => some (alu3 [.n8, .i8, .n16, .i16])
  | 0x41 => some { alu1 (ints ++ bits) with a := [.v, .s, .k, .absent], b := [.absent, .l] }
  | 0x42 => some (alu1 ints 0b11111)
  | 0x43 => some (alu2 [.n64, .i64] 0b111)
  | 0x44 => some (alu2 [.b64])
  | 0x45 => some (alu1 [.b64])
  | 0x46 => some (alu2 narrow 1)
  | 0x47 => some (alu1 narrow 1)
  | 0x50 => some (alu2 floats 0b111)
  | 0x51 => some (alu2 floats 0b111)
  | 0x52 => some (alu2 floats 0b111)
  | 0x53 => some (alu3 floats 0b111)
  | 0x54 => some (alu2 floats)
  | 0x55 => some (alu2 floats)
  | 0x56 => some { alu2 floats 0b11111 with d := [.p], c := [.absent, .p], uniformOk := false }
  | 0x57 => some { alu1 floats 1 with d := [.p], b := [.l, .s], uniformOk := false, litMax := 0x3FF }
  | 0x58 => some (alu1 floats 0b111)
  | 0x59 => some (alu1 floats 0b111)
  | 0x5A => some (alu1 floats 0b111)
  | 0x5B => some (alu1 floats 0b111)
  | 0x5C => some (alu2 floats 0b111)
  | 0x5D => some (alu1 [.f16, .bf16, .f32] 0b111)
  | 0x5E => some (alu1 [.f16, .bf16, .f32] 0b111)
  | 0x5F => some (alu1 [.f16, .bf16, .f32] 0b111)
  | 0x60 => some (alu1 [.f16, .bf16, .f32] 0b111)
  | 0x61 => some (alu1 [.f16, .bf16, .f32] 0b111)
  | 0x62 => some (alu1 [.f16, .bf16, .f32] 0b111)
  | 0x63 => some { alu1 floats 0b111111 with b := [.absent, .v, .s, .k, .l] }
  | 0x64 => some (alu1 ints 0b111111)
  | 0x65 => some (alu1 floats 0b1111111)
  | 0x66 => some { alu1 [.bx8, .bx4] 0b11111 with d := [.v], uniformOk := false }
  | 0x67 => some { alu2 [.f16, .bf16, .f32] 0b1111 with d := [.v], uniformOk := false }
  | 0x70 => some { bare [.b64] with d := [.v], a := [.v], b := [.v, .s, .l], c := [.v, .s, .k, .absent], mods := 0b11111 }
  | 0x71 => some { bare [.b64] with d := vs, a := [.v, .s], b := [.v, .s, .l], c := src, uniformOk := true }
  | 0x72 => some { bare [.b64] with d := [.v], a := [.v], b := [.s, .l, .k], litMax := 31 }
  | 0x73 => some { bare allTys with d := [.v], a := [.v], mods := 0b111 }
  | 0x74 => some { bare allTys with d := [.v], a := [.v], mods := 0b1111111 }
  | 0x75 => some { bare bits with d := [.v, .p], a := [.v], mods := 1 }
  | 0x76 => some { bare [.f32] with d := [.v], a := [.v], b := [.v, .s, .l], mods := 0b111 }
  | 0x77 => some { bare [.n32, .n64, .f32, .f64, .b64] with d := [.v] }
  | 0x80 => some (load allTys 0b1111)
  | 0x81 => some (store allTys 0b1111)
  | 0x82 => some (load allTys 0b11)
  | 0x83 => some (store allTys 0b11)
  | 0x84 => some { load memTys 0b1100 with d := [.s], a := ubase, b := uoff, uniformOnly := true }
  | 0x85 => some { store memTys 0b1100 with a := ubase, b := uoff, c := [.s, .k], uniformOnly := true }
  | 0x86 => some (load [.bx8, .bx4] 1)
  | 0x87 => some { store atomTys 0b111 with d := [.v] }
  | 0x88 => some (store atomTys 0b111)
  | 0x89 => some { bare with d := [.s], a := [.s], b := [.s], c := [.s, .zero], mods := 0b111111, flag := .yes, uniformOnly := true }
  | 0x8A => some { bare with d := [.s], a := [.s], b := [.s], c := [.s, .zero], mods := 0b111111, flag := .yes, uniformOnly := true }
  | 0x8B => some { bare with d := [.s], mods := 0b111, uniformOnly := true }
  | 0x8C => some { bare [.b64] with b := [.s, .l], c := src, flag := .yes }
  | 0x8D => some { bare [.b64] with d := [.v], b := [.s, .l], flag := .yes }
  | 0x8E => some { bare with b := [.s, .l], mods := 0b111, flag := .yes, uniformOnly := true }
  | 0x8F => some { bare with mods := 0b11111, flag := .yes, uniformOnly := true }
  | 0x90 => some { bare with a := ubase, b := [.s, .l], flag := .yes, uniformOnly := true }
  | 0x91 => some { bare with a := ubase, b := [.s, .l], flag := .yes, uniformOnly := true }
  | 0x92 => some { bare with flag := .yes, uniformOnly := true }
  | 0x93 => some { bare with a := base, b := off, mods := 1 }
  | 0x94 => some (load untyped 0)
  | 0x95 => some { bare with a := base, b := off, mods := 1, flag := .yes }
  | 0x96 => some { bare with a := ubase, b := [.s, .l], mods := 0b11, uniformOnly := true }
  | 0xB0 => some { bare with b := [.s, .l, .v] }
  | 0xB1 => some { bare with d := [.v], a := [.v], b := [.v], c := [.v, .absent], mods := 1, flag := .required }
  | 0xB2 => some { bare with d := [.v], a := [.v], b := [.v], c := [.v, .absent], mods := 1, flag := .required }
  | 0xB8 => some { bare with d := [.s], a := base, b := off, flag := .yes }
  | 0xB9 => some { bare [.bf16, .f32] with a := [.s], b := vs, c := src, mods := 0b11, flag := .yes }
  | 0xBA => some { bare with a := [.s], flag := .yes }
  | 0xBB => some { bare with d := [.s], a := [.s], flag := .yes, uniformOnly := true }
  | 0xBC => some { bare with d := [.s], a := [.s], flag := .yes, uniformOnly := true }
  | 0xC0 => some (load memTys 0b11)
  | 0xC1 => some (store memTys 0b10011)
  | 0xC2 => some { store atomTys 0b10111 with d := [.v, .absent] }
  | 0xC3 => some { store [.n64, .b64] 0 with a := ubase, b := uoff, c := [.s, .k], uniformOnly := true }
  | 0xC4 => some { load untyped 0 with a := ubase, b := uoff }
  | 0xC5 => some { bare with d := [.s, .absent], b := [.s, .l], litMax := 15, uniformOk := true }
  | 0xD0 => some { bare with d := vs, b := [.s, .l], c := [.s, .zero], litMax := 31, uniformOk := true }
  | 0xD1 => some { bare with d := [.p], b := [.s, .l], c := [.s, .zero], mods := 0b111 }
  | 0xD2 => some { bare with d := [.p, .absent], mods := 1 }
  | 0xD3 => some { bare with d := vs, b := [.s, .l], litMax := 255, uniformOk := true }
  | 0xD4 => some { bare with a := [.s, .k], b := [.s, .l], flag := .yes, litMax := 255, uniformOnly := true }
  | 0xD5 => some { bare with a := ubase, b := uoff, mods := 0b11, flag := .yes }
  | 0xD6 => some { bare with b := [.s, .l], c := [.s, .zero], litMax := 0xFFFF }
  | 0xD7 => some { bare with transfer := true }
  | _ => none

namespace Fx

/-- Bits `lo + len − 1` to `lo` of MOD. -/
def modAt (f : Fx) (lo len : Nat) : Nat := f.md.toNat / 2 ^ lo % 2 ^ len

/-- The literal, if the instruction has one (R253). -/
def lit? (f : Fx) : Option (BitVec 32) :=
  match f.ext with
  | .lit v => some v
  | _ => none

/-- XMOD; 0 in format F and beside a literal (R254). -/
def xmod (f : Fx) : BitVec 8 :=
  match f.ext with
  | .sm x _ _ => x
  | _ => 0

def sma (f : Fx) : BitVec 12 :=
  match f.ext with
  | .sm _ _ a => a
  | _ => 0

def smb (f : Fx) : BitVec 12 :=
  match f.ext with
  | .sm _ b _ => b
  | _ => 0

/-- Whether operand b is present: an operand code or a literal. -/
def hasB (f : Fx) : Bool := f.b != .none || f.lit?.isSome

end Fx

def Opnd.isV : Opnd → Bool
  | .v _ => true
  | _ => false

def Opnd.isS : Opnd → Bool
  | .s _ => true
  | _ => false

def Opnd.isP : Opnd → Bool
  | .p _ => true
  | _ => false

/-- The register number of a vector or s operand. -/
def Opnd.num : Opnd → Nat
  | .v n => n.toNat
  | .s n => n.toNat
  | .p n => n.toNat
  | _ => 0

/-- Whether a constant code suits the type (R262): integer 1 and the lane index integer and bit types, the float
constants float types. -/
def Konst.suits (c : Konst) (t : Ty) : Bool :=
  match c with
  | .zero | .ones => true
  | .one | .lane => t.isIntOrBit
  | .fOne | .fHalf | .fTwo | .fMinusOne => t.isFloat

/-- Whether an operand code is allowed in its role (R262, R268). -/
def Opnd.okAs (o : Opnd) (ks : List Kind) (dest : Bool) (t : Ty) : Bool :=
  match o with
  | .v _ => ks.contains .v
  | .s _ => ks.contains .s
  | .p n => ks.contains .p && !(dest && n == 7)
  | .k c => !dest && ((ks.contains .k && c.suits t) || (ks.contains .zero && c == .zero))
  | .none => ks.contains .absent
  | .reserved _ => false

/-- A legal source modifier (R263). -/
def smodOk (m : BitVec 12) : Bool :=
  let cls := m.toNat / 512
  let ls := m.toNat / 64 % 8
  let dist := m.toNat / 2 % 32
  m.toNat % 2 == 0 && cls ≤ 4 && ls ≤ 5 && dist < 2 ^ ls && !(cls == 0 && m != 0) && !(cls == 4 && dist != 0)

/-- RESV: a MOD or XMOD bit the entry does not define is set (R264, R268). -/
def okResv (e : Form) (f : Fx) : Bool :=
  f.md.toNat &&& (127 - e.mods) == 0 && (e.lut || f.xmod == 0)

/-- Whether the instruction runs on the uniform datapath (R46, R336): one with an s destination, and those that read uniform operands alone and
act once for the group (R327, R371, R378; DEDUCED, log 41). MOPEN is not among them: its row admits vector operands. -/
def onUniform (e : Form) (f : Fx) : Bool := e.uniformOnly || (e.uniformOk && f.d.isS)

/-- The last-use bits stand on vector registers only (R262). -/
def okLastUse (f : Fx) : Bool := (!f.lua || f.a.isV) && (!f.lub || f.b.isV) && (!f.luc || f.c.isV)

/-- A uniform-datapath instruction names no vector source, no lane index and no source modifier (R262). -/
def okUniform (e : Form) (f : Fx) : Bool :=
  !onUniform e f ||
    ([f.a, f.b, f.c].all (fun o => !o.isV && o != .k .lane) && f.sma == 0 && f.smb == 0)

/-- Counts of the multi-register accesses and the register that must be a multiple of them (R332, R333). -/
def countOf (op8 : Nat) (f : Fx) : Nat :=
  if op8 ∈ [0x80, 0x81, 0x82, 0x83, 0xC0, 0xC1] && f.modAt 0 2 != 3 then 2 ^ f.modAt 0 2 else 1

/-- A register used as the first of a run stands at a multiple of the run's length. -/
def okMultiple (o : Opnd) (n : Nat) : Bool := !(o.isV || o.isS) || o.num % n == 0

/-- Spans of a matrix operation (R356, R357): register and length. -/
def matrixSpans (wide : Bool) (f : Fx) : List (Nat × Nat) :=
  [(f.d.num, 32), (f.a.num, if wide then 16 else 8), (f.b.num, if wide then 8 else 4)] ++
    (if f.c.isV then [(f.c.num, 4)] else [])

def disjoint (x y : Nat × Nat) : Bool := x.1 + x.2 ≤ y.1 || y.1 + y.2 ≤ x.1

/-- Alignment and overlap of the spans of MMA and MMAW (R357). -/
def okSpans (wide : Bool) (f : Fx) : Bool :=
  let l := matrixSpans wide f
  l.all (fun r => r.1 % r.2 == 0) &&
    match l with
    | [d, a, b] => disjoint d a && disjoint d b && disjoint a b
    | [d, a, b, c] => disjoint d a && disjoint d b && disjoint a b && disjoint c d && disjoint c a && disjoint c b
    | _ => false

/-- The operand rules that one entry has of its own. -/
def okOwnOpnd (op8 : Nat) (f : Fx) : Bool :=
  match op8 with
  | 0x0B => !(f.modAt 0 2 == 2 && f.hasB) && f.lit? != some 0
  | 0x0D => (f.a.isP || f.a == .k .zero || f.a == .k .ones) && (f.modAt 0 2 == 3 || (f.modAt 0 2 == 2) != f.d.isP)
  | 0x41 => (f.a == .none) == f.hasB
  | 0x71 => f.a.isV || f.d.isS
  | 0x75 => (f.modAt 0 1 == 1) == f.d.isP
  | 0x80 | 0x82 | 0xC0 => okMultiple f.d (countOf op8 f)
  | 0x81 | 0x83 | 0xC1 => if countOf op8 f == 1 then true else (f.c.isV || f.c.isS) && okMultiple f.c (countOf op8 f)
  | 0x87 | 0xC2 => f.modAt 0 3 != 7 || ((f.c.isV || f.c.isS) && f.c.num % 2 == 0)
  | 0xB1 => okSpans false f
  | 0xB2 => okSpans true f
  | 0xB9 | 0xBA | 0xBB | 0xBC => f.a.num % 2 == 0
  | 0xD2 => (f.modAt 0 1 == 1) == f.d.isP
  | 0xD3 => !(f.lit? == some 0 && f.d.isS)
  -- scope 3 is a breach of MODF alone (R353)
  | 0xD5 => f.modAt 0 2 == 3 || ((f.modAt 0 2 == 1) == f.hasB && (f.modAt 0 2 != 2 || f.a == .k .zero))
  | _ => true

/-- OPND: the operand rules of R253, R262 and the entry. -/
def okOpnd (op8 : Nat) (e : Form) (f : Fx) : Bool :=
  f.d.okAs e.d true f.ty && f.a.okAs e.a false f.ty && f.c.okAs e.c false f.ty &&
  (match f.lit? with
    | none => f.b.okAs e.b false f.ty
    | some v => e.b.contains .l && f.b == .none && !f.lub && v.toNat ≤ e.litMax) &&
  okLastUse f && (!f.reuse || op8 == 0xB1 || op8 == 0xB2) && okUniform e f && okOwnOpnd op8 f

/-- The types of REDC and SCAN by operation (R320). -/
def reduceTys (op : Nat) : List Ty :=
  if op ≤ 2 then Form.ints ++ Form.floats else if op ≤ 5 then Form.ints ++ Form.bits else [.n32, .i32, .f32]

/-- The types of an atomic by operation (R338). -/
def atomicTys (op : Nat) : List Ty :=
  match op with
  | 0 => [.n32, .i32, .f16, .bf16, .f32, .n64, .i64, .f64]
  | 1 | 2 => [.n32, .i32, .f32, .n64, .i64, .f64]
  | _ => Form.bits

/-- TYPE: the type is one the entry accepts (R261, R320, R338). -/
def okType (op8 : Nat) (e : Form) (f : Fx) : Bool :=
  e.tys.contains f.ty &&
  match op8 with
  | 0x73 => (reduceTys (f.modAt 0 3)).contains f.ty
  | 0x74 => f.modAt 0 3 ≥ 6 || (reduceTys (f.modAt 0 3)).contains f.ty
  | 0x87 => (atomicTys (f.modAt 0 3)).contains f.ty
  | 0x88 => f.modAt 0 3 ≥ 6 || (atomicTys (f.modAt 0 3)).contains f.ty
  | _ => true

/-- SMOD: the source modifiers are legal and stand on vector registers (R263). -/
def okSmod (f : Fx) : Bool :=
  (f.sma == 0 || (f.a.isV && smodOk f.sma)) && (f.smb == 0 || (f.b.isV && smodOk f.smb))

/-- The width of the 2-bit float source code (R303). -/
def floatSourceWidth (c : Nat) : Nat := if c ≤ 1 then 16 else if c == 2 then 32 else 64

/-- The width of a 3-bit integer source code (R303). -/
def intSourceWidth (c : Nat) : Nat := if c ≤ 1 then 8 else if c ≤ 3 then 16 else if c ≤ 5 then 32 else 64

/-- Multi-register counts (R327): not 3, 1 on types narrower than 64 bits, not .x4 on blocks. -/
def okCount (f : Fx) : Bool :=
  let c := f.modAt 0 2
  c != 3 && (c == 0 || f.ty.width == 64) && !(c == 2 && (f.ty == .bx8 || f.ty == .bx4))

/-- MODF: the MOD value is one the entry allows (R264). -/
def okModf (op8 : Nat) (f : Fx) : Bool :=
  match op8 with
  | 0x0B | 0x0D => f.modAt 0 2 ≤ 2
  | 0x2C => !(f.modAt 0 1 == 1 && !f.ty.signed)
  | 0x2E => f.modAt 0 3 ≤ 5
  | 0x42 => f.modAt 0 4 ≤ 7
  | 0x50 | 0x51 | 0x52 | 0x53 | 0x58 | 0x59 | 0x5A | 0x5B | 0x5C | 0x5D | 0x5E | 0x5F | 0x60 | 0x61 | 0x62 => f.modAt 0 3 ≤ 4
  | 0x56 => f.modAt 0 4 ≤ 13
  | 0x63 =>
    let ws := floatSourceWidth (f.modAt 3 2)
    f.modAt 0 3 ≤ 4 && f.modAt 3 2 + 8 != f.ty.code && (f.modAt 5 1 == 0 || ws < f.ty.width) && (!f.hasB || f.ty.width < ws)
  | 0x64 => f.modAt 0 3 ≤ 4 && (f.modAt 5 1 == 0 || floatSourceWidth (f.modAt 3 2) < f.ty.width)
  | 0x65 => f.modAt 0 3 ≤ 4 && (f.modAt 6 1 == 0 || intSourceWidth (f.modAt 3 3) < f.ty.width)
  | 0x66 => f.modAt 3 2 != 3
  | 0x67 => f.modAt 0 3 ≤ 4
  | 0x70 => f.modAt 2 3 ≤ 5
  | 0x74 => f.modAt 0 3 ≤ 5 && f.modAt 4 3 ≤ 5
  | 0x80 | 0x81 => okCount f && f.modAt 2 2 != 3
  | 0x82 | 0x83 | 0xC0 | 0xC1 => okCount f
  | 0x84 | 0x85 => f.modAt 2 2 != 3
  | 0x88 => f.modAt 0 3 ≤ 5
  | 0x89 | 0x8A => f.modAt 4 2 != 3
  | 0x8E => f.modAt 0 3 ≤ 3
  | 0x8F => f.modAt 0 2 != 3 && f.modAt 2 3 ≤ 5
  | 0xB9 => f.modAt 0 2 != 3 && !(f.modAt 0 2 == 2 && f.ty == .f32)
  | 0xC2 => (atomicTys (f.modAt 0 3)).contains f.ty
  | 0xD1 => f.modAt 0 3 ≤ 5
  | 0xD5 => f.modAt 0 2 != 3
  | _ => true

/-- FLAG: the flag bits without regard to the clause (R262, R269, R357). -/
def okFlag (e : Form) (f : Fx) : Bool :=
  (!f.fsel || f.fen) && (!f.fen || e.flag != .no) && (f.fen || e.flag != .required)

/-- The lowest ILLENC subcode that an F or X instruction breaches (R265), 0 when it breaches none. -/
def fxBreach (op8 : Nat) (e : Form) (f : Fx) : Nat :=
  if !okResv e f then subResv
  else if !okOpnd op8 e f then subOpnd
  else if !okType op8 e f then subType
  else if !okSmod f then subSmod
  else if !okModf op8 f then subModf
  else if !okFlag e f then subFlag
  else 0

/-- Legal F and X fields under an opcode. -/
def fxOk (op8 : Nat) (f : Fx) : Bool :=
  match form op8 with
  | some e => fxBreach op8 e f == 0
  | none => false

/-- MOV.b64 in format C has no VB (R256). -/
def cOk (opc : Nat) (c : CForm) : Bool := opc != 0x1C || (c.vb == 0 && !c.lub)

/-- The limits of format I: shift counts, and no VA for MOV (R257). -/
def iOk (opi : Nat) (i : IForm) : Bool :=
  (!(5 ≤ opi && opi ≤ 7) || i.imm.toNat ≤ 31) && (!(opi == 8 || opi == 9) || i.imm.toNat ≤ 63) &&
  (!(opi == 10 || opi == 11) || (i.va == 0 && !i.lua))

/-- The banks of a pair (R259): no bank read more than twice, destinations in different banks. -/
def pairOk (h0 h1 : PHalf) : Bool :=
  let r := [h0.vd.toNat % 4, h0.vs.toNat % 4, h1.vd.toNat % 4, h1.vs.toNat % 4]
  [0, 1, 2, 3].all (fun k => r.count k ≤ 2) && h0.vd.toNat % 4 != h1.vd.toNat % 4

/-- The flag fields of a header (R260). -/
def headerOk (h : Header) : Bool :=
  !(h.av && h.flagA.toNat ≥ 12) && !(h.bv && h.flagB.toNat ≥ 12) && (h.av || h.flagA == 0) && (h.bv || h.flagB == 0) &&
  !(h.av && h.bv && h.flagA == h.flagB)

end Sys2Proof
end

