-- ==== Sys2Proof/Decode.lean ====
section
/-! DEFINITION. Decoding from parcels (R249 to R266), total on every pattern, and the encoder written from the same tables. -/

namespace Sys2Proof

/-- Bits `lo + len − 1` to `lo` of a number. -/
def bitsAt (w lo len : Nat) : Nat := w / 2 ^ lo % 2 ^ len

/-- Bit `i` of a number. -/
def bitAt (w i : Nat) : Bool := w / 2 ^ i % 2 == 1

def bool1 (b : Bool) : Nat := if b then 1 else 0

/-- The type of a 4-bit code (R261). -/
def Ty.ofCode (n : Nat) : Ty :=
  match n with
  | 0 => .n8 | 1 => .i8 | 2 => .n16 | 3 => .i16 | 4 => .n32 | 5 => .i32 | 6 => .n64 | 7 => .i64
  | 8 => .f16 | 9 => .bf16 | 10 => .f32 | 11 => .f64 | 12 => .bx8 | 13 => .bx4 | 14 => .b32 | _ => .b64

def Konst.code : Konst → Nat
  | .zero => 0 | .one => 1 | .ones => 2 | .fOne => 3 | .fHalf => 4 | .fTwo => 5 | .fMinusOne => 6 | .lane => 7

def Konst.ofCode (n : Nat) : Konst :=
  match n with
  | 0 => .zero | 1 => .one | 2 => .ones | 3 => .fOne | 4 => .fHalf | 5 => .fTwo | 6 => .fMinusOne | _ => .lane

/-- The operand of an 8-bit code (R262). -/
def Opnd.ofCode (n : Nat) : Opnd :=
  if n < 0x80 then .v (BitVec.ofNat 7 n)
  else if n < 0xC0 then .s (BitVec.ofNat 6 (n - 0x80))
  else if n < 0xC8 then .p (BitVec.ofNat 3 (n - 0xC0))
  else if n < 0xD0 then .reserved (BitVec.ofNat 8 n)
  else if n < 0xD8 then .k (Konst.ofCode (n - 0xD0))
  else if n < 0xFF then .reserved (BitVec.ofNat 8 n)
  else .none

def Opnd.code : Opnd → Nat
  | .v n => n.toNat
  | .s n => 0x80 + n.toNat
  | .p n => 0xC0 + n.toNat
  | .k c => 0xD0 + c.code
  | .reserved c => c.toNat
  | .none => 0xFF

/-- The pair opcode of a 6-bit code (R258). -/
def PairOp.ofCode (n : Nat) : Option PairOp :=
  match n with
  | 0 => some .iaddI32
  | 1 => some .isubI32
  | 2 => some .iaddI64
  | 3 => some .andB64
  | 4 => some .orB64
  | 5 => some .xorB64
  | 6 => some .iminI32
  | 7 => some .imaxI32
  | 8 => some .faddF32
  | 9 => some .fmulF32
  | 10 => some .fminF32
  | 11 => some .fmaxF32
  | 12 => some .faddBf16
  | 13 => some .fmulBf16
  | 14 => some .faddF16
  | 15 => some .fmulF16
  | 16 => some .movB64
  | 17 => some .faddF64
  | 18 => some .fmulF64
  | _ => none

def PairOp.code : PairOp → Nat
  | .iaddI32 => 0
  | .isubI32 => 1
  | .iaddI64 => 2
  | .andB64 => 3
  | .orB64 => 4
  | .xorB64 => 5
  | .iminI32 => 6
  | .imaxI32 => 7
  | .faddF32 => 8
  | .fmulF32 => 9
  | .fminF32 => 10
  | .fmaxF32 => 11
  | .faddBf16 => 12
  | .fmulBf16 => 13
  | .faddF16 => 14
  | .fmulF16 => 15
  | .movB64 => 16
  | .faddF64 => 17
  | .fmulF64 => 18

/-- The F or X instruction of an opcode; the variants of one opcode are told apart by MOD (R280, R281, R345, R376).
A variant code that no row has falls to none; `fxBreach` refuses it before. -/
def variant3 (f : Fx) (i0 i1 i2 : Instr) : Option Instr :=
  match f.md.toNat % 4 with
  | 0 => some i0
  | 1 => some i1
  | 2 => some i2
  | _ => none

/-- The row of an opcode (R255). -/
def fxInstr (op8 : Nat) (f : Fx) : Option Instr :=
  match op8 with
  | 0x01 => some (.nop f)
  | 0x02 => some (.bra f)
  | 0x03 => some (.brx f)
  | 0x04 => some (.call f)
  | 0x05 => some (.callx f)
  | 0x06 => some (.ret f)
  | 0x07 => some (.join f)
  | 0x08 => some (.exit f)
  | 0x09 => some (.yield f)
  | 0x0A => some (.waitf f)
  | 0x0B => variant3 f (.barSync f) (.barArv f) (.barWait f)
  | 0x0C => some (.cbar f)
  | 0x0D => variant3 f (.voteAny f) (.voteAll f) (.voteBal f)
  | 0x0E => some (.plop f)
  | 0x0F => some (.pmov f)
  | 0x10 => some (.launch f)
  | 0x11 => some (.trap f)
  | 0x12 => some (.bkpt f)
  | 0x20 => some (.iadd f)
  | 0x21 => some (.isub f)
  | 0x22 => some (.iaddc f)
  | 0x23 => some (.imul f)
  | 0x24 => some (.imulh f)
  | 0x25 => some (.imad f)
  | 0x26 => some (.imadw f)
  | 0x27 => some (.idiv f)
  | 0x28 => some (.irem f)
  | 0x29 => some (.imin f)
  | 0x2A => some (.imax f)
  | 0x2B => some (.iabs f)
  | 0x2C => some (.ineg f)
  | 0x2D => some (.isad f)
  | 0x2E => some (.icmp f)
  | 0x2F => some (.ipick f)
  | 0x30 => some (.shl f)
  | 0x31 => some (.shr f)
  | 0x32 => some (.sar f)
  | 0x33 => some (.rot f)
  | 0x34 => some (.fshf f)
  | 0x35 => some (.andBits f)
  | 0x36 => some (.orBits f)
  | 0x37 => some (.xorBits f)
  | 0x38 => some (.notBits f)
  | 0x39 => some (.blut f)
  | 0x3A => some (.popc f)
  | 0x3B => some (.clz f)
  | 0x3C => some (.ctz f)
  | 0x3D => some (.brev f)
  | 0x3E => some (.bfx f)
  | 0x3F => some (.bfi f)
  | 0x40 => some (.idot f)
  | 0x41 => some (.mov f)
  | 0x42 => some (.cvti f)
  | 0x43 => some (.lea f)
  | 0x44 => some (.tags f)
  | 0x45 => some (.tagg f)
  | 0x46 => some (.pack f)
  | 0x47 => some (.unpk f)
  | 0x50 => some (.fadd f)
  | 0x51 => some (.fsub f)
  | 0x52 => some (.fmul f)
  | 0x53 => some (.ffma f)
  | 0x54 => some (.fmin f)
  | 0x55 => some (.fmax f)
  | 0x56 => some (.fsetp f)
  | 0x57 => some (.fcls f)
  | 0x58 => some (.frnd f)
  | 0x59 => some (.frcp f)
  | 0x5A => some (.frsq f)
  | 0x5B => some (.fsqrt f)
  | 0x5C => some (.fdiv f)
  | 0x5D => some (.fex2 f)
  | 0x5E => some (.flg2 f)
  | 0x5F => some (.fsin f)
  | 0x60 => some (.fcos f)
  | 0x61 => some (.ftanh f)
  | 0x62 => some (.fsig f)
  | 0x63 => some (.cvtf f)
  | 0x64 => some (.f2i f)
  | 0x65 => some (.i2f f)
  | 0x66 => some (.bxenc f)
  | 0x67 => some (.bxdec f)
  | 0x70 => some (.lxch f)
  | 0x71 => some (.prm f)
  | 0x72 => some (.lbc f)
  | 0x73 => some (.redc f)
  | 0x74 => some (.scan f)
  | 0x75 => some (.matchLanes f)
  | 0x76 => some (.csamp f)
  | 0x77 => some (.rng f)
  | 0x80 => some (.ld f)
  | 0x81 => some (.st f)
  | 0x82 => some (.lds f)
  | 0x83 => some (.sts f)
  | 0x84 => some (.ldu f)
  | 0x85 => some (.stu f)
  | 0x86 => some (.ldbxs f)
  | 0x87 => some (.atom f)
  | 0x88 => some (.red f)
  | 0x89 => some (.copy f)
  | 0x8A => some (.copyf f)
  | 0x8B => some (.wptr f)
  | 0x8C => some (.pushf f)
  | 0x8D => some (.popf f)
  | 0x8E => some (.bankcfg f)
  | 0x8F => variant3 f (.fenceAcq f) (.fenceRel f) (.fenceAr f)
  | 0x90 => some (.cwb f)
  | 0x91 => some (.cinv f)
  | 0x92 => some (.flush f)
  | 0x93 => some (.pref f)
  | 0x94 => some (.ldtag f)
  | 0x95 => some (.sttag f)
  | 0x96 => some (.watch f)
  | 0xB0 => some (.oprf f)
  | 0xB1 => some (.mma f)
  | 0xB2 => some (.mmaw f)
  | 0xB8 => some (.mopen f)
  | 0xB9 => some (.mstg f)
  | 0xBA => some (.mclose f)
  | 0xBB => some (.mabort f)
  | 0xBC => some (.mstat f)
  | 0xC0 => some (.rld f)
  | 0xC1 => some (.rst f)
  | 0xC2 => some (.ratom f)
  | 0xC3 => some (.puts f)
  | 0xC4 => some (.getf f)
  | 0xC5 => some (.fstatc f)
  | 0xD0 => some (.vcost f)
  | 0xD1 => some (.vchk f)
  | 0xD2 => if f.md.toNat % 2 = 0 then some (.vckpt f) else some (.vckptPoll f)
  | 0xD3 => some (.getsr f)
  | 0xD4 => some (.setsr f)
  | 0xD5 => some (.icinv f)
  | 0xD6 => some (.sysc f)
  | 0xD7 => some (.tret f)
  | _ => none

/-- The opcode and fields of an F or X instruction. -/
def Instr.fx? : Instr → Option (Nat × Fx)
  | .nop f => some (0x01, f)
  | .bra f => some (0x02, f)
  | .brx f => some (0x03, f)
  | .call f => some (0x04, f)
  | .callx f => some (0x05, f)
  | .ret f => some (0x06, f)
  | .join f => some (0x07, f)
  | .exit f => some (0x08, f)
  | .yield f => some (0x09, f)
  | .waitf f => some (0x0A, f)
  | .barSync f => some (0x0B, f)
  | .barArv f => some (0x0B, f)
  | .barWait f => some (0x0B, f)
  | .cbar f => some (0x0C, f)
  | .voteAny f => some (0x0D, f)
  | .voteAll f => some (0x0D, f)
  | .voteBal f => some (0x0D, f)
  | .plop f => some (0x0E, f)
  | .pmov f => some (0x0F, f)
  | .launch f => some (0x10, f)
  | .trap f => some (0x11, f)
  | .bkpt f => some (0x12, f)
  | .iadd f => some (0x20, f)
  | .isub f => some (0x21, f)
  | .iaddc f => some (0x22, f)
  | .imul f => some (0x23, f)
  | .imulh f => some (0x24, f)
  | .imad f => some (0x25, f)
  | .imadw f => some (0x26, f)
  | .idiv f => some (0x27, f)
  | .irem f => some (0x28, f)
  | .imin f => some (0x29, f)
  | .imax f => some (0x2A, f)
  | .iabs f => some (0x2B, f)
  | .ineg f => some (0x2C, f)
  | .isad f => some (0x2D, f)
  | .icmp f => some (0x2E, f)
  | .ipick f => some (0x2F, f)
  | .shl f => some (0x30, f)
  | .shr f => some (0x31, f)
  | .sar f => some (0x32, f)
  | .rot f => some (0x33, f)
  | .fshf f => some (0x34, f)
  | .andBits f => some (0x35, f)
  | .orBits f => some (0x36, f)
  | .xorBits f => some (0x37, f)
  | .notBits f => some (0x38, f)
  | .blut f => some (0x39, f)
  | .popc f => some (0x3A, f)
  | .clz f => some (0x3B, f)
  | .ctz f => some (0x3C, f)
  | .brev f => some (0x3D, f)
  | .bfx f => some (0x3E, f)
  | .bfi f => some (0x3F, f)
  | .idot f => some (0x40, f)
  | .mov f => some (0x41, f)
  | .cvti f => some (0x42, f)
  | .lea f => some (0x43, f)
  | .tags f => some (0x44, f)
  | .tagg f => some (0x45, f)
  | .pack f => some (0x46, f)
  | .unpk f => some (0x47, f)
  | .fadd f => some (0x50, f)
  | .fsub f => some (0x51, f)
  | .fmul f => some (0x52, f)
  | .ffma f => some (0x53, f)
  | .fmin f => some (0x54, f)
  | .fmax f => some (0x55, f)
  | .fsetp f => some (0x56, f)
  | .fcls f => some (0x57, f)
  | .frnd f => some (0x58, f)
  | .frcp f => some (0x59, f)
  | .frsq f => some (0x5A, f)
  | .fsqrt f => some (0x5B, f)
  | .fdiv f => some (0x5C, f)
  | .fex2 f => some (0x5D, f)
  | .flg2 f => some (0x5E, f)
  | .fsin f => some (0x5F, f)
  | .fcos f => some (0x60, f)
  | .ftanh f => some (0x61, f)
  | .fsig f => some (0x62, f)
  | .cvtf f => some (0x63, f)
  | .f2i f => some (0x64, f)
  | .i2f f => some (0x65, f)
  | .bxenc f => some (0x66, f)
  | .bxdec f => some (0x67, f)
  | .lxch f => some (0x70, f)
  | .prm f => some (0x71, f)
  | .lbc f => some (0x72, f)
  | .redc f => some (0x73, f)
  | .scan f => some (0x74, f)
  | .matchLanes f => some (0x75, f)
  | .csamp f => some (0x76, f)
  | .rng f => some (0x77, f)
  | .ld f => some (0x80, f)
  | .st f => some (0x81, f)
  | .lds f => some (0x82, f)
  | .sts f => some (0x83, f)
  | .ldu f => some (0x84, f)
  | .stu f => some (0x85, f)
  | .ldbxs f => some (0x86, f)
  | .atom f => some (0x87, f)
  | .red f => some (0x88, f)
  | .copy f => some (0x89, f)
  | .copyf f => some (0x8A, f)
  | .wptr f => some (0x8B, f)
  | .pushf f => some (0x8C, f)
  | .popf f => some (0x8D, f)
  | .bankcfg f => some (0x8E, f)
  | .fenceAcq f => some (0x8F, f)
  | .fenceRel f => some (0x8F, f)
  | .fenceAr f => some (0x8F, f)
  | .cwb f => some (0x90, f)
  | .cinv f => some (0x91, f)
  | .flush f => some (0x92, f)
  | .pref f => some (0x93, f)
  | .ldtag f => some (0x94, f)
  | .sttag f => some (0x95, f)
  | .watch f => some (0x96, f)
  | .oprf f => some (0xB0, f)
  | .mma f => some (0xB1, f)
  | .mmaw f => some (0xB2, f)
  | .mopen f => some (0xB8, f)
  | .mstg f => some (0xB9, f)
  | .mclose f => some (0xBA, f)
  | .mabort f => some (0xBB, f)
  | .mstat f => some (0xBC, f)
  | .rld f => some (0xC0, f)
  | .rst f => some (0xC1, f)
  | .ratom f => some (0xC2, f)
  | .puts f => some (0xC3, f)
  | .getf f => some (0xC4, f)
  | .fstatc f => some (0xC5, f)
  | .vcost f => some (0xD0, f)
  | .vchk f => some (0xD1, f)
  | .vckpt f => some (0xD2, f)
  | .vckptPoll f => some (0xD2, f)
  | .getsr f => some (0xD3, f)
  | .setsr f => some (0xD4, f)
  | .icinv f => some (0xD5, f)
  | .sysc f => some (0xD6, f)
  | .tret f => some (0xD7, f)
  | _ => none

/-- The compact instruction of an OPC (R256). -/
def cInstr (opc : Nat) (c : CForm) : Option Instr :=
  match opc with
  | 0 => some (.iaddI32C c)
  | 1 => some (.isubI32C c)
  | 2 => some (.imulI32C c)
  | 3 => some (.iminI32C c)
  | 4 => some (.imaxI32C c)
  | 5 => some (.iaddI64C c)
  | 6 => some (.isubI64C c)
  | 7 => some (.andB64C c)
  | 8 => some (.orB64C c)
  | 9 => some (.xorB64C c)
  | 10 => some (.shlB32C c)
  | 11 => some (.shrN32C c)
  | 12 => some (.sarI32C c)
  | 13 => some (.shlB64C c)
  | 14 => some (.shrN64C c)
  | 15 => some (.iminN32C c)
  | 16 => some (.imaxN32C c)
  | 17 => some (.faddF32C c)
  | 18 => some (.fsubF32C c)
  | 19 => some (.fmulF32C c)
  | 20 => some (.fminF32C c)
  | 21 => some (.fmaxF32C c)
  | 22 => some (.faddF16C c)
  | 23 => some (.fmulF16C c)
  | 24 => some (.faddBf16C c)
  | 25 => some (.fmulBf16C c)
  | 26 => some (.faddF64C c)
  | 27 => some (.fmulF64C c)
  | 28 => some (.movB64C c)
  | 29 => some (.fminF64C c)
  | 30 => some (.fmaxF64C c)
  | _ => none

def Instr.c? : Instr → Option (Nat × CForm)
  | .iaddI32C c => some (0, c)
  | .isubI32C c => some (1, c)
  | .imulI32C c => some (2, c)
  | .iminI32C c => some (3, c)
  | .imaxI32C c => some (4, c)
  | .iaddI64C c => some (5, c)
  | .isubI64C c => some (6, c)
  | .andB64C c => some (7, c)
  | .orB64C c => some (8, c)
  | .xorB64C c => some (9, c)
  | .shlB32C c => some (10, c)
  | .shrN32C c => some (11, c)
  | .sarI32C c => some (12, c)
  | .shlB64C c => some (13, c)
  | .shrN64C c => some (14, c)
  | .iminN32C c => some (15, c)
  | .imaxN32C c => some (16, c)
  | .faddF32C c => some (17, c)
  | .fsubF32C c => some (18, c)
  | .fmulF32C c => some (19, c)
  | .fminF32C c => some (20, c)
  | .fmaxF32C c => some (21, c)
  | .faddF16C c => some (22, c)
  | .fmulF16C c => some (23, c)
  | .faddBf16C c => some (24, c)
  | .fmulBf16C c => some (25, c)
  | .faddF64C c => some (26, c)
  | .fmulF64C c => some (27, c)
  | .movB64C c => some (28, c)
  | .fminF64C c => some (29, c)
  | .fmaxF64C c => some (30, c)
  | _ => none

/-- The immediate instruction of an OPI (R257). -/
def iInstr (opi : Nat) (i : IForm) : Option Instr :=
  match opi with
  | 0 => some (.iaddI32I i)
  | 1 => some (.iaddI64I i)
  | 2 => some (.andB32I i)
  | 3 => some (.orB32I i)
  | 4 => some (.xorB32I i)
  | 5 => some (.shlB32I i)
  | 6 => some (.shrN32I i)
  | 7 => some (.sarI32I i)
  | 8 => some (.shlB64I i)
  | 9 => some (.shrN64I i)
  | 10 => some (.movI32I i)
  | 11 => some (.movI64I i)
  | 12 => some (.imulI32I i)
  | 13 => some (.iminI32I i)
  | 14 => some (.imaxI32I i)
  | _ => none

def Instr.i? : Instr → Option (Nat × IForm)
  | .iaddI32I i => some (0, i)
  | .iaddI64I i => some (1, i)
  | .andB32I i => some (2, i)
  | .orB32I i => some (3, i)
  | .xorB32I i => some (4, i)
  | .shlB32I i => some (5, i)
  | .shrN32I i => some (6, i)
  | .sarI32I i => some (7, i)
  | .shlB64I i => some (8, i)
  | .shrN64I i => some (9, i)
  | .movI32I i => some (10, i)
  | .movI64I i => some (11, i)
  | .imulI32I i => some (12, i)
  | .iminI32I i => some (13, i)
  | .imaxI32I i => some (14, i)
  | _ => none

/-- The pair whose half 0 has an OPP (R258). -/
def pInstr (opp : Nat) (h0 : PHalf) (op1 : PairOp) (h1 : PHalf) : Option Instr :=
  match opp with
  | 0 => some (.iaddI32P h0 op1 h1)
  | 1 => some (.isubI32P h0 op1 h1)
  | 2 => some (.iaddI64P h0 op1 h1)
  | 3 => some (.andB64P h0 op1 h1)
  | 4 => some (.orB64P h0 op1 h1)
  | 5 => some (.xorB64P h0 op1 h1)
  | 6 => some (.iminI32P h0 op1 h1)
  | 7 => some (.imaxI32P h0 op1 h1)
  | 8 => some (.faddF32P h0 op1 h1)
  | 9 => some (.fmulF32P h0 op1 h1)
  | 10 => some (.fminF32P h0 op1 h1)
  | 11 => some (.fmaxF32P h0 op1 h1)
  | 12 => some (.faddBf16P h0 op1 h1)
  | 13 => some (.fmulBf16P h0 op1 h1)
  | 14 => some (.faddF16P h0 op1 h1)
  | 15 => some (.fmulF16P h0 op1 h1)
  | 16 => some (.movB64P h0 op1 h1)
  | 17 => some (.faddF64P h0 op1 h1)
  | 18 => some (.fmulF64P h0 op1 h1)
  | _ => none

def Instr.p? : Instr → Option (Nat × PHalf × PairOp × PHalf)
  | .iaddI32P h0 op1 h1 => some (0, h0, op1, h1)
  | .isubI32P h0 op1 h1 => some (1, h0, op1, h1)
  | .iaddI64P h0 op1 h1 => some (2, h0, op1, h1)
  | .andB64P h0 op1 h1 => some (3, h0, op1, h1)
  | .orB64P h0 op1 h1 => some (4, h0, op1, h1)
  | .xorB64P h0 op1 h1 => some (5, h0, op1, h1)
  | .iminI32P h0 op1 h1 => some (6, h0, op1, h1)
  | .imaxI32P h0 op1 h1 => some (7, h0, op1, h1)
  | .faddF32P h0 op1 h1 => some (8, h0, op1, h1)
  | .fmulF32P h0 op1 h1 => some (9, h0, op1, h1)
  | .fminF32P h0 op1 h1 => some (10, h0, op1, h1)
  | .fmaxF32P h0 op1 h1 => some (11, h0, op1, h1)
  | .faddBf16P h0 op1 h1 => some (12, h0, op1, h1)
  | .fmulBf16P h0 op1 h1 => some (13, h0, op1, h1)
  | .faddF16P h0 op1 h1 => some (14, h0, op1, h1)
  | .fmulF16P h0 op1 h1 => some (15, h0, op1, h1)
  | .movB64P h0 op1 h1 => some (16, h0, op1, h1)
  | .faddF64P h0 op1 h1 => some (17, h0, op1, h1)
  | .fmulF64P h0 op1 h1 => some (18, h0, op1, h1)
  | _ => none

/-- The fields of parcels 0 and 1 of formats F and X (R252), in one 64-bit number, with what parcel 2 adds (R253). -/
def fxFields (w : Nat) (e : Ext) : Fx where
  ty := Ty.ofCode (bitsAt w 11 4)
  d := Opnd.ofCode (bitsAt w 15 8)
  a := Opnd.ofCode (bitsAt w 23 8)
  b := Opnd.ofCode (bitsAt w 31 8)
  c := Opnd.ofCode (bitsAt w 39 8)
  lua := bitAt w 47
  lub := bitAt w 48
  luc := bitAt w 49
  guard := BitVec.ofNat 3 (bitsAt w 50 3)
  gneg := bitAt w 53
  fen := bitAt w 54
  fsel := bitAt w 55
  reuse := bitAt w 56
  md := BitVec.ofNat 7 (bitsAt w 57 7)
  ext := e

/-- Parcel 2 of format X (R253). -/
def extOf (l : Bool) (p2 : Nat) : Ext :=
  if l then .lit (BitVec.ofNat 32 p2)
  else .sm (BitVec.ofNat 8 (bitsAt p2 24 8)) (BitVec.ofNat 12 (bitsAt p2 12 12)) (BitVec.ofNat 12 (bitsAt p2 0 12))

/-- The fields of a format C instruction (R250). -/
def cFields (p : Nat) : CForm where
  g := bitAt p 31
  lub := bitAt p 30
  lua := bitAt p 29
  vb := BitVec.ofNat 7 (bitsAt p 22 7)
  va := BitVec.ofNat 7 (bitsAt p 15 7)
  vd := BitVec.ofNat 7 (bitsAt p 8 7)

/-- The fields of a format I instruction (R251). -/
def iFields (p : Nat) : IForm where
  imm := BitVec.ofNat 9 (bitsAt p 23 9)
  lua := bitAt p 22
  va := BitVec.ofNat 7 (bitsAt p 15 7)
  vd := BitVec.ofNat 7 (bitsAt p 8 7)

/-- One half of a pair (R258). -/
def pFields (h : Nat) : PHalf where
  gneg := bitAt h 24
  guard := BitVec.ofNat 3 (bitsAt h 21 3)
  lus := bitAt h 20
  vs := BitVec.ofNat 7 (bitsAt h 13 7)
  vd := BitVec.ofNat 7 (bitsAt h 6 7)

/-- The fields of a clause header (R260). -/
def headerFields (w : Nat) : Header where
  len := BitVec.ofNat 5 (bitsAt w 45 5)
  pri := BitVec.ofNat 8 (bitsAt w 37 8)
  bv := bitAt w 36
  flagB := BitVec.ofNat 4 (bitsAt w 32 4)
  av := bitAt w 31
  flagA := BitVec.ofNat 4 (bitsAt w 27 4)
  wait := BitVec.ofNat 12 (bitsAt w 15 12)

/-- Causes of the patterns that are no instruction (R57, R264). -/
def causeIllop : Nat := 0x01
def causeIllenc : Nat := 0x02

/-- A pattern that is no instruction. Where a header is expected, a pattern that is no header breaches the clause
rule (R274); only a pattern with a header's fixed bits has a subcode of its own there. -/
def illegalAt (parcels cause sub : Nat) (hdrSub : Nat := subClause) : Instr :=
  .reservedOpcode
    { cause := BitVec.ofNat 8 cause, sub := BitVec.ofNat 8 sub, hdrSub := BitVec.ofNat 8 hdrSub,
      parcels := BitVec.ofNat 96 parcels }

/-- The length in parcels, from parcel 0 alone (R249). -/
def parcelCount (p0 : Nat) : Nat :=
  if p0 % 4 == 0 || p0 % 4 == 1 then 1 else if p0 % 4 == 2 then 2 else 3

/-- A pattern whose OP8 is 0x00 (R254, R260, R264): a header when it has a header's fixed bits and no breach. In a
clause body it breaches the clause rule in every case. -/
def decodeHeader (w : Nat) : Instr :=
  if w % 2 ^ 15 != 2 then illegalAt w causeIllenc subClause
  else
    let h := headerFields w
    if w / 2 ^ 50 % 2 ^ 14 != 0 then illegalAt w causeIllenc subClause subResv
    else if !headerOk h then illegalAt w causeIllenc subClause subFlag
    else .clause h

/-- Formats F and X: `w` is parcels 0 and 1, `all` every parcel. -/
def decodeFx (w all : Nat) (e : Ext) : Instr :=
  let op8 := bitsAt w 3 8
  let f := fxFields w e
  match form op8 with
  | none =>
    if op8 == 0 then illegalAt all causeIllenc subClause
    else if op8 / 16 == 0xE then illegalAt all causeIllop 1
    else illegalAt all causeIllop 0
  | some en =>
    let b := fxBreach op8 en f
    if b != 0 then illegalAt all causeIllenc b
    else (fxInstr op8 f).getD (illegalAt all causeIllenc subModf)

/-- Format P (R258, R259, R264). -/
def decodePair (w : Nat) : Instr :=
  let r0 := bitsAt w 3 30
  let r1 := bitsAt w 33 30
  match PairOp.ofCode (r0 % 64), PairOp.ofCode (r1 % 64) with
  | some _, some o1 =>
    let h0 := pFields r0
    let h1 := pFields r1
    if bitAt w 63 || r0 / 2 ^ 25 != 0 || r1 / 2 ^ 25 != 0 then illegalAt w causeIllenc subResv
    else if !pairOk h0 h1 then illegalAt w causeIllenc subPair
    else (pInstr (r0 % 64) h0 o1 h1).getD (illegalAt w causeIllop 0)
  | _, _ => illegalAt w causeIllop 0

/-- The instruction of three parcels as they lie in memory, and how many parcels it takes. Total: a pattern that is no
instruction is a `reservedOpcode` with its cause and subcode. -/
def decodeParcels (p0 p1 p2 : Nat) : Instr × Nat :=
  let w := p0 + 2 ^ 32 * p1
  if p0 % 4 == 0 then
    let c := cFields p0
    let opc := bitsAt p0 2 6
    (match cInstr opc c with
      | none => illegalAt p0 causeIllop 0
      | some i => if cOk opc c then i else illegalAt p0 causeIllenc subOpnd, 1)
  else if p0 % 4 == 1 then
    let i := iFields p0
    let opi := bitsAt p0 2 6
    (match iInstr opi i with
      | none => illegalAt p0 causeIllop 0
      | some j => if iOk opi i then j else illegalAt p0 causeIllenc subOpnd, 1)
  else if p0 % 4 == 2 then
    if bitAt p0 2 then (decodePair w, 2)
    else if bitsAt w 3 8 == 0 then (decodeHeader w, 2)
    else (decodeFx w w .f, 2)
  else (decodeFx w (w + 2 ^ 64 * p2) (extOf (bitAt p0 2) p2), 3)

/-- Why a list of bytes has no instruction at its start. -/
inductive DecodeError where
  /-- fewer bytes than the instruction's parcels -/
  | truncated
  deriving DecidableEq, Repr

/-- A 32-bit parcel of four bytes, little-endian (R249). -/
def parcelOf (b0 b1 b2 b3 : Byte) : Nat := b0.toNat + 2 ^ 8 * b1.toNat + 2 ^ 16 * b2.toNat + 2 ^ 24 * b3.toNat

/-- The parcels of a list of bytes, with at most three taken. -/
def parcelsOf : Nat → List Byte → List Nat
  | n + 1, b0 :: b1 :: b2 :: b3 :: r => parcelOf b0 b1 b2 b3 :: parcelsOf n r
  | _, _ => []

/-- Decoding of bytes: the instruction and the bytes that follow it. -/
def decode (bytes : List Byte) : Except DecodeError (Instr × List Byte) :=
  match parcelsOf 3 bytes with
  | [] => .error .truncated
  | p0 :: r =>
    let n := parcelCount p0
    if r.length + 1 < n then .error .truncated
    else .ok ((decodeParcels p0 (r.headD 0) ((r.drop 1).headD 0)).1, bytes.drop (4 * n))

/-! ### The encoder -/

/-- Parcels 0 and 1 of formats F and X (R252): low bits first. -/
def encodeFx (low op8 : Nat) (f : Fx) : Nat :=
  low + 2 ^ 3 * (op8 + 2 ^ 8 * (f.ty.code + 2 ^ 4 * (f.d.code + 2 ^ 8 * (f.a.code + 2 ^ 8 * (f.b.code + 2 ^ 8 * (f.c.code +
    2 ^ 8 * (bool1 f.lua + 2 * (bool1 f.lub + 2 * (bool1 f.luc + 2 * (f.guard.toNat + 2 ^ 3 * (bool1 f.gneg +
    2 * (bool1 f.fen + 2 * (bool1 f.fsel + 2 * (bool1 f.reuse + 2 * f.md.toNat))))))))))))))

/-- The parcels of an F or X instruction. -/
def fxParcels (op8 : Nat) (f : Fx) : List Nat :=
  match f.ext with
  | .f =>
    let w := encodeFx 2 op8 f
    [w % 2 ^ 32, w / 2 ^ 32]
  | .lit v =>
    let w := encodeFx 7 op8 f
    [w % 2 ^ 32, w / 2 ^ 32, v.toNat]
  | .sm x b a =>
    let w := encodeFx 3 op8 f
    [w % 2 ^ 32, w / 2 ^ 32, a.toNat + 2 ^ 12 * (b.toNat + 2 ^ 12 * x.toNat)]

/-- The parcel of a format C instruction (R250). -/
def cParcel (opc : Nat) (c : CForm) : Nat :=
  2 ^ 2 * (opc + 2 ^ 6 * (c.vd.toNat + 2 ^ 7 * (c.va.toNat + 2 ^ 7 * (c.vb.toNat + 2 ^ 7 * (bool1 c.lua +
    2 * (bool1 c.lub + 2 * bool1 c.g))))))

/-- The parcel of a format I instruction (R251). -/
def iParcel (opi : Nat) (i : IForm) : Nat :=
  1 + 2 ^ 2 * (opi + 2 ^ 6 * (i.vd.toNat + 2 ^ 7 * (i.va.toNat + 2 ^ 7 * (bool1 i.lua + 2 * i.imm.toNat))))

/-- A half of a pair (R258). -/
def halfBits (opp : Nat) (h : PHalf) : Nat :=
  opp + 2 ^ 6 * (h.vd.toNat + 2 ^ 7 * (h.vs.toNat + 2 ^ 7 * (bool1 h.lus + 2 * (h.guard.toNat + 2 ^ 3 * bool1 h.gneg))))

/-- The parcels of a pair (R258). -/
def pairParcels (opp0 : Nat) (h0 : PHalf) (op1 : PairOp) (h1 : PHalf) : List Nat :=
  let w := 6 + 2 ^ 3 * (halfBits opp0 h0 + 2 ^ 30 * halfBits op1.code h1)
  [w % 2 ^ 32, w / 2 ^ 32]

/-- The parcels of a clause header (R260). -/
def headerParcels (h : Header) : List Nat :=
  let w := 2 + 2 ^ 15 * (h.wait.toNat + 2 ^ 12 * (h.flagA.toNat + 2 ^ 4 * (bool1 h.av + 2 * (h.flagB.toNat + 2 ^ 4 *
    (bool1 h.bv + 2 * (h.pri.toNat + 2 ^ 8 * h.len.toNat))))))
  [w % 2 ^ 32, w / 2 ^ 32]

/-- The parcels of a pattern that is no instruction. -/
def illegalParcels (r : Illegal) : List Nat :=
  ([r.parcels.toNat % 2 ^ 32, r.parcels.toNat / 2 ^ 32 % 2 ^ 32, r.parcels.toNat / 2 ^ 64]).take
    (parcelCount (r.parcels.toNat % 2 ^ 32))

/-- The parcels of an instruction, low address first; an event of the opcode table has none. -/
def encode (i : Instr) : List Nat :=
  match i with
  | .clause h => headerParcels h
  | .reservedOpcode r => illegalParcels r
  | _ =>
    match i.fx? with
    | some (op8, f) => fxParcels op8 f
    | none =>
      match i.c? with
      | some (opc, c) => [cParcel opc c]
      | none =>
        match i.i? with
        | some (opi, j) => [iParcel opi j]
        | none =>
          match i.p? with
          | some (opp, h0, o1, h1) => pairParcels opp h0 o1 h1
          | none => []

/-- A well-formed instruction: legal fields, and for a variant the MOD bits that choose it. A pattern that is no
instruction is well formed when decoding its parcels gives it back; an event has no encoding. -/
def Instr.wf (i : Instr) : Bool :=
  match i with
  | .clause h => headerOk h
  | .reservedOpcode r =>
    let p := r.parcels.toNat
    decide (decodeParcels (p % 2 ^ 32) (p / 2 ^ 32 % 2 ^ 32) (p / 2 ^ 64) = (i, parcelCount (p % 2 ^ 32)))
      && p / 2 ^ (32 * parcelCount (p % 2 ^ 32)) == 0
  | _ =>
    match i.fx? with
    | some (op8, f) => fxOk op8 f && decide (fxInstr op8 f = some i)
    | none =>
      match i.c? with
      | some (opc, c) => cOk opc c
      | none =>
        match i.i? with
        | some (opi, j) => iOk opi j
        | none =>
          match i.p? with
          | some (_, h0, _, h1) => pairOk h0 h1
          | none => true

/-- Whether the row is an instruction of the lanes, with words in code. -/
def Instr.hasWords (i : Instr) : Bool := !(encode i).isEmpty

/-- The bytes of a list of parcels. -/
def parcelBytes : List Nat → List Byte
  | [] => []
  | p :: r => BitVec.ofNat 8 p :: BitVec.ofNat 8 (p / 2 ^ 8) :: BitVec.ofNat 8 (p / 2 ^ 16) :: BitVec.ofNat 8 (p / 2 ^ 24) ::
    parcelBytes r

/-- The host's view of the decoder: the instruction whose bits are `w`, bit 0 the least significant bit of parcel 0, a
later parcel's bits counting on from it, every bit above `nbits` 0. -/
def decodeTableWord (nbits w : Nat) : Option Instr :=
  let v := w % 2 ^ nbits
  match decode (parcelBytes [v % 2 ^ 32, v / 2 ^ 32 % 2 ^ 32, v / 2 ^ 64 % 2 ^ 32]) with
  | .ok (i, _) => some i
  | .error _ => none

end Sys2Proof
end

