-- ==== Sys2Proof/Machine/Bits.lean ====
section
/-! DEFINITION. Lanes, masks and sub-elements (R232, R271), and integer readings of bit fields. -/

namespace Sys2Proof.Machine

/-- The lane numbers. -/
def laneNums : List Nat := List.range 32

/-- Whether a lane is in a mask. -/
def inMask (m : Mask) (l : Nat) : Bool := m.getLsbD l

/-- The lanes of a mask, rising. -/
def lanesIn (m : Mask) : List Nat := laneNums.filter (inMask m)

/-- The mask of the lanes that satisfy a test. -/
def maskWhere (p : Nat → Bool) : Mask := BitVec.ofNat 32 (laneNums.foldl (fun a l => if p l then a + 2 ^ l else a) 0)

/-- The mask of a list of lanes. -/
def maskOfLanes (ls : List Nat) : Mask := maskWhere (fun l => ls.contains l)

/-- The number of lanes in a mask. -/
def countMask (m : Mask) : Nat := (lanesIn m).length

/-- The lowest lane of a mask; 32 when it is empty. -/
def lowestLane (m : Mask) : Nat := (lanesIn m).headD 32

/-- Sub-element `k` of width `w` of a lane value, as an unsigned number. -/
def elemAt (w : Nat) (x : Word) (k : Nat) : Nat := x.toNat / 2 ^ (w * k) % 2 ^ w

/-- The number whose sub-elements of width `w` are `f 0`, `f 1`, …, counting `n` of them. -/
def packFrom (w : Nat) (f : Nat → Nat) : Nat → Nat → Nat
  | 0, _ => 0
  | n + 1, k => f k % 2 ^ w + 2 ^ w * packFrom w f n (k + 1)

/-- The lane value of 64 ÷ w sub-elements. -/
def packElems (w : Nat) (f : Nat → Nat) : Word := BitVec.ofNat 64 (packFrom w f (64 / w) 0)

/-- Sub-element by sub-element. -/
def mapElems (w : Nat) (f : Nat → Nat) (x : Word) : Word := packElems w (fun k => f (elemAt w x k))

def zipElems (w : Nat) (f : Nat → Nat → Nat) (x y : Word) : Word := packElems w (fun k => f (elemAt w x k) (elemAt w y k))

def zipElems3 (w : Nat) (f : Nat → Nat → Nat → Nat) (x y z : Word) : Word :=
  packElems w (fun k => f (elemAt w x k) (elemAt w y k) (elemAt w z k))

/-- A `w`-bit number read as two's complement. -/
def asSigned (w n : Nat) : Int := if n < 2 ^ (w - 1) then (n : Int) else (n : Int) - 2 ^ w

/-- A `w`-bit number read in a type's signedness. -/
def asInt (signed : Bool) (w n : Nat) : Int := if signed then asSigned w n else (n : Int)

/-- wrap (R271): an exact integer modulo 2^w. -/
def wrapTo (w : Nat) (v : Int) : Nat := (v % (2 ^ w : Int)).toNat

/-- The least and greatest value of an integer type. -/
def minOf (signed : Bool) (w : Nat) : Int := if signed then -(2 ^ (w - 1) : Int) else 0
def maxOf (signed : Bool) (w : Nat) : Int := if signed then (2 ^ (w - 1) : Int) - 1 else (2 ^ w : Int) - 1

/-- sat (R271): clamp to the type's range. -/
def clampTo (signed : Bool) (w : Nat) (v : Int) : Int :=
  if v < minOf signed w then minOf signed w else if maxOf signed w < v then maxOf signed w else v

/-- Sign extension of the low `w` bits to 64. -/
def sext (w : Nat) (n : Nat) : Word := BitVec.ofNat 64 (wrapTo 64 (asSigned w (n % 2 ^ w)))

/-- The signed reading of a word. -/
def wordInt (x : Word) : Int := asSigned 64 x.toNat

/-- Byte `i` of a word. -/
def byteAt (x : Word) (i : Nat) : Nat := x.toNat / 2 ^ (8 * i) % 256

/-- The number of bytes given low first. -/
def ofBytes : List Byte → Nat
  | [] => 0
  | b :: r => b.toNat + 256 * ofBytes r

/-- The low `n` bytes of a number, low first. -/
def toBytes : Nat → Nat → List Byte
  | 0, _ => []
  | n + 1, v => BitVec.ofNat 8 v :: toBytes n (v / 256)

/-- Bits `lo + len − 1` to `lo` of a word, as a number. -/
def fieldOf (x : Word) (lo len : Nat) : Nat := bitsAt x.toNat lo len

/-- A word with bits `lo + len − 1` to `lo` replaced. -/
def setField (x : Word) (lo len v : Nat) : Word :=
  BitVec.ofNat 64 (x.toNat - bitsAt x.toNat lo len * 2 ^ lo + v % 2 ^ len * 2 ^ lo)

/-- Ceiling division. -/
def ceilDiv (a b : Nat) : Nat := (a + b - 1) / b

/-- Set bits of a `w`-bit number. -/
def popCount (w n : Nat) : Nat := ((List.range w).filter (bitAt n)).length

/-- Zeros above the highest set bit (R295). -/
def leadZeros (w n : Nat) : Nat := if n = 0 then w else w - 1 - Nat.log2 n

/-- Zeros below the lowest set bit (R295). -/
def trailZeros (w n : Nat) : Nat := ((List.range w).find? (bitAt n)).getD w

/-- The bits of a `w`-bit number in reverse order (R295). -/
def reverseBits (w n : Nat) : Nat := (List.range w).foldl (fun a i => 2 * a + n / 2 ^ i % 2) 0

/-- The lane that a source modifier reads for lane `l` (R263). -/
def smodLane (m : BitVec 12) (l : Nat) : Nat :=
  let cls := m.toNat / 512
  let s := 2 ^ (m.toNat / 64 % 8)
  let d := m.toNat / 2 % 32
  let base := l / s * s
  match cls with
  | 1 => base + (l - base + d) % s
  | 2 => l ^^^ d
  | 3 => base + d
  | 4 => base + s - 1 - (l - base)
  | _ => l

end Sys2Proof.Machine
end

