-- ==== Sys2Proof/Machine/Float.lean ====
section
/-! DEFINITION. Floating-point values, rounding and exact arithmetic (R234 to R238, R305 to R312, R244, R245). Every
operation computes the exact value and rounds it once. -/

namespace Sys2Proof.Machine

/-- An IEEE binary format or bfloat16 (R234): exponent and fraction bits. -/
structure FloatFmt where
  eb : Nat
  fb : Nat
  deriving DecidableEq, Repr

def fmtF16 : FloatFmt := { eb := 5, fb := 10 }
def fmtBf16 : FloatFmt := { eb := 8, fb := 7 }
def fmtF32 : FloatFmt := { eb := 8, fb := 23 }
def fmtF64 : FloatFmt := { eb := 11, fb := 52 }

/-- The format of a float type; other types are not asked for. -/
def fmtOf (t : Ty) : FloatFmt :=
  match t with
  | .f16 => fmtF16
  | .bf16 => fmtBf16
  | .f32 => fmtF32
  | _ => fmtF64

namespace FloatFmt

def width (f : FloatFmt) : Nat := 1 + f.eb + f.fb
def bias (f : FloatFmt) : Int := 2 ^ (f.eb - 1) - 1
/-- exponent of the unit of the subnormals -/
def qmin (f : FloatFmt) : Int := 1 - f.bias - f.fb
def infBits (f : FloatFmt) : Nat := (2 ^ f.eb - 1) * 2 ^ f.fb
/-- the canonical NaN (R234) -/
def nanBits (f : FloatFmt) : Nat := f.infBits + 2 ^ (f.fb - 1)
def maxBits (f : FloatFmt) : Nat := f.infBits - 1
def signBit (f : FloatFmt) : Nat := 2 ^ (f.eb + f.fb)

end FloatFmt

/-- A floating-point datum: NaN, an infinity, or (−1)^s × m × 2^e; m = 0 is a zero of that sign. -/
inductive FVal where
  | nan
  | inf (s : Bool)
  | fin (s : Bool) (m : Nat) (e : Int)
  deriving DecidableEq, Repr

/-- Rounding modes (R236). -/
inductive RMode where
  | rne | rtz | rup | rdn | rna
  deriving DecidableEq, Repr

def RMode.ofCode (n : Nat) : RMode :=
  match n with
  | 0 => .rne
  | 1 => .rtz
  | 2 => .rup
  | 3 => .rdn
  | _ => .rna

/-- The datum that a bit pattern holds. -/
def unpackF (f : FloatFmt) (n : Nat) : FVal :=
  let s := n / 2 ^ (f.eb + f.fb) % 2 == 1
  let e := n / 2 ^ f.fb % 2 ^ f.eb
  let m := n % 2 ^ f.fb
  if e = 2 ^ f.eb - 1 then (if m = 0 then .inf s else .nan)
  else if e = 0 then .fin s m f.qmin
  else .fin s (m + 2 ^ f.fb) (f.qmin + (e - 1 : Int))

/-- Overflow under a mode (R236). -/
def overflowBits (f : FloatFmt) (r : RMode) (s : Bool) : Nat :=
  match r, s with
  | .rtz, _ => f.maxBits
  | .rup, true => f.maxBits
  | .rdn, false => f.maxBits
  | _, _ => f.infBits

/-- Whether a magnitude `kept` with remainder `rem` of `2^shift` is rounded away from zero. -/
def roundsUp (r : RMode) (s : Bool) (kept rem shift : Nat) (sticky : Bool) : Bool :=
  let inexact := rem != 0 || sticky
  let twice := 2 * rem
  let full := 2 ^ shift
  match r with
  | .rne => full < twice || (twice == full && (sticky || kept % 2 == 1))
  | .rna => full ≤ twice
  | .rtz => false
  | .rup => inexact && !s
  | .rdn => inexact && s

/-- Rounding of the magnitude m × 2^e, with a positive tail below its last bit when `sticky`, and a sign. -/
def roundF (f : FloatFmt) (r : RMode) (s : Bool) (m : Nat) (e : Int) (sticky : Bool) : Nat :=
  let sign := if s then f.signBit else 0
  if m = 0 && !sticky then sign
  else
    let m2 := m * 2 ^ (f.fb + 4)
    let e2 := e - (f.fb + 4 : Nat)
    let top := e2 + Nat.log2 m2
    let q := max (top - f.fb) f.qmin
    let shift := (q - e2).toNat
    let kept := m2 / 2 ^ shift
    let rem := m2 % 2 ^ shift
    let up := roundsUp r s kept rem shift sticky
    let k := if up then kept + 1 else kept
    let bits := k + (q - f.qmin).toNat * 2 ^ f.fb
    sign + (if f.infBits ≤ bits then overflowBits f r s else bits)

/-- The bits of a datum rounded into a format (R235, R236). -/
def packF (f : FloatFmt) (r : RMode) (v : FVal) : Nat :=
  match v with
  | .nan => f.nanBits
  | .inf s => (if s then f.signBit else 0) + f.infBits
  | .fin s m e => roundF f r s m e false

/-- The integer of a finite datum over 2^q, for q no greater than its exponent. -/
def scaledInt (s : Bool) (m : Nat) (e q : Int) : Int :=
  let v : Int := (m * 2 ^ (e - q).toNat : Nat)
  if s then -v else v

/-- The zero of an exact zero sum of two operands (R237). -/
def zeroSum (r : RMode) (s1 s2 : Bool) : Bool := if s1 == s2 then s1 else r == .rdn

/-- Exact sum (R236, R237); the sign of an exact zero follows the mode. -/
def addV (r : RMode) (x y : FVal) : FVal :=
  match x, y with
  | .nan, _ => .nan
  | _, .nan => .nan
  | .inf s, .inf t => if s == t then .inf s else .nan
  | .inf s, _ => .inf s
  | _, .inf t => .inf t
  | .fin s m e, .fin t n d =>
    let q := min e d
    let v := scaledInt s m e q + scaledInt t n d q
    if v = 0 then .fin (if m = 0 && n = 0 then zeroSum r s t else r == .rdn) 0 q
    else .fin (decide (v < 0)) v.natAbs q

def negV (x : FVal) : FVal :=
  match x with
  | .nan => .nan
  | .inf s => .inf !s
  | .fin s m e => .fin (!s) m e

/-- Exact product (R237). -/
def mulV (x y : FVal) : FVal :=
  match x, y with
  | .nan, _ => .nan
  | _, .nan => .nan
  | .inf s, .inf t => .inf (s != t)
  | .inf s, .fin t n _ => if n = 0 then .nan else .inf (s != t)
  | .fin s m _, .inf t => if m = 0 then .nan else .inf (s != t)
  | .fin s m e, .fin t n d => .fin (s != t) (m * n) (e + d)

/-- Floor of the square root, by bits from the top. -/
def isqrtGo : Nat → Nat → Nat → Nat
  | 0, _, r => r
  | k + 1, n, r => if (r + 2 ^ k) * (r + 2 ^ k) ≤ n then isqrtGo k n (r + 2 ^ k) else isqrtGo k n r

def isqrt (n : Nat) : Nat := isqrtGo (Nat.log2 n / 2 + 1) n 0

/-- Bits kept by division and root before rounding: enough for every format and mode, since the tail is kept as a flag. -/
def workBits : Nat := 120

/-- Correctly rounded x ÷ y (R237, R309). -/
def divF (f : FloatFmt) (r : RMode) (x y : FVal) : Nat :=
  match x, y with
  | .nan, _ => f.nanBits
  | _, .nan => f.nanBits
  | .inf _, .inf _ => f.nanBits
  | .inf s, .fin t _ _ => packF f r (.inf (s != t))
  | .fin s _ _, .inf t => packF f r (.fin (s != t) 0 0)
  | .fin s m e, .fin t n d =>
    if n = 0 then (if m = 0 then f.nanBits else packF f r (.inf (s != t)))
    else if m = 0 then packF f r (.fin (s != t) 0 0)
    else
      let num := m * 2 ^ workBits
      roundF f r (s != t) (num / n) (e - d - workBits) (num % n != 0)

/-- Correctly rounded √x (R237, R309). -/
def sqrtF (f : FloatFmt) (r : RMode) (x : FVal) : Nat :=
  match x with
  | .nan => f.nanBits
  | .inf s => if s then f.nanBits else packF f r (.inf false)
  | .fin s m e =>
    if m = 0 then packF f r (.fin s 0 0)
    else if s then f.nanBits
    else
      let odd := (e % 2).toNat
      let n := m * 2 ^ (2 * workBits + odd)
      let q := isqrt n
      roundF f r false q ((e - odd) / 2 - workBits) (q * q != n)

/-- Correctly rounded 1 ÷ √x (R309). -/
def rsqrtF (f : FloatFmt) (r : RMode) (x : FVal) : Nat :=
  match x with
  | .nan => f.nanBits
  | .inf s => if s then f.nanBits else packF f r (.fin false 0 0)
  | .fin s m e =>
    if m = 0 then packF f r (.inf s)
    else if s then f.nanBits
    else
      -- 1 ÷ √(m × 2^e) = √(2^(2K) ÷ (m × 2^odd)) × 2^(−K − (e − odd) ÷ 2)
      let odd := (e % 2).toNat
      let n := 2 ^ (2 * (workBits + f.width)) / (m * 2 ^ odd)
      let ex := 2 ^ (2 * (workBits + f.width)) % (m * 2 ^ odd) == 0
      let q := isqrt n
      roundF f r false q (-((e - odd) / 2) - (workBits + f.width : Nat)) !(ex && q * q == n)

/-- Order of two data that are not NaN: −1, 0 or 1; zeros compare equal. -/
def cmpV (x y : FVal) : Int :=
  let key : FVal → Int × Nat × Int := fun v =>
    match v with
    | .nan => (0, 0, 0)
    | .inf s => if s then (-2, 0, 0) else (2, 0, 0)
    | .fin s m e => if m = 0 then (0, 0, 0) else (if s then -1 else 1, m, e)
  let (cx, mx, ex) := key x
  let (cy, my, ey) := key y
  if cx < cy then -1 else if cy < cx then 1
  else if cx = 1 || cx = -1 then
    let q := min ex ey
    let a := scaledInt (cx == -1) mx ex q
    let b := scaledInt (cy == -1) my ey q
    if a < b then -1 else if b < a then 1 else 0
  else 0

def isNan (x : FVal) : Bool := x == .nan

/-- The sign of a datum. -/
def signV (x : FVal) : Bool :=
  match x with
  | .nan => false
  | .inf s => s
  | .fin s _ _ => s

/-- Whether x is below y when −0 lies below +0 (R237). -/
def belowV (x y : FVal) : Bool := cmpV x y < 0 || (cmpV x y == 0 && signV x && !signV y)

/-- FMIN and FMAX on bit patterns (R237). -/
def minF (f : FloatFmt) (a b : Nat) : Nat :=
  let x := unpackF f a
  let y := unpackF f b
  if isNan x && isNan y then f.nanBits else if isNan x then b else if isNan y then a
  else if belowV y x then b else a

def maxF (f : FloatFmt) (a b : Nat) : Nat :=
  let x := unpackF f a
  let y := unpackF f b
  if isNan x && isNan y then f.nanBits else if isNan x then b else if isNan y then a
  else if belowV x y then b else a

def addF (f : FloatFmt) (r : RMode) (a b : Nat) : Nat := packF f r (addV r (unpackF f a) (unpackF f b))
def subF (f : FloatFmt) (r : RMode) (a b : Nat) : Nat := packF f r (addV r (unpackF f a) (negV (unpackF f b)))
def mulF (f : FloatFmt) (r : RMode) (a b : Nat) : Nat := packF f r (mulV (unpackF f a) (unpackF f b))
def fmaF (f : FloatFmt) (r : RMode) (a b c : Nat) : Nat :=
  packF f r (addV r (mulV (unpackF f a) (unpackF f b)) (unpackF f c))

/-- Rounding to an integral value, as an exact integer and the sign of the source (R308, R312). -/
def roundInt (r : RMode) (s : Bool) (m : Nat) (e : Int) : Nat :=
  if 0 ≤ e then m * 2 ^ e.toNat
  else
    let sh := (-e).toNat
    let kept := m / 2 ^ sh
    if roundsUp r s kept (m % 2 ^ sh) sh false then kept + 1 else kept

/-- FRND (R308). -/
def frndF (f : FloatFmt) (r : RMode) (a : Nat) : Nat :=
  match unpackF f a with
  | .nan => f.nanBits
  | .inf _ => a
  | .fin s m e => packF f r (.fin s (roundInt r s m e) 0)

/-- Float to integer (R238, R312): the result at width `w`, and whether it saturated or was a NaN. -/
def toIntF (f : FloatFmt) (r : RMode) (signed : Bool) (w a : Nat) : Nat × Bool :=
  match unpackF f a with
  | .nan => (0, true)
  | .inf s => (wrapTo w (if s then minOf signed w else maxOf signed w), true)
  | .fin s m e =>
    let n : Int := roundInt r s m e
    let v := if s then -n else n
    (wrapTo w (clampTo signed w v), clampTo signed w v != v)

/-- Integer to float (R312). -/
def ofIntF (f : FloatFmt) (r : RMode) (v : Int) : Nat :=
  if v = 0 then 0 else packF f r (.fin (decide (v < 0)) v.natAbs 0)

/-- FSETP conditions (R306). -/
def floatCond (c : Nat) (x y : FVal) : Bool :=
  let un := isNan x || isNan y
  let o := !un
  match c with
  | 0 => o && cmpV x y == 0
  | 1 => o && cmpV x y != 0
  | 2 => o && cmpV x y < 0
  | 3 => o && cmpV x y ≤ 0
  | 4 => o && cmpV x y > 0
  | 5 => o && cmpV x y ≥ 0
  | 6 => o
  | 7 => un
  | 8 => un || cmpV x y == 0
  | 9 => un || cmpV x y != 0
  | 10 => un || cmpV x y < 0
  | 11 => un || cmpV x y ≤ 0
  | 12 => un || cmpV x y > 0
  | _ => un || cmpV x y ≥ 0

/-- The class bit of a bit pattern (R307). -/
def classBit (f : FloatFmt) (n : Nat) : Nat :=
  let s := n / 2 ^ (f.eb + f.fb) % 2 == 1
  let e := n / 2 ^ f.fb % 2 ^ f.eb
  let m := n % 2 ^ f.fb
  if e = 2 ^ f.eb - 1 then
    if m = 0 then (if s then 2 else 9) else if m / 2 ^ (f.fb - 1) % 2 == 1 then 1 else 0
  else if e = 0 then
    if m = 0 then (if s then 5 else 6) else (if s then 4 else 7)
  else (if s then 3 else 8)

/-- Exact sum of a list (R246): a NaN term or opposite infinities give NaN; an exact zero is −0 only when every term is −0. -/
def sumV (xs : List FVal) : FVal :=
  if xs.any isNan then .nan
  else
    let pinf := xs.contains (.inf false)
    let ninf := xs.contains (.inf true)
    if pinf && ninf then .nan else if pinf then .inf false else if ninf then .inf true
    else
      let q := xs.foldl (fun a v => match v with | .fin _ _ e => min a e | _ => a) 0
      let t := xs.foldl (fun a v => match v with | .fin s m e => a + scaledInt s m e q | _ => a) (0 : Int)
      if t = 0 then .fin (xs.all (fun v => match v with | .fin s m _ => s && m == 0 | _ => false) && !xs.isEmpty) 0 q
      else .fin (decide (t < 0)) t.natAbs q

end Sys2Proof.Machine
end

