-- ==== Sys2Proof/Machine/Map.lean ====
section
/-! DEFINITION. Reading and writing the association lists that hold sparse state. -/

namespace Sys2Proof.Machine

/-- The value at a key. -/
def look {α : Type} (m : AMap α) (k : Nat) : Option α :=
  match m with
  | [] => none
  | (j, x) :: r => if j = k then some x else look r k

/-- The value at a key, or the default. -/
def lookD {α : Type} (m : AMap α) (k : Nat) (d : α) : α := (look m k).getD d

/-- Writing a key; keys stay in rising order. -/
def put {α : Type} (m : AMap α) (k : Nat) (x : α) : AMap α :=
  match m with
  | [] => [(k, x)]
  | (j, y) :: r => if k < j then (k, x) :: (j, y) :: r else if k = j then (k, x) :: r else (j, y) :: put r k x

/-- Removing a key. -/
def del {α : Type} (m : AMap α) (k : Nat) : AMap α := m.filter (fun e => e.1 != k)

/-- Writing a key whose default is never listed. -/
def putD {α : Type} [DecidableEq α] (m : AMap α) (k : Nat) (d x : α) : AMap α := if x = d then del m k else put m k x

/-- Changing the value at a key that is present. -/
def alter {α : Type} (m : AMap α) (k : Nat) (f : α → α) : AMap α := m.map (fun e => if e.1 = k then (e.1, f e.2) else e)

/-- The keys. -/
def keysOf {α : Type} (m : AMap α) : List Nat := m.map (·.1)

/-- The lowest number that is no key, among the first `n`. -/
def freeKey {α : Type} (m : AMap α) (n : Nat) : Option Nat := (List.range n).find? (fun k => (look m k).isNone)

end Sys2Proof.Machine
end

