-- ==== Sys2Proof/Machine/State.lean ====
section
/-! DEFINITION. The state of the package as plain data, and its value right after package reset.
Every default below is the value at package reset, unless the field's docstring says otherwise. Sparse parts are
association lists (`AMap`): an absent key stands for the value named in the docstring. -/

namespace Sys2Proof.Machine

/-- Why the machine stops with a fault. The spec's own faults are all next states (traps, parks, records, kills). -/
inductive Fault where
  /-- Raised by the meaning of a lane instruction executed while no frontier entry is issuing (the model's own
  cursor is empty). No step of the machine does so: `step` sets the cursor. Safe. -/
  | noIssuer
  deriving DecidableEq, Repr

/-- Why the machine gives no meaning. -/
inductive Refusal where
  /-- Raised by an arm of `exec` whose instruction has no meaning yet. Safe. -/
  | notModelled (mnemonic : String)
  deriving DecidableEq, Repr

/-! ### Groups, teams and the frontier -/

/-- The STATE of a frontier entry (R19), codes 0 to 4. -/
inductive EntryState where
  | ready | parkedFault | parkedRemote | waitingBarrier | waitingJoin
  deriving DecidableEq, Repr

/-- What else keeps an entry from issuing, or what it waits for. -/
inductive Hold where
  | none
  /-- after YIELD: the slots of its scheduler that the offer has not yet passed (R278) -/
  | yielded (slots : List Nat)
  /-- operations whose acceptance, answer or refusal is awaited, so that a fault of them is precise (R31): MSTG, MCLOSE, PUSHF,
  POPF, MOPEN, MABORT, LAUNCH and the load of a scale window -/
  | accept (ops : List Nat)
  /-- the lanes of a watched access until its operations have performed, and the addresses that WATCH then reports: TADDR, of the lowest
  lane (R32, R350), and a record's ADDR, the lowest of all (R404) -/
  | watch (ops : List Nat) (addr low : Word)
  /-- VCKPT in a soft stage (R198) -/
  | checkpoint
  /-- a translation or a write check at the host agent, by REQID (R171, R172) -/
  | host (req : Nat)
  /-- waiting at barrier b for generation g (R28); barrier 16 is the one of CBAR (R29) -/
  | barrier (b gen : Nat)
  /-- RLD, GETF, MSTAT: the operation that answers (R26, R367) -/
  | remote (op : Nat)
  /-- a page marked MIG (R179) or an uncollapsed piece (R175): the IPA -/
  | page (ipa : Nat)
  /-- parked at a fence by a refused write-back (R230): the operation -/
  | fence (op : Nat)
  /-- TRET issued, waiting for the other lanes of the handler (R381) -/
  | tret
  /-- trapped while the group's handler was in service: no record, reissues when TRET completes (R33) -/
  | service
  /-- several of the last three kinds of lanes in one entry, which wait on no record: pages, and the end of a service (R19) -/
  | noRecord (pages : List Nat) (service : Bool)
  deriving DecidableEq, Repr

/-- The pages that a parked entry waits for, and whether it waits for the end of a service. -/
def Hold.pages : Hold → List Nat
  | .page ipa => [ipa]
  | .noRecord ps _ => ps
  | _ => []

def Hold.served : Hold → Bool
  | .service => true
  | .noRecord _ b => b
  | _ => false

/-- A parked entry waits on no fault record. -/
def Hold.unrecorded (h : Hold) : Bool := !h.pages.isEmpty || h.served

/-- A ready entry waits for nothing but its turn: it may have yielded, which changes no STATE (R278). -/
def Hold.idle : Hold → Bool
  | .none => true
  | .yielded _ => true
  | _ => false

/-- Two waits are one to R19: they are equal, they belong to STATE ready, or they are waits on no record. -/
def Hold.joins (a b : Hold) : Bool := a == b || (a.idle && b.idle) || (a.unrecorded && b.unrecorded)

/-- The wait of a merged entry: of two yields what both still wait for, and no yield beside lanes that are eligible (R278; DEDUCED, log 11);
whatever ends one of several waits on no record lets all lanes try again. -/
def Hold.join (a b : Hold) : Hold :=
  if a == b then a
  else
    match a, b with
    | .yielded l, .yielded l' => let r := l.filter l'.contains; if r.isEmpty then .none else .yielded r
    | _, _ => if a.idle then .none else .noRecord (a.pages ++ b.pages).eraseDups (a.served || b.served)

/-- What the sluice refused to an entry: the vacate class, the bytes moved, the names released and written (with uniform form), and the
change in save bytes beside them (R193, R194). -/
structure Asked where
  cls : Nat
  bytes : Nat
  rel : List Nat
  dst : List (Nat × Bool)
  ds : Int
  deriving DecidableEq, Repr

/-- A frontier entry (R19). -/
structure Entry where
  mask : Mask
  pc : Word
  pri : BitVec 8 := 0
  st : EntryState := .ready
  /-- flag A and flag B: number and valid bit -/
  fa : BitVec 4 := 0
  fav : Bool := false
  fb : BitVec 4 := 0
  fbv : Bool := false
  age : BitVec 6 := 0
  /-- AGED and ORD: the place in the aged order, none when not aged (R22) -/
  aged : Option Nat := none
  /-- body instructions left in the clause; 0 when `pc` is a header (R18, R260) -/
  left : Nat := 0
  /-- the fault record a parked-fault entry waits on (R131); 0 is none -/
  token : Word := 0
  hold : Hold := .none
  /-- CCYC at the first of the consecutive cycles in which the sluice has refused the entry (R194), none while it does not;
  whether the attempt that is under way was refused -/
  stall : Option Word := none
  again : Bool := false
  /-- VSTALLMAX as the refusal found it (R68), what was refused at the latest, and its active lanes -/
  limit : Nat := 0
  asked : Option Asked := none
  refusedLanes : Mask := 0
  /-- the lanes fell through a pad parcel at PC − 4 that is still to be checked (R260) -/
  pad : Bool := false
  /-- bytes of the instruction at PC, while the entry waits there to go past it: JOIN, RLD, GETF, MSTAT (R26, R27) -/
  skip : Nat := 0
  /-- keeps priority 255 in place of the PRI of the header at TRAPH (R31) -/
  keep : Bool := false
  deriving DecidableEq, Repr

/-- The form and contents of a mapped vector register name (R40). An unmapped name is absent. -/
inductive VReg where
  | uni (x : Word)
  /-- the 32 lanes, lane 0 first; a lane beyond the list reads 0 -/
  | full (xs : List Word)
  deriving DecidableEq, Repr

/-- A trap in handler service (R31, R33, R381): what its lanes had at the trap, and the lanes that have issued TRET. -/
structure Service where
  pri : BitVec 8
  fa : BitVec 4
  fav : Bool
  fb : BitVec 4
  fbv : Bool
  left : Nat
  done : Mask := 0
  deriving DecidableEq, Repr

/-- A scale window descriptor loaded by SETSR of SCLWIN (R58). -/
structure Window where
  eb : Word
  sb : Word
  elen : Word
  deriving DecidableEq, Repr

/-- A vector name whose asynchronous result is still to come (R45, R360): the operation, the flag whose return to 0 ends
it (none: the operation's completion ends it), whether an early write has left its value undefined, the PC and the lanes of the
instruction, by which a replay of it is known (R406), and the D base when it is a matrix operation's (R360). -/
structure Pend where
  name : Nat
  op : Nat
  flag : Option Nat := none
  spoiled : Bool := false
  pc : Option Word := none
  lanes : Mask := 0xFFFF_FFFF
  acc : Option Nat := none
  deriving DecidableEq, Repr

/-- The program-visible state of a group (R37, R53, R354). -/
structure Group where
  /-- unique number of the team, and index of the group in it -/
  uid : Nat
  gid : Nat
  /-- local number of the team on its core -/
  team : Nat
  ctx : BitVec 10
  entries : List Entry
  exited : Mask := 0
  /-- v0 to v127; an absent name is unmapped -/
  v : AMap VReg := []
  /-- s0 to s63; absent is 0 -/
  s : AMap Word := []
  /-- poisoned lanes of vector names, and poisoned uniform registers (R94) -/
  badV : AMap Mask := []
  badS : List Nat := []
  /-- p0 to p6; absent is 0 -/
  p : AMap Mask := []
  /-- f0 to f11, 0 to 63; absent is 0 -/
  f : AMap Nat := []
  vmode : BitVec 1 := 0
  trapen : BitVec 2 := 0
  /-- ASTAT.SAT and ASTAT.DIV (R55) -/
  astat : Word := 0
  tcause : BitVec 16 := 0
  taddr : Word := 0
  tpc : Word := 0
  tlanes : Mask := 0
  service : Option Service := none
  sclwin : Word := 0
  window : Option Window := none
  sclwins : Word := 0
  rngkey : Word := 0
  rngctr : Word := 0
  /-- WATCH0 to WATCH3 (R59); absent is 0 -/
  watch : AMap Word := []
  watchcfg : Word := 0
  /-- WMASK0 to WMASK3; absent is 0 -/
  wmask : AMap Mask := []
  mfmt : BitVec 16 := 0
  /-- vector names with a result to come -/
  pend : List Pend := []
  /-- the group has issued its first instruction (R35) -/
  begun : Bool := false
  deriving DecidableEq, Repr

/-- A numbered team barrier (R28). -/
structure Barrier where
  gen : Nat := 0
  arrived : Nat := 0
  /-- the expected count the first arrival named; none is the number of non-exited lanes -/
  expect : Option Nat := none
  /-- an arrival of this generation has been seen -/
  open_ : Bool := false
  deriving DecidableEq, Repr

/-- A team's copy channel (R123): CWP bits 62:0, STOP. The queued copies are operations of the core. -/
structure Channel where
  pos : Nat := 0
  stop : Bool := false
  deriving DecidableEq, Repr

/-- The states of a team (R35). -/
inductive TeamState where
  | placed | running | draining | saved | flushed | done | killed
  deriving DecidableEq, Repr

/-- A team placed on a core, or in a saved image (R9 to R16, R35). -/
structure Team where
  uid : Nat
  ctx : BitVec 10
  /-- the launch this team belongs to, its cluster's linear index, and its logical position -/
  launch : Nat
  cluster : Nat
  px : Nat
  py : Nat
  st : TeamState := .placed
  groups : Nat
  /-- SCRB and FIFOB of the launch: K is their sum -/
  scrb : Nat
  fifob : Nat
  footprint : Nat
  /-- barriers 0 to 15, and 16 for CBAR; absent is a fresh barrier -/
  bars : AMap Barrier := []
  /-- channels 0 to 7; absent is position 0 -/
  chans : AMap Channel := []
  fstat : BitVec 4 := 0
  vmeas : Word := 0
  saves : BitVec 16 := 0
  resumed : BitVec 1 := 0
  mfence : Bool := false
  /-- CCYC at placement or resume (R199) -/
  since : Word := 0
  /-- cycle of leaving in a soft stage (R198, R201) -/
  leftAt : Option Word := none
  /-- the team is being saved, or flushed, at the end of the soft stage -/
  leaving : Option Bool := none
  deriving DecidableEq, Repr

/-! ### Memories of a core -/

/-- Bank modes (R72). -/
inductive BankMode where
  | off | cache | scratch | fifo
  deriving DecidableEq, Repr

/-- One of the 40 banks of a core (R72), its scratch bytes (R82) and its FIFO queue (R83). -/
structure Bank where
  mode : BankMode
  /-- local number of the owning team, 63 the core itself -/
  owner : Nat := 63
  slot : Nat := 0
  lent : Bool := false
  home : BankMode
  /-- scratch contents as 8-byte words, 0 when absent -/
  words : AMap Word := []
  /-- FIFO head index, and its words, oldest first; occupancy is their number, the tail index head + occupancy -/
  head : Nat := 0
  queue : List Word := []
  /-- words reserved by copies issued to the slot and not yet delivered (R127) -/
  reserved : Nat := 0
  /-- poisoned words (R94): places of scratch, or of the FIFO ring -/
  bad : List Nat := []
  deriving DecidableEq, Repr

/-- A 64-byte sector of an L1 line (R78). Byte b is bits 8b + 7 to 8b of `data`. -/
structure Sector where
  valid : Bool := false
  tag : BitVec 4 := 0
  dirty : BitVec 64 := 0
  /-- STTAG dirtied the sector with a tag to write back (R348) -/
  tagDirty : Bool := false
  poison : Bool := false
  data : BitVec 512 := 0
  deriving DecidableEq, Repr

/-- Where an L1 line's bytes live: a physical line, or a line of the fabric window (R78, R160). -/
inductive LineHome where
  | phys (line : Nat)
  | fabric
  deriving DecidableEq, Repr

/-- An L1 line (R78): its context and virtual line tag, its home, four sectors, and the write-checked bit (R166). -/
structure L1Line where
  ctx : BitVec 10
  /-- virtual address of the line with bits 59:56 zero -/
  va : Word
  home : LineHome
  /-- IPA of the line (R168, R177) -/
  ipa : Nat := 0
  sectors : List Sector
  checked : Bool := false
  /-- marked for first replacement (.pass, R334) -/
  first : Bool := false
  deriving DecidableEq, Repr

/-- A line of the instruction cache (R379): context, virtual line, 64 parcels packed, parcel 0 lowest. -/
structure ILine where
  ctx : BitVec 10
  va : Word
  data : BitVec 2048
  deriving DecidableEq, Repr

/-! ### Operations in flight -/

/-- The spaces an access reaches (R82, R84, R90, R159). -/
inductive Space where
  | hbm | host | fabric | scratch
  deriving DecidableEq, Repr

/-- One lane's access of at most 8 bytes: register offset from the destination, space, virtual address or scratch
offset, physical address, IPA (0 in scratch and the fabric window), size (0 reads the tag), sign extension, and the
data of a store or an atomic's operand. -/
structure LaneAcc where
  lane : Nat
  reg : Nat := 0
  space : Space
  va : Word
  pa : Nat
  ipa : Nat := 0
  n : Nat
  sgn : Bool := false
  data : Word := 0
  data2 : Word := 0
  deriving DecidableEq, Repr

/-- Cache paths of a load or store (R334). -/
inductive Path where
  | keep | home | pass
  deriving DecidableEq, Repr

/-- Where an operation's result goes. -/
inductive Dest where
  | none
  | v (n : Nat)
  | s (n : Nat)
  deriving DecidableEq, Repr

/-- What a fence-like operation is (R345, R346, R379, R282, R371, R372). -/
inductive FenceWhat where
  | fence (acq rel : Bool) (scope : Nat)
  | cwb (va : Word) (n : Nat)
  | cinv (va : Word) (n : Nat)
  | flush
  | icinv (scope : Nat) (va : Word) (n : Nat)
  deriving DecidableEq, Repr

/-- What an instruction with a release does once its release completes. -/
inductive After where
  | nothing
  | launch (addr : Word) (queue : Nat)
  | rst (accs : List LaneAcc)
  | ratom (op : Nat) (ty : Ty) (accs : List LaneAcc)
  | puts (addr : Word) (data : Word)
  deriving DecidableEq, Repr

/-- The kinds of operation in flight on a core. -/
inductive OpKind where
  /-- loads of every space (R332, R336, R337, R348); `window` when the result is a scale window (R378) -/
  | load (path : Path) (accs : List LaneAcc) (window : Bool)
  /-- stores of the L1 path, of scratch, and STTAG; the sectors charged in S at issue (R189, R335) -/
  | store (path : Path) (accs : List LaneAcc) (tagSet : Option Bool) (charged : Nat)
  /-- a class 1 result, by lane (R191) -/
  | vec (writes : List (Nat × Word)) (uniform : Bool)
  /-- a matrix operation (R359): wide, .z, the captured format, D base, the operand values as the sub-array reads them, the
  names of the A, B and scale spans, and whether a write to one of them has left the operands undefined (R360) -/
  | mma (wide z : Bool) (fmt : BitVec 16) (d : Nat) (av bv cv : List (List Word)) (srcs : List Nat) (poisoned : Bool)
  /-- a copy: channel, spaces, addresses, length, bytes done, start position, paused token (R341, R123) -/
  | copy (ch : Nat) (srcScratch : Bool) (dst : Nat) (sa da : Word) (len done : Nat) (paused : Option Word)
  /-- a bank switch (R75); earlier operations it waits for -/
  | bank (bankNo : Nat) (target : BankMode)
  | push (slot : Nat) (xs : List Word)
  | pop (slot : Nat)
  /-- a store at the home, or a sectored write on the port tracker (R334) -/
  | homeStore (accs : List LaneAcc) (tagSet : Option Bool)
  /-- ATOM and RED (R339) -/
  | atomic (op : Nat) (ty : Ty) (accs : List LaneAcc)
  /-- a fence (R345): the write-backs and earlier operations that it waits for, whether its write-backs have started, the
  token of a deferred fault of it that is not yet retried (0: none), and what follows -/
  | fence (what : FenceWhat) (wbs ops : List Nat) (begun : Bool) (token : Word) (after : After)
  /-- LAUNCH after its release: the record goes to the queue (R282) -/
  | launch (addr : Word) (queue : Nat)
  /-- merge stages (R103): set, generation, contributor id, polder; the combined elements still to be accepted, as lanes,
  virtual and physical address, value; and the lines whose MSTAGE packets are unanswered, with their lanes (R110) -/
  | stage (set : SetId) (gen : Nat) (id : BitVec 16) (elems : List (Mask × Word × Nat × BitVec 32)) (remote : List (Nat × Mask))
  | close (set : SetId) (gen : Nat) (id : BitVec 16)
  | mopen (addr : Word) (lane : Nat)
  | mabort (set : SetId) (gen : Nat) (id : BitVec 16)
  | mstat (set : SetId) (gen : Nat) (id : BitVec 16)
  /-- RLD and GETF: the continuations outstanding and the lanes they serve (R369, R370) -/
  | remoteRead (getf : Bool) (accs : List LaneAcc)
  /-- RATOM (R372): the lanes outstanding -/
  | remoteAtomic (op : Nat) (ty : Ty) (accs : List LaneAcc)
  /-- fabric writes and atomics without a destination on the port tracker: packets not yet answered, and their accesses
  (R371, R372, R160) -/
  | remoteWrite (left : Nat) (accs : List LaneAcc)
  /-- a remote close (R366) -/
  | remoteClose (cont : Nat)
  deriving DecidableEq, Repr

/-- An operation in flight on a core: its owner, lanes, flag, destination, charge (R191), and whether its flag has
retired, whether it is handed off (R128), and its first cycle. -/
structure Op where
  uid : Nat
  gid : Nat
  /-- the team's local number on the core, which a record names even when the team has been saved meanwhile (R128, R131) -/
  team : Nat := 0
  ctx : BitVec 10
  polder : BitVec 6
  lanes : Mask
  pc : Word
  flag : Option Nat := none
  dest : Dest := .none
  regs : Nat := 1
  eng : Nat := 0
  charge : Nat := 0
  start : Word := 0
  handed : Bool := false
  /-- a load of a saved image that is issued again: its group issues nothing until it has returned (R50, R200) -/
  reissued : Bool := false
  /-- CTXCFG.TAGMODE as the instruction found it at its issue (R68) -/
  tagmode : Nat := 0
  /-- the page of a MOPEN or of a copy that waits for a collapse or a migration (R175, R179), by IPA -/
  page : Option Nat := none
  /-- slots of a copy whose banks have changed their mode since its issue (R76) -/
  lost : List Nat := []
  /-- issued order among the operations of the core -/
  seq : Nat
  /-- packets or port tracker entries held -/
  tracker : Nat := 0
  /-- the entry as it stood at the instruction, to which its lanes return when it faults after its issue -/
  origin : Option Entry := none
  kind : OpKind
  deriving DecidableEq, Repr

/-- A write-back of a sector under way (R219): whose bytes, where, and who waits. -/
structure WriteBack where
  ctx : BitVec 10
  polder : BitVec 6
  va : Word
  home : LineHome
  ipa : Nat := 0
  mask : BitVec 64
  tag : BitVec 4
  tagDirty : Bool
  data : BitVec 512
  poison : Bool := false
  /-- fences that wait for it, by operation number -/
  waiters : List Nat := []
  /-- a fabric write-back whose WR the port tracker has taken -/
  sent : Bool := false
  /-- it was refused, and is not tried again before a RETRY (R132, R230); the tokens of the fences' records, by fence -/
  refused : Bool := false
  tokens : List (Nat × Word) := []
  /-- the bytes of a refused fabric write, which goes out again as what it was: with release, as a PUTS -/
  rel : Bool := false
  puts : Bool := false
  deriving DecidableEq, Repr

/-- A continuation entry (R143): operation, packet and lanes it serves, its cycle of sending, whether a skim was reissued. -/
structure Continuation where
  gen : BitVec 6 := 0
  used : Bool := false
  op : Nat := 0
  lanes : List LaneAcc := []
  sent : Word := 0
  /-- FTIMEOUT as the request found it (R139) -/
  limit : Nat := 0
  reissued : Bool := false
  /-- its response was trimmed, and the request is to be reissued (R151) -/
  skimmed : Bool := false
  plane : BitVec 2 := 0
  dst : BitVec 14 := 0
  line : BitVec 42 := 0
  deriving DecidableEq, Repr

/-- A vacate's stages on a core (R198, R201). -/
structure VacateStage where
  /-- CCYC at the request's arrival -/
  arrived : Word
  /-- the stages have started (R196): Lc, Gc and CCYC at their start -/
  begun : Bool := false
  lc : Nat := 0
  gc : Nat := 0
  start : Word := 0
  /-- CCYC at t_e, none while the soft stage runs -/
  te : Option Word := none
  /-- KMARGIN as the request found it (R68) -/
  margin : Nat := 0
  saving : Bool := false
  deriving DecidableEq, Repr

/-- The reuse latch of a scheduler's collector (R51): group slot, base, span and the latched values. -/
structure Latch where
  slot : Nat
  base : Nat
  span : Nat
  values : List (List Word)
  deriving DecidableEq, Repr

/-- A request that waits at a core's port for a token (R205), by what asks: an operation, a write-back, the fetch of a slot's group, or the
packet of an operation or write-back to a line of the fabric. -/
inductive PortReq where
  | op (n : Nat)
  | wb (n : Nat)
  | fetch (slot : Nat)
  | packet (op : Nat) (off : BitVec 42)
  deriving DecidableEq, Repr

/-- One core (R5, R69, R72, R78, R128, R143, R205, R212). -/
structure CoreState where
  ccyc : Word := 0
  /-- banks 0 to 39; an absent bank is as after core reset (R72) -/
  banks : AMap Bank := []
  /-- placed teams by local number, and groups by slot: scheduler q has slots 8q to 8q + 7 -/
  teams : AMap Team := []
  groups : AMap Group := []
  /-- L1 lines by bank × 128 + set -/
  l1 : AMap L1Line := []
  icache : List ILine := []
  mhz : BitVec 11 := 1500
  /-- the clock of a pending lowering (R71) -/
  lowering : Option (BitVec 11) := none
  suba : BitVec 4 := 0
  /-- a self-test request not yet in effect (R192) -/
  fenceReq : Option (BitVec 2) := none
  /-- VBND of each valid slot (R69); absent is 0 -/
  vbnd : AMap Word := []
  /-- operations in flight, by number, and the next number -/
  ops : AMap Op := []
  nextOp : Nat := 1
  /-- write-backs on their way: started by a fence, refused, or of fabric lines that have left the L1 (R219, R230) -/
  wbs : AMap WriteBack := []
  nextWb : Nat := 0
  conts : AMap Continuation := []
  /-- the slot of each scheduler that issued last (R20); absent is 7: DESIGN CHOICE, log 3 -/
  last : AMap Nat := []
  /-- the reuse latch of each scheduler -/
  latches : AMap Latch := []
  /-- vacate stages by context, in the order of arrival (R196) -/
  vacates : List (Nat × VacateStage) := []
  /-- a team's completion has left the core with none: the border controller looks at it (R122) -/
  idled : Bool := false
  tok : BitVec 18 := 0
  rTok : BitVec 17 := 0
  /-- tokens of sectors that have gone while the bucket was short: the next refills pay for them first, log 23 -/
  owed : Nat := 0
  /-- the cycle of the last refill (R205) -/
  refillAt : Word := 0
  /-- the requests that wait at the port for a token, oldest first, each with its context (R205); the port took a token in this interval; a
  request waited in it (R206, R207, R212) -/
  waits : List (BitVec 10 × PortReq) := []
  took : Bool := false
  dry : Bool := false
  pmcfg : Word := 0
  pmfilt : Word := 0
  pmc : AMap (BitVec 48) := []
  deriving DecidableEq, Repr

/-! ### Contexts, polders and launches -/

/-- A launch queue of a context (R116, R117): its records as accepted, oldest first, and its counters. -/
structure LaunchQueue where
  records : List (Nat × BitVec 1024 × Nat) := []
  next : Nat := 0
  /-- sequence numbers completed or retired beyond QDONE -/
  finished : List Nat := []
  qdone : Word := 0
  seq : BitVec 32 := 0
  ovf : BitVec 1 := 0
  status : BitVec 8 := 0
  deriving DecidableEq, Repr

/-- A launch being dispatched or running (R34): its record, the next cluster to place, teams outstanding. -/
structure Launch where
  ctx : BitVec 10
  queue : Nat
  seq : Nat
  record : BitVec 1024
  accepted : Nat
  nextCluster : Nat := 0
  outstanding : Nat := 0
  /-- cores that ran a team of it (R120) -/
  cores : List Nat := []
  /-- teams flushed and to be placed again (R119): cluster index and logical position -/
  flushed : List (Nat × Nat × Nat) := []
  /-- the context was killed before every cluster was placed -/
  cut : Bool := false
  /-- bytes, by physical address and number, that have been written while a team of it had still to start (R14) -/
  changed : List (Nat × Nat) := []
  deriving DecidableEq, Repr

/-- A fault record as written (R131): 64 bytes, byte 0 lowest, PHASE not yet set. -/
abbrev RecordBytes := BitVec 512

/-- An invalidation that the host has asked for (R171, R172): first page, pages (0: the whole context), REQID and the CONTEXT field. -/
structure XlInv where
  va : Word
  n : Word
  req : BitVec 32
  context : BitVec 16
  /-- the die of the port by which it came in (log 30) -/
  die : BitVec 2 := 0
  deriving DecidableEq, Repr

/-- A context descriptor (R67, R117, R129, R168, R197, R211). -/
structure Ctx where
  ctxcfg : Word := 0
  cs1root : Word := 0
  cbound : BitVec 32 := 0
  kmargin : BitVec 16 := 4096
  vstallmax : BitVec 32 := 65536
  q : BitVec 16 := 256
  saves : BitVec 32 := 0
  cfrq : Word := 0
  prod : BitVec 31 := 0
  cons : BitVec 31 := 0
  held : List RecordBytes := []
  queues : AMap LaunchQueue := []
  tlbiBusy : Bool := false
  tlbiScope : BitVec 2 := 0
  tlbiAddr : BitVec 44 := 0
  /-- an invalidation asked for by the host that is under way -/
  xlinv : Option XlInv := none
  cvgrace : BitVec 32 := 0
  busy : Bool := false
  phase : BitVec 3 := 0
  measns : BitVec 32 := 0
  hold : Bool := false
  /-- LNS of the vacate in progress, and cores whose stages have not ended -/
  lns : BitVec 32 := 0
  pending : List Nat := []
  tagTrapped : BitVec 32 := 0
  tagReported : BitVec 32 := 0
  watchHits : BitVec 32 := 0
  satEv : BitVec 32 := 0
  divEv : BitVec 32 := 0
  vneverEv : BitVec 32 := 0
  vbtEv : BitVec 32 := 0
  deriving DecidableEq, Repr

/-- A polder block (R63, R121, R129, R133, R168, R176, R207), its tombstone (R153) and its flow key (R156). -/
structure Polder where
  pcfg : Word := 0
  pberm : Word := 0
  psend : BitVec 32 := 0
  ps2root : Word := 0
  /-- the cores the polder owns (PCORES0 to PCORES4) -/
  cores : BitVec 320 := 0
  psvc : Word := 0
  pfrq : Word := 0
  prod : BitVec 31 := 0
  cons : BitVec 31 := 0
  held : List RecordBytes := []
  pdlog : Word := 0
  logOverflow : Bool := false
  logProd : BitVec 31 := 0
  logCons : BitVec 31 := 0
  tlbiBusy : Bool := false
  tlbiScope : BitVec 2 := 0
  tlbiAddr : BitVec 44 := 0
  psplit : Word := 0
  pflowcfg : Word := 0x0000_0080_0040_0004
  /-- PTOKd and POCCd of the four dies, PRATEp of the sixteen ports; absent is the reset value -/
  ptok : AMap Word := []
  pocc : AMap Word := []
  prate : AMap (BitVec 14) := []
  /-- intervals without a token on a die, and sectors that its memory controllers have served in the running one (R206) -/
  quiet : AMap Nat := []
  served : AMap Nat := []
  /-- flits sent in the running interval of a port, and whether it was marked (R208) -/
  sent : AMap Nat := []
  marked : AMap Bool := []
  /-- the tombstone's remaining fabric cycles while V = 1 (R153) -/
  tomb : Option Nat := none
  /-- the flow key of sealed flows, none before firmware or the host installs one; log 3 -/
  flowKey : Option Word := none
  sealCtr : AMap Word := []
  deriving DecidableEq, Repr

/-- A saved team (R36, R88, R89): the team, its groups, its banks by slot, paused copies and parked fences, and
whether its image lies in the spillway or in the save frame area. -/
structure SavedTeam where
  team : Team
  groups : List (Nat × Group)
  banks : List (Nat × Bank)
  ops : List Op
  /-- refused write-backs that its parked fences wait for, by number on the core that it left (R200, R230) -/
  wbs : List (Nat × WriteBack) := []
  die : BitVec 2
  chunks : Nat
  inSpillway : Bool := true
  order : Nat
  deriving DecidableEq, Repr

/-! ### Merge sets -/

/-- The states of a contributor (R101), codes 0 to 6. -/
inductive ContribState where
  | idle | staging | closed | measured | committed | rejected | aborted
  deriving DecidableEq, Repr

/-- A contributor record (R101), and what the coordinator knows: partial sums that have arrived by slice, whether it
is marked for rejection (R409). -/
structure Contrib where
  st : ContribState := .idle
  seq : Option Nat := none
  scale : BitVec 32 := 0
  marked : Bool := false
  partials : AMap Word := []
  /-- slices whose measure request is still on its way -/
  asked : List Nat := []
  /-- the context of this node whose stage claimed the slot (R113) -/
  claimedBy : Option Nat := none
  deriving DecidableEq, Repr

/-- The states of a set as MSTAT shows them (R114). -/
inductive SetState where
  | stale | opened | complete | aborted
  deriving DecidableEq, Repr

/-- A set record with its berm lines (R95, R98 to R109). -/
structure MergeSet where
  gen : BitVec 31 := 0
  st : SetState := .stale
  polder : BitVec 6 := 0
  ctx : BitVec 10 := 0
  /-- physical lines of T, in order of virtual address, and their IPAs -/
  lines : List Nat := []
  ipas : List Nat := []
  lambda : BitVec 32 := 0
  expect : Nat := 0
  width : Nat := 1
  rank : Bool := false
  /-- physical address and IPA of the signal word -/
  signal : Nat := 0
  signalIpa : Nat := 0
  contribs : AMap Contrib := []
  /-- holder of each slot -/
  slots : AMap Nat := []
  /-- staged values: slot, then physical address of the element -/
  berms : AMap (AMap (BitVec 32)) := []
  /-- slots that hold a poisoned value (R94) -/
  badSlots : List Nat := []
  /-- commits issued, in sequence order: id and scale; and how many each slice has applied -/
  commits : List (Nat × BitVec 32) := []
  applied : AMap Nat := []
  /-- retirements in order whose signal update is still to be made: id, and whether it committed -/
  signals : List (Nat × Bool) := []
  /-- order in which contributors became MEASURED (ARRIVAL mode) -/
  measured : List Nat := []
  /-- an abort of the whole set waits for commits already issued -/
  aborting : Bool := false
  /-- when the record last became COMPLETE or ABORTED, for reuse (R98) -/
  ended : Nat := 0
  deriving DecidableEq, Repr

/-! ### Dies, quartets, fabric -/

/-- A line as an L2 slice holds it (R86, R91, R94): its bytes, the tag of each of its four sectors, and the sectors that are poisoned. -/
structure LineCopy where
  data : BitVec 2048
  tags : BitVec 16 := 0
  poison : BitVec 4 := 0
  deriving DecidableEq, Repr

/-- Who made a write of HBM that is on a die-to-die link: core, context, polder, virtual address and IPA. CWB, FLUSH and invalidations wait
for it by these (R169, R228). -/
structure Origin where
  core : Nat
  ctx : BitVec 10
  polder : BitVec 6
  va : Word := 0
  ipa : Nat := 0
  deriving DecidableEq, Repr

/-- A message on a die-to-die link (R209, R224): a stamped write, a notice, a settle, an atomic, the line that an atomic has left, or
an atomic's reply. -/
inductive LinkMsg where
  /-- source die of the write, stamp, first address, mask of the bytes from it on within the line, data, tag, update mask, whether
  the bytes are poisoned (R94), and who made it -/
  | write (w : BitVec 2) (stamp : List Word) (pa : Nat) (mask : BitVec 256) (data : BitVec 2048) (tag : Option (BitVec 4)) (upd : BitVec 4)
    (bad : Bool) (org : Option Origin)
  | notice (w : BitVec 2) (stamp : List Word)
  /-- home, its clock, the line, and the write that the settle brings to a die that got no update of it: its die and own stamp (R224) -/
  | settle (home : BitVec 2) (clock : List Word) (line : Nat) (x : LineCopy) (cause : Option (BitVec 2 × Word))
  /-- an atomic for its home: stamp, address, issuing core and operation, its lanes, and who made it -/
  | atomic (w : BitVec 2) (stamp : List Word) (pa core op : Nat) (accs : List LaneAcc) (org : Option Origin)
  /-- the line that an atomic of die `w` has left at its home: an update for a sharer, with the atomic's stamp -/
  | update (w : BitVec 2) (stamp : List Word) (line : Nat) (x : LineCopy)
  /-- the reply of an atomic: the line, and the old values of its lanes -/
  | reply (home : BitVec 2) (pa core op : Nat) (vals : List (Nat × Word)) (x : LineCopy)
  deriving DecidableEq, Repr

/-- A page heat table entry (R177). -/
structure Heat where
  polder : BitVec 6
  page : BitVec 40
  written : Bool := false
  counts : List Nat
  deriving DecidableEq, Repr

/-- A TLB entry of a quartet (R167). `size` is 0 for 4 KiB, 1 for 64 KiB, 2 for 2 MiB, 3 for 1 GiB. -/
structure TlbEntry where
  ctx : BitVec 10
  upper : Bool
  va : Word
  size : Nat
  ipa : Nat
  pa : Nat
  w : Bool
  x : Bool
  dirty : Bool
  rdup : Bool
  mig : Bool := false
  deriving DecidableEq, Repr

/-- A lower-half request to the host translation agent (R171): who waits, and the page. -/
structure XlReq where
  core : Nat
  ctx : BitVec 10
  va : Word
  acc : BitVec 8
  sent : Word
  /-- FTIMEOUT as the request found it (R139) -/
  limit : Nat := 0
  /-- an XLINV covered the page meanwhile (R172) -/
  stale : Bool := false
  /-- the answer, kept for the access that asked: page IPA, size, W and X, or a failed status -/
  answer : Option (Nat × Nat × Bool × Bool × BitVec 8) := none
  timedOut : Bool := false
  deriving DecidableEq, Repr

/-- One compute and base die (R86, R88, R177, R209, R419). -/
structure Die where
  /-- the vector clock VC_d, four entries -/
  vc : List Word := [0, 0, 0, 0]
  /-- copies of lines homed on other dies -/
  copies : AMap LineCopy := []
  /-- lines of other dies with an atomic of this die whose reply is still to come: its later accesses to them wait (R209) -/
  awaiting : List Nat := []
  /-- own-entry stamps of this die's latest write to a line (R224) -/
  own : AMap Word := []
  /-- messages on the link from each source die, and those held -/
  link : AMap (List LinkMsg) := []
  held : AMap (List LinkMsg) := []
  heat : AMap Heat := []
  bstat : Word := 0
  meas : AMap (BitVec 512) := []
  attnonce : BitVec 256 := 0
  attBusy : Bool := false
  attDone : Bool := false
  attOff : BitVec 14 := 0
  /-- ATTNONCE and MEAS as read at GO (R420) -/
  attGo : BitVec 256 × List (BitVec 512) := (0, [])
  /-- OFFSET as written with GO -/
  attGoOff : BitVec 14 := 0
  /-- the master that asked for the report (R420) -/
  attBy : Nat := 0
  /-- a byte of the report's place has been written since GO (R420) -/
  attSpoiled : Bool := false
  /-- base-die cycles since package reset, and the cycle in which the running epoch began (R178) -/
  cyc : Word := 0
  epochAt : Word := 0
  /-- the cycle in which the running interval of its token pool began (R206) -/
  flowAt : Word := 0
  deriving DecidableEq, Repr

/-- What a line's home keeps for its sharers (R86, R224). -/
structure LineShare where
  sharers : BitVec 4 := 0
  lastDie : BitVec 2 := 0
  lastCnt : Word := 0
  deriving DecidableEq, Repr

/-- An export table entry (R183): the four words as stored. -/
structure ExportEntry where
  base : Word := 0
  len : Word := 0
  ipa : Word := 0
  attrs : Word := 0
  deriving DecidableEq, Repr

/-- A received packet that has still to perform (R102, R147, R148): the number of gaps recorded before it, whether it arrived behind a gap of
its source and line, and the export entry that it matched on arrival (R184). -/
structure Held where
  pkt : Packet
  seq : Nat
  behind : Bool := false
  entry : Option (Nat × ExportEntry) := none
  /-- the gap that the packet fills, of a refill -/
  gap : Option Nat := none
  deriving DecidableEq, Repr

/-- A retained packet of a source (R142), with the port tracker operation it belongs to. -/
structure Retained where
  pkt : Packet
  core : Nat
  op : Nat
  /-- acknowledged GAP or HELD (received, R141) -/
  received : Bool := false
  /-- a write-back it carries -/
  wb : Option Nat := none
  /-- answered REJECT and to be resent (R150) -/
  resend : Bool := false
  sentAt : Word := 0
  limit : Nat := 0
  deriving DecidableEq, Repr

/-- A receive window entry (R141, R150). `early` holds tags received ahead of NEXT. -/
structure RxWindow where
  next : BitVec 12 := 0
  early : List (BitVec 12) := []
  block : Bool := false
  btag : BitVec 12 := 0
  deriving DecidableEq, Repr

/-- A gap list entry (R145). STATE is 1 or 2; a free entry is absent. -/
structure Gap where
  src : BitVec 14
  plane : BitVec 2
  stag : BitVec 12
  polder : BitVec 6
  requested : Bool := false
  kind : BitVec 8
  len : BitVec 3
  age : Nat := 0
  /-- FTIMEOUT as its recording found it (R139) -/
  limit : Nat := 0
  line : BitVec 34
  /-- order of recording -/
  seq : Nat
  /-- a refill that arrived before every lower tag (R147), and the export entry it matched -/
  refill : Option (Packet × Option (Nat × ExportEntry)) := none
  /-- the die of the port by which the skim came in (log 30) -/
  die : BitVec 2 := 0
  /-- its refill is applied and has still to perform: it is among the held packets (R147) -/
  filled : Bool := false
  deriving DecidableEq, Repr

/-- A fabric port and the egress queue of the switch behind it (R138, R139, R144, R154, R158). -/
structure Port where
  down : Bool := false
  halt : Bool := false
  nextKey : Bool := false
  counter : Nat := 0
  control : Nat := 0
  /-- the number of the link's key: how often it has changed (R154) -/
  keyNo : Nat := 0
  /-- data flits and polder flits in the egress queue -/
  queue : List Packet := []
  /-- packets waiting at the source side of the port -/
  waiting : List (Packet × Nat × Nat) := []
  /-- credits used of class 0, class 1, class 2, class 3 -/
  used : AMap Nat := []
  /-- flits that classes 2 and 3 are ahead in the 1:3 round with class 1, and the one of them that went last (R138). After reset classes
  2 and 3 go before class 1, and class 2 before class 3: DESIGN CHOICE, log 3 -/
  turnFlits : Nat := 0
  lastData : BitVec 2 := 3
  /-- the fabric cycle in which the running interval of its rate controllers began (R208) -/
  rateAt : Word := 0
  /-- packets that have left the port, latest first, and their flits as the link carries them (R154) -/
  sent : List Packet := []
  wire : List (List (BitVec 512)) := []
  /-- fabric cycles without an accepted flit while traffic waited, and since HALT was set; each with DEADT as its beginning found it (R139,
  R140, R155) -/
  idle : Nat := 0
  idleLimit : Nat := 0
  haltFor : Nat := 0
  haltLimit : Nat := 0
  deriving DecidableEq, Repr

/-- A combining record of the integrated switch (R157). -/
structure Combine where
  addr : BitVec 42
  dst : BitVec 14
  polder : BitVec 6
  members : List Packet
  deriving DecidableEq, Repr

/-- The fabric side of the node (R139 to R158). -/
structure Fabric where
  fplane : Word := 0x00E4
  deadt : BitVec 24 := 65536
  ftimeout : BitVec 24 := 0x10_0000
  ftrim : Word := 0x2040_80C0
  /-- node number of this package, set when links are trained; log 3 -/
  node : BitVec 14 := 0
  ports : AMap Port := []
  /-- next send tag by destination, plane and class -/
  tags : AMap (BitVec 12) := []
  retained : List Retained := []
  windows : AMap RxWindow := []
  gaps : AMap Gap := []
  gapSeq : Nat := 0
  /-- received packets that have still to perform, in order of arrival; those of one source and line in the order of their tags -/
  held : List Held := []
  /-- invalidations of the host that wait for an earlier one (R172) -/
  waiting : List Packet := []
  /-- fabric cycles since the last refill request to a source, and RGAP as that request found it (R139, R146) -/
  paced : AMap (Nat × Nat) := []
  combines : AMap Combine := []
  /-- a pending new MAP, by entry (R140) -/
  newMap : AMap (BitVec 2) := []
  cyc : Word := 0
  deriving DecidableEq, Repr

/-- The device block (R62, R139, R185, R210, R414). -/
structure Device where
  version : BitVec 32 := 0x0100_0000
  xset : BitVec 8 := 0
  dspill : Word := 640
  /-- DSPILL has been written since the package reset, which firmware does once (R416) -/
  spilled : Bool := false
  lock : Bool := false
  derrV : Bool := false
  derrOff : BitVec 24 := 0
  ppower : Word := 0
  pcap : BitVec 13 := 4600
  hostV : Bool := false
  hostNode : BitVec 14 := 0
  migcfg : Word := 0x1000_0400_0100_0014
  /-- CHARGE of each class that was written (R182); absent is the value of R190 -/
  vct : AMap (BitVec 16) := []
  /-- target access bytes by kind × 128 + master; absent is 0, or 0x0F for masters 64 and 65 (R180) -/
  tat : AMap (BitVec 8) := []
  /-- export entries; entry 0 absent is the reset value of R183, others absent are 0 -/
  expo : AMap ExportEntry := []
  /-- node counters by index (R210) -/
  counters : AMap Word := []
  deriving DecidableEq, Repr

/-- The clocks that the model's agenda advances. -/
inductive Clock where
  | core (k : Nat)
  | die (d : Nat)
  | fabric
  deriving DecidableEq, Repr

/-- What an uncorrectable error poisons (R94): a sector at its home, in a die's copy or in an L1; a word of a bank; a register;
a value in a slot of a set's berm lines. -/
inductive Where where
  | home (pa : Nat)
  | copy (d pa : Nat)
  | l1 (k key sector : Nat)
  | word (k bank word : Nat)
  | vreg (uid gid name lane : Nat)
  | sreg (uid gid name : Nat)
  | berm (key slot : Nat)
  deriving DecidableEq, Repr

/-- What the agents beside the lanes do next (log 1): an event of the opcode table, or time passing on one clock. -/
inductive Due where
  | ev (i : Instr)
  | pass (c : Clock) (n : Nat)
  /-- a check finds an error (R94): one that is corrected, or one that poisons what it names -/
  | corrected
  | poison (w : Where)
  /-- firmware releases 4 KiB frames that it has unmapped from a polder (R93) -/
  | release (polder : Nat) (frames : List Nat)
  /-- a rail comes into its range (R413) -/
  | railUp (r : Rail)
  deriving DecidableEq, Repr

/-- The frontier entry that is issuing (log 1): core, group slot, the entry's lanes, the bytes of its instruction. -/
structure Cur where
  core : Nat
  slot : Nat
  lanes : Mask
  len : Nat
  deriving DecidableEq, Repr

/-- The package. -/
structure State where
  /-- physical memory: HBM of the four dies and the four host windows (R84); an unlisted byte reads 0 (log 2) -/
  mem : List Host.Cell := []
  /-- memory tags by physical sector (R91); absent is 0 (log 2) -/
  tags : AMap (BitVec 4) := []
  /-- poisoned physical sectors (R94) -/
  poison : AMap Bool := []
  /-- the frames in quarantine (R93), each with the scrub mode of the polder that released it (R65, R66): true when the host scrubs it -/
  quar : AMap Bool := []
  dies : AMap Die := []
  shares : AMap LineShare := []
  /-- TLB entries of each quartet -/
  tlb : AMap (List TlbEntry) := []
  xlreqs : AMap XlReq := []
  nextReq : Nat := 0
  cores : AMap CoreState := []
  device : Device := {}
  polders : AMap Polder := []
  ctxs : AMap Ctx := []
  launches : AMap Launch := []
  nextLaunch : Nat := 0
  /-- next unique team number, next acceptance number, next save number, next end-of-set number -/
  nextUid : Nat := 0
  nextAccept : Nat := 0
  nextSave : Nat := 0
  nextEnd : Nat := 0
  saved : List SavedTeam := []
  sets : AMap MergeSet := []
  fabric : Fabric := {}
  /-- pages whose copy is under way: polder × 2^36 + page, with target die, replicate, and frames (R179) -/
  migrating : AMap (BitVec 2 × Bool × List (BitVec 40)) := []
  /-- the resume token counter (R131) -/
  nextToken : Word := 2
  /-- records already acted on or void are absent: token, then core or saved team, context and what to resume -/
  tokens : List (Word × Nat × Nat) := []
  /-- records of translation faults that have been forwarded to the host over the fabric, each with its polder, oldest first (R65) -/
  forwarded : List (Nat × RecordBytes) := []
  /-- rails out of their range, and package reset asserted (R413) -/
  rails : List Rail := []
  resetAsserted : Bool := false
  throttle : BitVec 4 := 0
  /-- the model's own fields: what happens next (log 1), the issuing entry, the counter of the free values (log 4),
  the core whose schedulers are offered issue next -/
  agenda : List Due := []
  cur : Option Cur := none
  /-- the instruction that was executing has issued: it was neither held nor trapped at issue -/
  issued : Bool := false
  fresh : Nat := 0
  turn : Nat := 0
  deriving DecidableEq, Repr

/-- The package right after package reset (R415): every register at its reset value, caches empty, nothing placed,
no memory listed, and nothing on the agenda. -/
def State.reset : State := {}

end Sys2Proof.Machine
end

