-- ==== Sys2Proof/Machine/Access.lean ====
section
/-! DEFINITION. The one place each part of the state is read and written through. -/

namespace Sys2Proof.Machine

def coreOf (s : State) (k : Nat) : CoreState := lookD s.cores k {}
def setCore (s : State) (k : Nat) (c : CoreState) : State := { s with cores := put s.cores k c }
def onCore (s : State) (k : Nat) (f : CoreState → CoreState) : State := setCore s k (f (coreOf s k))

def dieOf (s : State) (d : Nat) : Die := lookD s.dies d {}
def setDie (s : State) (d : Nat) (x : Die) : State := { s with dies := put s.dies d x }
def onDie (s : State) (d : Nat) (f : Die → Die) : State := setDie s d (f (dieOf s d))

def ctxOf (s : State) (c : Nat) : Ctx := lookD s.ctxs c {}
def setCtx (s : State) (c : Nat) (x : Ctx) : State := { s with ctxs := put s.ctxs c x }
def onCtx (s : State) (c : Nat) (f : Ctx → Ctx) : State := setCtx s c (f (ctxOf s c))

def polderOf (s : State) (p : Nat) : Polder := lookD s.polders p {}
def setPolder (s : State) (p : Nat) (x : Polder) : State := { s with polders := put s.polders p x }
def onPolder (s : State) (p : Nat) (f : Polder → Polder) : State := setPolder s p (f (polderOf s p))

def onDevice (s : State) (f : Device → Device) : State := { s with device := f s.device }
def onFabric (s : State) (f : Fabric → Fabric) : State := { s with fabric := f s.fabric }

/-- The number of cores (R2, R9). -/
def coreCount : Nat := 320

/-- The die of core k = DIENO × 80 + CORENO, and its number on the die. -/
def dieOfCore (k : Nat) : Nat := k / 80
def coreNo (k : Nat) : Nat := k % 80

/-- The quartet of a core: four cores of a die in the order of their numbers (R4). -/
def quartetOf (k : Nat) : Nat := k / 80 * 20 + k % 80 / 10 / 2 * 5 + k % 10 / 2

/-! ### Fields of the registers held as words -/

def Ctx.valid (c : Ctx) : Bool := bitAt c.ctxcfg.toNat 0
def Ctx.ureg (c : Ctx) : Bool := bitAt c.ctxcfg.toNat 1
def Ctx.tagmode (c : Ctx) : Nat := fieldOf c.ctxcfg 2 2
def Ctx.trapen (c : Ctx) : Nat := fieldOf c.ctxcfg 4 2
def Ctx.vmode (c : Ctx) : Nat := fieldOf c.ctxcfg 6 1
def Ctx.polder (c : Ctx) : Nat := fieldOf c.ctxcfg 12 6
def Ctx.slot (c : Ctx) : Nat := fieldOf c.ctxcfg 18 6

def Polder.state (p : Polder) : Nat := fieldOf p.pcfg 0 2
def Polder.share (p : Polder) : Nat := fieldOf p.pcfg 8 8
/-- FMODE bits 16 to 20 of PCFG (R65): set selects the host-assisted mode. -/
def Polder.hostXlfault (p : Polder) : Bool := bitAt p.pcfg.toNat 16
def Polder.hostMigrate (p : Polder) : Bool := bitAt p.pcfg.toNat 17
def Polder.hostScrub (p : Polder) : Bool := bitAt p.pcfg.toNat 18
def Polder.hostKeyrot (p : Polder) : Bool := bitAt p.pcfg.toNat 19
def Polder.hostBndconv (p : Polder) : Bool := bitAt p.pcfg.toNat 20
def Polder.owns (p : Polder) (k : Nat) : Bool := p.cores.getLsbD k

/-- The polder that owns a core: the lowest-numbered with its PCORES bit (R64 keeps it unique). -/
def ownerOf (s : State) (k : Nat) : Option Nat := (List.range 64).find? (fun p => (polderOf s p).owns k)

/-- The context in a slot of a core (R69). -/
def slotCtx (s : State) (k slot : Nat) : Option Nat :=
  match ownerOf s k with
  | none => none
  | some p => (keysOf s.ctxs).find? (fun c => let x := ctxOf s c; x.valid && x.polder == p && x.slot == slot)

/-- The context whose VEST a slot's VESTM mirrors (R69): that of the slot or, in an invalid slot, one with teams still on the core
whose CTXCFG names the slot, the lowest number first (DESIGN CHOICE, log 34). -/
def vestmCtx (s : State) (k slot : Nat) : Option Nat :=
  match slotCtx s k slot with
  | some x => some x
  | none => (keysOf s.ctxs).find? (fun c => (ctxOf s c).slot == slot && (coreOf s k).teams.any (fun t => t.2.ctx.toNat == c))

/-! ### Groups and teams of a core -/

def teamOf (c : CoreState) (t : Nat) : Option Team := look c.teams t
def groupAt (c : CoreState) (slot : Nat) : Option Group := look c.groups slot
def setGroup (c : CoreState) (slot : Nat) (g : Group) : CoreState := { c with groups := put c.groups slot g }
def setTeam (c : CoreState) (t : Nat) (x : Team) : CoreState := { c with teams := put c.teams t x }

/-- The slot and group of a team's group index on a core. -/
def findGroup (c : CoreState) (uid gid : Nat) : Option (Nat × Group) :=
  c.groups.find? (fun e => e.2.uid == uid && e.2.gid == gid)

/-- Ranges that meet. -/
def rangesMeet (a n b m : Nat) : Bool := a < b + m && b < a + n

/-- The local number and team of a unique team number on a core. -/
def findTeam (c : CoreState) (uid : Nat) : Option (Nat × Team) := c.teams.find? (fun e => e.2.uid == uid)

/-- Slots and groups of a team. -/
def teamGroups (c : CoreState) (uid : Nat) : List (Nat × Group) := c.groups.filter (fun e => e.2.uid == uid)

/-- The core that holds a team. -/
def coreOfTeam (s : State) (uid : Nat) : Option Nat :=
  (s.cores.find? (fun e => e.2.teams.any (fun t => t.2.uid == uid))).map (·.1)

/-- A change of a group wherever it lives: on its core or in its saved image. -/
def onGroup (s : State) (uid gid : Nat) (f : Group → Group) : State :=
  { s with
    cores := s.cores.map (fun e => (e.1, { e.2 with groups := e.2.groups.map (fun x =>
      if x.2.uid = uid && x.2.gid = gid then (x.1, f x.2) else x) })),
    saved := s.saved.map (fun t => { t with groups := t.groups.map (fun x =>
      if x.2.uid = uid && x.2.gid = gid then (x.1, f x.2) else x) }) }

/-- A change of a team wherever it lives. -/
def onTeam (s : State) (uid : Nat) (f : Team → Team) : State :=
  { s with
    cores := s.cores.map (fun e => (e.1, { e.2 with teams := e.2.teams.map (fun x =>
      if x.2.uid = uid then (x.1, f x.2) else x) })),
    saved := s.saved.map (fun t => if t.team.uid = uid then { t with team := f t.team } else t) }

/-- A bank as after core reset (R72). -/
def resetBank (b : Nat) : Bank :=
  if b < 20 then { mode := .cache, home := .cache } else { mode := .scratch, home := .scratch }

def bankOf (c : CoreState) (b : Nat) : Bank := lookD c.banks b (resetBank b)
def setBank (c : CoreState) (b : Nat) (x : Bank) : CoreState := { c with banks := put c.banks b x }

/-- The bank in a team's slot (R74). -/
def bankOfSlot (c : CoreState) (team slot : Nat) : Option Nat :=
  (List.range 40).find? (fun b => let x := bankOf c b; x.owner == team && x.slot == slot)

/-- The CACHE banks: the ways of the L1 (R73, R78). -/
def cacheBanks (c : CoreState) : List Nat := (List.range 40).filter (fun b => (bankOf c b).mode == .cache)

/-! ### Registers of a group -/

/-- The lane of a mapped name. -/
def VReg.lane (r : VReg) (l : Nat) : Word :=
  match r with
  | .uni x => x
  | .full xs => xs.getD l 0

/-- A vector register read at a lane; an unmapped name reads 0 (R43). -/
def vLane (g : Group) (n l : Nat) : Word :=
  match look g.v n with
  | some r => r.lane l
  | none => 0

def sReg (g : Group) (n : Nat) : Word := lookD g.s n 0
def setS (g : Group) (n : Nat) (x : Word) : Group := { g with s := putD g.s n 0 x, badS := g.badS.filter (· != n) }

/-- Predicate p7 reads all ones (R37, R47). -/
def pReg (g : Group) (n : Nat) : Mask := if n = 7 then BitVec.allOnes 32 else lookD g.p n 0
def setP (g : Group) (n : Nat) (m : Mask) : Group := if n = 7 then g else { g with p := putD g.p n 0 m }

/-- A clause flag (R37, R48). -/
def flagOf (g : Group) (n : Nat) : Nat := lookD g.f n 0
def setFlag (g : Group) (n v : Nat) : Group := { g with f := putD g.f n 0 v }

/-- The lanes of a group that have not exited. -/
def liveLanes (g : Group) : Mask := ~~~ g.exited

/-- The number of full-form names (R42). -/
def fullCount (g : Group) : Nat := (g.v.filter (fun e => match e.2 with | .full _ => true | _ => false)).length

/-- A target access byte (R180): 0x0F for masters 64 and 65, whatever is written. -/
def tatByte (s : State) (kind master : Nat) : BitVec 8 :=
  if master = 64 || master = 65 then 0x0F else lookD s.device.tat (kind * 128 + master) 0

/-- Saturating addition for counters. -/
def satAdd {w : Nat} (x : BitVec w) (n : Nat) : BitVec w := BitVec.ofNat w (min (2 ^ w - 1) (x.toNat + n))

/-- A node counter rises (R210). -/
def bumpCounter (s : State) (i n : Nat) : State :=
  onDevice s (fun d => { d with counters := putD d.counters i 0 (satAdd (lookD d.counters i 0) n) })

end Sys2Proof.Machine
end

