-- ==== Sys2Proof/Machine/Frontier.lean ====
section
/-! DEFINITION. The frontier of a group: splitting, merging, the aged order and the choice of the entry that issues
(R19 to R22). -/

namespace Sys2Proof.Machine

/-! ### Merging (R19) -/

/-- Two entries that R19 merges: equal PRI, PC and STATE, waiting on the same record or on none. STATE takes in what else the entry
waits for, whether it stands at a header or in a body, and there what the header is still to do to it (log 11). -/
def Entry.joins (a b : Entry) : Bool :=
  a.pc == b.pc && a.pri == b.pri && a.st == b.st && (a.left == 0) == (b.left == 0) && a.token == b.token && a.hold.joins b.hold &&
    (a.left != 0 || a.keep == b.keep) && a.pad == b.pad

/-- Two entries agree in their clause flags and in their place in the clause. -/
def Entry.sameClause (a b : Entry) : Bool := a.fa == b.fa && a.fav == b.fav && a.fb == b.fb && a.fbv == b.fbv && a.left == b.left

/-- The entry whose clause the merged entry is in: where the two differ, the model does not say which (log 11). -/
def Entry.clauseOf (a b : Entry) : Entry := if a.sameClause b || Config.mergeKeeps a.pc a.mask b.mask then a else b

/-- The earlier of two places in the aged order. -/
def earlierPlace (a b : Option Nat) : Option Nat :=
  match a, b with
  | some x, some y => some (min x y)
  | some x, none => some x
  | none, y => y

/-- An entry takes the smaller AGE and the earlier place of two (R19). -/
def Entry.ageWith (a b : Entry) : Entry := { a with age := if a.age ≤ b.age then a.age else b.age, aged := earlierPlace a.aged b.aged }

/-- The merged entry: the union of the masks, the smaller AGE, the earlier place. -/
def Entry.join (a b : Entry) : Entry :=
  let x := a.clauseOf b
  { a.ageWith b with
           hold := a.hold.join b.hold
           mask := a.mask ||| b.mask, fa := x.fa, fav := x.fav, fb := x.fb, fbv := x.fbv, left := x.left
           stall := if a.stall.isNone then none else b.stall, refusedLanes := a.refusedLanes ||| b.refusedLanes }

/-- An entry merges into the first entry that it joins, else it stands behind the others. -/
def mergeInto (l : List Entry) (e : Entry) : List Entry :=
  match l with
  | [] => [e]
  | a :: r => if a.joins e then a.join e :: r else a :: mergeInto r e

/-- The rank of a place among the aged entries. -/
def placeRank (l : List Entry) (n : Nat) : Nat := (l.filter (fun e => e.aged.any (· < n))).length

/-- The aged order without gaps (R19, R22). -/
def compactPlaces (l : List Entry) : List Entry := l.map (fun e => { e with aged := e.aged.map (placeRank l) })

/-- The frontier as R19 keeps it: no empty entry, no two entries that merge. -/
def normalise (l : List Entry) : List Entry :=
  compactPlaces ((l.filter (fun e => e.mask != 0)).foldl mergeInto [])

/-- A frontier is in that form. -/
def isNormal (l : List Entry) : Bool :=
  match l with
  | [] => true
  | e :: r => e.mask != 0 && r.all (fun x => !e.joins x) && isNormal r

/-! ### Splitting (R19) -/

/-- The number of aged entries: the next last place. -/
def lastPlace (l : List Entry) : Nat := (l.filter (fun e => e.aged.isSome)).length

/-- Insertion by the lowest lane. -/
def insertByLane (e : Entry) (l : List Entry) : List Entry :=
  match l with
  | [] => [e]
  | a :: r => if lowestLane e.mask ≤ lowestLane a.mask then e :: a :: r else a :: insertByLane e r

/-- The parts of a split of entry `e`: each keeps AGE and AGED; the part with the lowest lane keeps the place, and the
others take the places from `last` on in order of their lowest lanes. -/
def splitParts (last : Nat) (e : Entry) (parts : List Entry) : List Entry :=
  match e.aged with
  | none => parts
  | some n =>
    let sorted := parts.foldl (fun a p => insertByLane p a) []
    let low := lowestLane e.mask
    (sorted.foldl (fun (a : List Entry × Nat) p =>
      if inMask p.mask low then (a.1 ++ [{ p with aged := some n }], a.2)
      else (a.1 ++ [{ p with aged := some a.2 }], a.2 + 1)) ([], last)).1

/-- An entry lies inside a mask, or outside it. -/
def Entry.apart (e : Entry) (m : Mask) : Bool := e.mask &&& m == 0 || e.mask &&& ~~~ m == 0

/-- Entries that lie partly in a mask are split there (R19): none of them straddles it. -/
def splitAt (l : List Entry) (m : Mask) : List Entry :=
  (l.foldl (fun (a : List Entry × Nat) e =>
    if e.apart m then (a.1 ++ [e], a.2)
    else (a.1 ++ splitParts a.2 e [{ e with mask := e.mask &&& m }, { e with mask := e.mask &&& ~~~ m }], if e.aged.isSome then a.2 + 1 else a.2))
    ([], lastPlace l)).1

/-- An entry that lanes of others form takes their smallest AGE and their earliest place. -/
def Entry.ageOf (e : Entry) (l : List Entry) : Entry :=
  match l with
  | [] => e
  | a :: r => r.foldl Entry.ageWith { e with age := a.age, aged := a.aged }

/-- The entry with a mask. -/
def entryOf (g : Group) (m : Mask) : Option Entry := g.entries.find? (fun e => e.mask == m)

/-- An entry that has issued is replaced by parts of it; it has left the aged order, and its parts are not aged (R22). -/
def replaceEntry (g : Group) (e : Entry) (parts : List Entry) : Group :=
  { g with entries := g.entries.filter (fun x => x.mask != e.mask) ++ parts.filter (fun p => p.mask != 0) }

/-- Lanes leave every entry of a group: the entries without them, and what they leave with. -/
def takeLanes (g : Group) (m : Mask) : Group × List Entry :=
  let l := splitAt g.entries m
  ({ g with entries := l.filter (fun e => e.mask &&& m == 0) }, l.filter (fun e => e.mask &&& m != 0))

def dropLanes (g : Group) (m : Mask) : Group := (takeLanes g m).1

/-! ### Aging and choice (R21, R22) -/

/-- Whether entry `a` comes before entry `b` by PRI and PC. -/
def beforeByPri (a b : Entry) : Bool := b.pri < a.pri || (a.pri == b.pri && decide (a.pc ≤ b.pc))

/-- Whether entry `a` is taken before entry `b`: aged entries in the aged order, then the highest PRI, ties to the lowest
PC. -/
def takenBefore (a b : Entry) : Bool :=
  match a.aged, b.aged with
  | some x, some y => x ≤ y
  | some _, none => true
  | none, some _ => false
  | none, none => beforeByPri a b

def insertTaken (e : Entry) (l : List Entry) : List Entry :=
  match l with
  | [] => [e]
  | a :: r => if takenBefore e a then e :: a :: r else a :: insertTaken e r

/-- The ready entries in the order in which they are tried. -/
def tryOrder (l : List Entry) : List Entry := (l.filter (fun e => e.st == .ready)).foldl (fun a e => insertTaken e a) []

/-- The issuing entry's AGE and AGED after the issue (R22). -/
def issuedAge (e : Entry) : Entry := { e with age := 0, aged := none, stall := none }

/-- The entries that an issue makes aged, by highest PRI, then lowest PC. -/
def insertPri (e : Entry) (l : List Entry) : List Entry :=
  match l with
  | [] => [e]
  | a :: r => if beforeByPri e a then e :: a :: r else a :: insertPri e r

/-- The entries passed over by an issue, given by their masks, age (R22). -/
def passOver (l : List Entry) (passed : List Mask) : List Entry :=
  let seen := l.filter (fun e => passed.contains e.mask)
  let newly := (seen.filter (fun e => e.age == 63 && e.aged.isNone)).foldl (fun a e => insertPri e a) []
  let base := lastPlace l
  l.map (fun e =>
    if !passed.contains e.mask then e
    else
      match (newly.map (·.mask)).idxOf? e.mask with
      | some i => { e with aged := some (base + i) }
      | none => { e with age := if e.age == 63 then 63 else e.age + 1 })

/-- The frontier of every group of every core is kept as R19 says. -/
def settle (s : State) : State :=
  { s with cores := s.cores.map (fun c => (c.1, { c.2 with groups := c.2.groups.map (fun g => (g.1, { g.2 with entries := normalise g.2.entries })) })) }

end Sys2Proof.Machine
end

