-- ==== Sys2Proof/Machine/Memory.lean ====
section
/-! DEFINITION. Physical memory: its bytes, tags and poison, the address map (R84), the line hash (R85), the die copies
of lines (R86), and the one way each is read and written. -/

namespace Sys2Proof.Machine

/-! ### Bytes. What an unlisted address reads as is 0 (log 2). -/

/-- What a byte that nothing has written reads as. DESIGN CHOICE, log 2. -/
def Memory.empty : Byte := 0

/-- One byte. -/
def Memory.read (m : List Host.Cell) (a : Nat) : Byte :=
  match m with
  | [] => Memory.empty
  | (k, b) :: r => if k = a then b else if a < k then Memory.empty else Memory.read r a

/-- Writing one byte, keeping the canonical form. -/
def Memory.write (m : List Host.Cell) (a : Nat) (b : Byte) : List Host.Cell :=
  match m with
  | [] => if b = Memory.empty then [] else [(a, b)]
  | (k, c) :: r =>
    if a < k then (if b = Memory.empty then (k, c) :: r else (a, b) :: (k, c) :: r)
    else if a = k then (if b = Memory.empty then r else (a, b) :: r)
    else (k, c) :: Memory.write r a b

/-- The canonical form from an address on: addresses strictly rising, none listed with the empty value. -/
def Memory.wfFrom (lo : Nat) (m : List Host.Cell) : Bool :=
  match m with
  | [] => true
  | (k, b) :: r => decide (lo ≤ k) && b != Memory.empty && Memory.wfFrom (k + 1) r

/-- The canonical form. -/
def Memory.wf (m : List Host.Cell) : Bool := Memory.wfFrom 0 m

/-- `n` bytes as a number, the byte at the lowest address in the low bits (R232). -/
def Memory.readN (m : List Host.Cell) (a : Nat) : Nat → Nat
  | 0 => 0
  | n + 1 => (Memory.read m a).toNat + 256 * Memory.readN m (a + 1) n

/-- Writing the low `n` bytes of a number. -/
def Memory.writeN (m : List Host.Cell) (a : Nat) : Nat → Nat → List Host.Cell
  | 0, _ => m
  | n + 1, v => Memory.writeN (Memory.write m a (BitVec.ofNat 8 v)) (a + 1) n (v / 256)

/-- Writing the bytes of a number that a mask selects: bit i for the byte at `a + i`. -/
def Memory.writeMask (m : List Host.Cell) (a : Nat) : Nat → Nat → Nat → List Host.Cell
  | 0, _, _ => m
  | n + 1, mask, v =>
    Memory.writeMask (if mask % 2 = 1 then Memory.write m a (BitVec.ofNat 8 v) else m) (a + 1) n (mask / 2) (v / 256)

/-! ### The address map (R84) and the line hash (R85) -/

/-- HBM that stage-2 tables may name. -/
def isHbm (pa : Nat) : Bool := pa < 2 ^ 41 && pa % 2 ^ 39 < 0x4F_0000_0000

/-- The four host windows. -/
def isHostWindow (pa : Nat) : Bool := 0x0200_0000_0000 ≤ pa && pa < 0x0200_0040_0000

/-- The die of an HBM address or of a host window address. -/
def homeDie (pa : Nat) : Nat :=
  if pa < 2 ^ 41 then pa / 2 ^ 39 else (pa - 0x0200_0000_0000) / 0x10_0000 % 4

/-- The line index within its die. -/
def lineIndex (pa : Nat) : Nat := pa % 2 ^ 39 / 256

/-- The hash f of R85. -/
def lineHash (pa : Nat) : Nat :=
  let l := lineIndex pa
  l ^^^ l / 2 ^ 11 ^^^ l / 2 ^ 22

/-- The home slice, stack and channel of a line (R85). -/
def homeSlice (pa : Nat) : Nat := lineHash pa % 160
def homeStack (pa : Nat) : Nat := homeSlice pa % 4
def homeChannel (pa : Nat) : Nat := lineHash pa / 160 % 32

/-- Line and sector numbers of a physical address. -/
def lineOf (pa : Nat) : Nat := pa / 256
def sectorOf (pa : Nat) : Nat := pa / 64

/-! ### Home contents -/

/-- `n` bytes at the home. -/
def homeRead (s : State) (pa n : Nat) : Nat := Memory.readN s.mem pa n

/-- The die whose host window holds an address. -/
def windowDie (pa : Nat) : Nat := (pa - 0x0200_0000_0000) / 0x10_0000

/-- The requester has written masked bytes: when they are among those of a report that is being made, its contents are undefined (R420). -/
def noteReport (s : State) (pa n mask : Nat) : State :=
  let d := windowDie pa
  let x := dieOf s d
  let first := 0x0200_0000_0000 + d * 0x10_0000 + 64 * x.attGoOff.toNat
  if isHostWindow pa && x.attBusy && (List.range n).any (fun i => bitAt mask i && first ≤ pa + i && pa + i < first + 528)
  then setDie s d { x with attSpoiled := true } else s

/-- `n` bytes written at the home. -/
def homeWrite (s : State) (pa n v : Nat) : State := { s with mem := Memory.writeN s.mem pa n v }

/-- Masked bytes written at the home. -/
def homeWriteMask (s : State) (pa n mask v : Nat) : State := { s with mem := Memory.writeMask s.mem pa n mask v }

/-- The tag of a sector (R91). -/
def memTag (s : State) (pa : Nat) : BitVec 4 := lookD s.tags (sectorOf pa) 0
def setMemTag (s : State) (pa : Nat) (t : BitVec 4) : State := { s with tags := putD s.tags (sectorOf pa) 0 t }

/-- Poison of a sector; a write of the whole sector clears it (R94). -/
def isPoisoned (s : State) (pa : Nat) : Bool := lookD s.poison (sectorOf pa) false
def setPoison (s : State) (pa : Nat) (b : Bool) : State := { s with poison := putD s.poison (sectorOf pa) false b }

/-- A line as its home holds it. -/
def homeLine (s : State) (line : Nat) : LineCopy :=
  let at_ (i : Nat) : Nat := line * 256 + 64 * i
  { data := BitVec.ofNat 2048 (homeRead s (line * 256) 256)
    tags := BitVec.ofNat 16 ([0, 1, 2, 3].foldl (fun a i => a + (memTag s (at_ i)).toNat * 2 ^ (4 * i)) 0)
    poison := BitVec.ofNat 4 ([0, 1, 2, 3].foldl (fun a i => if isPoisoned s (at_ i) then a + 2 ^ i else a) 0) }

/-- The sectors of a line, by number, of which a masked write covers every byte. -/
def wholeSectors (pa n mask : Nat) : List Nat :=
  let m := mask % 2 ^ n * 2 ^ (pa % 256)
  [0, 1, 2, 3].filter (fun i => bitsAt m (64 * i) 64 == 2 ^ 64 - 1)

/-- The frame of an address, and whether it is in quarantine (R93). -/
def inQuarantine (s : State) (pa : Nat) : Bool := (look s.quar (pa / 4096)).isSome

/-- Frames that polder `p` releases enter quarantine, to be scrubbed as its SCRUB mode says now (R66, R93). -/
def quarantine (s : State) (p : Nat) (frames : List Nat) : State :=
  frames.foldl (fun s f => { s with quar := put s.quar f (polderOf s p).hostScrub }) s

/-! ### What a die sees of a line (R86, R209, R223, R224) -/

/-- Entry `e` of a vector clock. -/
def clk (v : List Word) (e : Nat) : Nat := (v.getD e 0).toNat

/-- The sharer mask of a line, as dies other than the home. -/
def sharersOf (s : State) (line : Nat) : Nat → Bool := fun d => (lookD s.shares line {}).sharers.getLsbD d

/-- Adding a sharer. -/
def addSharer (s : State) (line d : Nat) : State :=
  let x := lookD s.shares line {}
  { s with shares := put s.shares line { x with sharers := x.sharers ||| BitVec.ofNat 4 (2 ^ d) } }

/-- A message that writes at a home: the die that made the write, its stamp, the address, and the dies that get it as an update. -/
def LinkMsg.writes (m : LinkMsg) : Option (Nat × List Word × Nat × BitVec 4) :=
  match m with
  | .write w v pa _ _ _ upd _ _ => some (w.toNat, v, pa, upd)
  | .atomic w v pa _ _ _ _ => some (w.toNat, v, pa, 0)
  | _ => none

/-- Who made the write that a message carries. -/
def LinkMsg.origin (m : LinkMsg) : Option Origin :=
  match m with
  | .write _ _ _ _ _ _ _ _ org => org
  | .atomic _ _ _ _ _ _ org => org
  | _ => none

/-- The messages from die `w` that die `d` has still to apply: on the link, and held. -/
def linkWaits (s : State) (w d : Nat) : List LinkMsg := lookD (dieOf s d).held w [] ++ lookD (dieOf s d).link w []

/-- A write of die `w` to a line that is on the link to its home or held there. -/
def writeUnderWay (s : State) (w home line : Nat) : Bool :=
  (linkWaits s w home).any (fun m => m.writes.any (fun x => x.1 == w && lineOf x.2.2.1 == line))

/-- A write of a line that a die's clock covers is still on its way to the line's home. `has` tells what the die has of it already, by the
die that made it and its update mask. -/
def homeLacks (s : State) (d pa : Nat) (has : Nat → BitVec 4 → Bool) : Bool :=
  (List.range 4).any (fun w => (linkWaits s w (homeDie pa)).any (fun m => m.writes.any (fun x =>
    lineOf x.2.2.1 == lineOf pa && clk x.2.1 x.1 ≤ clk (dieOf s d).vc x.1 && !has x.1 x.2.2.2)))

/-- A die's clock covers a write that has still to come to what the die would read of its line: it is under way to the home and the die
holds no copy that it goes to, or a settle brings it. R222 lets the die read no older value, though R223's test of clocks alone would
pass: DEDUCED, log 44. -/
def unseen (s : State) (d pa : Nat) : Bool :=
  let here := (look (dieOf s d).copies (lineOf pa)).isSome
  homeLacks s d pa (fun w upd => here && (w == d || upd.getLsbD d)) ||
    (linkWaits s (homeDie pa) d).any (fun m => match m with
      | .settle _ _ line _ (some c) => line == lineOf pa && c.2.toNat ≤ clk (dieOf s d).vc c.1.toNat
      | _ => false)

/-- No reply is due for an atomic of the die on a line: until it comes, the die's later accesses to the line wait (R209). -/
def lineFree (s : State) (d pa : Nat) : Bool := !(dieOf s d).awaiting.contains (lineOf pa)

/-- Whether a load on die `d` can see a line now: it is homed there, or a copy is present, or a fill can be installed
(R223); no reply for the line is due, and no write of it that the die knows of is still to come (R222). -/
def canFill (s : State) (d pa : Nat) : Bool :=
  let h := homeDie pa
  let v := (dieOf s h).vc
  let mine := (dieOf s d).vc
  isHostWindow pa || h == d || lineFree s d pa && !unseen s d pa &&
    ((look (dieOf s d).copies (lineOf pa)).isSome || (List.range 4).all (fun e => e == d || clk v e ≤ clk mine e))

/-- `n` bytes of one line as die `d` sees them: its copy where it holds one, else the home. -/
def dieRead (s : State) (d pa n : Nat) : Nat :=
  match look (dieOf s d).copies (lineOf pa) with
  | some x => if homeDie pa = d || isHostWindow pa then homeRead s pa n else bitsAt x.data.toNat (8 * (pa % 256)) (8 * n)
  | none => homeRead s pa n

/-- The tag and the poison of a sector as a die sees them. -/
def dieTag (s : State) (d pa : Nat) : BitVec 4 :=
  match if homeDie pa = d then none else look (dieOf s d).copies (lineOf pa) with
  | some x => BitVec.ofNat 4 (fieldOf (x.tags.setWidth 64) (4 * (pa / 64 % 4)) 4)
  | none => memTag s pa
def diePoison (s : State) (d pa : Nat) : Bool :=
  match if homeDie pa = d then none else look (dieOf s d).copies (lineOf pa) with
  | some x => x.poison.getLsbD (pa / 64 % 4)
  | none => isPoisoned s pa

/-- A number with the bytes of another under a byte mask, at a byte offset. -/
def overlayBytes (old : Nat) : Nat → Nat → Nat → Nat → Nat
  | 0, _, _, _ => old
  | n + 1, off, mask, v =>
    overlayBytes (if mask % 2 = 1 then old - bitsAt old (8 * off) 8 * 2 ^ (8 * off) + v % 256 * 2 ^ (8 * off) else old)
      n (off + 1) (mask / 2) (v / 256)

/-- A copy of a line with masked bytes written: a tag that travels with a whole sector, and the poison that whole sectors clear. -/
def LineCopy.write (o : LineCopy) (pa n mask v : Nat) (tag : Option (BitVec 4)) : LineCopy :=
  { data := BitVec.ofNat 2048 (overlayBytes o.data.toNat n (pa % 256) mask v)
    tags := match tag with
      | some t => (wholeSectors pa n mask).foldl (fun a i => (setField (a.setWidth 64) (4 * i) 4 t.toNat).setWidth 16) o.tags
      | none => o.tags
    poison := (wholeSectors pa n mask).foldl (fun a i => a &&& ~~~ BitVec.ofNat 4 (2 ^ i)) o.poison }

/-- A copy whose sector takes poisoned bytes (R94). -/
def LineCopy.spoil (o : LineCopy) (pa : Nat) (bad : Bool) : LineCopy :=
  if bad then { o with poison := o.poison ||| BitVec.ofNat 4 (2 ^ (pa / 64 % 4)) } else o

/-- A line with a die's own writes that are still on their way to its home: they are visible on that die at once (R209). -/
def withOwn (s : State) (d h line : Nat) (x : LineCopy) : LineCopy :=
  (linkWaits s d h).foldl (fun x m => match m with
    | .write w _ pa mask data tag _ bad _ =>
      if w.toNat = d && lineOf pa = line then (x.write pa (256 - pa % 256) mask.toNat data.toNat tag).spoil pa bad else x
    | _ => x) x

/-- The fill: a copy of a line of another die is installed, the die's own writes to it on top (R223), and its home counts the sharer. -/
def fillCopy (s : State) (d pa : Nat) : State :=
  let h := homeDie pa
  if isHostWindow pa || h == d || (look (dieOf s d).copies (lineOf pa)).isSome then s
  else
    let x := dieOf s d
    addSharer (setDie s d { x with copies := put x.copies (lineOf pa) (withOwn s d h (lineOf pa) (homeLine s (lineOf pa))) }) (lineOf pa) d

/-- Masked bytes written into a die's copy of their line; poison goes with them (R94). -/
def copyWrite (s : State) (d pa n mask v : Nat) (tag : Option (BitVec 4)) (bad : Bool) : State :=
  let x := dieOf s d
  setDie s d { x with copies := alter x.copies (lineOf pa) (fun o => (o.write pa n mask v tag).spoil pa bad) }

/-- A message is put on the link from die `w` to die `d`. -/
def sendLink (s : State) (w d : Nat) (m : LinkMsg) : State :=
  let x := dieOf s d
  setDie s d { x with link := put x.link w (lookD x.link w [] ++ [m]) }

/-- The mask of dies that satisfy a test. -/
def dieMask (p : Nat → Bool) : BitVec 4 := BitVec.ofNat 4 ((List.range 4).foldl (fun a d => if p d then a + 2 ^ d else a) 0)

/-- The copies of a line that dies hold, other than the home. -/
def holders (s : State) (pa : Nat) : Nat → Bool := fun d => d != homeDie pa && (look (dieOf s d).copies (lineOf pa)).isSome

/-- Whether a write made on die `d` is a cross-die write (R209). -/
def isCrossDie (s : State) (d pa : Nat) : Bool :=
  homeDie pa != d || (List.range 4).any (fun e => e != d && sharersOf s (lineOf pa) e)

/-- The own entry of a die's clock advances, and the write of a line is noted as the die's own (R209, R224). -/
def stampClock (s : State) (d line : Nat) : State × List Word :=
  let x := dieOf s d
  let v := x.vc.set d (x.vc.getD d 0 + 1)
  (setDie s d { x with vc := v, own := put x.own line (v.getD d 0) }, v)

/-- The home notes the last write it applied to a line with sharers (R224). -/
def noteLast (s : State) (line a : Nat) (v : List Word) : State :=
  match look s.shares line with
  | none => s
  | some x => { s with shares := put s.shares line { x with lastDie := BitVec.ofNat 2 a, lastCnt := v.getD a 0 } }

/-- A write at the home: bytes, a tag that travels with a whole sector, and the poison that whole sectors clear (R94). -/
def applyHome (s : State) (pa n mask v : Nat) (tag : Option (BitVec 4)) : State :=
  let s := homeWriteMask s pa n mask v
  let s := match tag with
    | some t => setMemTag s pa t
    | none => s
  (wholeSectors pa n mask).foldl (fun s i => setPoison s (pa / 256 * 256 + 64 * i) false) s

/-- Poisoned bytes reach their sector at the home (R94). -/
def spoilHome (s : State) (pa : Nat) (bad : Bool) : State := if bad then setPoison s pa true else s

/-- A write of masked bytes within one line, made on die `d` (R209): at once on that die; stamped and sent when it is a
cross-die write. Poisoned bytes, which lie in one sector, carry their poison (R94). -/
def dieWriteP (s : State) (d pa n mask v : Nat) (tag : Option (BitVec 4)) (bad : Bool) (org : Option Origin) : State :=
  if isHostWindow pa then homeWriteMask s pa n mask v
  else if !isCrossDie s d pa then spoilHome (applyHome s pa n mask v tag) pa bad
  else
    let h := homeDie pa
    let (s, stamp) := stampClock s d (lineOf pa)
    let upd := dieMask (fun e => e != d && holders s pa e)
    let s := if h = d then noteLast (spoilHome (applyHome s pa n mask v tag) pa bad) (lineOf pa) d stamp else copyWrite s d pa n mask v tag bad
    (List.range 4).foldl (fun s e =>
      if e = d then s
      else if e = h || upd.getLsbD e then
        sendLink s d e (.write (BitVec.ofNat 2 d) stamp pa (BitVec.ofNat 256 mask) (BitVec.ofNat 2048 v) tag upd bad org)
      else sendLink s d e (.notice (BitVec.ofNat 2 d) stamp)) s

/-- A write of sound bytes. -/
def dieWrite (s : State) (d pa n mask v : Nat) (tag : Option (BitVec 4)) (org : Option Origin := none) : State :=
  dieWriteP s d pa n mask v tag false org

/-- A write that a die has stamped, by one for which a test holds, has still to be applied at its home on another die (R228). -/
def linkPending (s : State) (d : Nat) (p : Origin → Bool) : Bool :=
  (List.range 4).any (fun h => h != d && (linkWaits s d h).any (fun m => m.writes.any (fun x => x.1 == d && homeDie x.2.2.1 == h) && m.origin.any p))

/-- A write of the device itself within one line, at the home and in every copy: records of rings, table entries (R130, R134). -/
def deviceWrite (s : State) (pa n v : Nat) : State :=
  (List.range 4).foldl (fun s e => if holders s pa e then copyWrite s e pa n (2 ^ n - 1) v none false else s) (applyHome s pa n (2 ^ n - 1) v none)

end Sys2Proof.Machine
end

