-- ==== Sys2Proof/Machine/Records.lean ====
section
/-! DEFINITION. Fault records (R129 to R131), the rings they are written to, and the dirty-page log (R133, R134). -/

namespace Sys2Proof.Machine

/-! ### Causes (R57) and subcodes -/

def causeIllop : Nat := 0x01
def causeIllenc : Nat := 0x02
def causePriv : Nat := 0x03
def causeAlign : Nat := 0x04
def causeXlate : Nat := 0x05
def causeXlate2 : Nat := 0x06
def causeWalk2 : Nat := 0x07
def causePerm : Nat := 0x08
def causeTag : Nat := 0x09
def causeAccess : Nat := 0x0A
def causeMhaz : Nat := 0x0C
def causeVbt : Nat := 0x0D
def causeVnever : Nat := 0x0E
def causeRegfp : Nat := 0x0F
def causeUreg : Nat := 0x10
def causeArith : Nat := 0x11
def causeWatch : Nat := 0x12
def causeBkpt : Nat := 0x13
def causeTrapi : Nat := 0x14
def causeFifo : Nat := 0x15
def causeBank : Nat := 0x16
def causeMerge : Nat := 0x17
def causeFabric : Nat := 0x18
def causeEcc : Nat := 0x19
def causeStamp : Nat := 0x1A
def causeKill : Nat := 0x1B
def causeSclw : Nat := 0x1C

/-- Translation subcodes (R164). -/
def subForm : Nat := 1
def subInvalid : Nat := 2
def subEntry : Nat := 3
def subRdupw : Nat := 4
def subQuar : Nat := 5
def subTimeout : Nat := 6
def subHost : Nat := 7

/-- The fields of a record but PHASE (R131). -/
structure Rec where
  cause : Nat
  sub : Nat := 0
  kind : Nat := 0
  level : Nat := 0
  ctx : Nat := 0
  polder : Nat := 0
  acc : Nat := 0
  pc : Word := 0
  addr : Word := 0
  ipa : Nat := 0
  lanes : Mask := 0
  core : Nat := 0
  team : Nat := 0
  group : Nat := 0
  mask : Word := 0
  token : Word := 0
  seq : Nat := 0
  deriving DecidableEq, Repr

/-- The 64 bytes of a record, PHASE 0 (R131). -/
def Rec.bytes (r : Rec) : RecordBytes :=
  BitVec.ofNat 512 (
    r.cause % 256 + r.sub % 256 * 2 ^ 8 + r.kind * 2 ^ 16 + r.level * 2 ^ 24 + r.ctx % 2 ^ 16 * 2 ^ 32 +
    r.polder % 256 * 2 ^ 48 + r.acc % 256 * 2 ^ 56 + r.pc.toNat * 2 ^ 64 + r.addr.toNat * 2 ^ 128 +
    r.ipa % 2 ^ 64 * 2 ^ 192 + r.lanes.toNat * 2 ^ 256 + r.core % 2 ^ 16 * 2 ^ 288 + r.team % 256 * 2 ^ 304 +
    r.group % 256 * 2 ^ 312 + r.mask.toNat * 2 ^ 320 + r.token.toNat * 2 ^ 384 + r.seq % 2 ^ 32 * 2 ^ 448)

/-! ### Rings -/

/-- BASE of a ring register, as an address; 0 is no ring. -/
def ringBase (w : Word) : Nat := fieldOf w 12 40 * 4096

/-- The number of records of a ring. -/
def ringSize (w : Word) : Nat := 2 ^ (fieldOf w 0 4 + 6)

/-- Record n of a ring is written as one 64-byte write, with its PHASE (R130). -/
def putRecord (s : State) (cfg : Word) (n : Nat) (r : RecordBytes) : State :=
  let phase := if bitAt n (fieldOf cfg 0 4 + 6) then 1 else 0
  deviceWrite s (ringBase cfg + n % ringSize cfg * 64) 64 (r.toNat + phase * 2 ^ 504)

/-- Records in a ring that are not yet consumed. -/
def ringUsed (prod cons : BitVec 31) : Nat := (prod - cons).toNat

/-- A record of an upper-half translation fault or of a walk's fault, which FMODE.XLFAULT gives to the host; RDUPW follows FMODE.MIGRATE
(R65, R165, R175). -/
def ofWalk (r : RecordBytes) : Bool :=
  let cause := bitsAt r.toNat 0 8
  (cause == causeXlate && bitAt r.toNat 191) || cause == causeWalk2 || (cause == causeXlate2 && bitsAt r.toNat 8 8 != subRdupw)

/-- In the host-assisted mode of its polder such a record is forwarded to the host over the fabric as it is raised (R65, R66). The spec gives
no packet for it: the model keeps what the host has been sent, log 22. -/
def forwardRecord (s : State) (p : Nat) (r : RecordBytes) : State :=
  if (polderOf s p).hostXlfault && ofWalk r then { s with forwarded := s.forwarded ++ [(p, r)] } else s

/-- A record for a context's queue: written, or held while the ring is full (R130). With no ring it is dropped. -/
def appendCtx (s : State) (c : Nat) (r : RecordBytes) : State :=
  let x := ctxOf s c
  if ringBase x.cfrq = 0 then s else
  let s := forwardRecord s x.polder r
  if ringUsed x.prod x.cons ≥ ringSize x.cfrq || !x.held.isEmpty then setCtx s c { x with held := x.held ++ [r] }
  else onCtx (putRecord s x.cfrq x.prod.toNat r) c (fun x => { x with prod := x.prod + 1 })

/-- A record for a polder's queue. -/
def appendPolder (s : State) (p : Nat) (r : RecordBytes) : State :=
  let x := polderOf s p
  if ringBase x.pfrq = 0 then s else
  let s := forwardRecord s p r
  if ringUsed x.prod x.cons ≥ ringSize x.pfrq || !x.held.isEmpty then setPolder s p { x with held := x.held ++ [r] }
  else onPolder (putRecord s x.pfrq x.prod.toNat r) p (fun x => { x with prod := x.prod + 1 })

/-- Held records are written in order as CONS advances (R130). -/
def drainCtx (s : State) (c : Nat) : Nat → State
  | 0 => s
  | n + 1 =>
    let x := ctxOf s c
    match x.held with
    | [] => s
    | r :: rest =>
      if ringBase x.cfrq = 0 || ringUsed x.prod x.cons ≥ ringSize x.cfrq then s
      else drainCtx (onCtx (putRecord s x.cfrq x.prod.toNat r) c (fun x => { x with prod := x.prod + 1, held := rest })) c n

def drainPolder (s : State) (p : Nat) : Nat → State
  | 0 => s
  | n + 1 =>
    let x := polderOf s p
    match x.held with
    | [] => s
    | r :: rest =>
      if ringBase x.pfrq = 0 || ringUsed x.prod x.cons ≥ ringSize x.pfrq then s
      else drainPolder (onPolder (putRecord s x.pfrq x.prod.toNat r) p (fun x => { x with prod := x.prod + 1, held := rest })) p n

/-- A record that is not resumable: TOKEN 0 (R130). -/
def reportCtx (s : State) (r : Rec) : State := appendCtx s r.ctx { r with token := 0 }.bytes
def reportPolder (s : State) (r : Rec) : State := appendPolder s r.polder { r with token := 0 }.bytes

/-- The next resume token (R131). -/
def takeToken (s : State) (kind ctx : Nat) : State × Word :=
  ({ s with nextToken := s.nextToken + 2, tokens := s.tokens ++ [(s.nextToken, kind, ctx)] }, s.nextToken)

/-! ### The dirty-page log -/

/-- A page became dirty: an entry is appended, or OVERFLOW is set (R134). -/
def logDirty (s : State) (p ipaPage size : Nat) : State :=
  let x := polderOf s p
  let base := fieldOf x.pdlog 12 40 * 4096
  let n := 2 ^ (fieldOf x.pdlog 0 4 + 9)
  if base = 0 || x.logOverflow then s
  else if ringUsed x.logProd x.logCons ≥ n then setPolder s p { x with logOverflow := true }
  else
    onPolder (deviceWrite s (base + x.logProd.toNat % n * 8) 8 (ipaPage / 4096 * 4096 + size)) p
      (fun x => { x with logProd := x.logProd + 1 })

end Sys2Proof.Machine
end

