-- ==== Sys2Proof/Machine/FabricBase.lean ====
section
/-! DEFINITION. Fabric packets: how a request or an answer is built and put at its source port (R135 to R143). -/

namespace Sys2Proof.Machine

/-! ### Kinds (R137) and statuses (R142, R143) -/

def kRdreq : BitVec 8 := 0x01
def kRdrsp : BitVec 8 := 0x02
def kWr : BitVec 8 := 0x03
def kAtomreq : BitVec 8 := 0x04
def kAtomrsp : BitVec 8 := 0x05
def kPuts : BitVec 8 := 0x06
def kGetreq : BitVec 8 := 0x07
def kGetrsp : BitVec 8 := 0x08
def kMstage : BitVec 8 := 0x09
def kMclose : BitVec 8 := 0x0A
def kXlreq : BitVec 8 := 0x0B
def kXlrsp : BitVec 8 := 0x0C
def kXlinv : BitVec 8 := 0x0D
def kAck : BitVec 8 := 0x10
def kNack : BitVec 8 := 0x11
def kRefillreq : BitVec 8 := 0x12
def kEndpoint : BitVec 8 := 0x13

/-- ACK statuses (R142). -/
def stApplied : BitVec 8 := 0
def stGap : BitVec 8 := 1
def stHeld : BitVec 8 := 2
def stReject : BitVec 8 := 3
def stAppliedTag : BitVec 8 := 4

/-- NACK statuses (R143). -/
def stDenied : BitVec 8 := 0x01
def stNoexport : BitVec 8 := 0x02
def stTomb : BitVec 8 := 0x03
def stGapto : BitVec 8 := 0x04
def stSeal : BitVec 8 := 0x05
def stTag : BitVec 8 := 0x06
def stFull : BitVec 8 := 0x07
def stAccess : BitVec 8 := 0x08
def stNotready : BitVec 8 := 0x09
def stXlate : BitVec 8 := 0x0A

/-! ### Ports -/

/-- The plane of a line: MAP[line address bits 9:8] (R140). -/
def mapEntry (off : Nat) : Nat := off / 256 % 4
def planeOf (s : State) (off : Nat) : Nat := fieldOf s.fabric.fplane (2 * mapEntry off) 2

/-- A port of the node. -/
def portOf (s : State) (p : Nat) : Port := lookD s.fabric.ports p {}
def setPort (s : State) (p : Nat) (x : Port) : State := onFabric s (fun f => { f with ports := put f.ports p x })
def onPort (s : State) (p : Nat) (g : Port → Port) : State := setPort s p (g (portOf s p))

/-- Flits of a packet. -/
def flitsOf (p : Packet) : Nat := 1 + p.payload.length

/-- A packet waits at the port of its plane on a die, with the core and operation it belongs to (R135, R140). -/
def submitAt (s : State) (die plane : Nat) (p : Packet) (core op : Nat) : State :=
  onPort s (4 * die + plane) (fun x => { x with waiting := x.waiting ++ [({ p with plane := BitVec.ofNat 2 plane, src := s.fabric.node }, core, op)] })

/-- A request of a core for a line: on the plane of the line, at the port of the core's die. -/
def submit (s : State) (core op : Nat) (p : Packet) : State :=
  submitAt s (dieOfCore core) (planeOf s p.off.toNat) p core op

/-- TCK and TREF from a context's TAGMODE (R143). -/
def tagBits (mode : Nat) : Bool × Bool := (mode == 1 || mode == 2, mode == 2)

/-- The forms of a virtual address (R159). -/
def isUpper (va : Word) : Bool := fieldOf va 60 4 == 8
def isLower (va : Word) : Bool := fieldOf va 60 4 == 0
def isFabricVa (va : Word) : Bool := fieldOf va 60 4 == 12

/-- Node and offset of a fabric-window address (R159). -/
def faNode (va : Word) : BitVec 14 := BitVec.ofNat 14 (fieldOf va 42 14)
def faOff (va : Word) : BitVec 42 := BitVec.ofNat 42 (fieldOf va 0 42)
def vaTag (va : Word) : BitVec 4 := BitVec.ofNat 4 (fieldOf va 56 4)

/-- The frame of a request from a context. -/
def requestOf (s : State) (ctx : BitVec 10) (kind : BitVec 8) (cls : BitVec 2) (va : Word) : Packet :=
  let x := ctxOf s ctx.toNat
  let (tck, tref) := tagBits x.tagmode
  { kind := kind, cls := cls, polder := BitVec.ofNat 6 x.polder, dst := faNode va, ctx := ctx, off := faOff va,
    tag := vaTag va, tck := tck, tref := tref }

/-- A packet with the TAGMODE that its instruction found at its issue (R68). -/
def withTags (mode : Nat) (p : Packet) : Packet := { p with tck := (tagBits mode).1, tref := (tagBits mode).2 }

/-! ### Payloads (R136) -/

/-- The sectors of a 256-byte mask that have a bit set. -/
def maskSectors (mask : Nat) : List Nat := [0, 1, 2, 3].filter (fun i => bitsAt mask (64 * i) 64 != 0)

/-- One flit of a line. -/
def lineFlit (data i : Nat) : BitVec 512 := BitVec.ofNat 512 (bitsAt data (512 * i) 512)

/-- The payload of a write of masked bytes of a line: whole sectors from the line's start, or a mask flit and the
sectors that have a bit. -/
def writePayload (mask data : Nat) : Bool × List (BitVec 512) :=
  let whole := [1, 2, 3, 4].find? (fun n => mask == 2 ^ (64 * n) - 1)
  match whole with
  | some n => (false, (List.range n).map (lineFlit data))
  | none => (true, BitVec.ofNat 512 mask :: (maskSectors mask).map (lineFlit data))

/-- The mask and bytes that a payload writes. -/
def payloadWrite (masked : Bool) (fl : List (BitVec 512)) : Nat × Nat :=
  if masked then
    let mask := bitsAt (fl.headD 0).toNat 0 256
    let data := ((maskSectors mask).zip (fl.drop 1)).foldl (fun a e => a + e.2.toNat * 2 ^ (512 * e.1)) 0
    (mask, data)
  else
    (2 ^ (64 * fl.length) - 1, (List.range fl.length).foldl (fun a i => a + (fl.getD i 0).toNat * 2 ^ (512 * i)) 0)

/-- A class-2 write of masked bytes of a fabric-window line (R137). -/
def wrPacketOf (s : State) (ctx : BitVec 10) (va : Word) (mask data : Nat) (rel : Bool) : Packet :=
  let (m, fl) := writePayload mask data
  let p := requestOf s ctx kWr 2 va
  { p with masked := m, payload := fl, len := BitVec.ofNat 3 fl.length, rel := rel, off := BitVec.ofNat 42 (p.off.toNat / 256 * 256) }

/-- An answer of class 0 to a packet (R142): it takes the packet's plane, CM and keys. A request of class 1 has no send
tag, so its answer is keyed by the continuation, CK = 1 (R136). -/
def answerOf (p : Packet) (kind status : BitVec 8) : Packet :=
  { kind := kind, cls := 0, polder := p.polder, dst := p.src, stag := p.stag, status := status, ctx := p.ctx,
    cont := p.cont, gen := p.gen, cm := p.cm, off := p.off, rcore := p.rcore, ck := p.cls == 1 }

/-- An answer leaves by the plane-P port of the die that received the packet (log 30). -/
def sendAnswer (s : State) (p : Packet) (a : Packet) : State := submitAt s p.inDie.toNat p.plane.toNat a 0 0

/-- A packet that a core, its walker or its port tracker has sent for itself, and no answer to another node. -/
def ownRequest (p : Packet) : Bool := p.cls == 2 || (p.cls == 1 && p.kind != kXlrsp)

end Sys2Proof.Machine
end

