-- ==== Sys2Proof/Machine/Gauge.lean ====
section
/-! DEFINITION. The vacate gauge: save bytes S, engine sums, VEST, VBND, the sluice's test and the charge table
(R69, R70, R182, R187 to R195). Every quantity is computed from the state that it counts. -/

namespace Sys2Proof.Machine

/-! ### The vacate charge table (R182, R190) -/

/-- Engine codes: 0 none, 1 V, 2 M, 3 C, 4 N, 5 B. -/
def vctEngine (cls : Nat) : Nat :=
  match cls with
  | 1 => 1
  | 3 | 4 | 9 | 10 | 12 | 13 => 4
  | 5 => 3
  | 6 | 7 => 2
  | 11 => 5
  | _ => 0

/-- The reset value of CHARGE. -/
def vctReset (cls : Nat) : Nat :=
  match cls with
  | 1 => 24
  | 3 | 4 | 9 | 10 | 13 => 8
  | 5 => 48
  | 6 => 40
  | 7 => 72
  | 11 => 512
  | _ => 0

/-- GRAN: add ceil(bytes / 32). -/
def vctGran (cls : Nat) : Bool := cls == 5

/-- CHARGE as it stands. -/
def vctCharge (s : State) (cls : Nat) : Nat := (lookD s.device.vct cls (BitVec.ofNat 16 (vctReset cls))).toNat

/-- Whether a fenced sub-array doubles the class on a core (R69, R192). -/
def doubled (c : CoreState) (cls : Nat) : Bool := (cls == 6 || cls == 7) && c.suba != 0

/-- The charge of an operation of a class that moves a number of bytes, on a core (R190, R192). -/
def chargeOf (s : State) (c : CoreState) (cls bytes : Nat) : Nat :=
  vctCharge s cls * (if doubled c cls then 2 else 1) + (if vctGran cls then ceilDiv bytes 32 else 0)

/-! ### Save bytes (R188, R189) -/

/-- Bytes of one vector name. -/
def nameBytes : VReg → Nat
  | .uni _ => 8
  | .full _ => 256

/-- Bytes of a group's vector names. -/
def namesBytes (v : AMap VReg) : Nat := v.foldl (fun a e => a + nameBytes e.2) 0

/-- A group has ended when all 32 lanes have exited (R34). -/
def Group.ended (g : Group) : Bool := g.exited == BitVec.allOnes 32

/-- Bytes of a resident group: names, s registers and control state. -/
def groupBytes (g : Group) : Nat := if g.ended then 0 else namesBytes g.v + 512 + 256

/-- The mode that a bank has once the switches under way on it have completed: what S counts (R77, R189). -/
def bankModeAhead (c : CoreState) (b : Nat) : BankMode :=
  c.ops.foldl (fun m e => match e.2.kind with
    | .bank n t => if n = b then t else m
    | _ => m) (bankOf c b).mode

/-- Words in a FIFO bank as S counts them: the queue, space reserved by copies, and pushes under way. -/
def fifoWords (c : CoreState) (b : Nat) : Nat :=
  let x := bankOf c b
  c.ops.foldl (fun n e => match e.2.kind with
    | .push slot xs => if x.owner != 63 && x.slot == slot && (findTeam c e.2.uid).any (fun t => t.1 == x.owner) then n + xs.length else n
    | _ => n) (x.queue.length + x.reserved)

/-- Bytes of an owned bank. -/
def bankBytes (c : CoreState) (b : Nat) : Nat :=
  match bankModeAhead c b with
  | .scratch => 32768
  | .fifo => ceilDiv (8 * fifoWords c b) 256 * 256 + 64
  | _ => 0

/-- The team's own save bytes, without dirty sectors: S_floor of R195. -/
def teamBytes (c : CoreState) (t : Nat) (x : Team) : Nat :=
  1024 + (teamGroups c x.uid).foldl (fun a e => a + groupBytes e.2) 0 +
    ((List.range 40).filter (fun b => (bankOf c b).owner == t)).foldl (fun a b => a + bankBytes c b) 0

/-- Whether a sector has a byte that a write-back must carry. -/
def Sector.isDirty (x : Sector) : Bool := x.dirty != 0 || x.tagDirty

/-- Dirty sectors of a context on a core: in the L1, and those whose write-back is not yet written. -/
def dirtySectors (c : CoreState) (ctx : BitVec 10) : Nat :=
  c.l1.foldl (fun a e => if e.2.ctx = ctx then a + (e.2.sectors.filter Sector.isDirty).length else a) 0 +
    (c.wbs.filter (fun e => e.2.ctx == ctx && !e.2.sent && e.2.mask != 0)).length

/-- Sectors that stores under way have been charged for at issue. -/
def chargedSectors (c : CoreState) (ctx : BitVec 10) : Nat :=
  c.ops.foldl (fun a e => match e.2.kind with
    | .store _ _ _ n => if e.2.ctx = ctx then a + n else a
    | _ => a) 0

/-- Teams of a context on a core. -/
def ctxTeams (c : CoreState) (ctx : BitVec 10) : List (Nat × Team) := c.teams.filter (fun e => e.2.ctx == ctx)

/-- S: the context's live save bytes on the core (R188). -/
def saveBytes (c : CoreState) (ctx : BitVec 10) : Nat :=
  (ctxTeams c ctx).foldl (fun a e => a + teamBytes c e.1 e.2) 0 + 64 * (dirtySectors c ctx + chargedSectors c ctx)

/-! ### VEST and VBND -/

/-- The team of an operation leaves its core: what a save abandons no longer completes (R200). -/
def opLeaves (c : CoreState) (uid : Nat) : Bool := (findTeam c uid).any (fun t => t.2.leaving.isSome)

/-- D_e: the charges of the context's operations in flight on engine e. -/
def engineSum (c : CoreState) (ctx : BitVec 10) (e : Nat) : Nat :=
  c.ops.foldl (fun a x => if x.2.ctx = ctx && x.2.eng = e && !x.2.handed then a + x.2.charge else a) 0

/-- The largest engine sum, with an addition on one engine; `mul` is 2 for D_M when a fence is asked for (R192). -/
def engineMax (c : CoreState) (ctx : BitVec 10) (e add mul : Nat) : Nat :=
  [1, 2, 3, 4, 5].foldl (fun m f => max m (engineSum c ctx f * (if f = 2 then mul else 1) + (if f = e then add else 0))) 0

/-- VEST (R187). -/
def vest (s : State) (k : Nat) (ctx : BitVec 10) : Nat :=
  let c := coreOf s k
  let q := (ctxOf s ctx.toNat).q.toNat
  if (ctxTeams c ctx).isEmpty then q else q + engineMax c ctx 0 0 1 + ceilDiv (saveBytes c ctx) 64

/-- VEST with D_M doubled (R192). -/
def vestDoubled (s : State) (k : Nat) (ctx : BitVec 10) : Nat :=
  let c := coreOf s k
  let q := (ctxOf s ctx.toNat).q.toNat
  if (ctxTeams c ctx).isEmpty then q else q + engineMax c ctx 0 0 2 + ceilDiv (saveBytes c ctx) 64

/-- A slot of a core is valid when some context is in it (R69). -/
def slotValid (s : State) (k slot : Nat) : Bool := (slotCtx s k slot).isSome

/-- VBND of a context on a core (R69). A context whose VALID was cleared keeps its bound for the teams that run on (R68; DEDUCED,
log 34), unless its slot is another's. -/
def vbnd (s : State) (k : Nat) (ctx : BitVec 10) : Nat :=
  let x := ctxOf s ctx.toNat
  let own := match slotCtx s k x.slot with
    | some c => c == ctx.toNat
    | none => !x.valid && ownerOf s k == some x.polder
  if own then (lookD (coreOf s k).vbnd x.slot 0).toNat else 0

/-- The context's stages on a core, when they have begun and have not ended. -/
def vacateOf (c : CoreState) (ctx : Nat) : Option VacateStage := (c.vacates.find? (fun e => e.1 == ctx)).map (·.2)

/-- The context that has the first service of a core: its grace has ended, and its save has not (R196). -/
def firstServed (c : CoreState) : Option Nat := (c.vacates.find? (fun v => v.2.te.isSome)).map (·.1)

/-- What is of the context with the first service of a core stands before everything else (R196). -/
def servedFirst {α : Type} (c : CoreState) (ctxOf : α → Nat) (l : List α) : List α :=
  match firstServed c with
  | some x => l.filter (fun a => ctxOf a == x) ++ l.filter (fun a => ctxOf a != x)
  | none => l

/-- The soft stage is running (R198). -/
def inSoftStage (c : CoreState) (ctx : Nat) : Bool := (vacateOf c ctx).any (fun v => v.begun && v.te.isNone)

/-- t, the cycles since the stages started. -/
def stageTime (c : CoreState) (v : VacateStage) : Nat := (c.ccyc - v.start).toNat

/-- The bound of the soft stage: min(VBND, Lc − t − 1) (R198). A bound below 0 reads 0: nothing that raises VEST passes. -/
def sluiceBound (s : State) (k : Nat) (ctx : BitVec 10) : Nat :=
  let c := coreOf s k
  match vacateOf c ctx.toNat with
  | some v => if v.begun && v.te.isNone then min (vbnd s k ctx) (v.lc - stageTime c v - 1) else vbnd s k ctx
  | none => vbnd s k ctx

/-- The number of 64-byte beats of S + ΔS. -/
def beats (n : Nat) (ds : Int) : Nat := ceilDiv (((n : Int) + ds).toNat) 64

/-- VEST′ of R193. -/
def vestAfter (s : State) (k : Nat) (ctx : BitVec 10) (eng charge : Nat) (ds : Int) : Nat :=
  let c := coreOf s k
  (ctxOf s ctx.toNat).q.toNat + engineMax c ctx eng charge 1 + beats (saveBytes c ctx) ds

/-- R193: the sluice admits the instruction under a bound. -/
def admits (s : State) (k : Nat) (ctx : BitVec 10) (eng charge : Nat) (ds : Int) (bound : Nat) : Bool :=
  let v := vestAfter s k ctx eng charge ds
  v ≤ bound || v ≤ vest s k ctx

/-- R195: the instruction could never fit. An instruction that raises nothing is admitted by R193 and never refused
(DEDUCED, log 8). -/
def neverFits (s : State) (k : Nat) (ctx : BitVec 10) (floor eng charge : Nat) (ds : Int) : Bool :=
  (ctxOf s ctx.toNat).q.toNat + (if eng = 0 then 0 else charge) + beats floor ds > vbnd s k ctx &&
    vest s k ctx < vestAfter s k ctx eng charge ds

/-- The floor of R70: floor(VBNDNS × MHZ / 1,000). -/
def boundFloor (x : Ctx) (mhz : Nat) : Nat := x.cbound.toNat * mhz / 1000

/-- The save reservation of a team (R88): chunks of 64 KiB. -/
def teamChunks (groups footprint scrb fifob : Nat) : Nat :=
  ceilDiv (1024 + 768 * groups + 256 * groups * footprint + 32768 * scrb + 32832 * fifob) 65536

/-- S_team of R15. -/
def placementBytes (groups scrb fifob : Nat) : Nat := 1024 + 768 * groups + 32768 * scrb + 64 * fifob

end Sys2Proof.Machine
end

