-- ==== Sys2Proof/Machine/L1.lean ====
section
/-! DEFINITION. The L1 of a core (R78 to R81, R166, R217 to R221) and the write-backs of its sectors (R219, R230). -/

namespace Sys2Proof.Machine

/-! ### Rights of a target access table (R180, R181) -/

/-- Whether a target of a kind grants a master a right (0 read, 1 write, 2 atomic and merge, 3 configure). -/
def tatGrants (s : State) (kind master right : Nat) : Bool := (tatByte s kind master).getLsbD right

/-- Whether memory grants a right: the host window alone, or the L2 home and the memory controller behind it. -/
def memGrants (s : State) (master pa right : Nat) : Bool :=
  if isHostWindow pa then tatGrants s 3 master right else tatGrants s 1 master right && tatGrants s 0 master right

/-! ### Lines and sectors -/

/-- The virtual line of an address: bits 59:56 and 7:0 cleared. -/
def vLineOf (va : Word) : Word := va &&& 0xF0FF_FFFF_FFFF_FF00

/-- The set of an address (R78). -/
def setOf (va : Word) : Nat := fieldOf va 8 7

/-- The sector of an address within its line. -/
def sectorIx (va : Word) : Nat := fieldOf va 6 2

/-- The key of the L1 line of a context that holds a virtual line: bank × 128 + set. -/
def l1Find (c : CoreState) (ctx : BitVec 10) (va : Word) : Option Nat :=
  ((cacheBanks c).map (fun b => b * 128 + setOf va)).find? (fun key =>
    (look c.l1 key).any (fun l => l.ctx == ctx && l.va == vLineOf va))

def l1Sector (l : L1Line) (i : Nat) : Sector := l.sectors.getD i {}

/-- A line with one sector changed. -/
def setSector (l : L1Line) (i : Nat) (x : Sector) : L1Line := { l with sectors := l.sectors.set i x }

/-- The physical address of a sector of a line. -/
def sectorPa (l : L1Line) (i : Nat) : Nat :=
  match l.home with
  | .phys n => n * 256 + 64 * i
  | .fabric => 0

/-- The virtual address of a sector, with its tag in bits 59:56. -/
def sectorVa (l : L1Line) (i : Nat) (tag : BitVec 4) : Word :=
  setField l.va 56 4 tag.toNat + BitVec.ofNat 64 (64 * i)

/-! ### Write-backs -/

/-- Entries of a core's port tracker in use (R128): those of its operations, and the WRs of fabric lines that are unanswered. -/
def trackerUsed (c : CoreState) : Nat := c.ops.foldl (fun a e => a + e.2.tracker) 0 + (c.wbs.filter (·.2.sent)).length
def trackerFree (c : CoreState) : Nat := 256 - trackerUsed c

/-- A write-back that no fence covers was refused: a KIND 4 record, FSTAT.HANDOFF in the context's teams on the core,
and the bytes are gone (R230). -/
def refuseUncovered (s : State) (k : Nat) (w : WriteBack) (cause sub : Nat) : State :=
  let r : Rec := { cause := cause, sub := sub, kind := 4, ctx := w.ctx.toNat, polder := w.polder.toNat, addr := w.va, core := k, acc := 2 }
  let s := reportCtx s r
  onCore s k (fun c => { c with teams := c.teams.map (fun e =>
    if e.2.ctx = w.ctx then (e.1, { e.2 with fstat := e.2.fstat ||| 8 }) else e) })

/-! ### The page heat table (R177) -/

/-- The sum of an entry's counts. -/
def Heat.total (h : Heat) : Nat := h.counts.foldl (· + ·) 0

/-- The place of the entry with the smallest total, ties to the lower index. -/
def coldest (t : AMap Heat) : Nat :=
  (t.foldl (fun b e => if e.2.total < b.2 then (e.1, e.2.total) else b) (0, 2 ^ 40)).1

/-- The place that a page's first counted access takes: a free entry, or the coldest. -/
def heatPlace (t : AMap Heat) : Nat := if t.length < 16384 then (freeKey t (t.length + 1)).getD 0 else coldest t

/-- An access of die `w` to a page homed on die `d` is counted: 16-bit saturating. -/
def countHeat (s : State) (d w p ipa : Nat) : State :=
  let x := dieOf s d
  let page := ipa / 2 ^ 16
  let bump (h : Heat) : Heat := { h with counts := h.counts.set w (min 65535 (h.counts.getD w 0 + 1)) }
  let hit (h : Heat) : Bool := h.polder.toNat == p && h.page.toNat == page
  let t :=
    match x.heat.find? (fun e => hit e.2) with
    | some e => put x.heat e.1 (bump e.2)
    | none => put x.heat (heatPlace x.heat) (bump { polder := BitVec.ofNat 6 p, page := BitVec.ofNat 40 page, counts := [0, 0, 0, 0] })
  setDie s d { x with heat := t }

/-- A write check or a write-back reached the page: WRITTEN. -/
def markWritten (s : State) (d p ipa : Nat) : State :=
  let x := dieOf s d
  setDie s d { x with heat := x.heat.map (fun e =>
    if e.2.polder.toNat == p && e.2.page.toNat == ipa / 2 ^ 16 then (e.1, { e.2 with written := true }) else e) }

/-! ### Performance counters (R212) -/

/-- An event of a core, for the contexts that it is one of: every counter that names its code counts it, under the filter; cycles
(code 1) ignore the filter. -/
def countFor (s : State) (k : Nat) (ctxs : List (BitVec 10)) (code n : Nat) : State :=
  let c := coreOf s k
  if c.pmcfg = 0 || n = 0 then s
  else if bitAt c.pmfilt.toNat 63 && code != 1 && !ctxs.any (fun x => slotCtx s k (fieldOf c.pmfilt 0 6) == some x.toNat) then s
  else onCore s k (fun c => { c with pmc := (List.range 8).foldl (fun m i =>
    if fieldOf c.pmcfg (8 * i) 8 = code then put m i (lookD m i 0 + BitVec.ofNat 48 n) else m) c.pmc })

/-- An event of a context, where it has one. -/
def countEvent (s : State) (k : Nat) (ctx : Option (BitVec 10)) (code n : Nat) : State := countFor s k ctx.toList code n

/-! ### Tokens of a core's port (R205) -/

/-- A context is past the grace of its vacate on a core: its requests take no tokens. -/
def pastGrace (c : CoreState) (ctx : Nat) : Bool := (vacateOf c ctx).any (fun v => v.te.isSome)

/-- The home's tables grant a write-back. -/
def wbGranted (s : State) (w : WriteBack) : Bool :=
  match w.home with
  | .phys l => memGrants s w.polder.toNat (l * 256) 1
  | .fabric => tatGrants s 2 w.polder.toNat 1

/-- An operation of a group in flight for which a test holds. -/
def groupHas (c : CoreState) (g : Group) (p : Op → Bool) : Bool := c.ops.any (fun e => e.2.uid == g.uid && e.2.gid == g.gid && p e.2)

/-- An ICINV of a group is under way: its fetches wait (R379). -/
def codeFenced (c : CoreState) (g : Group) : Bool := groupHas c g (fun o => match o.kind with | .fence (.icinv ..) .. => true | _ => false)

/-- A load of the group that was abandoned at a vacate and is issued again has still to return: the group's first issue after the
resume waits for it, so that every flag is then 0 (R50, R279). -/
def reloading (c : CoreState) (g : Group) : Bool := groupHas c g (·.reissued)

/-- A write-back of a fence of the group was refused, and the fence is not complete: the group stays parked (R132, R230). -/
def fenceRefused (c : CoreState) (g : Group) : Bool := groupHas c g (fun o => match o.kind with | .fence _ _ _ _ t _ => t != 0 | _ => false)

/-- What an operation in flight holds up in its whole group. -/
def groupHeld (c : CoreState) (g : Group) : Bool := codeFenced c g || reloading c g || fenceRefused c g

/-- A group that can ask for an instruction: an entry of it is ready, nothing holds up its fetches, and its team goes on (R35, R50, R379). -/
def groupFetches (c : CoreState) (g : Group) : Bool :=
  g.entries.any (fun e => e.st == .ready && e.hold == .none) &&
    (teamOf c g.team).any (fun t => (t.st == .placed || t.st == .running) && t.leaving.isNone) && !groupHeld c g

/-- A request at a core's port still waits there for a token: what asked has not gone, or been refused, or come to need none. -/
def reqLive (s : State) (k : Nat) (r : BitVec 10 × PortReq) : Bool :=
  let c := coreOf s k
  !pastGrace c r.1.toNat && match r.2 with
  | .op n => (look c.ops n).any (fun o => match o.kind with | .load .. => !opLeaves c o.uid | _ => true)
  | .wb n => (look c.wbs n).any (fun w => !w.sent && wbGranted s w)
  | .fetch slot => (groupAt c slot).any (groupFetches c)
  | .packet op off => s.fabric.ports.any (fun e => e.2.waiting.any (fun w => w.2 == (k, op) && w.1.off == off))

/-- The requests that wait at a core's port, oldest first. -/
def portQueue (s : State) (k : Nat) : List (BitVec 10 × PortReq) := (coreOf s k).waits.filter (reqLive s k)

/-- A request of a context need not wait for a token, or finds one and no older request before it (R205). -/
def portOpen (s : State) (k : Nat) (ctx : BitVec 10) (r : PortReq) : Bool :=
  pastGrace (coreOf s k) ctx.toNat || (coreOf s k).tok != 0 && (portQueue s k).head?.all (fun x => x.2 == r)

/-- A request waits at a core's port for a token, behind those that wait already. -/
def portWait (s : State) (k : Nat) (ctx : BitVec 10) (r : PortReq) : State :=
  let q := portQueue s k
  onCore s k (fun c => { c with waits := if q.any (·.2 == r) then q else q ++ [(ctx, r)], dry := true })

/-- A request waits at a core's port no more. -/
def portLeave (s : State) (k : Nat) (r : PortReq) : State :=
  if (coreOf s k).waits.any (·.2 == r) then onCore s k (fun c => { c with waits := c.waits.filter (·.2 != r) }) else s

/-- Sectors that the port sends or fetches take tokens (R205). What a request, once begun, lacks is owed: the next refills pay for it
first, and every later request waits (DESIGN CHOICE, log 23). -/
def spendTok (s : State) (k : Nat) (ctx : BitVec 10) (n : Nat) : State :=
  onCore s k (fun c =>
    if n = 0 || pastGrace c ctx.toNat then c
    else { c with tok := BitVec.ofNat 18 (c.tok.toNat - n), owed := c.owed + (n - c.tok.toNat), took := c.took || c.tok != 0,
                  dry := c.dry || c.tok.toNat < n })

/-- The memory controllers of a die have served sectors to a polder (R206). -/
def servePolder (s : State) (p d n : Nat) : State := onPolder s p (fun x => { x with served := put x.served d (lookD x.served d 0 + n) })

/-- A sector that a core's port fetches or sends: a token, and in HBM a sector served by its die. -/
def takeSector (s : State) (k : Nat) (ctx : BitVec 10) (pa : Nat) : State :=
  let s := spendTok s k ctx 1
  if isHbm pa then servePolder s (ctxOf s ctx.toNat).polder (homeDie pa) 1 else s

/-- Who made the bytes of a write-back of core `k`. -/
def WriteBack.origin (w : WriteBack) (k : Nat) : Origin := { core := k, ctx := w.ctx, polder := w.polder, va := w.va, ipa := w.ipa }

/-- The bytes of a write-back are performed from the core's die (R209, R219), tag included for a whole tagged sector; poison goes with them
(R94). -/
def performWriteBack (s : State) (k : Nat) (w : WriteBack) (pa : Nat) : State :=
  let s := if isUpper w.va then markWritten s (homeDie pa) w.polder.toNat w.ipa else s
  dieWriteP (countEvent (takeSector s k w.ctx pa) k (some w.ctx) 6 1) (dieOfCore k) pa 64 w.mask.toNat w.data.toNat
    (if w.tagDirty then some w.tag else none) w.poison (some (w.origin k))

/-- The write-back record of a sector. -/
def writeBackOf (l : L1Line) (polder i : Nat) : WriteBack :=
  let x := l1Sector l i
  { ctx := l.ctx, polder := BitVec.ofNat 6 polder, va := sectorVa l i x.tag, home := l.home, ipa := l.ipa,
    mask := x.dirty, tag := x.tag, tagDirty := x.tagDirty, data := x.data, poison := x.poison }

/-- Operation numbers from here on stand for write-backs on the port tracker. -/
def wbBase : Nat := 2 ^ 40

/-- A fabric line's bytes leave as a WR packet (R160, R219). It carries the TAGMODE that the context has now: when CTXCFG changed after the
stores, R68 does not say which mode their deferred write-back carries (DESIGN CHOICE, log 46). -/
def sendWriteBack (s : State) (k op : Nat) (w : WriteBack) : State :=
  let sh := 64 * sectorIx w.va
  let p := wrPacketOf s w.ctx w.va (w.mask.toNat * 2 ^ sh) (w.data.toNat * 2 ^ (8 * sh)) w.rel
  submit (countEvent s k (some w.ctx) 6 1) k op (if w.puts then { p with kind := kPuts } else p)

/-- A sector is cleaned. -/
def cleanSector (x : Sector) : Sector := { x with dirty := 0, tagDirty := false }

/-- Two write-backs carry bytes of one sector. -/
def WriteBack.same (w x : WriteBack) : Bool :=
  w.home == x.home && sectorIx w.va == sectorIx x.va && (w.home != .fabric || (w.ctx == x.ctx && vLineOf w.va == vLineOf x.va))

/-- The write-backs of a sector that are still to be written, oldest first. -/
def unsentOf (c : CoreState) (w : WriteBack) : List (Nat × WriteBack) := c.wbs.filter (fun e => !e.2.sent && e.2.same w)

/-- The fences in flight that wait for a write-back. -/
def waitingFences (c : CoreState) (w : WriteBack) : List (Nat × Op) :=
  c.ops.filter (fun e => w.waiters.contains e.1 && match e.2.kind with | .fence .. => true | _ => false)

/-- A fence that waits for the home itself, and not only for the port tracker, to take a WR (R219, R228). -/
def needsApplied (w : FenceWhat) : Bool :=
  match w with
  | .fence _ _ scope => decide (5 ≤ scope)
  | _ => true

/-- A write-back is written: at its home, or as a WR that the port tracker takes, which is enough for a fence below .sys (R219). It
stays as it is while it is refused, while the line waits for an atomic's reply (R209), while the tracker is full, behind an
older one of its sector, and at the port while it finds no token (R205). One that an access already begun must follow does not wait for
tokens: what it lacks is owed (`now`; DESIGN CHOICE, log 23). -/
def landWb (s : State) (k n : Nat) (now : Bool := false) : State :=
  let c := coreOf s k
  match look c.wbs n with
  | none => s
  | some w =>
    if w.sent || (unsentOf c w).head?.map (·.1) != some n || !wbGranted s w then s
    else
      match w.home with
      | .phys l =>
        let pa := l * 256 + 64 * sectorIx w.va
        if !lineFree s (dieOfCore k) pa then s
        else if !now && !portOpen s k w.ctx (.wb n) then portWait s k w.ctx (.wb n)
        else onCore (performWriteBack s k w pa) k (fun c => { c with wbs := del c.wbs n })
      | .fabric =>
        if trackerFree c = 0 then s
        else
          let still := (waitingFences c w).filter (fun e => match e.2.kind with | .fence what _ _ _ _ _ => needsApplied what | _ => false)
          onCore (sendWriteBack s k (wbBase + n) w) k (fun c => { c with wbs := alter c.wbs n (fun w =>
            { w with sent := true, refused := false, tokens := [], waiters := still.map (·.1) }) })

/-- The write-backs of a sector are written, oldest first: what an access of the sector at its home must follow (R216). -/
def landSector (s : State) (k : Nat) (w : WriteBack) (now : Bool := false) : State :=
  (unsentOf (coreOf s k) w).foldl (fun s e => landWb s k e.1 now) s

/-- The bytes of one write-back on top of another's. -/
def WriteBack.over (old new : WriteBack) : WriteBack :=
  { old with
    mask := old.mask ||| new.mask
    data := BitVec.ofNat 512 (overlayBytes old.data.toNat 64 0 new.mask.toNat new.data.toNat)
    tag := if new.tagDirty then new.tag else old.tag
    tagDirty := old.tagDirty || new.tagDirty
    poison := new.poison || old.poison && new.mask != BitVec.allOnes 64 }

/-- Bytes leave the L1 with no fence of their own (R79, R230): behind the older write-backs of their sector they go home. Refused,
they stay with one of those that a fence waits for, or they are lost with a record. -/
def sendOff (s : State) (k : Nat) (w : WriteBack) : State :=
  let s := landSector s k w
  let c := coreOf s k
  if !wbGranted s w then
    match (unsentOf c w).find? (fun e => !(waitingFences c e.2).isEmpty) with
    | some e => onCore s k (fun c => { c with wbs := alter c.wbs e.1 (fun o => o.over w) })
    | none => refuseUncovered s k w causeAccess 0
  else
    let n := c.nextWb
    landWb (onCore s k (fun c => { c with nextWb := n + 1, wbs := put c.wbs n w })) k n

/-- A dirty sector is written back now (evictions, bank switches, releases of teams, R218, invalidations). -/
def writeBackNow (s : State) (k key i : Nat) : State :=
  match look (coreOf s k).l1 key with
  | none => s
  | some l =>
    let x := l1Sector l i
    if !x.isDirty then s
    else
      sendOff (onCore s k (fun c => { c with l1 := alter c.l1 key (fun l => setSector l i (cleanSector x)) })) k
        (writeBackOf l (ctxOf s l.ctx.toNat).polder i)

/-- Every dirty sector of a line. -/
def writeBackLine (s : State) (k key : Nat) : State := [0, 1, 2, 3].foldl (fun s i => writeBackNow s k key i) s

/-- A line leaves the L1, its dirty bytes written back. -/
def evictLine (s : State) (k key : Nat) : State :=
  onCore (writeBackLine s k key) k (fun c => { c with l1 := del c.l1 key })

/-- A dirty sector's write-back starts and waits for its acknowledgement, for the fences named (R219). Write-backs under
way of the same sector are shared (R231). -/
def startWriteBack (s : State) (k key i : Nat) (fence : Nat) : State × List Nat :=
  let c := coreOf s k
  match look c.l1 key with
  | none => (s, [])
  | some l =>
    let x := l1Sector l i
    if !x.isDirty then (s, [])
    else
      let w := { writeBackOf l (ctxOf s l.ctx.toNat).polder i with waiters := [fence] }
      let n := c.nextWb
      (setCore s k { c with nextWb := n + 1, wbs := put c.wbs n w, l1 := alter c.l1 key (fun l => setSector l i (cleanSector x)) }, [n])

/-- The bytes of a sector that the core still holds in write-backs. -/
def pendingWb (c : CoreState) (l : L1Line) (i : Nat) : List WriteBack := (unsentOf c (writeBackOf l 0 i)).map (·.2)

/-- The tag of a sector, and whether it is poisoned, after a write-back to it (R94). -/
def WriteBack.tagAfter (t : BitVec 4) (w : WriteBack) : BitVec 4 := if w.tagDirty then w.tag else t
def WriteBack.poisonAfter (p : Bool) (w : WriteBack) : Bool := w.poison || p && w.mask != BitVec.allOnes 64

/-! ### Allocation and fills -/

/-- The way an allocation takes: an empty one, else one marked for first replacement, else the lowest bank. The choice is
not architectural (R78); log 9. -/
def victimKey (c : CoreState) (va : Word) : Option Nat :=
  let keys := (cacheBanks c).map (fun b => b * 128 + setOf va)
  match keys.find? (fun key => (look c.l1 key).isNone) with
  | some key => some key
  | none =>
    match keys.find? (fun key => (look c.l1 key).any (·.first)) with
    | some key => some key
    | none => keys.head?

/-- The other virtual slot that holds a physical line (R81). -/
def synonymKey (c : CoreState) (home : LineHome) : Option Nat :=
  match home with
  | .fabric => none
  | .phys n => (c.l1.find? (fun e => e.2.home == .phys n)).map (·.1)

/-- A line is allocated without a fill: a synonym and the victim are written back and leave (R79, R81, R221). -/
def allocLine (s : State) (k : Nat) (ctx : BitVec 10) (va : Word) (home : LineHome) (ipa : Nat) : State × Option Nat :=
  match l1Find (coreOf s k) ctx va with
  | some key => (s, some key)
  | none =>
    let s := match synonymKey (coreOf s k) home with
      | some key => evictLine s k key
      | none => s
    match victimKey (coreOf s k) va with
    | none => (s, none)
    | some key =>
      let s := evictLine s k key
      let l : L1Line := { ctx := ctx, va := vLineOf va, home := home, ipa := ipa / 256 * 256, sectors := List.replicate 4 {} }
      (onCore s k (fun c => { c with l1 := put c.l1 key l }), some key)

/-- The bytes that a fill of a sector brings: as the core's die sees them, with the core's write-backs still under way on top. -/
def fillBytes (s : State) (k : Nat) (l : L1Line) (i : Nat) : Nat :=
  let base := dieRead s (dieOfCore k) (sectorPa l i) 64
  (pendingWb (coreOf s k) l i).foldl
    (fun b w => overlayBytes b 64 0 w.mask.toNat w.data.toNat) base

/-- The tag that a fill brings. -/
def fillTag (s : State) (k : Nat) (l : L1Line) (i : Nat) : BitVec 4 :=
  (pendingWb (coreOf s k) l i).foldl WriteBack.tagAfter (dieTag s (dieOfCore k) (sectorPa l i))

/-- Whether the bytes that a fill brings are poisoned (R94). -/
def fillPoison (s : State) (k : Nat) (l : L1Line) (i : Nat) : Bool :=
  (pendingWb (coreOf s k) l i).foldl WriteBack.poisonAfter (diePoison s (dieOfCore k) (sectorPa l i))

/-- A sector is filled, merging under its dirty mask (R79). -/
def fillSector (s : State) (k key i : Nat) : State :=
  match look (coreOf s k).l1 key with
  | none => s
  | some l =>
    let x := l1Sector l i
    if x.valid then s
    else
      let s := fillCopy (countEvent (takeSector s k l.ctx (sectorPa l i)) k (some l.ctx) 5 1) (dieOfCore k) (sectorPa l i)
      let b := fillBytes s k l i
      let y : Sector := { x with
        valid := true
        tag := if x.tagDirty then x.tag else fillTag s k l i
        poison := x.poison && x.dirty != 0 || fillPoison s k l i && x.dirty != BitVec.allOnes 64
        data := BitVec.ofNat 512 (overlayBytes b 64 0 x.dirty.toNat x.data.toNat) }
      onCore s k (fun c => { c with l1 := alter c.l1 key (fun l => setSector l i y) })

/-- Bytes stored into a sector of a line: their dirty bits are set (R79); a sector stored whole is poisoned no more (R94). -/
def storeSector (s : State) (k key i off n : Nat) (v : Nat) : State :=
  onCore s k (fun c => { c with l1 := alter c.l1 key (fun l =>
    let x := l1Sector l i
    let d := x.dirty ||| BitVec.ofNat 64 ((2 ^ n - 1) * 2 ^ off)
    setSector l i { x with dirty := d, poison := x.poison && d != BitVec.allOnes 64,
                           data := BitVec.ofNat 512 (overlayBytes x.data.toNat n off (2 ^ n - 1) v) }) })

/-- Marking a line (R166, R334). -/
def markLine (s : State) (k key : Nat) (checked first : Bool) : State :=
  onCore s k (fun c => { c with l1 := alter c.l1 key (fun l => { l with checked := l.checked || checked, first := l.first || first }) })

/-! ### What fences do to the L1 -/

/-- The line of a context in the L1 that holds the bytes of an access: by its physical line, under whatever virtual address (R81), or by
its address in the fabric window. -/
def l1Holding (c : CoreState) (ctx : BitVec 10) (home : LineHome) (va : Word) : Option Nat :=
  match home with
  | .phys _ => (c.l1.find? (fun e => e.2.ctx == ctx && e.2.home == home)).map (·.1)
  | .fabric => l1Find c ctx va

/-- What leaves a core ahead of an access of a sector at its home (R218), oldest first: the sector's write-backs still to be written, then
the context's dirty bytes of it in the L1. -/
def leavesFirst (c : CoreState) (ctx : BitVec 10) (home : LineHome) (va : Word) : List WriteBack :=
  let i := sectorIx va
  let l : L1Line := ((l1Holding c ctx home va).bind (look c.l1)).getD { ctx := ctx, va := vLineOf va, home := home, sectors := [] }
  pendingWb c l i ++ (if (l1Sector l i).isDirty then [writeBackOf l 0 i] else [])

/-- R220: an acquire on one sector: it is no longer valid, and keeps its dirty bytes, poisoned as they are. -/
def dropSector (x : Sector) : Sector := { x with valid := false, poison := x.poison && x.dirty != 0 }

/-- R218: before an access is performed at the home, the context's dirty bytes of the sectors it touches are written
back, with what is under way of them, and those sectors are invalidated. -/
def homeFirst (s : State) (k : Nat) (ctx : BitVec 10) (home : LineHome) (va : Word) : State :=
  let i := sectorIx va
  let s := match l1Holding (coreOf s k) ctx home va with
    | none => s
    | some key =>
      onCore (writeBackNow s k key i) k (fun c => { c with l1 := alter c.l1 key (fun l => setSector l i (dropSector (l1Sector l i))) })
  landSector s k (writeBackOf { ctx := ctx, va := vLineOf va, home := home, sectors := [] } 0 i) true

/-- R220 over every line of a context for which a test holds. -/
def acquireWhere (c : CoreState) (ctx : BitVec 10) (p : L1Line → Bool) : CoreState :=
  { c with l1 := c.l1.map (fun e => if e.2.ctx = ctx && p e.2 then (e.1, { e.2 with sectors := e.2.sectors.map dropSector }) else e) }

/-- The acquire of a scope on a core: sectors of the context are dropped from .clu on (R214, R220). -/
def acquireOn (s : State) (k : Nat) (ctx : BitVec 10) (scope : Nat) : State :=
  if scope ≥ 2 then onCore s k (fun c => acquireWhere c ctx (fun _ => true)) else s

/-- Keys of a context's lines for which a test holds. -/
def linesWhere (c : CoreState) (ctx : BitVec 10) (p : L1Line → Bool) : List Nat :=
  (c.l1.filter (fun e => e.2.ctx == ctx && p e.2)).map (·.1)

/-- The write-back of every dirty byte of a context on a core, and of what is under way (R74, R120). -/
def writeBackCtx (s : State) (k : Nat) (ctx : BitVec 10) : State :=
  let s := (linesWhere (coreOf s k) ctx (fun _ => true)).foldl (fun s key => writeBackLine s k key) s
  ((coreOf s k).wbs.filter (fun e => e.2.ctx == ctx)).foldl (fun s e => landWb s k e.1) s

/-- A write-back of a context that is not refused has still to leave the core: it waits for the port tracker, for a token or for a reply
(R205, R209). A refused one, held for its RETRY, does not keep QDONE back: R120 does not name it, and the record of the refusal has told
the host already (DESIGN CHOICE, log 39). -/
def wbsLeft (c : CoreState) (ctx : BitVec 10) : Bool := c.wbs.any (fun e => e.2.ctx == ctx && !e.2.sent && !e.2.refused)

/-- The write-backs on their way of a context's lines for which a test holds: those that a fence shares (R231). A WR that the port tracker
has taken concerns only a fence that waits for its home. -/
def sharedWbs (c : CoreState) (ctx : BitVec 10) (p : L1Line → Bool) (applied : Bool) : List Nat :=
  (c.wbs.filter (fun e => e.2.ctx == ctx && p { ctx := ctx, va := vLineOf e.2.va, home := e.2.home, sectors := [] } &&
    (applied || !e.2.sent))).map (·.1)

/-- Starting the write-backs of a context's lines for which a test holds, for a fence; with the numbers of those it shares
(R231). -/
def startWriteBacks (s : State) (k : Nat) (ctx : BitVec 10) (p : L1Line → Bool) (applied : Bool) (fence : Nat) : State × List Nat :=
  let shared := sharedWbs (coreOf s k) ctx p applied
  let s := onCore s k (fun c => { c with wbs := c.wbs.map (fun e => if shared.contains e.1 then (e.1, { e.2 with waiters := e.2.waiters ++ [fence] }) else e) })
  let keys := linesWhere (coreOf s k) ctx p
  keys.foldl (fun a key => [0, 1, 2, 3].foldl (fun a i =>
    let (s, ns) := startWriteBack a.1 k key i fence
    (s, a.2 ++ ns)) a) (s, shared)

/-- A line whose virtual line lies in a range of bytes (R346): bits 63:60 and 55:8 of the line's address are at or above
those of the first byte and at or below those of the last. -/
def inRange (va : Word) (n : Nat) (l : L1Line) : Bool :=
  let lo := va.toNat % 2 ^ 56
  let a := l.va.toNat % 2 ^ 56
  n != 0 && fieldOf l.va 60 4 == fieldOf va 60 4 && lo / 256 ≤ a / 256 && a / 256 ≤ (lo + n - 1) / 256

/-- The ways of a bank: every line of it leaves, dirty bytes of every context written back (R75). -/
def emptyWay (s : State) (k bank : Nat) : State :=
  (List.range 128).foldl (fun s i => if (look (coreOf s k).l1 (bank * 128 + i)).isSome then evictLine s k (bank * 128 + i) else s) s

end Sys2Proof.Machine
end

