-- ==== Sys2Proof/Machine/Xlate.lean ====
section
/-! DEFINITION. Translation: table entries, the two walks, read-duplicate leaves, the TLB of a quartet and the host's
lower half (R159 to R175). -/

namespace Sys2Proof.Machine

/-- What an access is for: the ACC byte of R131. -/
structure Acc where
  read : Bool := false
  write : Bool := false
  atomic : Bool := false
  copyDst : Bool := false
  fetch : Bool := false
  /-- MOPEN's translation of T: a replicated page is none of its faults (R98) -/
  dup : Bool := false
  deriving DecidableEq, Repr

def Acc.code (a : Acc) : Nat :=
  (if a.read then 1 else 0) + (if a.write then 2 else 0) + (if a.atomic then 4 else 0) + (if a.copyDst then 8 else 0) +
    (if a.fetch then 16 else 0)

/-- An access that needs W and sets D. -/
def Acc.writes (a : Acc) : Bool := a.write || a.atomic || a.copyDst

def accRead : Acc := { read := true }
def accWrite : Acc := { write := true }
def accAtomic : Acc := { atomic := true }
def accFetch : Acc := { fetch := true }
def accCopyDst : Acc := { write := true, copyDst := true }

/-- A translation fault: cause, subcode, level, IPA; `hold` when its lanes park with no record (R175, R179). -/
structure XFault where
  cause : Nat
  sub : Nat := 0
  level : Nat := 0
  ipa : Nat := 0
  hold : Hold := .none
  deriving DecidableEq, Repr

/-! ### Entries (R161, R162) -/

def peV (e : Nat) : Bool := bitAt e 0
def peLeaf (e : Nat) : Bool := bitAt e 1
def peW (e : Nat) : Bool := bitAt e 2
def peX (e : Nat) : Bool := bitAt e 3
def peD (e : Nat) : Bool := bitAt e 5
def peC16 (e : Nat) : Bool := bitAt e 6
def peRdup (e : Nat) : Bool := bitAt e 7
def peMig (e : Nat) : Bool := bitAt e 8
def peAddr (e : Nat) : Nat := bitsAt e 12 40 * 4096
def peRec (e : Nat) : Nat := bitsAt e 9 3

/-- The index of an address at a level. -/
def levelIndex (a lvl : Nat) : Nat := if lvl = 0 then a / 2 ^ 48 % 256 else a / 2 ^ (48 - 9 * lvl) % 512

/-- The offset bits under a leaf of a level. -/
def leafBits (lvl : Nat) : Nat := 48 - 9 * lvl

/-- A malformed entry of a level, in stage 1 or stage 2 (R162). MIG in a stage-2 pointer, for which R162 names no consequence, counts as
a breach: DESIGN CHOICE, log 10. -/
def malformed (e lvl : Nat) (stage2 : Bool) : Bool :=
  bitsAt e 52 12 != 0 ||
  (!stage2 && (peRdup e || peMig e)) ||
  (peLeaf e && lvl < 2) || (!peLeaf e && lvl == 4) ||
  (peC16 e && !(peLeaf e && lvl == 4)) ||
  (!(peLeaf e && peRdup e) && peRec e != 0) ||
  (peRdup e && !(peLeaf e && (lvl == 3 || (lvl == 4 && peC16 e)))) ||
  (peMig e && !peLeaf e) ||
  (peLeaf e && !peRdup e && peAddr e % 2 ^ leafBits lvl != 0)

/-- The size code of a leaf: 0 for 4 KiB, 1 for 64 KiB, 2 for 2 MiB, 3 for 1 GiB. -/
def sizeCode (lvl e : Nat) : Nat := if lvl = 2 then 3 else if lvl = 3 then 2 else if peC16 e then 1 else 0
def sizeBits (size : Nat) : Nat := [12, 16, 21, 30].getD size 12

/-- The member of a contiguous-16 run that an access uses, and whether the run is consistent: its own entry, or an undefined one when the
run is inconsistent (R162). The A and D bits, which the walker itself sets in single entries, are left out of the comparison, and a run of RDUP
leaves is consistent when all of them name one record, as R179 writes it (DEDUCED, log 10). -/
def runMember (s : State) (entryPa e : Nat) : Nat × Bool :=
  let base := entryPa / 128 * 128
  let own := entryPa / 8 % 16
  let es := (List.range 16).map (fun j => homeRead s (base + 8 * j) 8)
  let low (x : Nat) : Nat := bitsAt x 0 12 - bitsAt x 4 2 * 16
  let first := peAddr (es.getD 0 0)
  if es.all (fun x => low x == low e) &&
      (if peRdup e then es.all (fun x => peAddr x == peAddr e) else first % 65536 = 0 && es.zipIdx.all (fun x => peAddr x.1 == first + 4096 * x.2)) then (own, true)
  else (Config.freeMember s.fresh (BitVec.ofNat 64 entryPa) % 16, false)

/-- A leaf found by a walk: where its entry lies, the entry, its level, the output address, and the size code of what it maps: a member
of an inconsistent run maps its own 4 KiB alone (R162). -/
structure Leaf where
  entryPa : Nat
  e : Nat
  lvl : Nat
  out : Nat
  size : Nat
  deriving DecidableEq, Repr

/-- A walk of a table: at each level the entry's address is given by `at'` (stage 1 translates it, stage 2 does not). -/
def walkFrom (at' : State → Nat → Nat → State × (Nat ⊕ XFault)) (cause : Nat) (stage2 : Bool) (a : Nat) :
    Nat → Nat → State → Nat → State × (Leaf ⊕ XFault)
  | 0, lvl, s, _ => (s, .inr { cause := cause, sub := subEntry, level := lvl })
  | n + 1, lvl, s, t =>
    match at' s (t + levelIndex a lvl * 8) lvl with
    | (s, .inr f) => (s, .inr f)
    | (s, .inl pa) =>
      let e := homeRead s pa 8
      if !peV e then (s, .inr { cause := cause, sub := subInvalid, level := lvl, ipa := a })
      else if malformed e lvl stage2 then (s, .inr { cause := cause, sub := subEntry, level := lvl, ipa := a })
      else if peLeaf e then
        if lvl = 4 && peC16 e then
          let j := runMember s pa e
          let s := { s with fresh := s.fresh + 1 }
          let pa' := pa / 128 * 128 + 8 * j.1
          let e' := homeRead s pa' 8
          if !peV e' then (s, .inr { cause := cause, sub := subInvalid, level := lvl, ipa := a })
          else if malformed e' lvl stage2 then (s, .inr { cause := cause, sub := subEntry, level := lvl, ipa := a })
          else (s, .inl { entryPa := pa', e := e', lvl := lvl, out := peAddr e' + a % 4096, size := if j.2 then 1 else 0 })
        else (s, .inl { entryPa := pa, e := e, lvl := lvl, out := peAddr e + a % 2 ^ leafBits lvl, size := sizeCode lvl e })
      else walkFrom at' cause stage2 a n (lvl + 1) s (peAddr e)

/-- set_ad: A always, D on a write, by a compare-and-swap at the entry's home (R164). In this model nothing comes between
the read and the swap, so no walk restarts (log 10). -/
def setAd (s : State) (pa : Nat) (write : Bool) : State :=
  let e := homeRead s pa 8
  let e' := (if bitAt e 4 then e else e + 16) + (if write && !bitAt e 5 then 32 else 0)
  if e' = e then s else deviceWrite s pa 8 e'

/-! ### Replica records (R173, R174) -/

/-- The address of the replica record that an RDUP leaf names. -/
def replicaPa (e : Nat) : Nat := peAddr e + peRec e * 64

/-- Field of a replica record: PAGE d, MASK, SIZE, REFS, PIECE p. -/
def replicaPage (s : State) (r d : Nat) : Nat := homeRead s (r + 8 * d) 8
def replicaMask (s : State) (r : Nat) : Nat := homeRead s (r + 0x20) 1
def replicaBits (s : State) (r : Nat) : Nat := if homeRead s (r + 0x21) 1 = 2 then 21 else 16
def replicaRefs (s : State) (r : Nat) : Nat := homeRead s (r + 0x22) 1
def replicaPiece (s : State) (r p : Nat) : Nat := bitsAt (homeRead s (r + 0x28 + p / 2) 1) (4 * (p % 2)) 4

/-- The piece of an IPA, and whether it is collapsed. -/
def pieceOf (s : State) (r ipa : Nat) : Nat := ipa % 2 ^ replicaBits s r / 2 ^ 16
def pieceCollapsed (s : State) (r ipa : Nat) : Bool := bitAt (replicaPiece s r (pieceOf s r ipa)) 3

/-- The lowest die that holds a copy. -/
def lowestCopy (s : State) (r : Nat) : Nat := ((List.range 4).find? (bitAt (replicaMask s r))).getD 0

/-- The address that a read on die `d` uses (R174). -/
def replicaOut (s : State) (r ipa d : Nat) : Nat :=
  let die :=
    if pieceCollapsed s r ipa then replicaPiece s r (pieceOf s r ipa) % 4
    else if bitAt (replicaMask s r) d then d else lowestCopy s r
  replicaPage s r die + ipa % 2 ^ replicaBits s r

/-! ### Stage 2 -/

/-- Every address of a range is populated HBM open to stage-2 tables, or every one lies in the host windows (R84). -/
def rangePopulated (base n : Nat) : Bool :=
  (isHbm base && isHbm (base + n - 1)) || (isHostWindow base && isHostWindow (base + n - 1))

/-- A frame of a range is in quarantine (R93). -/
def rangeQuarantined (s : State) (base n : Nat) : Bool := s.quar.any (fun e => base < (e.1 + 1) * 4096 && e.1 * 4096 < base + n)

/-- The bytes that a leaf names: its whole page, or for a read-duplicate leaf the 64 KiB piece of the copy that an address lies in. The
faults POP and QUAR are of the leaf (R84, R93, R164), so one such frame anywhere in it gives them: DEDUCED, log 10. -/
def leafRange (l : Leaf) (out : Nat) : Nat × Nat :=
  if peRdup l.e then (out / 65536 * 65536, 65536) else (peAddr l.e, 2 ^ leafBits l.lvl)

/-- A stage-2 translation. -/
structure Out2 where
  pa : Nat
  w : Bool
  x : Bool
  size : Nat
  dirty : Bool
  rdup : Bool
  mig : Bool
  deriving DecidableEq, Repr

/-- What an RDUPW fault does to its lanes: they park with no record while the die collapses the piece, or with a KIND 5
record in the host-assisted mode (R175), which a missing frame for a split also takes (R176). -/
def rdupwHold (s : State) (p ipa lvl : Nat) : Hold :=
  let x := polderOf s p
  if x.hostMigrate || (lvl = 3 && !bitAt x.psplit.toNat 0) then .none else .page (ipa / 65536 * 65536)

/-- The stage-2 walk of an IPA for an access, as die `d` sees it, with the checks of R164 in the order of R165; A and D are
set in the leaf, and a page that becomes dirty is logged (R134). -/
def stage2 (s : State) (p ipa : Nat) (acc : Acc) (d : Nat) : State × (Out2 ⊕ XFault) :=
  let x := polderOf s p
  if 2 ^ 52 ≤ ipa then (s, .inr { cause := causeXlate2, sub := subForm, ipa := ipa })
  else if !bitAt x.ps2root.toNat 0 then (s, .inr { cause := causeXlate2, sub := subInvalid, ipa := ipa })
  else
    match walkFrom (fun s pa _ => (s, .inl pa)) causeXlate2 true ipa 5 0 s (fieldOf x.ps2root 12 40 * 4096) with
    | (s, .inr f) => (s, .inr { f with ipa := ipa })
    | (s, .inl l) =>
      let rd := peRdup l.e
      let r := replicaPa l.e
      let coll := rd && pieceCollapsed s r ipa
      let out := if rd then replicaOut s r ipa d else l.out
      let names := leafRange l out
      if !rangePopulated names.1 names.2 then (s, .inr { cause := causeAccess, sub := 1, level := l.lvl, ipa := ipa })
      else if acc.writes && !peW l.e then (s, .inr { cause := causePerm, sub := 1, level := l.lvl, ipa := ipa })
      else if acc.fetch && !peX l.e then (s, .inr { cause := causePerm, sub := 2, level := l.lvl, ipa := ipa })
      else if rangeQuarantined s names.1 names.2 then (s, .inr { cause := causeXlate2, sub := subQuar, level := l.lvl, ipa := ipa })
      else if acc.writes && rd && !coll && !acc.dup then
        (s, .inr { cause := causeXlate2, sub := subRdupw, level := l.lvl, ipa := ipa, hold := rdupwHold s p ipa l.lvl })
      else if acc.writes && peMig l.e then (s, .inr { cause := causeXlate2, sub := subRdupw, level := l.lvl, ipa := ipa, hold := .page (ipa / 65536 * 65536) })
      else
        let sz := if rd then min l.size 1 else l.size
        -- the log names the leaf that D is of (R133), the TLB no more than the piece that has the copy
        let s := if acc.writes && !peD l.e then logDirty s p (ipa / 2 ^ sizeBits l.size * 2 ^ sizeBits l.size) l.size else s
        let s := setAd s l.entryPa acc.writes
        (s, .inl { pa := out, w := peW l.e, x := peX l.e, size := sz, dirty := acc.writes || peD l.e, rdup := rd && !coll, mig := peMig l.e })

/-! ### Stage 1 and the TLB -/

/-- A translation, as a TLB entry and the address it gives. -/
structure Xl where
  pa : Nat
  ipa : Nat
  w : Bool
  x : Bool
  dirty : Bool
  rdup : Bool
  mig : Bool
  size : Nat
  deriving DecidableEq, Repr

/-- The stage-1 walk of an upper-half address (R164). -/
def walk1 (s : State) (c p : Nat) (va : Word) (acc : Acc) (d : Nat) : State × (Xl ⊕ XFault) :=
  let root := (ctxOf s c).cs1root
  let a := fieldOf va 0 56
  if !bitAt root.toNat 0 then (s, .inr { cause := causeXlate, sub := subInvalid })
  else
    let step (s : State) (ipa lvl : Nat) : State × (Nat ⊕ XFault) :=
      match stage2 s p ipa accRead d with
      | (s, .inl o) => (s, .inl o.pa)
      | (s, .inr f) => (s, .inr { cause := causeWalk2, sub := f.sub, level := lvl, ipa := ipa })
    match walkFrom step causeXlate false a 5 0 s (fieldOf root 12 40 * 4096) with
    | (s, .inr f) => (s, .inr { f with ipa := if f.cause = causeWalk2 then f.ipa else 0 })
    | (s, .inl l) =>
      if acc.writes && !peW l.e then (s, .inr { cause := causePerm, sub := 1 })
      else if acc.fetch && !peX l.e then (s, .inr { cause := causePerm, sub := 2 })
      else
        match stage2 s p l.out acc d with
        | (s, .inr f) => (s, .inr f)
        | (s, .inl o) =>
          let s := setAd s l.entryPa acc.writes
          (s, .inl { pa := o.pa, ipa := l.out, w := peW l.e && o.w, x := peX l.e && o.x,
                     dirty := (acc.writes || peD l.e) && o.dirty, rdup := o.rdup, mig := o.mig, size := min l.size o.size })

/-- The TLB entries of a core's quartet. -/
def tlbOf (s : State) (k : Nat) : List TlbEntry := lookD s.tlb (quartetOf k) []

/-- Whether an entry covers an address of a context. -/
def TlbEntry.covers (t : TlbEntry) (ctx : BitVec 10) (va : Word) : Bool :=
  t.ctx == ctx && (if t.upper then isUpper va else isLower va) && fieldOf t.va 0 56 / 2 ^ sizeBits t.size == fieldOf va 0 56 / 2 ^ sizeBits t.size

/-- The capacity of a quartet's TLB (R167). -/
def tlbSize : Nat := 8192

/-- An entry is kept; the oldest leaves when the TLB is full: replacement is not architectural (log 9). -/
def tlbInsert (s : State) (k : Nat) (t : TlbEntry) : State :=
  let l := (tlbOf s k).filter (fun o => !(o.covers t.ctx (if t.upper then 2 ^ 63 + t.va else t.va)))
  { s with tlb := put s.tlb (quartetOf k) ((t :: l).take tlbSize) }

/-- The TLB entry of a translation. -/
def tlbEntryOf (ctx : BitVec 10) (va : Word) (x : Xl) : TlbEntry :=
  let m := 2 ^ sizeBits x.size
  { ctx := ctx, upper := bitAt va.toNat 63, va := BitVec.ofNat 64 (fieldOf va 0 56 / m * m), size := x.size, ipa := x.ipa / m * m,
    pa := x.pa / m * m, w := x.w, x := x.x, dirty := x.dirty, rdup := x.rdup, mig := x.mig }

/-- Whether a TLB entry serves an access without a walk: D is set for a write (R166), and neither replication nor migration
stands in its way. The agent is asked for every write check of the lower half (R172). -/
def TlbEntry.serves (t : TlbEntry) (acc : Acc) : Bool :=
  (!acc.writes || (t.upper && t.w && t.dirty && !t.rdup && !t.mig)) && (!acc.fetch || t.x)

/-- The TLB entry of a core's quartet that serves an access. One with a frame that has been put into quarantine since serves none (R93). -/
def tlbHit (s : State) (k : Nat) (ctx : BitVec 10) (va : Word) (acc : Acc) : Option TlbEntry :=
  (tlbOf s k).find? (fun t => t.covers ctx va && t.serves acc && !rangeQuarantined s t.pa (2 ^ sizeBits t.size))

/-- A write check of an upper-half page marks its heat entry (R177). -/
def noteWritten (s : State) (p : Nat) (va : Word) (acc : Acc) (pa ipa : Nat) : State :=
  if acc.writes && isUpper va && isHbm pa then markWritten s (homeDie pa) p ipa else s

/-- The result of a translation: an address and its IPA, a fault, or a request to the host that must be answered first. -/
inductive XRes where
  | ok (pa ipa : Nat)
  | fault (f : XFault)
  | wait (req : Nat)
  deriving DecidableEq, Repr

/-! ### The lower half (R171, R172) -/

/-- The XLREQ packet of a request. -/
def xlreqPacket (s : State) (ctx : BitVec 10) (req acc : Nat) (va : Word) : Packet :=
  let body := 1 + acc * 2 ^ 8 + ctx.toNat * 2 ^ 16 + req % 2 ^ 32 * 2 ^ 32 + va.toNat * 2 ^ 64
  { kind := kXlreq, cls := 1, len := 1, polder := BitVec.ofNat 6 (ctxOf s ctx.toNat).polder, dst := s.device.hostNode, ctx := ctx,
    payload := [BitVec.ofNat 512 body] }

/-- The page of an address. -/
def pageOfVa (va : Word) : Word := va &&& 0xF0FF_FFFF_FFFF_F000

/-- The request that waits, or was answered, for an access. -/
def findXlReq (s : State) (k : Nat) (ctx : BitVec 10) (va : Word) (acc : Acc) : Option (Nat × XlReq) :=
  s.xlreqs.find? (fun e => e.2.core == k && e.2.ctx == ctx && e.2.va == pageOfVa va && e.2.acc.toNat == acc.code)

/-- A lower-half access that misses: one XLREQ, then its answer and the stage-2 walk. An OK answer to a write check is its success, whatever
PERMS says (R172). -/
def hostXlate (s : State) (k : Nat) (ctx : BitVec 10) (p : Nat) (va : Word) (acc : Acc) : State × XRes :=
  if !s.device.hostV then (s, .fault { cause := causeXlate, sub := subTimeout })
  else
    match findXlReq s k ctx va acc with
    | none =>
      let n := s.nextReq
      let r : XlReq := { core := k, ctx := ctx, va := pageOfVa va, acc := BitVec.ofNat 8 acc.code, sent := (coreOf s k).ccyc, limit := s.fabric.ftimeout.toNat }
      let s := { s with nextReq := n + 1, xlreqs := put s.xlreqs n r }
      (submit s k 0 (xlreqPacket s ctx n acc.code (pageOfVa va)), .wait n)
    | some (n, r) =>
      let s' := { s with xlreqs := del s.xlreqs n }
      if r.timedOut then (s', .fault { cause := causeXlate, sub := subTimeout })
      else
        match r.answer with
        | none => (s, .wait n)
        | some (ipa, size, w, x, status) =>
          if status = 1 then (s', .fault { cause := causeXlate, sub := subHost })
          else if status != 0 || (acc.fetch && !x) then
            (s', .fault { cause := causePerm, sub := if acc.fetch then 2 else 1 })
          else
            let a := ipa + fieldOf va 0 56 % 2 ^ sizeBits size
            match stage2 s' p a acc (dieOfCore k) with
            | (s, .inr f) => (s, .fault f)
            | (s, .inl o) =>
              let x' : Xl := { pa := o.pa, ipa := a, w := w && o.w, x := x && o.x, dirty := acc.writes, rdup := o.rdup, mig := o.mig, size := min size o.size }
              (if r.stale then s else tlbInsert s k (tlbEntryOf ctx va x'), .ok o.pa a)

/-! ### One access -/

/-- The translation of an access of a context on a core: the TLB, else the walk (upper half) or the host (lower half). A
write check or a write marks the page's heat entry (R177). -/
def translate (s : State) (k : Nat) (ctx : BitVec 10) (va : Word) (acc : Acc) : State × XRes :=
  let p := (ctxOf s ctx.toNat).polder
  match tlbHit s k ctx va acc with
  | some t => let off := fieldOf va 0 56 % 2 ^ sizeBits t.size
              (noteWritten s p va acc (t.pa + off) (t.ipa + off), .ok (t.pa + off) (t.ipa + off))
  | none =>
    if isUpper va then
      match walk1 s ctx.toNat p va acc (dieOfCore k) with
      | (s, .inr f) => (s, .fault f)
      | (s, .inl x) => (tlbInsert (noteWritten s p va acc x.pa x.ipa) k (tlbEntryOf ctx va x), .ok x.pa x.ipa)
    else if isLower va then hostXlate s k ctx p va acc
    else (s, .fault { cause := causeXlate, sub := subForm })

end Sys2Proof.Machine
end

