-- ==== Sys2Proof/Machine/MergeBase.lean ====
section
/-! DEFINITION. Merge sets as their coordinators and slices keep them (R95 to R115, R409). -/

namespace Sys2Proof.Machine

/-! ### Records and handles (R99, R363) -/

/-- The key of a set record. -/
def setKey (die slice record : Nat) : Nat := (die * 160 + slice) * 8 + record
def setIdKey (i : SetId) : Nat := setKey i.die.toNat i.slice.toNat i.record.toNat

/-- The key and generation that a handle names; none when FAIL is set or its slice is no slice. -/
def handleKey (h : Word) : Option (Nat × Nat) :=
  if bitAt h.toNat 63 || 160 ≤ fieldOf h 8 8 then none
  else some (setKey (fieldOf h 16 2) (fieldOf h 8 8) (fieldOf h 0 3), fieldOf h 32 31)

/-- The set that a handle names, when its record holds that generation (R104, R114). -/
def setOfHandle (s : State) (h : Word) : Option (Nat × MergeSet) :=
  match handleKey h with
  | none => none
  | some (k, g) =>
    match look s.sets k with
    | none => none
    | some m => if m.gen.toNat = g && m.st != .stale then some (k, m) else none

/-- The SetId of a handle. -/
def handleSet (h : Word) : SetId :=
  { die := BitVec.ofNat 2 (fieldOf h 16 2), slice := BitVec.ofNat 8 (fieldOf h 8 8), record := BitVec.ofNat 3 (fieldOf h 0 3) }

def setSet (s : State) (k : Nat) (m : MergeSet) : State := { s with sets := put s.sets k m }

/-! ### Contributors (R101) -/

def contribOf (m : MergeSet) (id : Nat) : Contrib := lookD m.contribs id {}
def setContrib (m : MergeSet) (id : Nat) (x : Contrib) : MergeSet := { m with contribs := put m.contribs id x }

/-- States 4, 5 and 6 are retired. -/
def Contrib.retired (x : Contrib) : Bool := x.st == .committed || x.st == .rejected || x.st == .aborted

/-- The R101 code of a state. -/
def ContribState.code : ContribState → Nat
  | .idle => 0 | .staging => 1 | .closed => 2 | .measured => 3 | .committed => 4 | .rejected => 5 | .aborted => 6

/-- The contributor ids of a set. -/
def idsOf (m : MergeSet) : List Nat := List.range m.expect

/-- The number of contributors in a state. -/
def countContrib (m : MergeSet) (p : Contrib → Bool) : Nat := ((idsOf m).filter (fun id => p (contribOf m id))).length

/-- Whether every contributor has retired. -/
def allRetired (m : MergeSet) : Bool := (idsOf m).all (fun id => (contribOf m id).retired)

/-- The slot of an id, and whether the id holds it (R102). -/
def slotOf (m : MergeSet) (id : Nat) : Nat := id % m.width
def holds (m : MergeSet) (id : Nat) : Bool := look m.slots (slotOf m id) == some id

/-- The slot of an id is freed and its berm lines cleared at every slice (R102). -/
def freeSlot (m : MergeSet) (id : Nat) : MergeSet :=
  let j := slotOf m id
  if holds m id then { m with slots := del m.slots j, berms := del m.berms j, badSlots := m.badSlots.filter (· != j) } else m

/-- An id retires without committing: REJECTED or ABORTED, its signal update to follow (R107, R109, R111). -/
def retireId (m : MergeSet) (id : Nat) (st : ContribState) : MergeSet :=
  let x := contribOf m id
  let m := freeSlot m id
  { setContrib m id { x with st := st, scale := 0, marked := false } with
    signals := m.signals ++ [(id, false)], measured := m.measured.filter (· != id) }

/-- Whether MABORT of an id retires it: it is IDLE, STAGING, CLOSED or MEASURED (R111). -/
def abortable (m : MergeSet) (id : Nat) : Bool := !(contribOf m id).retired

/-- The abort of one id. -/
def abortId (m : MergeSet) (id : Nat) : MergeSet := if abortable m id then retireId m id .aborted else m

/-- The abort of a whole set, in increasing id order (R111). -/
def abortSet (m : MergeSet) : MergeSet := { (idsOf m).foldl abortId m with aborting := true }

/-- The slices that home lines of T, rising. -/
def slicesOf (m : MergeSet) : List Nat := (List.range 160).filter (fun i => m.lines.any (fun l => homeSlice (l * 256) == i))

/-- R113: a killed context's claimed contributors are aborted. -/
def abortContext (s : State) (ctx : Nat) : State :=
  { s with sets := s.sets.map (fun e =>
      if e.2.st = .opened then
        (e.1, (idsOf e.2).foldl (fun m id => if (contribOf m id).claimedBy == some ctx then abortId m id else m) e.2)
      else e) }

/-! ### Quotas (R96, R98) -/

/-- Berm lines that a set holds in a slice of its die: its contributor slots' lines, and the contributor records at the
coordinator. -/
def setLinesIn (key : Nat) (m : MergeSet) (slice : Nat) : Nat :=
  m.width * (m.lines.filter (fun l => homeSlice (l * 256) == slice)).length +
    (if key / 8 % 160 = slice then ceilDiv (8 * m.expect) 256 else 0)

/-- Berm lines in use of a polder in a slice of a die. -/
def quotaUsed (s : State) (p die slice : Nat) : Nat :=
  (s.sets.filter (fun e => e.2.st == .opened && e.2.polder.toNat == p && e.1 / 1280 == die)).foldl
    (fun a e => a + setLinesIn e.1 e.2 slice) 0

/-- The quota of a polder in each slice of a die. -/
def quotaOf (s : State) (p die : Nat) : Nat := fieldOf (polderOf s p).pberm (16 * die) 16 / 10

/-- The free set record that a MOPEN takes at a coordinator (R98 step 6). -/
def freeRecord (s : State) (die slice : Nat) : Option Nat :=
  let keys := (List.range 8).map (fun r => setKey die slice r)
  match keys.find? (fun k => (look s.sets k).isNone) with
  | some k => some k
  | none =>
    let free := keys.filter (fun k => (look s.sets k).any (fun m => m.st != .opened))
    (free.foldl (fun (b : Option (Nat × Nat)) k =>
      let e := (lookD s.sets k {}).ended
      match b with
      | none => some (k, e)
      | some (_, e') => if e < e' then some (k, e) else b) none).map (·.1)

/-! ### Staging, measure, scale (R103, R106, R107) -/

/-- A stage of one element into the contributor's slot. -/
def stageElem (m : MergeSet) (id pa : Nat) (v : BitVec 32) : MergeSet :=
  let k := slotOf m id
  let b := lookD m.berms k []
  let old := lookD b pa 0
  { m with berms := put m.berms k (put b pa (BitVec.ofNat 32 (addF fmtF32 .rne old.toNat v.toNat))) }

/-- The square of an FP32 value, exact in FP64. -/
def squareF64 (x : Nat) : Nat := let v := unpackF fmtF32 x; packF fmtF64 .rne (mulV v v)

/-- The partial sum of a slice: touched elements in ascending address. -/
def partialSum (m : MergeSet) (id slice : Nat) : Nat :=
  if holds m id then
    ((lookD m.berms (slotOf m id) []).filter (fun e => homeSlice e.1 == slice)).foldl
      (fun a e => addF fmtF64 .rne a (squareF64 e.2.toNat)) 0
  else 0

/-- Σ: the partials in ascending slice number. -/
def sigmaOf (m : MergeSet) (x : Contrib) : Nat :=
  (slicesOf m).foldl (fun a i => addF fmtF64 .rne a (lookD x.partials i 0).toNat) 0

/-- Whether a bit pattern is a NaN or an infinity. -/
def notFinite (f : FloatFmt) (n : Nat) : Bool := n % f.signBit ≥ f.infBits

/-- The scale s of R106. -/
def scaleOf (lambda : BitVec 32) (sigma : Nat) : BitVec 32 :=
  let l := unpackF fmtF32 lambda.toNat
  let r := unpackF fmtF64 (sqrtF fmtF64 .rne (unpackF fmtF64 sigma))
  if cmpV r l > 0 then
    let q := divF fmtF64 .rne l r
    BitVec.ofNat 32 (packF fmtF32 .rne (unpackF fmtF64 q))
  else 0x3F80_0000

/-- The elements of a commit that lie in one line, each fused into T: the byte mask and the new bytes (R108). -/
def commitLine (s : State) (scale : BitVec 32) (line : Nat) (es : List (Nat × BitVec 32)) : Nat × Nat :=
  (es.filter (fun e => lineOf e.1 == line)).foldl (fun r e =>
    let off := e.1 % 256
    let new := fmaF fmtF32 .rne scale.toNat e.2.toNat (homeRead s e.1 4)
    (r.1 + 15 * 2 ^ off, r.2 + new * 2 ^ (8 * off))) (0, 0)

/-- A write of a set to a page of T or to its signal word makes the page dirty, and is logged (R100, R134). -/
def dirtyPage (s : State) (polder die ipa : Nat) : State := (stage2 s polder ipa accWrite die).1

/-- The IPA of a line of T. -/
def lineIpa (m : MergeSet) (line : Nat) : Nat := ((m.lines.zip m.ipas).find? (fun e => e.1 == line)).elim 0 (·.2)

/-- A contributor's slot is poisoned: so is all that its commit writes, as its scale comes from every value of the slot (R94, R106). -/
def bermPoison (m : MergeSet) (id : Nat) : Bool := m.badSlots.contains (slotOf m id)

/-- The bytes of a commit reach a line: as one write, or, where poison of the slot or of an old value goes on into them, sector by
sector with it (R94). -/
def commitWrite (s : State) (die line mask data : Nat) (bad : Bool) : State :=
  let spoilt (i : Nat) : Bool := bad || isPoisoned s (line * 256 + 64 * i)
  if !(maskSectors mask).any spoilt then dieWrite s die (line * 256) 256 mask data none
  else (maskSectors mask).foldl (fun t i =>
    dieWriteP t die (line * 256 + 64 * i) 64 (bitsAt mask (64 * i) 64) (bitsAt data (512 * i) 512) none (spoilt i) none) s

/-- A commit on one slice: each touched element, T[i] := fma(s, g, T[i]), each line as one write (R108). The lines of T are homed
on one die. -/
def applyCommit (s : State) (m : MergeSet) (die : Nat) (scale : BitVec 32) (bad : Bool) (es : List (Nat × BitVec 32)) : State :=
  ((es.map (fun e => lineOf e.1)).eraseDups).foldl (fun s line =>
    let (mask, data) := commitLine s scale line es
    commitWrite (dirtyPage s m.polder.toNat die (lineIpa m line)) die line mask data bad) s

/-- Whether every slice has applied a commit. -/
def appliedAll (m : MergeSet) (seq : Nat) : Bool := (slicesOf m).all (fun i => seq < lookD m.applied i 0)

/-- The elements of the next commit of a slice. -/
def nextElems (m : MergeSet) (slice : Nat) : List (Nat × BitVec 32) :=
  match m.commits[lookD m.applied slice 0]? with
  | none => []
  | some (id, _) => if holds m id then (lookD m.berms (slotOf m id) []).filter (fun e => homeSlice e.1 == slice) else []

/-- A slice applies its next commit; the last slice frees the contributor's slot. -/
def commitSlice (s : State) (key : Nat) (m : MergeSet) (slice : Nat) : State :=
  let n := lookD m.applied slice 0
  match m.commits[n]? with
  | none => s
  | some (id, scale) =>
    let s := applyCommit s m (key / 1280) scale (bermPoison m id) (nextElems m slice)
    let m := { m with applied := put m.applied slice (n + 1) }
    setSet s key (if appliedAll m n then freeSlot m id else m)

/-- Every commit of a set that has been issued is applied at every slice, in sequence order. -/
def finishCommits (s : State) (key n : Nat) : State :=
  (List.range n).foldl (fun s _ => (slicesOf (lookD s.sets key {})).foldl (fun s i => commitSlice s key (lookD s.sets key {}) i) s) s

/-- R113: a torn-down polder's open sets are aborted, commits already issued completing first (R111), without signal updates; what
they hold is released. -/
def releasePolderSets (s : State) (p : Nat) : State :=
  ((s.sets.filter (fun e => e.2.st == .opened && e.2.polder.toNat == p)).map (·.1)).foldl (fun s key =>
    let s := finishCommits s key (lookD s.sets key {}).commits.length
    setSet { s with nextEnd := s.nextEnd + 1 } key
      { abortSet (lookD s.sets key {}) with st := .aborted, ended := s.nextEnd, slots := [], berms := [], badSlots := [], signals := [], measured := [] }) s

/-! ### The status words (R114) -/

def setWord (m : MergeSet) : Word :=
  let st := match m.st with | .stale => 0 | .opened => 1 | .complete => 2 | .aborted => 3
  BitVec.ofNat 64 (st * 2 ^ 61 + countContrib m Contrib.retired * 2 ^ 48 + countContrib m (·.st == .rejected) * 2 ^ 35 +
    countContrib m (·.st == .aborted) * 2 ^ 22 + countContrib m (fun x => x.st == .closed || x.st == .measured) * 2 ^ 9)

def contribWord (m : MergeSet) (id : Nat) : Word :=
  let x := contribOf m id
  BitVec.ofNat 64 (x.st.code * 2 ^ 61 + x.seq.getD 0 * 2 ^ 48 + x.scale.toNat)

/-- The first rule of R104 that a stage or close breaks, before it reaches its home: STALE, POLDER, ID. -/
def mergeRule (s : State) (h : Word) (polder : Option Nat) (id : Nat) : Option Nat :=
  match setOfHandle s h with
  | none => some 1
  | some (_, m) =>
    if m.st != .opened then some 1
    else if polder.any (· != m.polder.toNat) then some 2
    else if id ≥ m.expect then some 3
    else none

end Sys2Proof.Machine
end

