-- ==== Sys2Proof/Machine/Shake.lean ====
section
/-! DEFINITION. SHAKE256 (FIPS 202), which DEVHASH and the measurements name (R62, R418). Lanes x + 5y of the state. -/

namespace Sys2Proof.Machine

/-- Rotation offsets of ρ, by lane x + 5y. -/
def keccakRot : List Nat :=
  [0, 1, 62, 28, 27, 36, 44, 6, 55, 20, 3, 10, 43, 25, 39, 41, 45, 15, 21, 8, 18, 2, 61, 56, 14]

/-- Round constants of ι. -/
def keccakRc : List Word :=
  [0x0000000000000001, 0x0000000000008082, 0x800000000000808A, 0x8000000080008000, 0x000000000000808B,
   0x0000000080000001, 0x8000000080008081, 0x8000000000008009, 0x000000000000008A, 0x0000000000000088,
   0x0000000080008009, 0x000000008000000A] ++
  [0x000000008000808B, 0x800000000000008B, 0x8000000000008089, 0x8000000000008003, 0x8000000000008002,
   0x8000000000000080, 0x000000000000800A, 0x800000008000000A, 0x8000000080008081, 0x8000000000008080,
   0x0000000080000001, 0x8000000080008008]

/-- One lane of a Keccak state. -/
def kLane (a : List Word) (x y : Nat) : Word := a.getD (x % 5 + 5 * (y % 5)) 0

/-- One round: θ, ρ, π, χ and ι. -/
def keccakRound (a : List Word) (rc : Word) : List Word :=
  let c := (List.range 5).map (fun x => kLane a x 0 ^^^ kLane a x 1 ^^^ kLane a x 2 ^^^ kLane a x 3 ^^^ kLane a x 4)
  let d := (List.range 5).map (fun x => c.getD ((x + 4) % 5) 0 ^^^ (c.getD ((x + 1) % 5) 0).rotateLeft 1)
  let t := (List.range 25).map (fun i => (a.getD i 0 ^^^ d.getD (i % 5) 0).rotateLeft (keccakRot.getD i 0))
  -- π: lane (x, y) of the result is lane (x + 3y, x)
  let p := (List.range 25).map (fun i => kLane t (i % 5 + 3 * (i / 5)) (i % 5))
  let r := (List.range 25).map (fun i =>
    kLane p (i % 5) (i / 5) ^^^ (~~~ kLane p (i % 5 + 1) (i / 5) &&& kLane p (i % 5 + 2) (i / 5)))
  r.set 0 (r.getD 0 0 ^^^ rc)

/-- Keccak-f[1600]. -/
def keccakF (a : List Word) : List Word := keccakRc.foldl keccakRound a

/-- The word of eight bytes, low first. -/
def leWord (bs : List Byte) : Word := BitVec.ofNat 64 (ofBytes (bs.take 8))

/-- A block of 136 bytes is absorbed. -/
def absorb (a : List Word) (block : List Byte) : List Word :=
  keccakF ((List.range 25).map (fun i => if i < 17 then a.getD i 0 ^^^ leWord (block.drop (8 * i)) else a.getD i 0))

/-- The padded message of SHAKE256: 0x1F, zeros, and the top bit of the last byte. -/
def shakePad (msg : List Byte) : List Byte :=
  let r := msg.length % 136
  if r = 135 then msg ++ [0x9F] else msg ++ [0x1F] ++ List.replicate (134 - r) 0 ++ [0x80]

/-- Absorbing `n` blocks. -/
def absorbAll (a : List Word) : Nat → List Byte → List Word
  | 0, _ => a
  | n + 1, bs => absorbAll (absorb a (bs.take 136)) n (bs.drop 136)

/-- The first `n` bytes, at most 136, of SHAKE256. -/
def shake256 (msg : List Byte) (n : Nat) : List Byte :=
  let m := shakePad msg
  let a := absorbAll (List.replicate 25 0) (m.length / 136) m
  ((a.take 17).flatMap (fun x => toBytes 8 x.toNat)).take n

end Sys2Proof.Machine
end

