-- ==== Sys2Proof/Machine/Launch.lean ====
section
/-! DEFINITION. Launch records (R12, R13, R118), queues and their completion counters (R116 to R120), the release of teams
and banks (R34, R74), and the kill of a context (R203). -/

namespace Sys2Proof.Machine

/-! ### The launch record (R12) -/

/-- A field of a record, at a byte offset. -/
def lrField (r : BitVec 1024) (off n : Nat) : Nat := bitsAt r.toNat (8 * off) (8 * n)

def lrCode (r : BitVec 1024) : Word := BitVec.ofNat 64 (lrField r 0x00 8)
def lrStamp (r : BitVec 1024) : Word := BitVec.ofNat 64 (lrField r 0x08 8)
def lrGroups (r : BitVec 1024) : Nat := lrField r 0x10 1
def lrW (r : BitVec 1024) : Nat := lrField r 0x11 1
def lrH (r : BitVec 1024) : Nat := lrField r 0x12 1
def lrScrb (r : BitVec 1024) : Nat := lrField r 0x13 1
def lrFifob (r : BitVec 1024) : Nat := lrField r 0x14 1
def lrPrio (r : BitVec 1024) : Nat := lrField r 0x15 1
def lrRestartable (r : BitVec 1024) : Bool := bitAt (lrField r 0x16 1) 0
def lrTrapmode (r : BitVec 1024) : Bool := bitAt (lrField r 0x16 1) 1
def lrFootprint (r : BitVec 1024) : Nat := lrField r 0x18 2
def lrGridX (r : BitVec 1024) : Nat := lrField r 0x1C 4
def lrGridY (r : BitVec 1024) : Nat := lrField r 0x20 4
def lrGridZ (r : BitVec 1024) : Nat := lrField r 0x24 4
def lrArgptr (r : BitVec 1024) : Word := BitVec.ofNat 64 (lrField r 0x28 8)
def lrArgsize (r : BitVec 1024) : Nat := lrField r 0x30 4
def lrWaitValid (r : BitVec 1024) : Bool := bitAt (lrField r 0x34 1) 7
def lrWaitq (r : BitVec 1024) : Nat := bitsAt (lrField r 0x34 1) 0 3
def lrWaitval (r : BitVec 1024) : Nat := lrField r 0x38 8
def lrTraph (r : BitVec 1024) : Word := BitVec.ofNat 64 (lrField r 0x40 8)

/-- The clusters of a record's grid (R9). -/
def lrClusters (r : BitVec 1024) : Nat := lrGridX r * lrGridY r * lrGridZ r

/-- A reserved byte or bit is non-zero (R12): RESV. -/
def lrReserved (r : BitVec 1024) : Bool :=
  lrField r 0x16 1 / 4 != 0 || lrField r 0x17 1 != 0 || lrField r 0x1A 2 != 0 || bitsAt (lrField r 0x34 1) 3 4 != 0 ||
    lrField r 0x35 3 != 0 || lrField r 0x48 56 != 0

/-- A field is outside its limit (R12): FIELD. -/
def lrOutside (r : BitVec 1024) : Bool :=
  lrField r 0x00 8 % 8 != 0 || lrGroups r < 1 || 32 < lrGroups r || lrW r < 1 || 12 < lrW r || lrH r < 1 || 12 < lrH r ||
    40 < lrScrb r + lrFifob r || lrFootprint r < 1 || 128 < lrFootprint r || lrGridX r < 1 || lrGridY r < 1 || lrGridZ r < 1 ||
    lrField r 0x28 8 % 8 != 0 || 65536 < lrArgsize r || lrArgsize r % 8 != 0 || lrField r 0x40 8 % 8 != 0 ||
    (!lrTrapmode r && lrField r 0x40 8 != 0)

/-- The physical rectangle of a shape (R11); none for a shape not listed. -/
def shapeRect (w h : Nat) : Option (Nat × Nat) :=
  if (1 ≤ w && w ≤ 3 && 1 ≤ h && h ≤ 4) || (w == 4 && 1 ≤ h && h ≤ 3) || (w == 2 && h == 6) || (w == 6 && h == 2) then some (w, h)
  else if w == 12 && h == 1 then some (6, 2)
  else if w == 1 && h == 12 then some (2, 6)
  else none

/-- The core offset of a logical position (R11). -/
def shapePlace (w h px py : Nat) : Nat × Nat :=
  if w = 12 && h = 1 then (if px < 6 then (px, 0) else (11 - px, 1))
  else if w = 1 && h = 12 then (if py < 6 then (0, py) else (1, 11 - py))
  else (px, py)

/-- The core at mesh position (x, y) of a die. -/
def coreAt (die x y : Nat) : Nat := die * 80 + y * 10 + x

/-- The logical positions of a shape, in rank order. -/
def shapeTeams (w h : Nat) : List (Nat × Nat) := (List.range h).flatMap (fun py => (List.range w).map (fun px => (px, py)))

/-- The cores of a rectangle for a shape. -/
def rectCore (r : Rect) (w h px py : Nat) : Nat :=
  let (dx, dy) := shapePlace w h px py
  coreAt r.die.toNat (r.x0 + dx) (r.y0 + dy)

/-- Whether a rectangle of a physical shape lies on the die. -/
def rectFits (r : Rect) (pw ph : Nat) : Bool := r.x0 + pw ≤ 10 && r.y0 + ph ≤ 8

/-- Every rectangle of the mesh that a physical shape fits. -/
def allRects (pw ph : Nat) : List Rect :=
  (List.range 4).flatMap (fun d => (List.range (11 - pw)).flatMap (fun x => (List.range (9 - ph)).map (fun y =>
    ({ die := BitVec.ofNat 2 d, x0 := x, y0 := y } : Rect))))

/-- Whether a polder owns a rectangle of a shape (R13, NORECT). -/
def ownsRect (s : State) (p w h : Nat) : Bool :=
  match shapeRect w h with
  | none => false
  | some (pw, ph) => (allRects pw ph).any (fun r => (shapeTeams w h).all (fun e => (polderOf s p).owns (rectCore r w h e.1 e.2)))

/-- DEVHASH: the first 8 bytes of SHAKE256 over VERSION and DOPTIONS (R62). -/
def devHash (s : State) : Word :=
  leWord (shake256 (toBytes 4 s.device.version.toNat ++ toBytes 8 s.device.xset.toNat) 8)

/-! ### Queues and completion (R34, R117, R120) -/

def queueOf (x : Ctx) (q : Nat) : LaunchQueue := lookD x.queues q {}
def onQueue (s : State) (c q : Nat) (f : LaunchQueue → LaunchQueue) : State :=
  onCtx s c (fun x => { x with queues := put x.queues q (f (queueOf x q)) })

/-- QDONE rises over every record that is finished in order. -/
def advanceQdone (x : LaunchQueue) : Nat → LaunchQueue
  | 0 => x
  | n + 1 =>
    if x.finished.contains x.qdone.toNat then
      advanceQdone { x with finished := x.finished.filter (· != x.qdone.toNat), qdone := x.qdone + 1 } n
    else x

/-- A record has completed or been retired (R120). -/
def finishSeq (s : State) (c q seq : Nat) : State :=
  onQueue s c q (fun x => advanceQdone { x with finished := x.finished ++ [seq] } (x.finished.length + 1))

/-- A record is retired unrun with a status (R118). -/
def retireRecord (s : State) (c q seq status : Nat) : State :=
  let s := onQueue s c q (fun x => { x with seq := BitVec.ofNat 32 seq, status := BitVec.ofNat 8 status })
  finishSeq s c q seq

/-- A queue has room for a record (R116). -/
def queueFull (x : LaunchQueue) : Bool := 64 ≤ x.records.length

/-- A record is appended to a queue, or OVF is set (R116, R282). The result is its sequence number. R116's numbers start at 0 after a
'context reset', which no rule defines: here they start at 0 at the package reset, and go on over a kill (DESIGN CHOICE, log 39). -/
def enqueueRecord (s : State) (c q : Nat) (r : BitVec 1024) : State × Option Nat :=
  let x := queueOf (ctxOf s c) q
  if queueFull x then (onQueue s c q (fun x => { x with ovf := 1 }), none)
  else
    let s' := onQueue s c q (fun x => { x with records := x.records ++ [(x.next, r, s.nextAccept)], next := x.next + 1 })
    ({ s' with nextAccept := s.nextAccept + 1 }, some x.next)

/-- A launch completes: on every core that ran a team of it the context's dirty bytes are written back as by FENCE.rel at
.dev, those already under way among them, then QDONE rises (R34, R120). -/
def completeLaunch (s : State) (id : Nat) : State :=
  match look s.launches id with
  | none => s
  | some l =>
    let s := l.cores.foldl (fun s k => writeBackCtx s k l.ctx) s
    if l.cores.any (fun k => wbsLeft (coreOf s k) l.ctx) then s
    else finishSeq { s with launches := del s.launches id } l.ctx.toNat l.queue l.seq

/-- Whether every team of a launch has completed (R34). -/
def launchDone (l : Launch) : Bool :=
  l.outstanding == 0 && l.flushed.isEmpty && (l.cut || l.nextCluster ≥ lrClusters l.record)

/-- A team of a launch has still to start (R14). -/
def starting (s : State) (id : Nat) (l : Launch) : Bool :=
  (!l.cut && l.nextCluster < lrClusters l.record) || !l.flushed.isEmpty ||
    s.cores.any (fun c => c.2.teams.any (fun t => t.2.launch == id && t.2.st == .placed))

/-- Bytes of memory are written, by physical address and number: launches with a team that has still to start note them (R14). -/
def noteArgs (s : State) (spans : List (Nat × Nat)) : State :=
  if spans.isEmpty then s
  else
    { s with launches := s.launches.map (fun e =>
        if starting s e.1 e.2 then (e.1, { e.2 with changed := e.2.changed ++ spans.filter (fun x => !e.2.changed.contains x) }) else e) }

/-- The bytes of accesses that lie in memory. -/
def memSpans (accs : List LaneAcc) : List (Nat × Nat) :=
  (accs.filter (fun a => a.space == .hbm || a.space == .host)).map (fun a => (a.pa, a.n))

def checkLaunch (s : State) (id : Nat) : State :=
  if (look s.launches id).any launchDone then completeLaunch s id else s

/-- A team of a launch has completed. -/
def teamCompleted (s : State) (id : Nat) : State :=
  checkLaunch { s with launches := alter s.launches id (fun l => { l with outstanding := l.outstanding - 1 }) } id

/-! ### Releasing a team's resources (R34, R74) -/

/-- A bank returns to the core in its HOME mode: dirty bytes of a lent way are written back first, and former contents
cannot be read. -/
def returnBank (s : State) (k b : Nat) : State :=
  let x := bankOf (coreOf s k) b
  let s := if x.mode = .cache then emptyWay s k b else s
  onCore s k (fun c => setBank c b { mode := x.home, home := x.home })

/-- A team's group slots, registers and banks are released; latches that hold an operand of its groups are empty (R51). -/
def releaseTeam (s : State) (k t uid : Nat) : State :=
  let banks := (List.range 40).filter (fun b => (bankOf (coreOf s k) b).owner == t)
  let s := banks.foldl (fun s b => returnBank s k b) s
  onCore s k (fun c => { c with
    teams := del c.teams t
    latches := c.latches.filter (fun e => !(groupAt c e.2.slot).any (fun g => g.uid == uid))
    groups := c.groups.filter (fun e => e.2.uid != uid) })

/-- A team that has completed releases its resources; a core that is left with no team is noted for the border controller (R122). -/
def endTeam (s : State) (k t uid : Nat) : State :=
  onCore (releaseTeam s k t uid) k (fun c => { c with idled := c.idled || c.teams.isEmpty })

/-! ### The kill (R203) -/

/-- A continuation entry is freed: its generation advances (R143). -/
def freeCont (x : Continuation) : Continuation := { gen := x.gen + 1 }

/-- What a core holds of a context is gone: lines without write-back, operations, write-backs, continuations, cached code
and vacate stages. -/
def scrubCtx (c : CoreState) (ctx : BitVec 10) : CoreState :=
  { c with
    l1 := c.l1.filter (fun e => e.2.ctx != ctx)
    icache := c.icache.filter (fun l => l.ctx != ctx)
    conts := c.conts.map (fun e => if e.2.used && (look c.ops e.2.op).any (fun o => o.ctx == ctx) then (e.1, freeCont e.2) else e)
    ops := c.ops.filter (fun e => e.2.ctx != ctx)
    wbs := c.wbs.filter (fun e => e.2.ctx != ctx)
    vacates := c.vacates.filter (fun e => e.1 != ctx.toNat) }

/-- The packets of a context that wait at ports or are retained are gone. -/
def scrubFabric (f : Fabric) (p : Packet → Bool) : Fabric :=
  { f with
    ports := f.ports.map (fun e => (e.1, { e.2 with waiting := e.2.waiting.filter (fun w => !ownRequest w.1 || !p w.1) }))
    retained := f.retained.filter (fun r => !p r.pkt) }

/-- Teams of a context on a core are KILLED. -/
def killTeams (s : State) (k : Nat) (ctx : BitVec 10) : State :=
  let s := onCore s k (fun c => scrubCtx c ctx)
  (ctxTeams (coreOf s k) ctx).foldl (fun s e => endTeam s k e.1 e.2.uid) s

/-- Queued records of a context are retired with status KILLED, and what is left of records being dispatched (R34, R118). QSTS.SEQ names the
last one retired: the queued ones go in their order, and the one at the head that is being dispatched goes last (DESIGN CHOICE, log 39). -/
def killRecords (s : State) (ctx : BitVec 10) : State :=
  let c := ctx.toNat
  let s := (List.range 8).foldl (fun s q =>
    let x := queueOf (ctxOf s c) q
    let s := onQueue s c q (fun x => { x with records := [] })
    x.records.foldl (fun s r =>
      if s.launches.any (fun e => e.2.ctx == ctx && e.2.queue == q && e.2.seq == r.1) then s else retireRecord s c q r.1 9) s) s
  let ids := (s.launches.filter (fun e => e.2.ctx == ctx)).map (·.1)
  ids.foldl (fun s id =>
    let l := lookD s.launches id { ctx := ctx, queue := 0, seq := 0, record := 0, accepted := 0 }
    let s := if l.nextCluster < lrClusters l.record then
        onQueue s c l.queue (fun x => { x with seq := BitVec.ofNat 32 l.seq, status := 9 }) else s
    let s := { s with launches := alter s.launches id (fun l => { l with cut := true, flushed := [], outstanding := 0 }) }
    checkLaunch s id) s

/-- The kill of a context, in the order of R203. -/
def killContext (s : State) (c : Nat) : State :=
  let ctx := BitVec.ofNat 10 c
  let p := (ctxOf s c).polder
  let s := { s with saved := s.saved.filter (fun t => t.team.ctx != ctx), tokens := s.tokens.filter (fun t => t.2.2 != c) }
  let s := (keysOf s.cores).foldl (fun s k => killTeams s k ctx) s
  let s := killRecords s ctx
  let s := onFabric s (fun f => scrubFabric f (fun q => q.ctx == ctx && q.polder.toNat == p))
  let s := abortContext s c
  let s := reportPolder s { cause := causeKill, ctx := c, polder := p }
  onCtx s c (fun x => { x with phase := 4, busy := false, pending := [] })

/-- A resumable record for a context's or a polder's queue: it takes a token, or, with no ring, kills the context (R130,
R131). The result is the token, 0 when the context was killed. -/
def writeResumable (s : State) (toPolder : Bool) (r : Rec) : State × Word :=
  let base := if toPolder then ringBase (polderOf s r.polder).pfrq else ringBase (ctxOf s r.ctx).cfrq
  if base = 0 then (killContext s r.ctx, 0)
  else
    let (s, t) := takeToken s r.kind r.ctx
    let b := { r with token := t }.bytes
    (if toPolder then appendPolder s r.polder b else appendCtx s r.ctx b, t)

end Sys2Proof.Machine
end

