-- ==== Sys2Proof/Machine/Ops.lean ====
section
/-! DEFINITION. The issuing entry, where its lanes go next, taking a trap and returning from one (R25, R31 to R33, R381), and
the shared operations on groups, barriers and operations in flight. -/

namespace Sys2Proof.Machine

/-- A next state. -/
abbrev Out := Host.Outcome State Fault Refusal

/-! ### The issuing entry -/

/-- The entry that is issuing: core, slot, group, entry, local team number, team, bytes of the instruction. -/
structure Issuer where
  k : Nat
  slot : Nat
  g : Group
  e : Entry
  t : Nat
  tm : Team
  len : Nat
  deriving DecidableEq, Repr

/-- The issuing entry of a state. -/
def issuer (s : State) : Option Issuer :=
  match s.cur with
  | none => none
  | some u =>
    let c := coreOf s u.core
    match groupAt c u.slot with
    | none => none
    | some g =>
      match entryOf g u.lanes, teamOf c g.team with
      | some e, some tm => some { k := u.core, slot := u.slot, g := g, e := e, t := g.team, tm := tm, len := u.len }
      | _, _ => none

/-- A meaning of a lane instruction, given the issuing entry. -/
def whenIssuing (s : State) (f : Issuer → State) : Out :=
  match issuer s with
  | some i => .next (f i)
  | none => .fault .noIssuer

/-- The issuing group's context, and the context's record. -/
def Issuer.ctx (i : Issuer) : Nat := i.g.ctx.toNat

/-- A change of the group in a slot. -/
def onSlot (s : State) (k slot : Nat) (f : Group → Group) : State :=
  onCore s k (fun c =>
    match groupAt c slot with
    | some g => setGroup c slot (f g)
    | none => c)

/-- A change of the issuing group, while it is still there. -/
def onIssuing (s : State) (i : Issuer) (f : Group → Group) : State :=
  onSlot s i.k i.slot (fun g => if g.uid = i.g.uid && g.gid = i.g.gid then f g else g)

/-- The issuing group as it stands. -/
def groupNow (s : State) (i : Issuer) : Group := (groupAt (coreOf s i.k) i.slot).getD i.g

/-- The instruction is held: nothing has issued, and the entry is tried again later (R21). -/
def held (s : State) : State := s

/-! ### Where lanes go next (R18, R260) -/

/-- A place in code: the address, the body instructions left in its clause (0 at a header), and a pad to check. -/
structure Place where
  pc : Word
  left : Nat
  pad : Bool := false
  deriving DecidableEq, Repr

/-- The header that follows an address: the next 8-byte boundary. -/
def headerAfter (a : Word) : Word := BitVec.ofNat 64 ((a.toNat + 7) / 8 * 8)

/-- Where the entry stands. -/
def placeOf (e : Entry) : Place := { pc := e.pc, left := e.left, pad := e.pad }

/-- The next instruction: the next of the body, or the header that follows the clause. -/
def followPlace (e : Entry) (len : Nat) : Place :=
  let a := e.pc + BitVec.ofNat 64 len
  if e.left ≤ 1 then { pc := headerAfter a, left := 0, pad := headerAfter a != a }
  else { pc := a, left := e.left - 1 }

/-- An entry at a place. -/
def Entry.at' (e : Entry) (p : Place) : Entry := { e with pc := p.pc, left := p.left, pad := p.pad }

/-- The lanes of the issuing entry that go on to the next instruction. -/
def Issuer.onward (i : Issuer) (m : Mask) : Entry := issuedAge ({ i.e with mask := m, hold := .none }.at' (followPlace i.e i.len))

/-- A clause entry at an address: the flags and the priority come from the header there. -/
def Issuer.enter (i : Issuer) (m : Mask) (a : Word) : Entry := issuedAge ({ i.e with mask := m, hold := .none }.at' { pc := a, left := 0 })

/-! ### Taking a trap -/

/-- A trap or fault of some lanes of the issuing entry: cause, subcode, address, lanes; whether the resume point is the next
instruction; whether it is reported whatever TRAPMODE says, and to which queue; the record's other fields; whether its
record can be resumed; what its lanes wait for when they park with no record; and a fault at the pad parcel. `addr` is TADDR; `low` is the
record's ADDR where that is another address (R350, R404). -/
structure Trap where
  cause : Nat
  sub : Nat := 0
  addr : Word := 0
  low : Option Word := none
  lanes : Mask
  next : Bool := false
  report : Bool := false
  toPolder : Bool := false
  kind : Nat := 0
  level : Nat := 0
  acc : Nat := 0
  ipa : Nat := 0
  resumable : Bool := true
  hold : Hold := .none
  atPad : Bool := false
  deriving DecidableEq, Repr

/-- TRAPMODE of a team's launch: set for handler mode (R12, R31). -/
def handlerMode (s : State) (tm : Team) : Bool := (look s.launches tm.launch).any (fun l => lrTrapmode l.record)

/-- TRAPH of a team's launch. -/
def trapHandler (s : State) (tm : Team) : Word := ((look s.launches tm.launch).map (fun l => lrTraph l.record)).getD 0

/-- Bits 63:2 of the resume PC, bit 1 clear, and ENTRY in bit 0 (R32, R56): a pad fault stands at the pad parcel. -/
def resumePc (p : Place) (atPad : Bool) : Word :=
  ((if atPad then p.pc - 4 else p.pc) &&& ~~~ 3) + (if p.left = 0 then 1 else 0)

/-- The fault record of a trap (R131). -/
def trapRecord (s : State) (i : Issuer) (tr : Trap) (p : Place) : Rec :=
  { cause := tr.cause, sub := tr.sub, kind := tr.kind, level := tr.level, ctx := i.ctx, polder := (ctxOf s i.ctx).polder,
    acc := tr.acc, pc := resumePc p tr.atPad, addr := tr.low.getD tr.addr, ipa := tr.ipa, lanes := tr.lanes, core := i.k, team := i.t,
    group := i.g.gid }

/-- A record of a trap is written; the result is its token (R130, R131). -/
def reportTrap (s : State) (i : Issuer) (tr : Trap) (p : Place) : State × Word :=
  let r := trapRecord s i tr p
  if tr.resumable then writeResumable s tr.toPolder r
  else if tr.toPolder then (reportPolder s r, 0) else (reportCtx s r, 0)

/-- The trap registers of a group in handler mode (R31, R56). -/
def loadTrap (g : Group) (e : Entry) (tr : Trap) (p : Place) : Group :=
  { g with
    tcause := BitVec.ofNat 16 (tr.cause % 256 + 256 * (tr.sub % 256))
    taddr := tr.addr
    tpc := resumePc p tr.atPad
    tlanes := tr.lanes
    service := some { pri := e.pri, fa := e.fa, fav := e.fav, fb := e.fb, fbv := e.fbv, left := p.left } }

/-- The lanes that run the handler of a trap in service: TLANES (R31, R33). -/
def handlerLanes (g : Group) : Mask := if g.service.isSome then g.tlanes else 0

/-- TAKING A TRAP: the state after it, and the entry that the trapping lanes form (R25, R31, R33). They park with a record
in report mode; in handler mode the trap registers are loaded and they enter the handler with priority 255; while another
trap of the group is in service they park with no record and reissue. -/
def takeTrap (s : State) (i : Issuer) (tr : Trap) : State × Entry :=
  let p := if tr.next then followPlace i.e i.len else placeOf i.e
  let e := issuedAge i.e
  let parked : Entry := { (e.at' p) with mask := tr.lanes, st := .parkedFault, token := 0, hold := tr.hold }
  if tr.hold != .none then (s, parked)
  else if tr.report || !handlerMode s i.tm || tr.lanes &&& handlerLanes (groupNow s i) != 0 then
    let (s, tok) := reportTrap s i tr p
    (s, { parked with token := tok })
  else if (groupNow s i).service.isSome then
    (s, { (e.at' (placeOf i.e)) with mask := tr.lanes, st := .parkedFault, token := 0, hold := .service })
  else
    (onIssuing s i (fun g => loadTrap g i.e tr p),
      { (e.at' { pc := trapHandler s i.tm, left := 0 }) with
        mask := tr.lanes, st := .ready, token := 0, hold := .none, pri := 255, keep := true })

/-- A trap of lanes that run the handler and of others is a trap of each (R33). -/
def trapParts (inside : Mask) (tr : Trap) : List Trap :=
  if tr.lanes &&& inside == 0 || tr.lanes &&& ~~~ inside == 0 then [tr]
  else [{ tr with lanes := tr.lanes &&& inside }, { tr with lanes := tr.lanes &&& ~~~ inside }]

/-- Traps are taken in order. -/
def takeTraps (s : State) (i : Issuer) (trs : List Trap) : State × List Entry :=
  (trs.flatMap (trapParts (handlerLanes (groupNow s i)))).foldl (fun a tr => let (s, e) := takeTrap a.1 i tr; (s, a.2 ++ [e])) (s, [])

/-- A team that has issued is RUNNING (R35). -/
def markBegun (s : State) (i : Issuer) : State :=
  onCore s i.k (fun c => { c with teams := alter c.teams i.t (fun t => if t.st = .placed then { t with st := .running } else t) })

/-- The end of an issue attempt: the issuing entry is replaced by the parts given and by the entries of the traps. -/
def endIssue (s : State) (i : Issuer) (issued : Bool) (parts : List Entry) (trs : List Trap) : State :=
  let (s, es) := takeTraps s i trs
  let s := onIssuing s i (fun g => { replaceEntry g i.e (parts ++ es) with begun := true })
  { markBegun s i with cur := none, issued := issued }

/-- The lanes of the issuing entry outside a mask. -/
def Issuer.others (i : Issuer) (m : Mask) : Mask := i.e.mask &&& ~~~ m

/-- The instruction has issued: lanes that trapped take their traps, and every other lane goes on to the next instruction. -/
def complete (s : State) (i : Issuer) (trs : List Trap) : State :=
  let out := trs.foldl (fun m tr => m ||| tr.lanes) (0 : Mask)
  endIssue s i true [i.onward (i.others out)] trs

/-- A trap at the issue: the trapping lanes have executed nothing, and the other lanes of the entry, which were guarded off,
go on. The attempt has taken the group's issue, and counts as one for AGE and for the offers (R20, R22, R278; log 14). -/
def trapAtIssue (s : State) (i : Issuer) (tr : Trap) : State := endIssue s i false [i.onward (i.others tr.lanes)] [tr]

/-- An encoding fault: every lane of the entry, TADDR 0 (R265). -/
def encodingTrap (i : Issuer) (cause sub : Nat) : Trap := { cause := cause, sub := sub, lanes := i.e.mask }

/-- The issuing entry of an operation in flight, as it stood at its instruction. -/
def originOf (s : State) (k : Nat) (o : Op) : Option Issuer :=
  let c := coreOf s k
  match o.origin, findGroup c o.uid o.gid, findTeam c o.uid with
  | some e, some (slot, g), some (t, tm) => some { k := k, slot := slot, g := g, e := e, t := t, tm := tm, len := 0 }
  | _, _, _ => none

/-- A fault that an operation meets after its issue: its lanes that have not exited leave the entries in which they are, with the
AGE and the place that they have there, and return to the instruction, where the trap is taken. -/
def trapLater (s : State) (k : Nat) (o : Op) (tr : Trap) : State :=
  match originOf s k o with
  | none => s
  | some i =>
    let m := tr.lanes &&& liveLanes i.g
    if m == 0 then s
    else
      let left := (takeLanes i.g m).2
      let s := onSlot s k i.slot (fun g => dropLanes g m)
      let (s, es) := takeTraps s i [{ tr with lanes := m }]
      onSlot s k i.slot (fun g => { g with entries := g.entries ++ es.map (fun e => e.ageOf (left.filter (fun x => x.mask &&& e.mask != 0))) })

/-! ### Returning from a trap -/

/-- The operations that an entry waits for, less one that is over. -/
def Hold.without (h : Hold) (n : Nat) : Hold :=
  match h with
  | .accept ops => .accept (ops.filter (· != n))
  | .watch ops a low => .watch (ops.filter (· != n)) a low
  | h => h

/-- The lanes that TRET waits for: the lanes of TLANES that have not exited (R381). -/
def serviceLanes (g : Group) : Mask := g.tlanes &&& liveLanes g

/-- The entry that resumes at TPC (R31, R381): at the header with ENTRY, else in mid-clause as it was at the trap. -/
def resumeEntry (g : Group) (sv : Service) : Entry :=
  let a := BitVec.ofNat 64 (g.tpc.toNat / 4 * 4)
  if bitAt g.tpc.toNat 0 then { mask := serviceLanes g, pc := a, pri := sv.pri, left := 0 }
  else { mask := serviceLanes g, pc := a, pri := sv.pri, fa := sv.fa, fav := sv.fav, fb := sv.fb, fbv := sv.fbv, left := max 1 sv.left }

/-- Entries that parked because the handler was in service return to ready (R33). -/
def endService (e : Entry) : Entry := if e.hold.served then { e with st := .ready, hold := .none } else e

/-- A waiting entry goes on past the instruction at its PC. -/
def Entry.pass (e : Entry) : Entry := { (e.at' (followPlace e e.skip)) with st := .ready, hold := .none, skip := 0 }

/-- RETURNING FROM A TRAP, once every lane that has not exited has issued TRET: the service ends, and its lanes resume. -/
def finishService (g : Group) : Group :=
  match g.service with
  | none => g
  | some sv =>
    if serviceLanes g &&& ~~~ sv.done == 0 then
      let l := splitAt g.entries (serviceLanes g)
      let back (e : Entry) : Bool := e.hold == .tret && (e.mask &&& serviceLanes g) != 0
      let r := (resumeEntry g sv).ageOf (l.filter back)
      let rest := (l.filter (fun e => !back e)).map (fun e => if e.hold == .tret then e.pass else endService e)
      { g with service := none, entries := if r.mask == 0 then rest else rest ++ [r] }
    else g

/-! ### Reconvergence and barriers (R27 to R29, R276) -/

/-- The lanes of a group in waiting-join. -/
def joinLanes (g : Group) : Mask := g.entries.foldl (fun m e => if e.st = .waitingJoin then m ||| e.mask else m) 0

/-- Every waiting-join lane inside a mask goes on past its own JOIN. -/
def releaseJoin (g : Group) (m : Mask) : Group :=
  { g with entries := (splitAt g.entries m).map (fun e => if e.st = .waitingJoin && e.mask &&& m != 0 then e.pass else e) }

/-- JOIN releases when every non-exited lane of the group waits, or, while a trap is in service, every non-exited lane of TLANES:
these alone then go on (R27, R276). -/
def joinCheck (g : Group) : Group :=
  let m := if g.service.isSome then serviceLanes g else liveLanes g
  if m != 0 && m &&& ~~~ joinLanes g == 0 then releaseJoin g m else g

/-- The non-exited lanes of a team. -/
def teamLive (c : CoreState) (uid : Nat) : Nat := (teamGroups c uid).foldl (fun n e => n + countMask (liveLanes e.2)) 0

def barrierOf (t : Team) (b : Nat) : Barrier := lookD t.bars b {}

/-- The expected count of the generation. -/
def expected (c : CoreState) (t : Team) (b : Barrier) : Nat := b.expect.getD (teamLive c t.uid)

/-- Entries that wait at a barrier for a generation become ready; their PC is the instruction after their BAR (R19). -/
def wakeBarrier (c : CoreState) (uid b gen : Nat) : CoreState :=
  { c with groups := c.groups.map (fun x =>
      if x.2.uid = uid then
        (x.1, { x.2 with entries := x.2.entries.map (fun e =>
          if e.st = .waitingBarrier && e.hold = .barrier b gen then { e with st := .ready, hold := .none } else e) })
      else x) }

/-- Generations of barrier `b` complete while arrivals reach the count; arrivals beyond it belong to the next generation,
whose count is the one that they name. -/
def barrierCheck (c : CoreState) (t b : Nat) (named : Option Nat) : Nat → CoreState
  | 0 => c
  | n + 1 =>
    match teamOf c t with
    | none => c
    | some tm =>
      let x := barrierOf tm b
      if x.open_ && expected c tm x ≤ x.arrived && x.arrived != 0 then
        let rest := x.arrived - expected c tm x
        let y : Barrier := { gen := x.gen + 1, arrived := rest, expect := if rest = 0 then none else named, open_ := rest != 0 }
        barrierCheck (wakeBarrier (setTeam c t { tm with bars := put tm.bars b y }) tm.uid b x.gen) t b named n
      else c

/-- Arrivals at a barrier; the first of a generation sets the expected count. -/
def arrive (c : CoreState) (t b n : Nat) (named : Option Nat) : CoreState :=
  match teamOf c t with
  | none => c
  | some tm =>
    if n = 0 then c
    else
      let x := barrierOf tm b
      let y := { x with arrived := x.arrived + n, expect := if x.open_ then x.expect else named, open_ := true }
      barrierCheck (setTeam c t { tm with bars := put tm.bars b y }) t b named (x.arrived + n + 1)

/-- The generation in which the arrival number `j` of an instruction falls. Of the lanes of one BAR.sync that straddles a
generation's completion, the lowest belong to the generation that completes: R28 does not say which do; DESIGN CHOICE, log 14. -/
def arrivalGen (c : CoreState) (tm : Team) (b : Nat) (named : Option Nat) (j : Nat) : Nat :=
  let x := barrierOf tm b
  let first := (if x.open_ then expected c tm x else named.getD (teamLive c tm.uid)) - x.arrived
  let each := max 1 (named.getD (teamLive c tm.uid))
  if j < first then x.gen else x.gen + 1 + (j - first) / each

/-- The teams of a cluster, with their cores. -/
def clusterTeams (s : State) (launch cluster : Nat) : List (Nat × Nat × Team) :=
  s.cores.flatMap (fun e => (e.2.teams.filter (fun t => t.2.launch == launch && t.2.cluster == cluster)).map (fun t => (e.1, t.1, t.2)))

/-- Some team of a cluster is off its core: saved, or flushed (R36). -/
def clusterAway (s : State) (launch cluster : Nat) : Bool :=
  s.saved.any (fun t => t.team.launch == launch && t.team.cluster == cluster) ||
    (look s.launches launch).any (fun l => l.flushed.any (fun e => e.1 == cluster))

/-- CBAR: the barrier of a cluster completes when every non-exited lane of every team of it has arrived (R29); not while a team of
it is away. -/
def clusterCheck (s : State) (launch cluster : Nat) : State :=
  let ts := clusterTeams s launch cluster
  let live := ts.foldl (fun n e => n + teamLive (coreOf s e.1) e.2.2.uid) 0
  let here := ts.foldl (fun n e => n + (barrierOf e.2.2 16).arrived) 0
  if here != 0 && live ≤ here && !clusterAway s launch cluster then
    ts.foldl (fun s e =>
      let x := barrierOf e.2.2 16
      onCore s e.1 (fun c => wakeBarrier (setTeam c e.2.1 { e.2.2 with bars := put e.2.2.bars 16 { gen := x.gen + 1 } }) e.2.2.uid 16 x.gen)) s
  else s

/-! ### Leaving in the soft stage (R198) -/

/-- A copy is paused, or stands behind one that is (R124): it cannot drain. -/
def copyStopped (c : CoreState) (o : Op) : Bool :=
  match o.kind with
  | .copy ch .. => c.ops.any (fun e => e.2.uid == o.uid && e.2.seq ≤ o.seq && match e.2.kind with
    | .copy ch' _ _ _ _ _ _ paused => ch' == ch && paused.isSome
    | _ => false)
  | _ => false

/-- Operations that a saved image keeps: loads, unaccepted FIFO operations, copies that cannot move, fences parked on a deferred
write-back. -/
def keptOp (c : CoreState) (o : Op) : Bool :=
  match o.kind with
  | .load .. | .push .. | .pop .. => true
  | .copy .. => copyStopped c o
  | .fence _ _ _ _ token _ => token != 0
  | _ => false

/-- An operation that the save of its team keeps for the resume. Nothing that drains or completes on the core waits for it: R200 hands stores
off and lets copies, bank switches and fences come to their ends, while a load is issued again only at the resume (DEDUCED, log 47). -/
def setAside (c : CoreState) (o : Op) : Bool := (findTeam c o.uid).any (fun t => t.2.leaving == some true) && keptOp c o

/-- Every lane of a group that has not exited waits at a VCKPT. -/
def atCheckpoint (g : Group) : Bool :=
  liveLanes g &&& ~~~ (g.entries.foldl (fun m e => if e.hold == .checkpoint then m ||| e.mask else m) 0) == 0

/-- A team leaves in the soft stage when every lane of it that has not exited waits at a VCKPT; a team whose groups have all
ended drains (R34). -/
def leaveCheck (s : State) (k uid : Nat) : State :=
  onCore s k (fun c =>
    match findTeam c uid with
    | none => c
    | some (t, tm) =>
      let gs := teamGroups c uid
      if inSoftStage c tm.ctx.toNat && tm.leaving.isNone && gs.all (fun e => atCheckpoint e.2) && gs.any (fun e => !e.2.ended) then
        setTeam c t { tm with leaving := some true, leftAt := some c.ccyc }
      else c)

/-- What the exit of lanes may complete: JOINs, TRETs and barriers without an explicit count (R27, R28, R277, R302). -/
def afterExit (s : State) (i : Issuer) : State :=
  let s := onIssuing s i (fun g => joinCheck (finishService g))
  let s := onCore s i.k (fun c => (List.range 16).foldl (fun c b =>
    match teamOf c i.t with
    | some tm => if (barrierOf tm b).expect.isNone then barrierCheck c i.t b none ((barrierOf tm b).arrived + 1) else c
    | none => c) c)
  leaveCheck (clusterCheck s i.tm.launch i.tm.cluster) i.k i.g.uid

/-! ### Operations in flight -/

/-- A new operation of a core; the result is its number. -/
def addOp (s : State) (k : Nat) (o : Op) : State × Nat :=
  let c := coreOf s k
  (setCore s k { c with ops := put c.ops c.nextOp o, nextOp := c.nextOp + 1 }, c.nextOp)

def opOf (s : State) (k n : Nat) : Option Op := look (coreOf s k).ops n

def dropOp (s : State) (k n : Nat) : State := onCore s k (fun c => { c with ops := del c.ops n })

def onOp (s : State) (k n : Nat) (f : Op → Op) : State := onCore s k (fun c => { c with ops := alter c.ops n f })

/-- A clause flag rises at an issue. -/
def raiseFlag (g : Group) (n : Nat) : Group := setFlag g n (flagOf g n + 1)

/-- The names whose results a flag's return to 0 ends are no longer pending (R45). -/
def endPend (g : Group) : Group :=
  { g with pend := g.pend.filter (fun p => match p.flag with | some n => flagOf g n != 0 | none => true) }

/-- A clause flag falls when an instruction completes (R48). -/
def lowerFlag (g : Group) (n : Nat) : Group := endPend (setFlag g n (flagOf g n - 1))

/-- The flag count of an operation retires, once. -/
def retireFlag (s : State) (k n : Nat) : State :=
  match opOf s k n with
  | none => s
  | some o =>
    match o.flag with
    | none => s
    | some f => onGroup (onOp s k n (fun o => { o with flag := none })) o.uid o.gid (fun g => lowerFlag g f)

/-- The vector names that an operation writes. -/
def Op.names (o : Op) : List Nat :=
  match o.dest with
  | .v d => (List.range o.regs).map (d + ·)
  | _ => []

/-- Latched names that are written or released empty the latch of their group's scheduler (R51). -/
def unlatch (c : CoreState) (slot : Nat) (names : List Nat) : CoreState :=
  match look c.latches (slot / 8) with
  | some x => if x.slot = slot && names.any (fun n => x.base ≤ n && n < x.base + x.span) then { c with latches := del c.latches (slot / 8) } else c
  | none => c

/-- The late writes of an operation empty a latch that holds its names (R51). -/
def unlatchOp (c : CoreState) (o : Op) : CoreState :=
  match findGroup c o.uid o.gid with
  | some (slot, _) => unlatch c slot o.names
  | none => c

/-- Entries that waited for an operation have one less to wait for; those that waited for its acceptance alone go on past their
instruction (R31, R365, R366). -/
def passAccepted (g : Group) (n : Nat) : Group :=
  { g with entries := g.entries.map (fun e => match e.hold.without n with
      | .accept [] => e.pass
      | h => { e with hold := h }) }

def countWatch (s : State) (ctx : Nat) (m : Mask) : State := onCtx s ctx (fun x => { x with watchHits := satAdd x.watchHits (countMask m) })

/-- The lanes of an entry whose watched access has performed take WATCH, the next instruction as the resume point (R32, R350). -/
def takeWatch (s : State) (k uid gid : Nat) (e : Entry) : State :=
  let c := coreOf s k
  match e.hold, findGroup c uid gid, findTeam c uid with
  | .watch _ a low, some (slot, g), some (t, tm) =>
    let i : Issuer := { k := k, slot := slot, g := g, e := { e with hold := .none, skip := 0 }, t := t, tm := tm, len := e.skip }
    let (s, es) := takeTraps (countWatch s g.ctx.toNat e.mask) i [{ cause := causeWatch, addr := a, low := some low, lanes := e.mask, next := true }]
    onSlot s k slot (fun g => { g with entries := g.entries.filter (fun x => x.mask != e.mask) ++ es.map (fun x => { x with age := e.age, aged := e.aged }) })
  | _, _, _ => s

/-- What waited for an operation of a group that is over. -/
def opOver (s : State) (k n uid gid : Nat) : State :=
  let s := onGroup s uid gid (fun g => passAccepted g n)
  let done : List Entry := match findGroup (coreOf s k) uid gid with
    | some (_, g) => g.entries.filter (fun e => match e.hold with | .watch [] _ _ => true | _ => false)
    | none => []
  done.foldl (fun s e => takeWatch s k uid gid e) s

/-- An operation is over: its flag retires, its charge and its pending names end, and what waited for it goes on. -/
def finishOp (s : State) (k n : Nat) : State :=
  match opOf s k n with
  | none => s
  | some o =>
    let s := retireFlag s k n
    let s := onGroup s o.uid o.gid (fun g => { g with pend := g.pend.filter (fun p => p.op != n || p.flag.isSome) })
    opOver (dropOp (onCore s k (fun c => unlatchOp c o)) k n) k n o.uid o.gid

/-- Lanes of the issuing entry wait at the instruction until operations are over; lanes that trapped take their traps, and the
others go on. -/
def completeWait (s : State) (i : Issuer) (m : Mask) (h : Hold) (trs : List Trap) : State :=
  let out := trs.foldl (fun m tr => m ||| tr.lanes) (0 : Mask)
  endIssue s i true [issuedAge { i.e with mask := m &&& ~~~ out, hold := h, skip := i.len }, i.onward (i.others (m ||| out))] trs

/-- The operations of a core that were issued before another, of one group. -/
def earlierOps (c : CoreState) (uid gid n : Nat) (p : Op → Bool) : List Nat :=
  (c.ops.filter (fun e => e.1 < n && e.2.uid == uid && e.2.gid == gid && p e.2)).map (·.1)

end Sys2Proof.Machine
end

