-- ==== Sys2Proof/Machine/Operands.lean ====
section
/-! DEFINITION. Operand values (R253, R262, R263, R326), the forms of results (R40), writes and releases of vector names
(R41 to R45), and the compact, immediate and pair forms as the F instructions they name (R256 to R258). -/

namespace Sys2Proof.Machine

/-! ### Values -/

/-- The bits of 1.0 in a format. -/
def FloatFmt.oneBits (f : FloatFmt) : Nat := f.bias.toNat * 2 ^ f.fb

/-- A constant operand in lane `l` (R262). -/
def konstWord (t : Ty) (c : Konst) (l : Nat) : Word :=
  let f := fmtOf t
  match c with
  | .zero => 0
  | .one => packElems t.width (fun _ => 1)
  | .ones => BitVec.allOnes 64
  | .fOne => packElems t.width (fun _ => f.oneBits)
  | .fHalf => packElems t.width (fun _ => f.oneBits - 2 ^ f.fb)
  | .fTwo => packElems t.width (fun _ => f.oneBits + 2 ^ f.fb)
  | .fMinusOne => packElems t.width (fun _ => f.oneBits + f.signBit)
  | .lane => packElems t.width (fun _ => l)

/-- The literal as operand b (R253). -/
def litWord (t : Ty) (v : BitVec 32) : Word :=
  match t with
  | .i64 => sext 32 v.toNat
  | .f64 => BitVec.ofNat 64 (packF fmtF64 .rne (unpackF fmtF32 v.toNat))
  | _ => if t.width ≤ 32 then packElems t.width (fun _ => v.toNat) else BitVec.ofNat 64 v.toNat

/-- An operand read in lane `l`, through a source modifier. -/
def opndAt (g : Group) (t : Ty) (o : Opnd) (sm : BitVec 12) (l : Nat) : Word :=
  match o with
  | .v n => vLane g n.toNat (smodLane sm l)
  | .s n => sReg g n.toNat
  | .p n => BitVec.ofNat 64 (pReg g n.toNat).toNat
  | .k c => konstWord t c l
  | .none => 0
  | .reserved _ => 0

def aAt (g : Group) (f : Fx) (l : Nat) : Word := opndAt g f.ty f.a f.sma l
def bAt (g : Group) (f : Fx) (l : Nat) : Word :=
  match f.lit? with
  | some v => litWord f.ty v
  | none => opndAt g f.ty f.b f.smb l
def cAt (g : Group) (f : Fx) (l : Nat) : Word := opndAt g f.ty f.c 0 l

/-- A uniform operand: an s register, a constant, or a literal zero-extended; 0 when absent. -/
def uniformB (g : Group) (f : Fx) : Nat :=
  match f.lit? with
  | some v => v.toNat
  | none => (opndAt g .b64 f.b 0 0).toNat
def uniformA (g : Group) (f : Fx) : Word := opndAt g f.ty f.a 0 0
def uniformC (g : Group) (f : Fx) : Word := opndAt g f.ty f.c 0 0

/-! ### Masks (R38) -/

/-- The lanes of an entry whose guard bit is set, or clear when it is negated. -/
def guarded (g : Group) (m : Mask) (p : Nat) (neg : Bool) : Mask := if neg then m &&& ~~~ (pReg g p) else m &&& pReg g p

def Issuer.active (i : Issuer) (f : Fx) : Mask := guarded i.g i.e.mask f.guard.toNat f.gneg

/-- A full write mask. -/
def isFull (g : Group) (m : Mask) : Bool := liveLanes g &&& ~~~ m == 0

/-! ### Forms (R40) -/

/-- bcast at S = 32. -/
def isBcast32 (sm : BitVec 12) : Bool := sm.toNat / 512 == 3 && sm.toNat / 64 % 8 == 5

/-- A source that leaves a result uniform. A predicate source does not (R281). -/
def uniformSource (g : Group) (o : Opnd) (sm : BitVec 12) : Bool :=
  match o with
  | .v n =>
    isBcast32 sm || (sm == 0 && match look g.v n.toNat with | some (.full _) => false | _ => true)
  | .s _ => true
  | .k .lane => false
  | .k _ => true
  | .none => true
  | _ => false

/-- Whether the result of a lane-independent instruction is in uniform form. -/
def uniformResult (g : Group) (f : Fx) (m : Mask) : Bool :=
  isFull g m && uniformSource g f.a f.sma && uniformSource g f.b f.smb && uniformSource g f.c 0

/-! ### Names -/

/-- The number of a vector operand, as a list. -/
def opNames (o : Opnd) : List Nat :=
  match o with
  | .v n => [n.toNat]
  | _ => []

def opSNames (o : Opnd) : List Nat :=
  match o with
  | .s n => [n.toNat]
  | _ => []

/-- Names from `n` on, `k` of them; a register number beyond the last is not named. -/
def run (n k : Nat) : List Nat := (List.range k).map (n + ·)

/-- The vector names that an instruction reads, in operand order, and those its last-use bits release. -/
def srcNames (f : Fx) : List Nat := opNames f.a ++ opNames f.b ++ opNames f.c
def relNames (f : Fx) : List Nat :=
  (if f.lua then opNames f.a else []) ++ (if f.lub then opNames f.b else []) ++ (if f.luc then opNames f.c else [])
/-- The names that the last-use bits release when operand c is a run of `k` registers (R333, R371). -/
def relRun (f : Fx) (k : Nat) : List Nat :=
  (if f.lua then opNames f.a else []) ++ (if f.lub then opNames f.b else []) ++
    (if f.luc then (match f.c with | .v n => (List.range k).map (n.toNat + ·) | _ => []) else [])
def sSrcNames (f : Fx) : List Nat := opSNames f.a ++ opSNames f.b ++ opSNames f.c

/-- The names after an instruction's releases and writes, by form alone (R41). A name both released and written is one
in-place write. -/
def shapeAfter (v : AMap VReg) (rel : List Nat) (dst : List (Nat × Bool)) : AMap VReg :=
  let v := rel.foldl (fun v n => if dst.any (·.1 == n) then v else del v n) v
  dst.foldl (fun v d => put v d.1 (if d.2 then .uni 0 else .full [])) v

/-- The released names that are not written in place. -/
def released (rel : List Nat) (dst : List Nat) : List Nat := rel.filter (fun n => !dst.contains n)

/-- Names become unmapped for the whole group; a late result of theirs is discarded (R41, R45). -/
def releaseNames (g : Group) (ns : List Nat) : Group :=
  { g with v := ns.foldl (fun v n => del v n) g.v, badV := ns.foldl (fun v n => del v n) g.badV,
           pend := g.pend.filter (fun p => !ns.contains p.name) }

/-- A write of a name under a mask, into uniform form or full form (R41); the lanes written are poisoned no more (R94). -/
def writeName (g : Group) (n : Nat) (toUni : Bool) (m : Mask) (f : Nat → Word) : Group :=
  let r : VReg :=
    if toUni then .uni (f (lowestLane m))
    else .full (laneNums.map (fun l => if inMask m l then f l else vLane g n l))
  { g with v := put g.v n r, badV := putD g.badV n 0 (if toUni then 0 else lookD g.badV n 0 &&& ~~~ m) }

/-- A name allocated in full form at issue, its lanes keeping their values (R45). -/
def allocName (g : Group) (n : Nat) : Group := writeName g n false 0 (fun _ => 0)

/-! ### Pending names (R45) -/

/-- The free values of a name's lanes. -/
def freeLanes (fresh : Nat) : VReg := .full (laneNums.map (fun l => Config.freeValue (fresh + l)))

/-- A free value in the form that a name has (R40). -/
def freeLike (r : Option VReg) (fresh : Nat) : VReg :=
  match r with
  | some (.uni _) => .uni (Config.freeValue fresh)
  | _ => freeLanes fresh

/-- The PC of the entry of a group that is issuing. -/
def issuingPc (s : State) (g : Group) : Option Word := s.cur.bind (fun u => (entryOf g u.lanes).map (·.pc))

/-- A name as a read finds it while a result of it is to come: free values, but that a replay of the instruction itself finds the lanes
that it replays as they stand (R406; DEDUCED, log 45). -/
def pendingValue (s : State) (g : Group) (p : Pend) (fresh : Nat) : VReg :=
  if p.pc.isSome && p.pc == issuingPc s g then
    .full (laneNums.map (fun l => if inMask p.lanes l then Config.freeValue (fresh + l) else vLane g p.name l))
  else freeLanes fresh

/-- What reads of some names see: a pending name yields free values. -/
def readView (s : State) (g : Group) (names : List Nat) : State × Group :=
  (g.pend.filter (fun p => names.contains p.name)).foldl (fun a p =>
    ({ a.1 with fresh := a.1.fresh + 32 }, { a.2 with v := put a.2.v p.name (pendingValue a.1 a.2 p a.1.fresh) })) (s, g)

/-- A write to a pending name leaves undefined values, and the result to come is discarded. -/
def spoilNames (s : State) (g : Group) (names : List Nat) : State × Group :=
  (g.pend.filter (fun p => names.contains p.name)).foldl (fun a p =>
    ({ a.1 with fresh := a.1.fresh + 32 },
      { a.2 with v := put a.2.v p.name (freeLike (look a.2.v p.name) a.1.fresh),
                 pend := a.2.pend.map (fun q => if q.name = p.name then { q with spoiled := true } else q) })) (s, g)

/-- The operation of the issuing core with a number. -/
def issuingOp (s : State) (op : Nat) : Option Op := s.cur.bind (fun u => look (coreOf s u.core).ops op)

/-- An operation is a replay of the instruction whose result is to come, in other lanes: it leaves that result alone, and writes its own
lanes only (R406). R45's write to a pending name is one of another instruction, or of the same lanes: DEDUCED, log 45. -/
def Pend.replayedBy (p : Pend) (o : Option Op) : Bool := o.any (fun o => p.pc == some o.pc && p.lanes &&& o.lanes == 0)

/-- A name becomes pending for an operation. When it was pending already, and this is no replay, it is a write to a pending name: the
earlier result and this one are both discarded, and the name is left with free values. -/
def pendName (a : State × Group) (n op : Nat) (flag : Option Nat) : State × Group :=
  let o := issuingOp a.1 op
  let clash := a.2.pend.any (fun p => p.name == n && !p.replayedBy o)
  let (s, g) := if clash then spoilNames a.1 a.2 [n] else a
  (s, { g with pend := g.pend ++ [{ name := n, op := op, flag := flag, spoiled := clash, pc := o.map (·.pc),
                                    lanes := (o.map (·.lanes)).getD 0xFFFF_FFFF }] })

/-- Whether a result to come of an operation still has its name. -/
def awaited (g : Group) (n op : Nat) : Bool := g.pend.any (fun p => p.name == n && p.op == op && !p.spoiled)

/-- A late result in lanes of a full-form name; exited lanes' results are discarded (R277). -/
def lateWrite (g : Group) (n op : Nat) (m : Mask) (f : Nat → Word) : Group :=
  if awaited g n op then writeName g n false (m &&& liveLanes g) f else g

/-! ### The short forms -/

/-- A format C instruction as the F instruction it names (R256). `unary` is MOV. -/
def cToFx (c : CForm) (t : Ty) (unary : Bool) : Fx :=
  { ty := t, d := .v c.vd, a := .v c.va, b := if unary then .none else .v c.vb, c := .none, lua := c.lua,
    lub := !unary && c.lub, luc := false, guard := if c.g then 0 else 7, gneg := false, fen := false, fsel := false,
    reuse := false, md := 0, ext := .f }

/-- A format I instruction as the F instruction it names, the immediate sign-extended (R251, R257). -/
def iToFx (i : IForm) (t : Ty) (unary : Bool) : Fx :=
  { ty := t, d := .v i.vd, a := if unary then .none else .v i.va, b := .none, c := .none, lua := !unary && i.lua,
    lub := false, luc := false, guard := 7, gneg := false, fen := false, fsel := false, reuse := false, md := 0,
    ext := .lit (i.imm.signExtend 32) }

/-- Half of a pair as the F instruction it names (R258). -/
def pToFx (h : PHalf) (t : Ty) (unary : Bool) : Fx :=
  { ty := t, d := .v h.vd, a := if unary then .v h.vs else .v h.vd, b := if unary then .none else .v h.vs, c := .none,
    lua := unary && h.lus, lub := !unary && h.lus, luc := false, guard := h.guard, gneg := h.gneg, fen := false,
    fsel := false, reuse := false, md := 0, ext := .f }

end Sys2Proof.Machine
end

