-- ==== Sys2Proof/Machine/Flags.lean ====
section
/-! DEFINITION. Clause flags (R48), predicate results (R47), ASTAT (R55, R233, R238) and the per-context event counters (R211). -/

namespace Sys2Proof.Machine

/-- The flag that an instruction counts on: flag A or flag B of its entry's clause, none when it counts on none or the
selected flag is not valid. -/
def flagNumber (e : Entry) (fen fsel : Bool) : Option Nat :=
  if !fen then none
  else if fsel then (if e.fbv then some e.fb.toNat else none)
  else if e.fav then some e.fa.toNat else none

/-- FEN is set and the selected flag is not valid in the clause header (R262). -/
def flagInvalid (e : Entry) (fen fsel : Bool) : Bool := fen && (flagNumber e fen fsel).isNone

/-- A flag that would pass 63 keeps its instruction from issuing (R21, R48). -/
def flagAtLimit (g : Group) (n : Option Nat) : Bool := n.any (fun k => 63 ≤ flagOf g k)

/-- The flags of a wait mask are all 0 (R18). -/
def flagsClear (g : Group) (mask : Nat) : Bool := (List.range 12).all (fun n => !bitAt mask n || flagOf g n == 0)

/-- The issue of an instruction that counts on a flag. -/
def countFlag (g : Group) (n : Option Nat) : Group :=
  match n with
  | some k => raiseFlag g k
  | none => g

/-- Bits of a predicate in the write mask (R47). -/
def writePred (g : Group) (n : Nat) (m : Mask) (bit : Nat → Bool) : Group :=
  setP g n ((pReg g n &&& ~~~ m) ||| (maskWhere bit &&& m))

/-- ASTAT.SAT and ASTAT.DIV bits are set. -/
def setAstat (g : Group) (sat div : Mask) : Group :=
  { g with astat := g.astat ||| BitVec.ofNat 64 (div.toNat + 2 ^ 32 * sat.toNat) }

/-- The lanes that set ASTAT bits are counted in the context (R211). -/
def countAstat (s : State) (ctx : Nat) (sat div : Mask) : State :=
  if sat == 0 && div == 0 then s
  else onCtx s ctx (fun x => { x with satEv := satAdd x.satEv (countMask sat), divEv := satAdd x.divEv (countMask div) })

def countVnever (s : State) (ctx : Nat) (m : Mask) : State := onCtx s ctx (fun x => { x with vneverEv := satAdd x.vneverEv (countMask m) })
def countVbt (s : State) (ctx : Nat) (m : Mask) : State := onCtx s ctx (fun x => { x with vbtEv := satAdd x.vbtEv (countMask m) })
def countTagTrap (s : State) (ctx n : Nat) : State := onCtx s ctx (fun x => { x with tagTrapped := satAdd x.tagTrapped n })
def countTagReport (s : State) (ctx n : Nat) : State := onCtx s ctx (fun x => { x with tagReported := satAdd x.tagReported n })

end Sys2Proof.Machine
end

