-- ==== Sys2Proof/Machine/Issue.lean ====
section
/-! DEFINITION. What every instruction passes at its issue: the checks that need the clause, resources, UREG, REGFP, VNEVER
and the sluice (R39, R42 to R44, R193 to R195, R265, R269, R270), and how an instruction's effect begins. -/

namespace Sys2Proof.Machine

/-- What one issue asks for: the vacate class and the bytes it moves, the write mask, the vector names read in operand order,
released, and written (with uniform form or full), the lanes of each read where they are not the write mask, the s registers named, the clause flag, the change in save bytes beside
the names, whether its pipe and resources are free, a trap that stands between REGFP and VNEVER, and the D base of a matrix operation. -/
structure Plan where
  cls : Nat := 0
  bytes : Nat := 0
  active : Mask
  srcs : List Nat := []
  srcMasks : List Mask := []
  rel : List Nat := []
  dst : List (Nat × Bool) := []
  sNames : List Nat := []
  flag : Option Nat := none
  ds : Int := 0
  ready : Bool := true
  early : Option Trap := none
  chain : Option Nat := none
  deriving DecidableEq, Repr

/-- The outcome of the checks: the instruction passes, or the attempt ends in a state. -/
inductive Verdict where
  | pass
  | stop (s : State)
  deriving DecidableEq, Repr

/-- The vector names that an operation of class 1 will write. -/
def vecNames (o : Op) : List Nat :=
  match o.kind, o.dest with
  | .vec _ _, .v n => [n]
  | _, _ => []

/-- The s register that an operation will write. -/
def opS (o : Op) : List Nat :=
  match o.dest with
  | .s n => [n]
  | _ => []

/-- R269, R335: the instruction names a result of class 0 or 1, or an s register, that is still to be written. -/
def mustWait (c : CoreState) (g : Group) (p : Plan) : Bool :=
  c.ops.any (fun e => e.2.uid == g.uid && e.2.gid == g.gid &&
    ((vecNames e.2).any (fun n => p.srcs.contains n || p.dst.any (·.1 == n) || p.rel.contains n) ||
      (opS e.2).any p.sNames.contains))

/-- The lanes that read a vector name: of every operand that names it. -/
def readers (p : Plan) (n : Nat) : Mask :=
  p.srcs.zipIdx.foldl (fun m e => if e.1 = n then m ||| p.srcMasks.getD e.2 p.active else m) 0

/-- The first vector name read that is unmapped, and the lanes whose read was active (R43). -/
def unmapped (g : Group) (p : Plan) : Option (Nat × Mask) :=
  (p.srcs.find? (fun n => (look g.v n).isNone)).map (fun n => (n, readers p n))

/-- The lanes that read a poisoned vector register (R94). -/
def poisonedLanes (g : Group) (p : Plan) : Mask := p.srcs.foldl (fun m n => m ||| (lookD g.badV n 0 &&& readers p n)) 0

/-- The names after the instruction. -/
def Plan.after (p : Plan) (g : Group) : AMap VReg := shapeAfter g.v p.rel p.dst

/-- ΔS (R189, R193). -/
def Plan.delta (p : Plan) (g : Group) : Int := (namesBytes (p.after g) : Int) - namesBytes g.v + p.ds

/-- FOOTPRINT of the team's launch. -/
def overFootprint (i : Issuer) (p : Plan) : Bool :=
  i.tm.footprint < fullCount { i.g with v := p.after i.g } && fullCount i.g < fullCount { i.g with v := p.after i.g }

/-! ### Matrix operands in flight (R360) -/

/-- The names of a D span. -/
def accNames (d : Nat) : List Nat := run d 32

/-- The matrix operations of a group in flight: D base and source names. -/
def matrixOps (c : CoreState) (uid gid : Nat) : List (Nat × List Nat) :=
  c.ops.filterMap (fun e => if e.2.uid = uid && e.2.gid = gid then
    (match e.2.kind with | .mma _ _ _ d _ _ _ srcs _ => some (d, srcs) | _ => none) else none)

/-- The first name of a plan that touches a matrix operation in flight: a read, write or release of its accumulator that is
not a chained operation's, or a write of its sources. -/
def hazardName (c : CoreState) (g : Group) (p : Plan) : Option Nat :=
  let ms := matrixOps c g.uid g.gid
  let acc (n : Nat) : Bool := ms.any (fun m => p.chain != some m.1 && (accNames m.1).contains n)
  let src (n : Nat) : Bool := ms.any (fun m => m.2.contains n)
  (p.srcs.find? acc).or (((p.dst.map (·.1)).find? (fun n => acc n || src n)).or (p.rel.find? acc))

/-- MHAZ HAZARD, with TRAPEN.MHAZ alone (R360, R362). -/
def hazardTrap (c : CoreState) (g : Group) (p : Plan) : Option Trap :=
  if g.trapen.getLsbD 1 then (hazardName c g p).map (fun n => { cause := causeMhaz, sub := 1, addr := BitVec.ofNat 64 n, lanes := p.active })
  else none

/-- A write of names leaves undefined the operands of the matrix operations that read them. -/
def poisonSources (c : CoreState) (uid gid : Nat) (names : List Nat) : CoreState :=
  { c with ops := c.ops.map (fun e =>
      if e.2.uid = uid && e.2.gid = gid then
        match e.2.kind with
        | .mma w z f d a b cv srcs x => (e.1, { e.2 with kind := .mma w z f d a b cv srcs (x || names.any srcs.contains) })
        | _ => e
      else e) }

/-- The charge and engine of the plan. -/
def Plan.engine (p : Plan) : Nat := vctEngine p.cls
def Plan.charge (p : Plan) (s : State) (k : Nat) : Nat := chargeOf s (coreOf s k) p.cls p.bytes

/-- What a plan asks of the sluice, and the plan that asks it. -/
def Plan.asked (p : Plan) : Asked := { cls := p.cls, bytes := p.bytes, rel := p.rel, dst := p.dst, ds := p.ds }
def Asked.plan (a : Asked) (m : Mask) : Plan := { cls := a.cls, bytes := a.bytes, rel := a.rel, dst := a.dst, ds := a.ds, active := m }

/-- VEST′ of a plan (R193). -/
def Plan.vestAfter (p : Plan) (s : State) (i : Issuer) : Nat :=
  Machine.vestAfter s i.k i.g.ctx p.engine (p.charge s i.k) (p.delta i.g)

/-- The sluice admits a plan under a bound (R193). -/
def Plan.admitted (p : Plan) (s : State) (i : Issuer) (bound : Nat) : Bool :=
  admits s i.k i.g.ctx p.engine (p.charge s i.k) (p.delta i.g) bound

/-- The VBT of a refusal (R194). -/
def Plan.vbt (p : Plan) (s : State) (i : Issuer) : Trap := { cause := causeVbt, addr := BitVec.ofNat 64 (p.vestAfter s i), lanes := p.active }

/-- The refusal of the sluice (R194): VBT at once in TRAP mode, or when VSTALLMAX cycles of refusal have passed; else the entry
is held, and a refusal that VBND alone would give counts from its first cycle on. -/
def refuse (s : State) (i : Issuer) (p : Plan) : State :=
  let x := ctxOf s i.ctx
  let now := (coreOf s i.k).ccyc
  let since := i.e.stall.getD now
  let limit := if i.e.stall.isNone then x.vstallmax.toNat else i.e.limit
  if p.vestAfter s i ≤ vbnd s i.k i.g.ctx then held (countEvent s i.k (some i.g.ctx) 3 1)
  else if i.g.vmode = 1 || limit ≤ (now - since).toNat then
    trapAtIssue (countVbt (countEvent s i.k (some i.g.ctx) 3 1) i.ctx p.active) i (p.vbt s i)
  else
    onIssuing s i (fun g => { g with entries := g.entries.map (fun e =>
      if e.mask = i.e.mask then
        { e with stall := some since, again := true, limit := limit, asked := some p.asked, refusedLanes := p.active } else e) })

/-- The checks of an instruction whose write mask is not empty, in the order of R21 and R270. -/
def gate (s : State) (i : Issuer) (p : Plan) : Verdict :=
  let c := coreOf s i.k
  if !p.ready || flagAtLimit i.g p.flag || mustWait c i.g p then .stop (held s)
  else
    match if (ctxOf s i.ctx).ureg then unmapped i.g p else none with
    | some (n, m) => .stop (trapAtIssue s i { cause := causeUreg, addr := BitVec.ofNat 64 n, lanes := m })
    | none =>
      if poisonedLanes i.g p != 0 then .stop (trapAtIssue s i { cause := causeEcc, lanes := poisonedLanes i.g p })
      else if overFootprint i p then .stop (trapAtIssue s i { cause := causeRegfp, lanes := p.active })
      else
        match (hazardTrap c i.g p).or p.early with
        | some tr => .stop (trapAtIssue s i tr)
        | none =>
          let ch := p.charge s i.k
          let ds := p.delta i.g
          if neverFits s i.k i.g.ctx (teamBytes c i.t i.tm) p.engine ch ds then
            .stop (trapAtIssue (countVnever s i.ctx p.active) i { cause := causeVnever, lanes := p.active, resumable := false })
          else if !admits s i.k i.g.ctx p.engine ch ds (sluiceBound s i.k i.g.ctx) then .stop (refuse s i p)
          else .pass

/-- An instruction with an empty write mask: its last-use bits take effect, and nothing else (R39). A name that is both a last-use source
and the destination is released too: nothing is written, so R41's one in-place write has no write to stand for; R39 does not say (DESIGN
CHOICE, log 45). -/
def issueEmpty (s : State) (i : Issuer) (rel : List Nat) : State :=
  let s := onCore (onIssuing s i (fun g => releaseNames g rel)) i.k (fun c => unlatch c i.slot rel)
  complete s i []

/-- The subcode of a clause breach of a body instruction (R260, R262, R265): a flag that the header does not make valid, then
an instruction where a header is expected or a transfer that is not last. -/
def bodyBreach (e : Entry) (fen fsel transfer : Bool) : Option Nat :=
  if e.left = 0 then some subClause
  else if flagInvalid e fen fsel then some subFlag
  else if transfer && e.left != 1 then some subClause
  else none

/-- The common beginning of a body instruction of formats F and X: clause breaches, then the empty write mask, then a poisoned uniform
operand (R94), then the effect under the write mask. `rel` are the names that the last-use bits release. -/
def onIssue (s : State) (f : Fx) (transfer : Bool) (effect : Issuer → Mask → State) (rel : List Nat := relNames f) : Out :=
  whenIssuing s (fun i =>
    match bodyBreach i.e f.fen f.fsel transfer with
    | some sub => trapAtIssue s i (encodingTrap i causeIllenc sub)
    | none =>
      if i.active f == 0 then issueEmpty s i rel
      else if (sSrcNames f).any i.g.badS.contains then trapAtIssue s i { cause := causeEcc, lanes := i.active f }
      else effect i (i.active f))

/-- The effect runs when the checks pass. -/
def passing (s : State) (i : Issuer) (p : Plan) (effect : State → State) : State :=
  match gate s i p with
  | .stop s => s
  | .pass => effect s

/-- The releases of a plan, when the sources have been read; the names it writes are noted for the latch. -/
def applyReleases (s : State) (i : Issuer) (p : Plan) : State :=
  let gone := released p.rel (p.dst.map (·.1))
  let s := onIssuing s i (fun g => releaseNames g gone)
  onCore s i.k (fun c => poisonSources (unlatch c i.slot (gone ++ p.dst.map (·.1))) i.g.uid i.g.gid (p.dst.map (·.1)))

/-- Writing a vector name at issue: the value, and what R45 says of a name whose result is to come. -/
def writeNow (s : State) (i : Issuer) (n : Nat) (toUni : Bool) (m : Mask) (f : Nat → Word) : State :=
  let g := writeName (groupNow s i) n toUni m f
  let (s, g) := spoilNames s g [n]
  onIssuing s i (fun _ => g)

/-- The vacate charge's operation frame: the owner and the flag of an operation that the issuing instruction starts. -/
def newOp (s : State) (i : Issuer) (p : Plan) (lanes : Mask) (kind : OpKind) : Op :=
  let c := coreOf s i.k
  { uid := i.g.uid, gid := i.g.gid, team := i.t, ctx := i.g.ctx, polder := BitVec.ofNat 6 (ctxOf s i.ctx).polder, lanes := lanes,
    pc := i.e.pc, flag := p.flag, eng := p.engine, charge := p.charge s i.k, start := c.ccyc, seq := c.nextOp,
    origin := some i.e, tagmode := (ctxOf s i.ctx).tagmode, kind := kind }

/-- An operation starts: the flag rises, and the operation is in flight. The result is its number. -/
def startOp (s : State) (i : Issuer) (o : Op) : State × Nat := addOp (onIssuing s i (fun g => countFlag g o.flag)) i.k o

/-- Names are allocated in full form for an operation's result (R45). -/
def allocFor (s : State) (i : Issuer) (ns : List Nat) (op : Nat) (flag : Option Nat) : State :=
  let r := ns.foldl (fun a n => pendName (a.1, allocName a.2 n) n op flag) (s, groupNow s i)
  onIssuing r.1 i (fun _ => r.2)

/-- Continuation entries that an atomic with a destination holds while its release is under way (R143, R372). -/
def contsHeld (o : Op) : Nat :=
  match o.kind with
  | .fence _ _ _ _ _ (.ratom _ _ accs) => if o.dest = .none then 0 else accs.length
  | _ => 0

/-- Continuation entries in use, and free (R143). -/
def contsFree (c : CoreState) : Nat :=
  1024 - ((c.conts.filter (fun e => e.2.used)).length + c.ops.foldl (fun a e => a + contsHeld e.2) 0)

end Sys2Proof.Machine
end

