-- ==== Sys2Proof/Machine/Fetch.lean ====
section
/-! DEFINITION. Instruction fetch through the instruction cache (R249, R274, R379), and one issue attempt of an entry: the clause
header, its pad, and the body instruction (R18, R260, R265). -/

namespace Sys2Proof.Machine

/-- The trap of a translation fault: XLATE, XLATE2 and WALK2 are always reported, the last two to the polder's queue with
KIND 5 (R165). -/
def xlateTrap (f : XFault) (addr : Word) (lanes : Mask) (acc : Nat) : Trap :=
  let p := f.cause == causeXlate2 || f.cause == causeWalk2
  { cause := f.cause, sub := f.sub, addr := addr, lanes := lanes, report := p || f.cause == causeXlate, toPolder := p,
    kind := if p then 5 else 0, level := f.level, acc := acc, ipa := if p then f.ipa else 0, hold := f.hold }

/-- A parcel of a cached line. -/
def lineParcel (x : ILine) (a : Word) : Nat := bitsAt x.data.toNat (32 * (fieldOf a 2 6)) 32

/-- The lines an instruction cache of 128 KiB holds (R4); the oldest leaves: the choice is not architectural (log 9). -/
def icacheLines : Nat := 512

/-- No fault: the fetch waits at the core's port for a token (R205). -/
def fetchWaits : XFault := { cause := 0 }

/-- One parcel for the group of a slot: from the instruction cache, else its line is filled from the home (R379). -/
def fetchParcel (s : State) (k slot : Nat) (ctx : BitVec 10) (a : Word) : State × (Nat ⊕ XFault) :=
  if !isUpper a then (s, .inr { cause := causeXlate, sub := subForm })
  else
    match (coreOf s k).icache.find? (fun x => x.ctx == ctx && x.va == vLineOf a) with
    | some x => (s, .inl (lineParcel x a))
    | none =>
      match translate s k ctx a accFetch with
      | (s, .fault f) => (s, .inr f)
      | (s, .wait _) => (s, .inr { cause := causeXlate, sub := subForm })
      | (s, .ok pa _) =>
        if !memGrants s (ctxOf s ctx.toNat).polder pa 0 then (s, .inr { cause := causeAccess })
        else if isPoisoned s pa then (s, .inr { cause := causeEcc })
        else if !portOpen s k ctx (.fetch slot) then (s, .inr fetchWaits)
        else
          let x : ILine := { ctx := ctx, va := vLineOf a, data := (homeLine s (lineOf pa)).data }
          let s := [0, 1, 2, 3].foldl (fun s i => takeSector s k ctx (lineOf pa * 256 + 64 * i)) s
          (onCore s k (fun c => { c with icache := (x :: c.icache).take icacheLines }), .inl (lineParcel x a))

/-- The instruction at an address, and its length in bytes; or the first fetch fault of its parcels and where it lies. -/
def fetchInstr (s : State) (k slot : Nat) (ctx : BitVec 10) (a : Word) : State × ((Instr × Nat) ⊕ (XFault × Word)) :=
  match fetchParcel s k slot ctx a with
  | (s, .inr f) => (s, .inr (f, a))
  | (s, .inl p0) =>
    if parcelCount p0 = 1 then (s, .inl ((decodeParcels p0 0 0).1, 4))
    else
      match fetchParcel s k slot ctx (a + 4) with
      | (s, .inr f) => (s, .inr (f, a + 4))
      | (s, .inl p1) =>
        if parcelCount p0 = 2 then (s, .inl ((decodeParcels p0 p1 0).1, 8))
        else
          match fetchParcel s k slot ctx (a + 8) with
          | (s, .inr f) => (s, .inr (f, a + 8))
          | (s, .inl p2) => (s, .inl ((decodeParcels p0 p1 p2).1, 12))

/-! ### Clause entry (R18) -/

/-- The entry takes a header's priority and flags; in the handler it keeps priority 255 (R31). -/
def enterHeader (e : Entry) (h : Header) : Entry :=
  { e with pri := if e.keep then e.pri else h.pri, fa := h.flagA, fav := h.av, fb := h.flagB, fbv := h.bv }

/-- The entry in the body of the clause. -/
def enterBody (e : Entry) (h : Header) : Entry :=
  { enterHeader e h with pc := e.pc + 8, left := h.len.toNat + 1, pad := false, keep := false }

/-- A clause header (R18, R260): where a header is expected the lanes enter the clause once its wait mask is clear; in a
body it breaches the clause rule. -/
def execClause (h : Header) (s : State) : Out :=
  whenIssuing s (fun i =>
    if i.e.left != 0 then trapAtIssue s i (encodingTrap i causeIllenc subClause)
    else if !flagsClear i.g h.wait.toNat then held s
    else onIssuing s i (fun g => { g with entries := g.entries.map (fun e => if e.mask = i.e.mask then enterBody e h else e) }))

/-- A pattern that is no instruction (R264, R265). -/
def execReservedOpcode (r : Illegal) (s : State) : Out :=
  whenIssuing s (fun i =>
    if i.e.left = 0 then trapAtIssue s i (encodingTrap i causeIllenc r.hdrSub.toNat)
    else trapAtIssue s i (encodingTrap i r.cause.toNat r.sub.toNat))

/-! ### One attempt -/

/-- The context of a slot's group. -/
def slotGroupCtx (s : State) (k slot : Nat) : BitVec 10 := ((groupAt (coreOf s k) slot).map (·.ctx)).getD 0

/-- The cursor is on an entry. -/
def pointAt (s : State) (k slot : Nat) (m : Mask) (len : Nat) : State :=
  { s with cur := some { core := k, slot := slot, lanes := m, len := len }, issued := false }

/-- The state that an outcome gives; a fault or a refusal leaves the state as it was. -/
def Out.stateOr (o : Out) (s : State) : State :=
  match o with
  | .next t => t
  | _ => s

/-- A trap of every lane of an entry that is not yet issuing. -/
def trapEntryAt (s : State) (k slot : Nat) (m : Mask) (tr : Issuer → Trap) : State :=
  match issuer (pointAt s k slot m 0) with
  | some i => trapAtIssue (pointAt s k slot m 0) i (tr i)
  | none => s

/-- A fetch that fails traps the entry's lanes; one that waits for a token holds the entry. -/
def fetchFault (s : State) (k slot : Nat) (m : Mask) (f : XFault) (tr : Trap) : State :=
  if f = fetchWaits then portWait (pointAt s k slot m 0) k (slotGroupCtx s k slot) (.fetch slot)
  else trapEntryAt (portLeave s k (.fetch slot)) k slot m (fun _ => tr)

/-- The instruction at the entry's PC is fetched and run. -/
def runAt (run : Instr → State → Out) (s : State) (k slot : Nat) (ctx : BitVec 10) (e : Entry) : State × Bool :=
  match fetchInstr s k slot ctx e.pc with
  | (s, .inr (f, a)) => (fetchFault s k slot e.mask f (xlateTrap f a e.mask accFetch.code), false)
  | (s, .inl (j, n)) =>
    -- the group's fetch waits at the port no more (R205)
    let s' := pointAt (portLeave s k (.fetch slot)) k slot e.mask n
    ((run j s').stateOr s', match j with | .clause _ => true | _ => false)

/-- The pad parcel before a header is checked (R260): none when it is 0, else the state after its fault. -/
def padFault (s : State) (k slot : Nat) (ctx : BitVec 10) (e : Entry) : State × Option State :=
  if !e.pad then (s, none)
  else
    match fetchParcel s k slot ctx (e.pc - 4) with
    | (s, .inr f) => (s, some (fetchFault s k slot e.mask f { xlateTrap f (e.pc - 4) e.mask accFetch.code with atPad := true }))
    | (s, .inl p) =>
      if p = 0 then (s, none)
      else (s, some (trapEntryAt s k slot e.mask (fun i => { encodingTrap i causeIllenc subClause with atPad := true })))

/-- The entry stands at its header again, with what a held attempt counted. -/
def backToHeader (s : State) (k slot : Nat) (e : Entry) : State :=
  onSlot s k slot (fun g => { g with entries := g.entries.map (fun x =>
    if x.mask = e.mask then { (x.at' (placeOf e)) with keep := e.keep } else x) })

/-- The entry of a slot with a mask, as it stands. -/
def entryNow (s : State) (k slot : Nat) (m : Mask) : Option Entry := (groupAt (coreOf s k) slot).bind (fun g => entryOf g m)

/-- One issue attempt of an entry. It has been held when the cursor is still set. A header and the first instruction of its
body are one attempt. -/
def attempt (run : Instr → State → Out) (s : State) (k slot : Nat) (ctx : BitVec 10) (e : Entry) : State :=
  if e.left != 0 then (runAt run s k slot ctx e).1
  else
    match padFault s k slot ctx e with
    | (_, some t) => t
    | (s, none) =>
      if fieldOf e.pc 0 3 != 0 then trapEntryAt s k slot e.mask (fun i => encodingTrap i causeIllenc subClause)
      else
        match runAt run s k slot ctx e with
        | (t, true) =>
          match entryNow t k slot e.mask with
          | none => t
          | some e' =>
            if t.cur.isNone || e'.left = 0 then t
            else
              let t := (runAt run t k slot ctx e').1
              if t.cur.isSome then backToHeader t k slot e else t
        | (t, false) => t

/-- Ready entries of a group that stand at a header take its priority and flags (R18, R21), once the pad parcel that they fell
through is 0 (R260), and those that meet there merge (R19). While an ICINV of the group is under way nothing is fetched (R379). -/
def peekHeaders (s : State) (k slot : Nat) : State :=
  match groupAt (coreOf s k) slot with
  | none => s
  | some g =>
    if codeFenced (coreOf s k) g then s
    else
    let s := (g.entries.filter (fun e => e.left == 0 && e.st == .ready && fieldOf e.pc 0 3 == 0)).foldl (fun s e =>
      match padFault s k slot g.ctx e with
      | (s, some _) => s
      | (s, none) =>
        match fetchInstr s k slot g.ctx e.pc with
        | (s, .inl (.clause h, _)) =>
          onSlot s k slot (fun g => { g with entries := g.entries.map (fun x => if x.mask = e.mask then { enterHeader x h with pad := false } else x) })
        | (s, _) => s) s
    onSlot s k slot (fun g => { g with entries := normalise g.entries })

end Sys2Proof.Machine
end

