-- ==== Sys2Proof/Machine/MemAccess.lean ====
section
/-! DEFINITION. What every memory instruction does with its lanes: effective addresses (R328), the checks of an access in the
order of R331, the faults of several lanes (R330, R404), tag records (R91), watchpoints (R350), and the wait for the host
(R171). -/

namespace Sys2Proof.Machine

/-! ### Addresses -/

/-- The offset of a memory operand in lane `l` (R326). -/
def offAt (g : Group) (f : Fx) (l : Nat) : Word :=
  match f.lit? with
  | some v => sext 32 v.toNat
  | none => opndAt g .b64 f.b f.smb l

/-- The effective address of a translated access: the top byte comes from the base (R328). -/
def eaOf (a off : Word) : Word := BitVec.ofNat 64 (a.toNat / 2 ^ 56 * 2 ^ 56 + (a.toNat + off.toNat) % 2 ^ 56)

/-- The effective address of lane `l`; a scratch offset is the plain sum (R328). -/
def eaAt (g : Group) (f : Fx) (scratch : Bool) (l : Nat) : Word :=
  let a := opndAt g .b64 f.a f.sma l
  if scratch then a + offAt g f l else eaOf a (offAt g f l)

/-- COUNT and the cache path of MOD (R327, R334). -/
def memCount (f : Fx) : Nat := 2 ^ f.modAt 0 2
def memPath (f : Fx) : Path :=
  match f.modAt 2 2 with
  | 1 => .home
  | 2 => .pass
  | _ => .keep

def isBx (t : Ty) : Bool := t == .bx8 || t == .bx4

/-- The bytes of an access (R329). -/
def memBytes (f : Fx) (count : Nat) : Nat := if isBx f.ty then 8 else f.ty.width / 8 * count

/-! ### One access -/

/-- What an instruction asks of an access: its kind, bytes, space, path; whether its tag is compared and its data read;
the spaces that it accepts (R328). -/
structure Need where
  acc : Acc
  n : Nat
  scratch : Bool := false
  path : Path := .keep
  tagged : Bool := true
  data : Bool := true
  hostOk : Bool := true
  lowerOk : Bool := true
  fabricOk : Bool := false
  /-- BX element accesses (R243): log2 of the elements' bytes per scale pair; whether the pair and the element are accessed -/
  bx : Option Nat := none
  pair : Bool := false
  elem : Bool := true
  deriving DecidableEq, Repr

/-- Where an access goes, or why it does not go. -/
inductive Found where
  | ok (space : Space) (pa ipa : Nat)
  | bad (f : XFault)
  | wait (req : Nat)
  deriving DecidableEq, Repr

/-- The check of an access: what was found, whether its tag mismatches in report mode, whether its fault is a walk's, and the physical
address and IPA that a translation gave its 4 KiB page. -/
structure Checked where
  found : Found
  mismatch : Bool := false
  walked : Bool := false
  page : Option (Nat × Nat) := none
  deriving DecidableEq, Repr

def subSpace : Nat := 2

/-- R331 item 2, for translated memory. -/
def spaceFault (q : Need) (va : Word) : Option XFault :=
  if isFabricVa va then (if q.fabricOk then none else some { cause := causeAccess, sub := subSpace })
  else if isUpper va then none
  else if isLower va then (if q.lowerOk then none else some { cause := causeAccess, sub := subSpace })
  else some { cause := causeXlate, sub := subForm }

/-- A core that has no CACHE bank takes the .home path always (R80, R334). -/
def atHome (c : CoreState) (q : Need) : Bool := q.path == .home || q.acc.atomic || (cacheBanks c).isEmpty

/-- The byte mask of an access in its sector. -/
def byteMask (va : Word) (n : Nat) : Nat := (2 ^ n - 1) * 2 ^ (va.toNat % 64)

/-- Whether a sector serves a load of some bytes without a fill (R79). -/
def holdsBytes (x : Sector) (va : Word) (n : Nat) : Bool :=
  x.valid || x.dirty.toNat &&& byteMask va n == byteMask va n

/-- The L1 line of a context that serves an access without a translation: a load's bytes are there, or a store's line has
been write-checked (R166). -/
def servedBy (c : CoreState) (ctx : BitVec 10) (q : Need) (va : Word) : Option L1Line :=
  if atHome c q then none
  else
    match (l1Find c ctx va).bind (look c.l1) with
    | none => none
    | some l => if q.acc.writes then (if l.checked then some l else none)
                else if holdsBytes (l1Sector l (sectorIx va)) va q.n then some l else none

/-- The tag of a sector beyond the L1 once the context's own write-backs have gone there (R218): at its home, or as the die's L2 holds it. -/
def tagBeyond (s : State) (k : Nat) (ctx : BitVec 10) (va : Word) (pa : Nat) (atItsHome : Bool) : BitVec 4 :=
  let base := if atItsHome then memTag s pa else dieTag s (dieOfCore k) pa
  (leavesFirst (coreOf s k) ctx (.phys (lineOf pa)) va).foldl WriteBack.tagAfter base

/-- The stores of the issuing group to a sector of HBM that have still to perform, oldest first: each with its access, and whether it sets
the sector's tag. The instruction's own access performs after them (R216). -/
def ownStores (s : State) (k pa : Nat) : List (LaneAcc × Bool) :=
  let c := coreOf s k
  match s.cur.bind (fun u => if u.core = k then groupAt c u.slot else none) with
  | none => []
  | some g => (c.ops.filter (fun e => e.2.uid == g.uid && e.2.gid == g.gid)).flatMap (fun e =>
      let here (accs : List LaneAcc) (tag : Option Bool) : List (LaneAcc × Bool) :=
        (accs.filter (fun a => a.space == .hbm && a.pa / 64 == pa / 64)).map (fun a => (a, tag.isSome))
      match e.2.kind with
      | .store _ accs tag _ => here accs tag
      | .homeStore accs tag => here accs tag
      | _ => [])

/-- The bytes of a sector that the issuing group's stores have still to write, as a mask; STTAG writes them all (R348). -/
def ownMask (s : State) (k pa : Nat) : Nat :=
  (ownStores s k pa).foldl (fun m e => m ||| if e.2 then 2 ^ 64 - 1 else byteMask e.1.va e.1.n) 0

/-- The tag that an access is compared with (R91): for a load or store the sector's in the L1, or what a fill would bring; for an
atomic or a merge stage the tag at the home; in each case as the group's own STTAG leaves it. -/
def tagSeen (s : State) (k : Nat) (ctx : BitVec 10) (q : Need) (va : Word) (pa : Nat) : BitVec 4 :=
  let c := coreOf s k
  match (ownStores s k pa).reverse.find? (·.2) with
  | some e => vaTag e.1.va
  | none =>
    if atHome c q then tagBeyond s k ctx va pa q.acc.atomic
    else
      match (l1Find c ctx va).bind (look c.l1) with
      | some l => let x := l1Sector l (sectorIx va)
                  if x.valid || x.tagDirty then x.tag else fillTag s k l (sectorIx va)
      | none => tagBeyond s k ctx va pa false

/-- Whether the data of a load, or of an atomic that returns it, arrives poisoned (R94): by the path that the access takes, with the
group's own stores before it. -/
def poisonSeen (s : State) (k : Nat) (ctx : BitVec 10) (q : Need) (va : Word) (pa : Nat) : Bool :=
  let c := coreOf s k
  let own := ownMask s k pa
  let beyond := (leavesFirst c ctx (.phys (lineOf pa)) va).foldl WriteBack.poisonAfter
    (if q.acc.atomic then isPoisoned s pa else diePoison s (dieOfCore k) pa)
  let covers (m : Nat) : Bool := m &&& byteMask va q.n == byteMask va q.n
  if own = 2 ^ 64 - 1 then false
  else if atHome c q then beyond
  else
    match (l1Find c ctx va).bind (look c.l1) with
    | some l =>
      let x := l1Sector l (sectorIx va)
      if x.valid then x.poison
      else x.poison && x.dirty != 0 || fillPoison s k l (sectorIx va) && !covers (x.dirty.toNat ||| own)
    | none => beyond && !covers own

/-- The right that an access needs at a target (R180). -/
def Need.right (q : Need) : Nat := if q.acc.atomic then 2 else if q.acc.writes then 1 else 0

/-- The checks of an access that is translated: target access tables, tag, poison (R181, R331). `miss`: the access reaches
memory. -/
def judge (s : State) (k : Nat) (ctx : BitVec 10) (q : Need) (va : Word) (pa ipa : Nat) (miss : Bool) : Checked :=
  let x := ctxOf s ctx.toNat
  if isHostWindow pa then
    if !q.hostOk then { found := .bad { cause := causeAccess, sub := subSpace } }
    else if !memGrants s x.polder pa q.right then { found := .bad { cause := causeAccess } }
    else { found := .ok .host pa ipa }
  else if (atHome (coreOf s k) q || (miss && !q.acc.writes)) && !memGrants s x.polder pa q.right then
    { found := .bad { cause := causeAccess } }
  else
    let mis := q.tagged && x.tagmode != 0 && tagSeen s k ctx q va pa != vaTag va
    if mis && x.tagmode = 2 then { found := .bad { cause := causeTag } }
    else if q.data && (!q.acc.writes || q.acc.atomic) && poisonSeen s k ctx q va pa then { found := .bad { cause := causeEcc } }
    else { found := .ok .hbm pa ipa, mismatch := mis }

/-- Offset of an address in its line. -/
def lineOff (va : Word) : Nat := va.toNat % 256

/-- An access to translated memory, after ALIGN and the space checks. A fabric access that leaves the core is checked by the fabric
port's table alone (R160, R181). `walks` and `pages` hold the faults and the results of translations already made for
other lanes, by page: one walk, and one answer of the host, serves the lanes of a page (R404). -/
def checkAccess (s : State) (k : Nat) (ctx : BitVec 10) (q : Need) (walks : List (Word × XFault)) (pages : List (Word × Nat × Nat)) (va : Word) : State × Checked :=
  if isFabricVa va then
    let out := atHome (coreOf s k) q || q.path == .pass
    if out && !tatGrants s 2 (ctxOf s ctx.toNat).polder q.right then (s, { found := .bad { cause := causeAccess } })
    else (s, { found := .ok .fabric 0 0 })
  else
    match servedBy (coreOf s k) ctx q va with
    | some l =>
      match l.home with
      | .phys n => (s, judge s k ctx q va (n * 256 + lineOff va) (l.ipa + lineOff va) false)
      | .fabric => (s, { found := .ok .fabric 0 0 })
    | none =>
      match walks.find? (fun w => w.1 == pageOfVa va) with
      | some w => (s, { found := .bad w.2, walked := true })
      | none =>
        match pages.find? (fun w => w.1 == pageOfVa va) with
        | some w => (s, judge s k ctx q va (w.2.1 + va.toNat % 4096) (w.2.2 + va.toNat % 4096) true)
        | none =>
          match translate s k ctx va q.acc with
          | (s, .fault f) => (s, { found := .bad f, walked := true })
          | (s, .wait n) => (s, { found := .wait n })
          | (s, .ok pa ipa) => (s, { judge s k ctx q va pa ipa true with page := some (pa / 4096 * 4096, ipa / 4096 * 4096) })

/-- A scratch access (R82): its byte among the banks of the core. -/
def scratchPlace (c : CoreState) (t : Nat) (tm : Team) (off : Word) : Option Nat :=
  let slot := off.toNat / 32768
  if tm.scrb + tm.fifob ≤ slot then none
  else
    match bankOfSlot c t slot with
    | some b => if (bankOf c b).mode == .scratch then some (b * 32768 + off.toNat % 32768) else none
    | none => none

/-- A word of a scratch access is poisoned (R94). -/
def scratchBadWord (c : CoreState) (b n : Nat) : Bool :=
  (List.range (max 1 (n / 8))).any (fun j => (bankOf c (b / 32768)).bad.contains (b % 32768 / 8 + j))

/-! ### The lanes of an instruction -/

/-- What the lanes of an instruction meet. -/
structure Probe where
  accs : List LaneAcc := []
  bad : List (Nat × Word × XFault) := []
  mism : List (Nat × Word) := []
  walks : List (Word × XFault) := []
  pages : List (Word × Nat × Nat) := []
  wait : Option Nat := none
  deriving DecidableEq, Repr

/-- A lane meets a fault at an address. -/
def Probe.fail (p : Probe) (l : Nat) (a : Word) (f : XFault) : Probe := { p with bad := p.bad ++ [(l, a, f)] }

/-- The result of a check is noted: the lane's access, or its fault. -/
def Probe.note (p : Probe) (l reg n : Nat) (va : Word) (x : Checked) : Probe :=
  let p := match x.page with
    | some t => { p with pages := (pageOfVa va, t) :: p.pages }
    | none => p
  match x.found with
  | .ok sp pa ipa =>
    { p with accs := p.accs ++ [{ lane := l, reg := reg, space := sp, va := va, pa := pa, ipa := ipa, n := n }],
             mism := if x.mismatch then p.mism ++ [(l, va)] else p.mism }
  | .bad f => { p.fail l va f with walks := if x.walked then p.walks ++ [(pageOfVa va, f)] else p.walks }
  | .wait r => { p with wait := some (p.wait.getD r) }

/-- The window of a BX access (R58, R243): element base, scale base, length; none when it is not valid. -/
def windowOf (g : Group) (scratch : Bool) : Option Window :=
  if scratch then
    if bitAt g.sclwins.toNat 63 then
      some { eb := BitVec.ofNat 64 (fieldOf g.sclwins 0 21), sb := BitVec.ofNat 64 (fieldOf g.sclwins 21 21),
             elen := BitVec.ofNat 64 (fieldOf g.sclwins 42 21) }
    else none
  else if bitAt g.sclwin.toNat 0 then g.window else none

/-- Whether a window serves the 8 element bytes at an address (R243). -/
def windowCovers (w : Window) (a : Word) : Bool :=
  w.eb.toNat % 32 == 0 && w.elen.toNat % 32 == 0 && w.sb.toNat % 2 == 0 &&
    w.eb.toNat ≤ a.toNat && a.toNat + 8 ≤ w.eb.toNat + w.elen.toNat

/-- The address of the scale pair of an element address (R243, R337). -/
def scaleAddr (w : Window) (sh : Nat) (scratch : Bool) (a : Word) : Word :=
  let o := BitVec.ofNat 64 ((a.toNat - w.eb.toNat) / 2 ^ sh * 2)
  if scratch then w.sb + o else eaOf w.sb o

/-- An access of a lane after ALIGN and the space checks have passed. -/
def probeDeep (s : State) (i : Issuer) (q : Need) (l reg : Nat) (a : Word) (p : Probe) : State × Probe :=
  if q.scratch then
    match scratchPlace (coreOf s i.k) i.t i.tm a with
    | some b =>
      if !q.acc.writes && scratchBadWord (coreOf s i.k) b q.n then (s, p.fail l a { cause := causeEcc })
      else (s, p.note l reg q.n a { found := .ok .scratch b 0 })
    | none => (s, p.fail l a { cause := causeBank })
  else
    let (s, x) := checkAccess s i.k i.g.ctx q p.walks p.pages a
    (s, p.note l reg q.n a x)

/-- The first of ALIGN and the space checks that an access breaks (R331 items 1 and 2). -/
def firstFault (s : State) (i : Issuer) (q : Need) (a : Word) : Option XFault :=
  if a.toNat % q.n != 0 then some { cause := causeAlign }
  else if q.scratch then
    if (scratchPlace (coreOf s i.k) i.t i.tm a).isNone then some { cause := causeBank } else none
  else spaceFault q a

/-- One lane's accesses in the order of R331: element ALIGN and space, SCLW, the scale pair, the element. -/
def probeLane (i : Issuer) (g : Group) (q : Need) (a : State × Probe) (e : Nat × Word) : State × Probe :=
  let (s, p) := a
  match firstFault s i q e.2 with
  | some f => (s, p.fail e.1 e.2 f)
  | none =>
    match q.bx with
    | none => probeDeep s i q e.1 0 e.2 p
    | some sh =>
      match windowOf g q.scratch with
      | none => (s, p.fail e.1 e.2 { cause := causeSclw })
      | some w =>
        if !windowCovers w e.2 then (s, p.fail e.1 e.2 { cause := causeSclw })
        else
          let sa := scaleAddr w sh q.scratch e.2
          let qs : Need := { q with n := 2 }
          let p0 := p.bad.length
          let (s, p') := if !q.pair then (s, p)
            else match firstFault s i qs sa with
              | some f => (s, p.fail e.1 sa f)
              | none => probeDeep s i qs e.1 1 sa p
          if p'.bad.length != p0 || !q.elem then (s, p')
          else
            let (s, p'') := probeDeep s i q e.1 0 e.2 p'
            -- a lane that faults accesses nothing
            (s, if p''.bad.length != p0 then { p'' with accs := p''.accs.filter (·.lane != e.1), mism := p''.mism.filter (·.1 != e.1) } else p'')

/-- Lanes in rising order of their addresses. -/
def insertAddr (e : Nat × Word) (l : List (Nat × Word)) : List (Nat × Word) :=
  match l with
  | [] => [e]
  | a :: r => if e.2.toNat < a.2.toNat then e :: a :: r else a :: insertAddr e r

/-- The lanes of a mask with their addresses, in rising order of address, equal addresses in rising order of lane. -/
def laneAddrs (m : Mask) (ea : Nat → Word) : List (Nat × Word) :=
  (lanesIn m).foldl (fun r l => insertAddr (l, ea l) r) []

/-- Every lane of a mask is checked. -/
def probe (s : State) (i : Issuer) (g : Group) (q : Need) (m : Mask) (ea : Nat → Word) : State × Probe :=
  (laneAddrs m ea).foldl (probeLane i g q) (s, {})

/-- The accesses of a probe in rising order of lane. -/
def Probe.byLane (p : Probe) : List LaneAcc := laneNums.flatMap (fun l => p.accs.filter (·.lane == l))

/-! ### Faults of lanes -/

/-- A lane's fault joins the trap of its cause and page, or begins one (R131, R330); ADDR is the lowest address (R404). -/
def addFault (code : Nat) (trs : List Trap) (e : Nat × Word × XFault) : List Trap :=
  let t := xlateTrap e.2.2 e.2.1 (maskOfLanes [e.1]) code
  let same (o : Trap) : Bool := o.cause == t.cause && pageOfVa o.addr == pageOfVa t.addr && o.hold == t.hold
  if trs.any same then
    trs.map (fun o => if same o then
      (if t.addr.toNat < o.addr.toNat then { t with lanes := o.lanes ||| t.lanes } else { o with lanes := o.lanes ||| t.lanes }) else o)
  else trs ++ [t]

/-- The traps of a probe. -/
def Probe.traps (p : Probe) (q : Need) : List Trap := p.bad.foldl (addFault q.acc.code) []

/-- The traps of an instruction that acts once for the group: every active lane parks (R330). -/
def onceTraps (m : Mask) (trs : List Trap) : List Trap := trs.map (fun t => { t with lanes := m })

/-- Lanes of a list of traps. -/
def trapLanes (trs : List Trap) : Mask := trs.foldl (fun m t => m ||| t.lanes) 0

/-- Tag mismatches in trap mode are counted (R211). -/
def countTagFaults (s : State) (i : Issuer) (p : Probe) : State :=
  let n := (p.bad.filter (fun e => e.2.2.cause == causeTag)).length
  if n = 0 then s else countTagTrap s i.ctx n

/-- The lanes with mismatches by page, each with its lowest address. -/
def mismPages (l : List (Nat × Word)) : List (Word × Mask) :=
  (l.map (fun e => pageOfVa e.2)).eraseDups.map (fun pg =>
    let es := l.filter (fun e => pageOfVa e.2 == pg)
    (es.foldl (fun a e => if e.2.toNat < a.toNat then e.2 else a) ((es.head?.map (·.2)).getD 0), maskOfLanes (es.map (·.1))))

/-- Tag mismatches in report mode: one KIND 3 record per page, and the count (R67, R91, R131). -/
def reportTags (s : State) (i : Issuer) (code : Nat) (l : List (Nat × Word)) : State :=
  if l.isEmpty then s
  else
    (mismPages l).foldl (fun s e =>
      (reportTrap s i { cause := causeTag, addr := e.1, lanes := e.2, kind := 3, acc := code, resumable := false } (placeOf i.e)).1)
      (countTagReport s i.ctx ((l.map (·.1)).eraseDups).length)

/-! ### Watchpoints (R350) -/

/-- The kind of an access for watchpoints. -/
inductive WatchKind where
  | read | write | atomic
  deriving DecidableEq, Repr

/-- An address without its tag. -/
def untag (a : Word) : Nat := (setField a 56 4 0).toNat

/-- Whether watchpoint `n` of group G, in team `tg`, watches accesses of group H's lane of a kind. -/
def watchScope (i : Issuer) (G : Group) (tg : Option Team) (n l : Nat) (kind : WatchKind) : Bool :=
  let c := fieldOf G.watchcfg (16 * n) 16
  let same := G.uid == i.g.uid && G.gid == i.g.gid
  let scope := bitsAt c 0 3
  let k := bitsAt c 3 2
  (match kind with
    | .read => k == 0 || k == 2
    | .write => k == 1 || k == 2
    | .atomic => true) &&
  (match scope with
    | 1 => same && inMask (lookD G.wmask n 0) l
    | 2 => same
    | 3 => G.uid == i.g.uid
    | 4 => tg.any (fun t => t.launch == i.tm.launch && t.cluster == i.tm.cluster)
    | 5 => true
    | _ => false)

/-- The lowest byte of an access that a watchpoint covers. Whether one that is not aligned to its length covers it, and which byte, is left
open (R6, R59). -/
def watchOverlap (G : Group) (n : Nat) (va : Word) (z : Nat) : Option Word :=
  let w := untag (lookD G.watch n 0)
  let log := bitsAt (fieldOf G.watchcfg (16 * n) 16) 5 6
  let x := untag va
  if w % 2 ^ log != 0 then Config.watchMisaligned w log va z
  else if x < w + 2 ^ log && w < x + z then some (va + BitVec.ofNat 64 (w - x))
  else none

/-- The lowest address at which an access of a lane matches a watchpoint of any group. -/
def watchHit (s : State) (i : Issuer) (l : Nat) (va : Word) (z : Nat) (kind : WatchKind) : Option Word :=
  let hits := s.cores.flatMap (fun c => c.2.groups.flatMap (fun e =>
    if e.2.ctx = i.g.ctx then
      [0, 1, 2, 3].filterMap (fun n => if watchScope i e.2 (teamOf c.2 e.2.team) n l kind then watchOverlap e.2 n va z else none)
    else []))
  hits.foldl (fun b a => match b with
    | none => some a
    | some x => if a.toNat < x.toNat then some a else some x) none

/-- The WATCH trap of the accesses of an instruction: the matching lanes, and the lowest matching address of the lowest (R350); a record's
ADDR is the lowest of them all (R404). -/
def watchTrap (s : State) (i : Issuer) (kind : WatchKind) (accs : List LaneAcc) : Option Trap :=
  let hits := accs.filterMap (fun a =>
    if a.space = .hbm || a.space = .host then (watchHit s i a.lane a.va (max 1 a.n) kind).map (fun x => (a.lane, x)) else none)
  let m := maskOfLanes (hits.map (·.1))
  if m == 0 then none
  else
    let least (l : List Word) : Word := l.foldl (fun b x => if x.toNat < b.toNat then x else b) (l.headD 0)
    some { cause := causeWatch, addr := least ((hits.filter (fun h => h.1 == lowestLane m)).map (·.2)), low := some (least (hits.map (·.2))),
           lanes := m, next := true }

/-! ### Waiting for the host (R171) -/

/-- The instruction has not issued: its lower-half requests are on their way, and the entry waits for one. -/
def holdForHost (s s' : State) (i : Issuer) (n : Nat) : State :=
  let t : State := { s with xlreqs := s.xlreqs ++ s'.xlreqs.filter (fun e => s.nextReq ≤ e.1), nextReq := s'.nextReq, fabric := s'.fabric }
  onIssuing t i (fun g => { g with entries := g.entries.map (fun e => if e.mask = i.e.mask then { e with hold := .host n } else e) })

/-! ### What memory instructions wait for -/

/-- A fence-like operation of the group holds its later memory accesses (R215, R346, R379). -/
def fenceOpen (c : CoreState) (g : Group) : Bool :=
  c.ops.any (fun e => e.2.uid == g.uid && e.2.gid == g.gid && match e.2.kind with | .fence .. => true | _ => false)

/-- A bank of the core is in transition (R76). -/
def inTransition (c : CoreState) (b : Nat) : Bool :=
  c.ops.any (fun e => match e.2.kind with | .bank n _ => n == b | _ => false)

/-- A slot of a team is in transition. -/
def slotInTransition (c : CoreState) (t slot : Nat) : Bool := (bankOfSlot c t slot).any (inTransition c)

/-- The instruction may access memory, and scratch at the offsets given. -/
def memReady (i : Issuer) (s : State) (offs : List Word) : Bool :=
  let c := coreOf s i.k
  !fenceOpen c i.g && offs.all (fun o => !slotInTransition c i.t (o.toNat / 32768))

/-- A scale window descriptor of the group is still being loaded (R58). -/
def windowOpen (c : CoreState) (g : Group) : Bool :=
  c.ops.any (fun e => e.2.uid == g.uid && e.2.gid == g.gid && match e.2.kind with | .load _ _ w => w | _ => false)

/-- Register names of a run, of a vector operand. -/
def runNames (o : Opnd) (k : Nat) : List Nat :=
  match o with
  | .v n => run n.toNat k
  | _ => []
def runSNames (o : Opnd) (k : Nat) : List Nat :=
  match o with
  | .s n => run n.toNat k
  | _ => []

/-- Register `j` of a data operand in lane `l`. -/
def dataAt (g : Group) (t : Ty) (o : Opnd) (j l : Nat) : Word :=
  match o with
  | .v n => vLane g (n.toNat + j) l
  | .s n => sReg g (n.toNat + j)
  | .k c => konstWord t c l
  | _ => 0

end Sys2Proof.Machine
end

