-- ==== Sys2Proof/Machine/LoadStore.lean ====
section
/-! DEFINITION. Loads and stores of every space, block-scale accesses, prefetch and memory tags at their issue (R332 to R337,
R347, R348). What performs later is in the completions. -/

namespace Sys2Proof.Machine

/-! ### The common course of a memory instruction -/

/-- The operations of a core from a number on. -/
def startedOps (s : State) (k n : Nat) : List Nat := ((coreOf s k).ops.filter (fun e => n ≤ e.1)).map (·.1)

/-- The lanes of a WATCH trap wait for the operations of their access (R32, R350). -/
def watchHold (t : Option Trap) : Option (Mask × (List Nat → Hold)) := t.map (fun t => (t.lanes, fun ops => .watch ops t.addr (t.low.getD t.addr)))

/-- The destinations of an instruction all of whose lanes fault: they are allocated at its issue all the same (R45), with no result to
come, and a last-use source that is one of them keeps its name (R41). -/
def allocOnly (s : State) (i : Issuer) (ns : List Nat) : State :=
  onIssuing s i (fun g => ns.foldl (fun g n => match look g.v n with
    | some (.full _) => g
    | _ => allocName g n) g)

/-- The end of a memory instruction's issue: releases, the effect for the lanes that do not fault, tag records, traps, and the
lanes that wait for the operations that it has begun. -/
def finishMem (s : State) (i : Issuer) (p : Plan) (q : Need) (once : Option Mask) (m : Mask) (r : Probe)
    (wait : Mask → List LaneAcc → Option (Mask × (List Nat → Hold))) (effect : Mask → State → State) : State :=
  let trs := match once with
    | some all => onceTraps all (r.traps q)
    | none => r.traps q
  let ok := m &&& ~~~ trapLanes trs
  let s := countTagFaults s i r
  let s := applyReleases s i p
  let n := (coreOf s i.k).nextOp
  let s := if ok == 0 then allocOnly s i (p.dst.map (·.1)) else effect ok s
  let s := reportTags s i q.acc.code r.mism
  match if ok == 0 then none else wait ok r.byLane with
  | none => complete s i trs
  | some (w, h) => completeWait s i w (h (startedOps s i.k n)) trs

/-- A memory instruction whose lanes each access memory. `effect` is given the group as its sources read, the lanes that do
not fault, and their accesses; `rel` are the names that its last-use bits release. -/
def memOp (s : State) (f : Fx) (plan : Issuer → Mask → Plan) (q : Need) (watch : Option WatchKind)
    (effect : Issuer → Group → Plan → Mask → List LaneAcc → State → State) (rel : List Nat := relNames f) : Out :=
  onIssue s f false (fun i m =>
    let p := plan i m
    passing s i p (fun s =>
      let (s1, g) := readView s i.g p.srcs
      let (s2, r) := probe s1 i g q m (eaAt g f q.scratch)
      match r.wait with
      | some n => holdForHost s s2 i n
      | none =>
        finishMem s2 i p q none m r (fun _ accs => watchHold (watch.bind (fun k => watchTrap s2 i k accs)))
          (fun ok s => effect i g p ok r.byLane s))) rel

/-- The WATCH trap of an instruction that acts once: its access matches when it does for any active lane, and every active
lane is named. -/
def onceWatch (s : State) (i : Issuer) (kind : WatchKind) (m : Mask) (accs : List LaneAcc) : Option Trap :=
  (watchTrap s i kind (accs.flatMap (fun a => (lanesIn m).map (fun l => { a with lane := l })))).map (fun t => { t with lanes := m })

/-- A memory instruction that acts once for the group, with one access (R330, R336). With `await` its lanes wait until its operation
is over. -/
def onceOp (s : State) (f : Fx) (plan : Issuer → Mask → Plan) (q : Need) (watch : Option WatchKind)
    (effect : Issuer → Group → Plan → Mask → List LaneAcc → State → State) (await : Bool := false) : Out :=
  onIssue s f false (fun i m =>
    let p := plan i m
    passing s i p (fun s =>
      let (s1, g) := readView s i.g p.srcs
      let (s2, r) := probe s1 i g q (maskOfLanes [lowestLane m]) (eaAt g f q.scratch)
      match r.wait with
      | some n => holdForHost s s2 i n
      | none =>
        finishMem s2 i p q (some m) m r
          (fun ok accs => if await then some (ok, .accept) else watchHold (watch.bind (fun k => onceWatch s2 i k m accs)))
          (fun ok s => effect i g p ok r.byLane s)))

/-! ### Loads -/

/-- The shift of R243 for a BX type. -/
def bxShift (t : Ty) : Option Nat :=
  match t with
  | .bx8 => some 5
  | .bx4 => some 4
  | _ => none

/-- The scratch offsets that the lanes of an instruction access: of their elements, and of their scale pairs (R243). -/
def laneOffs (i : Issuer) (f : Fx) (scratch : Bool) (m : Mask) : List Word :=
  if !scratch then []
  else (lanesIn m).flatMap (fun l =>
    let a := eaAt i.g f true l
    match bxShift f.ty, windowOf i.g true with
    | some sh, some w => if windowCovers w a then [a, scaleAddr w sh true a] else [a]
    | _, _ => [a])

/-- The plan of a load of `k` registers. -/
def loadPlan (s : State) (f : Fx) (scratch : Bool) (k : Nat) (i : Issuer) (m : Mask) : Plan :=
  { cls := 2, active := m, srcs := opNames f.a ++ opNames f.b, rel := relNames f, dst := (runNames f.d k).map (fun n => (n, false)),
    sNames := opSNames f.a ++ opSNames f.b ++ runSNames f.d k, flag := flagNumber i.e f.fen f.fsel,
    ready := memReady i s (laneOffs i f scratch m) && !(isBx f.ty && windowOpen (coreOf s i.k) i.g) }

/-- What a load needs of its accesses. -/
def loadNeed (f : Fx) (scratch : Bool) (count : Nat) : Need :=
  { acc := accRead, n := memBytes f count, scratch := scratch, path := if scratch then .keep else memPath f,
    bx := bxShift f.ty, pair := isBx f.ty && count == 2 }

/-- A lane's access as the registers that it loads: one per 8 bytes, with the extension of R332. -/
def loadParts (f : Fx) (a : LaneAcc) : List LaneAcc :=
  if a.reg != 0 then [a]
  else if a.n ≤ 8 then [{ a with sgn := f.ty.signed && f.ty.width < 64 && !(isBx f.ty) }]
  else (List.range (a.n / 8)).map (fun j =>
    { a with reg := j, n := 8, va := a.va + BitVec.ofNat 64 (8 * j), pa := a.pa + 8 * j, ipa := a.ipa + 8 * j })

/-- A load begins: its operation is in flight, and its destinations are allocated. -/
def startLoad (i : Issuer) (p : Plan) (d : Opnd) (k : Nat) (path : Path) (accs : List LaneAcc) (ok : Mask) (s : State) : State :=
  let dest : Dest := match d with
    | .v n => .v n.toNat
    | .s n => .s n.toNat
    | _ => .none
  let o := { newOp s i p ok (.load path accs false) with dest := dest, regs := k }
  let (s, n) := startOp s i o
  allocFor s i (runNames d k) n p.flag

/-- The accesses of the lanes that do not fault. -/
def ofLanes (m : Mask) (accs : List LaneAcc) : List LaneAcc := accs.filter (fun a => inMask m a.lane)

/-- LD and LDS. -/
def loadOp (s : State) (f : Fx) (scratch : Bool) : Out :=
  let k := memCount f
  let path : Path := if scratch then .keep else memPath f
  memOp s f (loadPlan s f scratch k) (loadNeed f scratch k) (some .read) (fun i _ p ok accs s =>
    startLoad i p f.d k path ((ofLanes ok accs).flatMap (loadParts f)) ok s)

/-- LD (R332, R334, R337). -/
def execLd (f : Fx) (s : State) : Out := loadOp s f false
/-- LDS (R332). -/
def execLds (f : Fx) (s : State) : Out := loadOp s f true

/-- LDU (R336). -/
def execLdu (f : Fx) (s : State) : Out :=
  onceOp s f (loadPlan s f false 1) (loadNeed f false 1) (some .read) (fun i _ p ok accs s =>
    startLoad i p f.d 1 (memPath f) (accs.flatMap (loadParts f)) ok s)

/-- LDBXS (R337): the scale pair alone. -/
def execLdbxs (f : Fx) (s : State) : Out :=
  let scr := f.modAt 0 1 == 1
  let q : Need := { acc := accRead, n := 8, scratch := scr, hostOk := false, bx := bxShift f.ty, pair := true, elem := false }
  memOp s f (loadPlan s f scr 1) q (some .read) (fun i _ p ok accs s =>
    startLoad i p f.d 1 .keep ((ofLanes ok accs).map (fun a => { a with reg := 0 })) ok s)

/-- LDTAG (R348): an access of size 0 reads the tag. -/
def execLdtag (f : Fx) (s : State) : Out :=
  let q : Need := { acc := accRead, n := 1, tagged := false, data := false, hostOk := false }
  memOp s f (loadPlan s f false 1) q none (fun i _ p ok accs s =>
    startLoad i p f.d 1 .keep ((ofLanes ok accs).map (fun a => { a with n := 0 })) ok s)

/-! ### Stores -/

/-- The sector of an address, its tag aside. -/
def sectorKey (a : Word) : Nat := untag a / 64

/-- The addresses that an active lane of a store may dirty: its element, and its scale pair. -/
def storeTouches (g : Group) (f : Fx) (q : Need) (l : Nat) : List Word :=
  let a := eaAt g f false l
  match q.bx with
  | none => [a]
  | some sh =>
    match windowOf g false with
    | some w => if q.pair && windowCovers w a then [a, scaleAddr w sh false a] else [a]
    | none => [a]

/-- Whether a store of a path to an address goes into the L1 (R334, R335). -/
def intoL1 (c : CoreState) (path : Path) (a : Word) : Bool :=
  !(cacheBanks c).isEmpty && path != .home && !(path == .pass && isFabricVa a)

/-- The distinct sectors of some addresses. -/
def distinctSectors (as : List Word) : Nat := (as.map sectorKey).eraseDups.length

/-- An address resolves to the host window: its store takes the .home path whatever its code (R90, R334). -/
def hostBound (s : State) (i : Issuer) (q : Need) (a : Word) : Bool :=
  (firstFault s i q a).isNone && match (checkAccess s i.k i.g.ctx q [] [] a).2.found with
    | .ok .host _ _ => true
    | _ => false

/-- A store of the group to the fabric window has still to perform in the L1: a fabric access that leaves the core follows it (R216). -/
def fabricPending (c : CoreState) (g : Group) : Bool :=
  c.ops.any (fun e => e.2.uid == g.uid && e.2.gid == g.gid && match e.2.kind with
    | .store _ accs _ _ => accs.any (·.space == .fabric)
    | _ => false)

/-- The write-backs of fabric lines that leave ahead of accesses to their lines (R229, R368): dirty sectors of the L1, and what is not
yet sent. Each takes a port tracker entry. -/
def fabricDirty (c : CoreState) (ctx : BitVec 10) (as : List Word) : Nat :=
  (((as.filter isFabricVa).map (fun a => untag a / 256)).eraseDups.flatMap (fun l => [4 * l, 4 * l + 1, 4 * l + 2, 4 * l + 3])).foldl (fun n key =>
    let hit (va : Word) (i : Nat) : Bool := untag va / 256 * 4 + i == key
    n + c.l1.foldl (fun n e => if e.2.ctx = ctx && e.2.home = .fabric then
        n + ([0, 1, 2, 3].filter (fun i => hit e.2.va i && (l1Sector e.2 i).isDirty)).length else n) 0 +
      (c.wbs.filter (fun e => e.2.ctx == ctx && e.2.home == .fabric && !e.2.sent && hit e.2.va (sectorIx e.2.va))).length) 0

/-- Fabric accesses to some addresses may leave the core now, with `n` port tracker entries of their own. -/
def fabricReady (c : CoreState) (g : Group) (as : List Word) (n : Nat) : Bool :=
  n + fabricDirty c g.ctx as ≤ trackerFree c && (!as.any isFabricVa || !fabricPending c g)

/-- The context's dirty bytes of the fabric lines that an instruction touches leave the L1 first, every sector of each (R368). -/
def fabricFirst (s : State) (i : Issuer) (accs : List LaneAcc) : State :=
  ((accs.map (fun a => vLineOf a.va)).eraseDups).foldl (fun s va =>
    [0, 64, 128, 192].foldl (fun s j => homeFirst s i.k i.g.ctx .fabric (va + BitVec.ofNat 64 j)) s) s

/-- The plan of a store: its change in S counts the sectors that it will make dirty in the L1 (R189), and every other access takes a
port tracker entry of its own (R21). -/
def storePlan (s : State) (f : Fx) (q : Need) (k : Nat) (once : Bool) (i : Issuer) (m : Mask) : Plan :=
  let c := coreOf s i.k
  let ls := if once then [lowestLane m] else lanesIn m
  let as := if q.scratch then [] else ls.flatMap (storeTouches i.g f q)
  let near := as.filter (fun a => intoL1 c q.path a && !hostBound s i q a)
  { cls := 3, active := m, srcs := opNames f.a ++ opNames f.b ++ runNames f.c k,
    rel := relRun f k,
    sNames := opSNames f.a ++ opSNames f.b ++ runSNames f.c k, flag := flagNumber i.e f.fen f.fsel,
    ds := 64 * distinctSectors near,
    ready := memReady i s (laneOffs i f q.scratch m) && !(isBx f.ty && windowOpen c i.g) &&
      fabricReady c i.g (as.filter (fun a => !intoL1 c q.path a)) (as.length - near.length) }

/-- What a store needs of its accesses. -/
def storeNeed (f : Fx) (scratch : Bool) (count : Nat) : Need :=
  { acc := accWrite, n := memBytes f count, scratch := scratch, path := if scratch then .keep else memPath f, fabricOk := true,
    bx := bxShift f.ty, pair := isBx f.ty && count == 2 }

/-- A lane's access with the bytes that it stores. -/
def storeParts (g : Group) (f : Fx) (a : LaneAcc) : List LaneAcc :=
  if a.reg != 0 then [{ a with data := dataAt g f.ty f.c 1 a.lane }]
  else if a.n ≤ 8 then [{ a with data := BitVec.ofNat 64 (fieldOf (dataAt g f.ty f.c 0 a.lane) 0 (8 * a.n)) }]
  else (List.range (a.n / 8)).map (fun j =>
    { a with reg := j, n := 8, va := a.va + BitVec.ofNat 64 (8 * j), pa := a.pa + 8 * j,
             ipa := a.ipa + 8 * j, data := dataAt g f.ty f.c j a.lane })

/-- Whether an access of a store is performed in the L1 or in scratch. -/
def inL1 (c : CoreState) (path : Path) (a : LaneAcc) : Bool :=
  match a.space with
  | .scratch => true
  | .host => false
  | .hbm => !(cacheBanks c).isEmpty && path != .home
  | .fabric => intoL1 c path a.va

/-- The masked line writes of fabric accesses: one per line and tag, the highest lane's bytes on top (R216, R334). -/
def fabricWrites (accs : List LaneAcc) : List (Word × Nat × Nat) :=
  let key (a : LaneAcc) : Word := BitVec.ofNat 64 (a.va.toNat / 256 * 256)
  ((accs.map key).eraseDups).map (fun w =>
    (accs.filter (fun a => key a == w)).foldl (fun r a =>
      (w, r.2.1 ||| (2 ^ a.n - 1) * 2 ^ lineOff a.va, overlayBytes r.2.2 a.n (lineOff a.va) (2 ^ a.n - 1) a.data.toNat)) (w, 0, 0))

/-- Fabric writes leave as WR packets through the port tracker. -/
def sendFabricWrites (s : State) (i : Issuer) (op : Nat) (rel : Bool) (ws : List (Word × Nat × Nat)) : State :=
  ws.foldl (fun s w => submit s i.k op (wrPacketOf s i.g.ctx w.1 w.2.1 w.2.2 rel)) s

/-- The accesses of a store begin: those of the L1 and of scratch, those at homes, those of the fabric. The charge is taken
once; a store handed off at issue retires its flag there (R48, R335), an STTAG when it performs at the home (R348). -/
def startStore (i : Issuer) (p : Plan) (path : Path) (tagSet : Option Bool) (accs : List LaneAcc) (ok : Mask) (s : State) : State :=
  let c := coreOf s i.k
  let l1 := accs.filter (inL1 c path)
  let out := accs.filter (fun a => !inL1 c path a)
  let homes := out.filter (·.space != .fabric)
  let fab := fabricWrites (out.filter (·.space == .fabric))
  let nh := (homes.map (fun a => a.pa / 64)).eraseDups.length
  let sectors := ((l1.filter (·.space != .scratch)).map (fun a => sectorKey a.va)).eraseDups.length
  let o1 := newOp s i p ok (.store path l1 tagSet sectors)
  let s := if l1.isEmpty then s else (startOp s i o1).1
  let rest : Plan := { p with flag := none }
  let o2 := newOp s i (if tagSet.isSome then p else rest) ok (.homeStore homes tagSet)
  let s := if homes.isEmpty then s
    else (startOp s i { o2 with tracker := nh, charge := if l1.isEmpty then o2.charge else 0 }).1
  if fab.isEmpty then s
  else
    let s := fabricFirst s i (out.filter (·.space == .fabric))
    let o3 := newOp s i rest ok (.remoteWrite fab.length (out.filter (·.space == .fabric)))
    let (s, n) := startOp s i { o3 with tracker := fab.length, charge := if l1.isEmpty && homes.isEmpty then o3.charge else 0 }
    sendFabricWrites s i n false fab

/-- ST and STS. -/
def storeOp (s : State) (f : Fx) (scratch : Bool) : Out :=
  let k := memCount f
  let q := storeNeed f scratch k
  memOp s f (storePlan s f q k false) q (some .write) (fun i g p ok accs s =>
    startStore i p q.path none ((ofLanes ok accs).flatMap (storeParts g f)) ok s) (relRun f k)

/-- ST (R333, R334, R337). -/
def execSt (f : Fx) (s : State) : Out := storeOp s f false
/-- STS (R333). -/
def execSts (f : Fx) (s : State) : Out := storeOp s f true

/-- STU (R336). -/
def execStu (f : Fx) (s : State) : Out :=
  let q := storeNeed f false 1
  onceOp s f (storePlan s f q 1 true) q (some .write) (fun i g p ok accs s =>
    startStore i p q.path none (accs.flatMap (storeParts g f)) ok s)

/-! ### Prefetch and tags -/

/-- A prefetched sector comes into the L1, or into the die's copy (R347). -/
def prefFill (s : State) (i : Issuer) (l2 : Bool) (a : Word) (pa ipa : Nat) : State :=
  let d := dieOfCore i.k
  if !canFill s d pa then s
  else if l2 || (cacheBanks (coreOf s i.k)).isEmpty then fillCopy s d pa
  else
    match allocLine s i.k i.g.ctx a (.phys (lineOf pa)) ipa with
    | (s, some key) =>
      let full := (look (coreOf s i.k).l1 key).any (fun l => (l1Sector l (sectorIx a)).valid)
      let s := if full || !isUpper a then s else countHeat s (homeDie pa) d (ctxOf s i.g.ctx.toNat).polder ipa
      fillSector s i.k key (sectorIx a)
    | (s, none) => s

/-- A prefetch of one lane (R347); a lane that would fault is dropped. One walk, and one answer of the host, serves the lanes of a page
(R404): `p` keeps what those before have found. -/
def prefLane (i : Issuer) (l2 : Bool) (r : State × Probe) (e : Nat × Word) : State × Probe :=
  let q : Need := { acc := accRead, n := 1, tagged := false }
  match spaceFault q e.2 with
  | some _ => r
  | none =>
    let (s, x) := checkAccess r.1 i.k i.g.ctx q r.2.walks r.2.pages e.2
    let p := r.2.note e.1 0 1 e.2 x
    match x.found with
    | .ok .hbm pa ipa => (prefFill s i l2 e.2 pa ipa, p)
    | _ => (s, p)

/-- PREF (R347): it counts no flag, writes no register, and raises nothing. -/
def execPref (f : Fx) (s : State) : Out :=
  onIssue s f false (fun i m =>
    let p : Plan := { loadPlan s f false 1 i m with dst := [] }
    passing s i p (fun s =>
      let (s, g) := readView s i.g p.srcs
      let s := ((laneAddrs m (eaAt g f false)).foldl (prefLane i (f.modAt 0 1 == 1)) (s, ({} : Probe))).1
      complete (applyReleases s i p) i []))

/-- STTAG (R348): 64-byte stores of the tag, zeroing with .z. -/
def execSttag (f : Fx) (s : State) : Out :=
  let q : Need := { acc := accWrite, n := 64, tagged := false, hostOk := false }
  memOp s f (storePlan s f q 0 false) q (some .write) (fun i _ p ok accs s =>
    startStore i p .keep (some (f.modAt 0 1 == 1)) (ofLanes ok accs) ok s)

end Sys2Proof.Machine
end

