-- ==== Sys2Proof/Machine/Atomic.lean ====
section
/-! DEFINITION. Atomics at their issue, and the step that the home makes for each lane (R338 to R340, R402). -/

namespace Sys2Proof.Machine

/-- The bytes of an atomic's location (R338). -/
def atomicBytes (t : Ty) : Nat := if t.width = 64 then 8 else 4

/-- Whether the host window performs atomics of a type (R90, R340). -/
def atomicAtHost (t : Ty) : Bool := !t.isFloat

/-- One half of a packed sum (R225): bits 16h + 15 to 16h. -/
def halfSum (t : FloatFmt) (a b h : Nat) : Nat := addF t .rne (bitsAt a (16 * h) 16) (bitsAt b (16 * h) 16)

/-- The new value of one step (R339): operation code, type, old value, operand, and the new value of .cas. -/
def atomicNew (op : Nat) (t : Ty) (old x new : Nat) : Nat :=
  let w := 8 * atomicBytes t
  let xv := x % 2 ^ w
  match op with
  | 0 =>
    match t with
    | .f32 => addF fmtF32 .rne old xv
    | .f64 => addF fmtF64 .rne old xv
    | .f16 => halfSum fmtF16 old xv 0 + 2 ^ 16 * halfSum fmtF16 old xv 1
    | .bf16 => halfSum fmtBf16 old xv 0 + 2 ^ 16 * halfSum fmtBf16 old xv 1
    | _ => (old + xv) % 2 ^ w
  | 1 =>
    match t with
    | .f32 => minF fmtF32 old xv
    | .f64 => minF fmtF64 old xv
    | _ => if asInt t.signed w xv < asInt t.signed w old then xv else old
  | 2 =>
    match t with
    | .f32 => maxF fmtF32 old xv
    | .f64 => maxF fmtF64 old xv
    | _ => if asInt t.signed w old < asInt t.signed w xv then xv else old
  | 3 => old &&& xv
  | 4 => old ||| xv
  | 5 => old ^^^ xv
  | 6 => xv
  | _ => if old = xv then new % 2 ^ w else old

/-- The lanes of one location in increasing order: each lane's old value, and the value that stays (R339). -/
def atomicLanes (op : Nat) (t : Ty) (old : Nat) (accs : List LaneAcc) : List (Nat × Word) × Nat :=
  accs.foldl (fun a x =>
    (a.1 ++ [(x.lane, BitVec.ofNat 64 a.2)], atomicNew op t a.2 x.data.toNat x.data2.toNat)) ([], old)

/-- Registers that an atomic's operand c names: the pair of .cas, else one. -/
def atomicRegs (f : Fx) : Nat := if f.modAt 0 3 == 7 then 2 else 1

/-- The plan of an atomic: `ret` when it returns values. -/
def atomicPlan (s : State) (f : Fx) (ret : Bool) (i : Issuer) (m : Mask) : Plan :=
  let k := atomicRegs f
  { cls := 4, active := m, srcs := opNames f.a ++ opNames f.b ++ runNames f.c k,
    rel := relRun f k,
    dst := if ret then (opNames f.d).map (fun n => (n, false)) else [],
    sNames := opSNames f.a ++ opSNames f.b ++ runSNames f.c k, flag := flagNumber i.e f.fen f.fsel,
    ready := memReady i s [] && countMask m ≤ trackerFree (coreOf s i.k) }

/-- What an atomic needs of its accesses; one that returns values reads its data (R94). -/
def atomicNeed (f : Fx) (ret : Bool) : Need := { acc := accAtomic, n := atomicBytes f.ty, data := ret, hostOk := atomicAtHost f.ty }

/-- A lane's access with its operand, and the new value of .cas. -/
def atomicPart (g : Group) (f : Fx) (a : LaneAcc) : LaneAcc :=
  { a with data := dataAt g f.ty f.c 0 a.lane, data2 := if f.modAt 0 3 == 7 then dataAt g f.ty f.c 1 a.lane else 0 }

/-- A packed addition is two atomics of 16 bits, one on each half of its word (R225, R402). -/
def atomicHalves (t : Ty) (a : LaneAcc) : List LaneAcc :=
  if t == .f16 || t == .bf16 then
    [0, 2].map (fun j => { a with n := 2, va := a.va + BitVec.ofNat 64 j, pa := a.pa + j, ipa := a.ipa + j,
                                  data := BitVec.ofNat 64 (fieldOf a.data (8 * j) 16) })
  else [a]

/-- The accesses of an atomic begin: a port tracker entry for each location. RED's flag retires at handoff (R340). -/
def startAtomic (i : Issuer) (g : Group) (f : Fx) (ret : Bool) (p : Plan) (ok : Mask) (accs : List LaneAcc) (s : State) : State :=
  let words := (ofLanes ok accs).map (atomicPart g f)
  let n := (words.map (·.pa)).eraseDups.length
  let accs := words.flatMap (atomicHalves f.ty)
  let p := if ret then p else { p with flag := none }
  let o := { newOp s i p ok (.atomic (f.modAt 0 3) f.ty accs) with tracker := n, dest := if ret then .v f.d.num else .none }
  let (s, k) := startOp s i o
  if ret then allocFor s i (opNames f.d) k p.flag else s

/-- ATOM (R339). -/
def execAtom (f : Fx) (s : State) : Out :=
  memOp s f (atomicPlan s f true) (atomicNeed f true) (some .atomic) (fun i g p ok accs s => startAtomic i g f true p ok accs s) (relRun f (atomicRegs f))

/-- RED (R339). -/
def execRed (f : Fx) (s : State) : Out :=
  memOp s f (atomicPlan s f false) (atomicNeed f false) (some .atomic) (fun i g p ok accs s => startAtomic i g f false p ok accs s) (relRun f (atomicRegs f))

end Sys2Proof.Machine
end

