-- ==== Sys2Proof/Machine/Alu.lean ====
section
/-! DEFINITION. The shapes that register-only instructions share: one value per lane written at issue (class 0), one written
later by the vector engine (class 1), a predicate per lane, and a pair (R40, R46, R47, R259, R269, R286). -/

namespace Sys2Proof.Machine

/-- The plan of an F or X instruction that reads a, b and c and writes d. -/
def fxPlan (i : Issuer) (f : Fx) (m : Mask) (cls : Nat) (uni : Bool) : Plan :=
  { cls := cls, active := m, srcs := srcNames f, rel := relNames f, dst := (opNames f.d).map (fun n => (n, uni)),
    sNames := sSrcNames f ++ opSNames f.d, flag := flagNumber i.e f.fen f.fsel }

/-- A value written to d: an s register once, a vector register in the lanes of a mask. -/
def writeDest (s : State) (i : Issuer) (d : Opnd) (uni : Bool) (m : Mask) (v : Nat → Word) : State :=
  match d with
  | .v n => writeNow s i n.toNat uni m v
  | .s n => onIssuing s i (fun g => setS g n.toNat (v (lowestLane m)))
  | _ => s

/-- A class 0 instruction whose destination takes one value per lane. `uni` says whether the result is uniform form, `val`
gives the value and whether the lane saturated. -/
def writeLanes (s : State) (f : Fx) (uni : Issuer → Mask → Bool) (val : Group → Mask → Nat → Word × Bool) : Out :=
  onIssue s f false (fun i m =>
    let p := fxPlan i f m 0 (uni i m)
    passing s i p (fun s =>
      let (s, g) := readView s i.g p.srcs
      let sat := maskWhere (fun l => inMask m l && (val g m l).2)
      let s := applyReleases s i p
      let s := writeDest s i f.d (uni i m) m (fun l => (val g m l).1)
      let s := countAstat (onIssuing s i (fun g => setAstat g sat 0)) i.ctx sat 0
      complete s i []))

/-- A lane-independent class 0 instruction. -/
def laneOp (s : State) (f : Fx) (val : Group → Nat → Word) : Out :=
  writeLanes s f (fun i m => uniformResult i.g f m) (fun g _ l => (val g l, false))

/-- A lane-independent class 0 instruction that can saturate (R238). -/
def laneOpSat (s : State) (f : Fx) (val : Group → Nat → Word × Bool) : Out :=
  writeLanes s f (fun i m => uniformResult i.g f m) (fun g _ l => val g l)

/-- A class 1 instruction: the values are written when the vector engine has them (R191, R269). Lanes for which `bad` holds
are division corners: they set ASTAT.DIV, and trap with TRAPEN.ARITH (R233). -/
def vectorOp (s : State) (f : Fx) (val : Group → Nat → Word) (bad : Group → Nat → Bool) : Out :=
  onIssue s f false (fun i m =>
    let uni := uniformResult i.g f m
    let p := fxPlan i f m 1 uni
    passing s i p (fun s =>
      let (s, g) := readView s i.g p.srcs
      let div := maskWhere (fun l => inMask m l && bad g l)
      let out := if i.g.trapen.getLsbD 0 then div else 0
      let w := m &&& ~~~ out
      let s := applyReleases s i p
      let s := countAstat (onIssuing s i (fun g => setAstat g 0 div)) i.ctx 0 div
      let trs : List Trap := if out == 0 then [] else [{ cause := causeArith, lanes := out }]
      if w == 0 then complete s i trs
      else
        let ws := (lanesIn w).map (fun l => (l, val g l))
        let o := newOp s i p w (.vec ws uni)
        match f.d with
        | .v n =>
          let (s, k) := startOp s i { o with dest := .v n.toNat }
          let r := pendName (s, writeName (groupNow s i) n.toNat uni 0 (fun l => vLane (groupNow s i) n.toNat l)) n.toNat k none
          let s := onIssuing r.1 i (fun _ => r.2)
          complete s i trs
        | .s n => complete (startOp s i { o with dest := .s n.toNat }).1 i trs
        | _ => complete s i trs))

/-- A class 0 instruction that writes a predicate (R47). -/
def predOp (s : State) (f : Fx) (bit : Group → Mask → Nat → Bool) : Out :=
  onIssue s f false (fun i m =>
    let p := fxPlan i f m 0 false
    passing s i p (fun s =>
      let (s, g) := readView s i.g p.srcs
      let s := applyReleases s i p
      let s := onIssuing s i (fun h => writePred h f.d.num m (bit g m))
      complete s i []))

/-! ### Pairs -/

/-- One half of a pair at its issue: its F form, its mask, and its value per lane. -/
structure Half where
  f : Fx
  m : Mask
  val : Group → Nat → Word

/-- The plan of a pair: both halves' names, the summed change (R193, R259). -/
def pairPlan (i : Issuer) (h0 h1 : Half) : Plan :=
  let src (h : Half) : List Nat := if h.m == 0 then [] else srcNames h.f
  let dst (h : Half) : List (Nat × Bool) := if h.m == 0 then [] else (opNames h.f.d).map (fun n => (n, uniformResult i.g h.f h.m))
  { cls := 0, active := h0.m ||| h1.m, srcs := src h0 ++ src h1, srcMasks := (src h0).map (fun _ => h0.m) ++ (src h1).map (fun _ => h1.m),
    rel := relNames h0.f ++ relNames h1.f, dst := dst h0 ++ dst h1 }

/-- One half's write. -/
def writeHalf (s : State) (i : Issuer) (g : Group) (h : Half) : State :=
  if h.m == 0 then s else writeDest s i h.f.d (uniformResult i.g h.f h.m) h.m (h.val g)

/-- A pair: both halves read before either writes, and names are released after both have read (R41, R259). -/
def pairOp (s : State) (f0 f1 : Fx) (v0 v1 : Group → Nat → Word) : Out :=
  whenIssuing s (fun i =>
    if i.e.left = 0 then trapAtIssue s i (encodingTrap i causeIllenc subClause)
    else
      let h0 : Half := { f := f0, m := i.active f0, val := v0 }
      let h1 : Half := { f := f1, m := i.active f1, val := v1 }
      let p := pairPlan i h0 h1
      if p.active == 0 then issueEmpty s i p.rel
      else passing s i p (fun s =>
        let (s, g) := readView s i.g p.srcs
        let s := applyReleases s i p
        complete (writeHalf (writeHalf s i g h0) i g h1) i []))

end Sys2Proof.Machine
end

