-- ==== Sys2Proof/Machine/Copy.lean ====
section
/-! DEFINITION. Copies and their write pointers at issue (R123, R125, R126, R341, R342). -/

namespace Sys2Proof.Machine

/-! ### Channels (R123) -/

/-- The copies of a team on a channel, oldest first. -/
def channelOps (c : CoreState) (uid ch : Nat) : List (Nat × Op) :=
  c.ops.filter (fun e => e.2.uid == uid && match e.2.kind with | .copy x .. => x == ch | _ => false)

/-- A copy's length, and the part of it that the position counts: whole 32-byte granules of what is delivered. -/
def copyLen (o : Op) : Nat := match o.kind with | .copy _ _ _ _ _ len _ _ => len | _ => 0
def copyCounted (o : Op) : Nat := match o.kind with | .copy _ _ _ _ _ len done _ => if done = len then len else done / 32 * 32 | _ => 0

def channelOf (tm : Team) (ch : Nat) : Channel := lookD tm.chans ch {}

/-- CWPc (R123): the position and STOP. -/
def channelWord (tm : Team) (ch : Nat) : Word :=
  let x := channelOf tm ch
  BitVec.ofNat 64 (x.pos % 2 ^ 63 + if x.stop then 2 ^ 63 else 0)

/-- The position at which a copy issued now starts: the channel's, past what its queued copies have still to deliver. -/
def channelEnd (c : CoreState) (tm : Team) (ch : Nat) : Nat :=
  (channelOps c tm.uid ch).foldl (fun n e => n + (copyLen e.2 - copyCounted e.2)) (channelOf tm ch).pos

/-! ### The operands and the checks (R341) -/

/-- A copy: channel, source in scratch, destination space (0 global, 1 scratch, 2 FIFO), addresses and length. -/
structure CopyArgs where
  ch : Nat
  fromScratch : Bool
  dst : Nat
  sa : Word
  da : Word
  len : Nat
  deriving DecidableEq, Repr

def copyArgs (g : Group) (f : Fx) : CopyArgs :=
  let b := uniformB g f
  { ch := f.modAt 0 3, fromScratch := f.modAt 3 1 == 1, dst := f.modAt 4 2, sa := opndAt g .b64 f.a 0 0,
    da := if f.modAt 4 2 = 2 then BitVec.ofNat 64 (b % 64) else BitVec.ofNat 64 b, len := (opndAt g .b64 f.c 0 0).toNat }

/-- The slots of a scratch range. -/
def scratchSlots (o n : Nat) : List Nat := if n = 0 then [] else (List.range ((o + n - 1) / 32768 - o / 32768 + 1)).map (o / 32768 + ·)

/-- A slot of a team is in a mode. -/
def slotIn (c : CoreState) (t : Nat) (tm : Team) (mode : BankMode) (slot : Nat) : Bool :=
  slot < tm.scrb + tm.fifob && (bankOfSlot c t slot).any (fun b => (bankOf c b).mode == mode)

/-- A scratch range of a copy that breaks the BANK rule. -/
def scratchBad (c : CoreState) (t : Nat) (tm : Team) (o n : Nat) : Bool :=
  (tm.scrb + tm.fifob) * 32768 < o + n || (scratchSlots o n).any (fun slot => !slotIn c t tm .scratch slot)

/-- The first check that a copy fails: cause, subcode, address. -/
def copyFault (c : CoreState) (t : Nat) (tm : Team) (a : CopyArgs) : Option (Nat × Nat × Word) :=
  if a.sa.toNat % 8 != 0 then some (causeAlign, 0, a.sa)
  else if a.dst != 2 && a.da.toNat % 8 != 0 then some (causeAlign, 0, a.da)
  else if a.len % 8 != 0 then some (causeAlign, 0, 0)
  else if 2 ^ 24 < a.len then some (causeAccess, 0, 0)
  else if !a.fromScratch && !isUpper a.sa then some (causeAccess, subSpace, a.sa)
  else if a.dst = 0 && !isUpper a.da then some (causeAccess, subSpace, a.da)
  else if a.fromScratch && scratchBad c t tm a.sa.toNat a.len then some (causeBank, 0, a.sa)
  else if a.dst = 1 && scratchBad c t tm a.da.toNat a.len then some (causeBank, 0, a.da)
  else if a.dst = 2 && !slotIn c t tm .fifo a.da.toNat then some (causeBank, 0, a.da)
  else if a.dst = 2 && 32768 < a.len then some (causeFifo, 3, 0)
  else none

/-- The slots that a copy names, whose transitions it waits for (R76). -/
def copySlots (a : CopyArgs) : List Nat :=
  (if a.fromScratch then (scratchSlots a.sa.toNat (min a.len (2 ^ 24))) else []) ++
    (if a.dst = 1 then (scratchSlots a.da.toNat (min a.len (2 ^ 24))) else []) ++ (if a.dst = 2 then [a.da.toNat] else [])

/-- Free words of a FIFO bank (R83, R127). -/
def fifoFree (x : Bank) : Nat := 4096 - (x.queue.length + x.reserved)

/-- The rise in the rounded occupancy of a FIFO slot when words are added (R189). -/
def fifoRise (c : CoreState) (t slot words : Nat) : Int :=
  match bankOfSlot c t slot with
  | some b =>
    if bankModeAhead c b == .fifo then
      ((ceilDiv (8 * (fifoWords c b + words)) 256 * 256 : Nat) : Int) - (ceilDiv (8 * fifoWords c b) 256 * 256 : Nat)
    else 0
  | none => 0

/-- The slot that an operation pushes to or pops from. -/
def fifoSlot (o : Op) : Option Nat :=
  match o.kind with
  | .push x _ => some x
  | .pop x => some x
  | _ => none

/-- A push or pop of a slot is not accepted yet: it blocks every later operation on the slot (R127). -/
def fifoBlocked (c : CoreState) (uid slot : Nat) : Bool := c.ops.any (fun e => e.2.uid == uid && fifoSlot e.2 == some slot)

/-- The copy may issue: no fence is open, no slot of it is in transition, its channel has room, and a FIFO has space and is not
blocked. -/
def copyReady (s : State) (i : Issuer) (a : CopyArgs) : Bool :=
  let c := coreOf s i.k
  !fenceOpen c i.g && (copySlots a).all (fun x => !slotInTransition c i.t x) &&
    ((copyFault c i.t i.tm a).isSome ||
      ((channelOps c i.g.uid a.ch).length < 4 &&
        (a.dst != 2 || (!fifoBlocked c i.g.uid a.da.toNat &&
          (bankOfSlot c i.t a.da.toNat).any (fun b => a.len ≤ 8 * fifoFree (bankOf c b))))))

/-- The plan of a copy of `n` bytes. -/
def copyPlan (s : State) (f : Fx) (i : Issuer) (m : Mask) (cls n : Nat) (ds : Int) : Plan :=
  { cls := cls, bytes := n, active := m, sNames := sSrcNames f ++ opSNames f.d, flag := flagNumber i.e f.fen f.fsel,
    ds := ds, ready := copyReady s i (copyArgs i.g f) }

/-- The change in S of a copy of `n` bytes. -/
def copyRise (s : State) (i : Issuer) (a : CopyArgs) (n : Nat) : Int :=
  if a.dst = 2 then fifoRise (coreOf s i.k) i.t a.da.toNat (n / 8) else 0

/-- A copy of `n` bytes is queued on its channel: STOP is cleared, and the words of a FIFO are reserved. -/
def queueCopy (s : State) (i : Issuer) (p : Plan) (a : CopyArgs) (n : Nat) (m : Mask) : State :=
  let clear (tm : Team) : Team := { tm with chans := put tm.chans a.ch { channelOf tm a.ch with stop := false } }
  let s := onCore s i.k (fun c => { c with teams := alter c.teams i.t clear })
  if n = 0 then s
  else
    let s := if a.dst = 2 then onCore s i.k (fun c => match bankOfSlot c i.t a.da.toNat with
      | some b => setBank c b { bankOf c b with reserved := (bankOf c b).reserved + n / 8 }
      | none => c) else s
    (startOp s i (newOp s i p m (.copy a.ch a.fromScratch a.dst a.sa a.da n 0 none))).1

/-- COPY (R123, R341): d is the position that the channel reaches at the copy's last byte. -/
def execCopy (f : Fx) (s : State) : Out :=
  onIssue s f false (fun i m =>
    let a := copyArgs i.g f
    let bad := copyFault (coreOf s i.k) i.t i.tm a
    let n := if bad.isSome then 0 else a.len
    let p := copyPlan s f i m 5 n (if bad.isSome then 0 else copyRise s i a n)
    passing s i p (fun s =>
      match bad with
      | some (cause, sub, addr) => complete s i [{ cause := cause, sub := sub, addr := addr, lanes := m }]
      | none =>
        let d := channelEnd (coreOf s i.k) i.tm a.ch + n
        let s := queueCopy s i p a n m
        complete (writeDest s i f.d true m (fun _ => BitVec.ofNat 64 (d % 2 ^ 63))) i []))

/-- The sluice passes a copy of `n` bytes with a change in S (R126). -/
def copyAdmits (s : State) (i : Issuer) (n : Nat) (ds : Int) : Bool :=
  admits s i.k i.g.ctx 3 (chargeOf s (coreOf s i.k) 5 n) ds (sluiceBound s i.k i.g.ctx)

/-- The largest number of granules in lo to hi whose copy passes; lo passes or is 0. -/
def granules (s : State) (i : Issuer) : Nat → Nat → Nat → Nat
  | 0, lo, _ => lo
  | n + 1, lo, hi =>
    if hi ≤ lo then lo
    else
      let mid := (lo + hi + 1) / 2
      if copyAdmits s i (32 * mid) 0 then granules s i n mid hi else granules s i n lo (mid - 1)

/-- The bytes that COPYF accepts (R126, R408). -/
def copyPrefix (s : State) (i : Issuer) (a : CopyArgs) : Nat :=
  if copyAdmits s i a.len (copyRise s i a a.len) then a.len
  else if a.dst = 2 || a.len = 0 then 0
  else 32 * granules s i 24 0 ((a.len - 1) / 32)

/-- COPYF (R126, R341): it never raises VBT or VNEVER, and writes the number of bytes that it accepts. -/
def execCopyf (f : Fx) (s : State) : Out :=
  onIssue s f false (fun i m =>
    let a := copyArgs i.g f
    passing s i (copyPlan s f i m 14 0 0) (fun s =>
      match copyFault (coreOf s i.k) i.t i.tm a with
      | some (cause, sub, addr) => complete s i [{ cause := cause, sub := sub, addr := addr, lanes := m }]
      | none =>
        let n := copyPrefix s i a
        let p := copyPlan s f i m 5 n (copyRise s i a n)
        let s := if n = 0 then s else queueCopy s i p a n m
        complete (writeDest s i f.d true m (fun _ => BitVec.ofNat 64 n)) i []))

/-- WPTR (R125, R342). -/
def execWptr (f : Fx) (s : State) : Out :=
  onIssue s f false (fun i m =>
    let p : Plan := { active := m, sNames := opSNames f.d }
    passing s i p (fun s => complete (writeDest s i f.d true m (fun _ => channelWord i.tm (f.modAt 0 3))) i []))

end Sys2Proof.Machine
end

