-- ==== Sys2Proof/Machine/BankFifo.lean ====
section
/-! DEFINITION. FIFO pushes and pops, bank switches and watchpoints at issue (R75 to R77, R127, R343, R344, R349). -/

namespace Sys2Proof.Machine

/-! ### FIFO (R343) -/

/-- The slot that b names. -/
def slotArg (g : Group) (f : Fx) : Nat := uniformB g f % 64

/-- The trap of a FIFO instruction at issue: BANK when its slot is not in FIFO mode and no transition is under way that may
change that (R76, R343). -/
def fifoFault (c : CoreState) (i : Issuer) (slot : Nat) (m : Mask) : Option Trap :=
  if slotIn c i.t i.tm .fifo slot || slotInTransition c i.t slot then none
  else some { cause := causeBank, lanes := m }

/-- PUSHF (R127, R343): the words wait for acceptance, and the active lanes with them, so that a fault there is precise (R31). -/
def execPushf (f : Fx) (s : State) : Out :=
  onIssue s f false (fun i m =>
    let c := coreOf s i.k
    let slot := slotArg i.g f
    let p : Plan :=
      { cls := 3, active := m, srcs := opNames f.c, rel := relNames f, sNames := sSrcNames f, flag := flagNumber i.e f.fen f.fsel,
        ds := fifoRise c i.t slot (countMask m), ready := !fenceOpen c i.g }
    passing s i p (fun s =>
      let (s, g) := readView s i.g p.srcs
      let s := applyReleases s i p
      match fifoFault c i slot m with
      | some tr => complete s i [tr]
      | none =>
        let (s, n) := startOp s i (newOp s i p m (.push slot ((lanesIn m).map (dataAt g f.ty f.c 0))))
        completeWait s i m (.accept [n]) []))

/-- POPF (R127, R343): d is allocated, and the words come at acceptance. -/
def execPopf (f : Fx) (s : State) : Out :=
  onIssue s f false (fun i m =>
    let c := coreOf s i.k
    let slot := slotArg i.g f
    let bad := fifoFault c i slot m
    let p : Plan :=
      { cls := 2, active := m, dst := (opNames f.d).map (fun n => (n, false)), sNames := sSrcNames f,
        flag := flagNumber i.e f.fen f.fsel, ready := !fenceOpen c i.g }
    passing s i p (fun s =>
      let s := applyReleases s i p
      match bad with
      | some tr => complete (allocOnly s i (opNames f.d)) i [tr]
      | none =>
        let (s, n) := startOp s i { newOp s i p m (.pop slot) with dest := .v f.d.num }
        completeWait (allocFor s i (opNames f.d) n p.flag) i m (.accept [n]) []))

/-! ### Bank switches (R75 to R77) -/

def BankMode.ofCode (n : Nat) : BankMode :=
  match n with
  | 0 => .off
  | 1 => .cache
  | 2 => .scratch
  | _ => .fifo

/-- Whether BANKCFG is refused: no such slot, or its bank is lent already and the target is CACHE. -/
def bankRefused (c : CoreState) (t : Nat) (tm : Team) (slot : Nat) (target : BankMode) : Bool :=
  tm.scrb + tm.fifob ≤ slot ||
    match bankOfSlot c t slot with
    | none => true
    | some b => target == .cache && (bankOf c b).lent

/-- The bytes that a bank counts in S in a mode that it enters. -/
def enteredBytes (m : BankMode) : Nat :=
  match m with
  | .scratch => 32768
  | .fifo => 64
  | _ => 0

/-- ΔS of BANKCFG (R77). -/
def bankDelta (c : CoreState) (t slot : Nat) (target : BankMode) : Int :=
  match bankOfSlot c t slot with
  | none => 0
  | some b => if (bankOf c b).mode == target then 0 else (enteredBytes target : Int) - bankBytes c b

/-- BANKCFG (R75, R344): it acts once for the group; a switch waits for one under way on its slot (R76). -/
def execBankcfg (f : Fx) (s : State) : Out :=
  onIssue s f false (fun i m =>
    let c := coreOf s i.k
    let slot := slotArg i.g f
    let target := BankMode.ofCode (f.modAt 0 3)
    let bad := bankRefused c i.t i.tm slot target
    let p : Plan :=
      { cls := 11, active := m, sNames := sSrcNames f, flag := flagNumber i.e f.fen f.fsel,
        ds := if bad then 0 else bankDelta c i.t slot target, ready := !slotInTransition c i.t slot }
    passing s i p (fun s =>
      match bad, bankOfSlot c i.t slot with
      | false, some b => complete (startOp s i (newOp s i p m (.bank b target))).1 i []
      | _, _ => complete s i [{ cause := causeBank, lanes := m }]))

/-! ### Watchpoints (R59, R349) -/

/-- Field n of WATCHCFG as a write leaves it: reserved bits 0, and SCOPE 0 for an invalid value (R59). -/
def watchField (v : Nat) : Nat :=
  let v := v % 2 ^ 11
  if bitsAt v 3 2 = 3 || 6 ≤ bitsAt v 0 3 || 12 < bitsAt v 5 6 then v / 8 * 8 else v

/-- WATCH (R349). -/
def execWatch (f : Fx) (s : State) : Out :=
  onIssue s f false (fun i m =>
    let p : Plan := { cls := 14, active := m, sNames := sSrcNames f }
    passing s i p (fun s =>
      let n := f.modAt 0 2
      let v := watchField (uniformB i.g f)
      let a := (uniformA i.g f).toNat
      let w := BitVec.ofNat 64 (a / 2 ^ bitsAt v 5 6 * 2 ^ bitsAt v 5 6)
      let s := onIssuing s i (fun g => { g with
        watch := putD g.watch n 0 w, watchcfg := setField g.watchcfg (16 * n) 16 v, wmask := putD g.wmask n 0 m })
      complete s i []))

end Sys2Proof.Machine
end

