-- ==== Sys2Proof/Machine/Transcendental.lean ====
section
/-! DEFINITION. FEX2, FLG2, FSIN, FCOS, FTANH and FSIG (R310), in integers with 320 fraction bits. Inputs where the exact
function is representable are answered exactly; elsewhere the exact value is irrational and lies further from every
rounding boundary than the error of the evaluation (log 7: DEDUCED, not proved for every input). -/

namespace Sys2Proof.Machine

/-- Fraction bits of the evaluation. -/
def fxBits : Nat := 320

/-- floor(ln 2 × 2^320) and floor(π × 2^320): numbers of mathematics. -/
def ln2Fx : Nat := 1480553391661173448385607439722553250922680800745876974795605978609098082859138712941075737848984
def piFx : Nat := 6710401180212168915155840974220003240804194089427148950727106424351713218671805380099500388914039

def mulFx (a b : Nat) : Nat := a * b / 2 ^ fxBits

/-- Σ r^n ÷ n! from term n with value t. -/
def expGo (r : Nat) : Nat → Nat → Nat → Nat
  | 0, _, _ => 0
  | k + 1, n, t => t + expGo r k (n + 1) (mulFx t r / (n + 1))

/-- e^r for 0 ≤ r < 1. -/
def expFx (r : Nat) : Nat := expGo r 90 0 (2 ^ fxBits)

/-- e^v for v ≥ 0, as a fixed-point number. -/
def expBigFx (v : Nat) : Nat := expFx (v - v / ln2Fx * ln2Fx) * 2 ^ (v / ln2Fx)

/-- Σ z^(2i+1) ÷ (2i+1), t the running power. -/
def atanhGo (z2 : Nat) : Nat → Nat → Nat → Nat
  | 0, _, _ => 0
  | k + 1, n, t => t / n + atanhGo z2 k (n + 2) (mulFx t z2)

/-- The alternating series of sine (from n = 1) and cosine (from n = 0): even and odd terms summed apart. -/
def trigGo (x2 : Nat) : Nat → Nat → Nat → Bool → Nat × Nat
  | 0, _, _, _ => (0, 0)
  | k + 1, n, t, neg =>
    let (p, q) := trigGo x2 k (n + 2) (mulFx t x2 / ((n + 1) * (n + 2))) (!neg)
    if neg then (p, q + t) else (p + t, q)

def sinFx (x : Nat) : Nat := let (p, q) := trigGo (mulFx x x) 50 1 x false; p - q
def cosFx (x : Nat) : Nat := let (p, q) := trigGo (mulFx x x) 50 0 (2 ^ fxBits) false; p - q

/-- |x| as a fixed-point number: exact for every finite datum of f16, bf16 and f32. -/
def absFx (m : Nat) (e : Int) : Nat :=
  if 0 ≤ e + fxBits then m * 2 ^ (e + fxBits).toNat else m / 2 ^ (-(e + fxBits)).toNat

/-- 2^x (R310). -/
def ex2F (f : FloatFmt) (r : RMode) (x : FVal) : Nat :=
  match x with
  | .nan => f.nanBits
  | .inf s => if s then 0 else packF f r (.inf false)
  | .fin s m e =>
    let a := absFx m e
    if 2 ^ (fxBits + 11) ≤ a then roundF f r false 1 (if s then -4096 else 4096) true
    else
      let n := a / 2 ^ fxBits
      let fr := a % 2 ^ fxBits
      if fr = 0 then roundF f r false 1 (if s then -(n : Int) else n) false
      else
        -- x = up + part with 0 < part < 1
        let part := if s then 2 ^ fxBits - fr else fr
        let up : Int := if s then -(n : Int) - 1 else n
        roundF f r false (expFx (mulFx part ln2Fx)) (up - fxBits) true

/-- log2 x (R310). -/
def lg2F (f : FloatFmt) (r : RMode) (x : FVal) : Nat :=
  match x with
  | .nan => f.nanBits
  | .inf s => if s then f.nanBits else packF f r (.inf false)
  | .fin s m e =>
    if m = 0 then packF f r (.inf true)
    else if s then f.nanBits
    else
      let k := Nat.log2 m
      let n : Int := e + k
      if m = 2 ^ k then ofIntF f r n
      else
        -- x = 2^n' × t with t between 0.75 and 1.5
        let t1 := m * 2 ^ (fxBits - k)
        let big : Bool := 3 * 2 ^ (fxBits - 1) ≤ t1
        let n' : Int := if big then n + 1 else n
        let t := if big then t1 / 2 else t1
        let one := 2 ^ fxBits
        let neg : Bool := t < one
        let z := (if neg then one - t else t - one) * one / (t + one)
        let l := 2 * atanhGo (mulFx z z) 90 1 z * one / ln2Fx
        let v : Int := n' * (one : Nat) + (if neg then -(l : Int) else l)
        roundF f r (decide (v < 0)) v.natAbs (-(fxBits : Int)) true

/-- sin(π a ÷ 2^320) for a in [0, 2), with its sign: exact at multiples of a half. -/
def sinPiF (f : FloatFmt) (r : RMode) (s : Bool) (a : Nat) : Nat :=
  let one := 2 ^ fxBits
  let s' := s != decide (one ≤ a)
  let a1 := a % one
  let a2 := if one / 2 < a1 then one - a1 else a1
  if a2 = 0 then roundF f r s' 0 0 false
  else if a2 = one / 2 then roundF f r s' 1 0 false
  else if a2 ≤ one / 4 then roundF f r s' (sinFx (mulFx a2 piFx)) (-(fxBits : Int)) true
  else roundF f r s' (cosFx (mulFx (one / 2 - a2) piFx)) (-(fxBits : Int)) true

/-- |x| modulo 2 as a fixed-point number. -/
def mod2Fx (m : Nat) (e : Int) : Nat := if 2 ≤ e then 0 else absFx m e % 2 ^ (fxBits + 1)

/-- sin(π x) (R310): a zero takes the sign of its argument. -/
def sinF (f : FloatFmt) (r : RMode) (x : FVal) : Nat :=
  match x with
  | .nan => f.nanBits
  | .inf _ => f.nanBits
  | .fin s m e =>
    let a := mod2Fx m e
    if a % 2 ^ fxBits = 0 then roundF f r s 0 0 false else sinPiF f r s a

/-- cos(π x) (R310): a zero is +0. -/
def cosF (f : FloatFmt) (r : RMode) (x : FVal) : Nat :=
  match x with
  | .nan => f.nanBits
  | .inf _ => f.nanBits
  | .fin _ m e =>
    let a := (mod2Fx m e + 2 ^ (fxBits - 1)) % 2 ^ (fxBits + 1)
    if a % 2 ^ fxBits = 0 then 0 else sinPiF f r false a

/-- 1 − 2^−700 with a tail: what the saturated ends of FTANH and FSIG round from. -/
def nearOne (f : FloatFmt) (r : RMode) (s : Bool) : Nat := roundF f r s (2 ^ 700 - 1) (-700) true

/-- tanh x (R310). Below 2^−50 the value lies just under |x|. -/
def tanhF (f : FloatFmt) (r : RMode) (x : FVal) : Nat :=
  match x with
  | .nan => f.nanBits
  | .inf s => packF f r (.fin s 1 0)
  | .fin s m e =>
    let a := absFx m e
    if m = 0 then packF f r (.fin s 0 0)
    else if 2 ^ (fxBits + 8) ≤ a then nearOne f r s
    else if a < 2 ^ (fxBits - 50) then roundF f r s (m * 2 ^ 60 - 1) (e - 60) true
    else
      let ee := expBigFx (2 * a)
      let one := 2 ^ fxBits
      roundF f r s ((ee - one) * 2 ^ 1200 / (ee + one)) (-1200) true

/-- 1 ÷ (1 + e^−x) (R310). -/
def sigF (f : FloatFmt) (r : RMode) (x : FVal) : Nat :=
  match x with
  | .nan => f.nanBits
  | .inf s => if s then 0 else packF f r (.fin false 1 0)
  | .fin s m e =>
    let a := absFx m e
    if m = 0 then packF f r (.fin false 1 (-1))
    else if 2 ^ (fxBits + 9) ≤ a then (if s then roundF f r false 1 (-700) true else nearOne f r false)
    else
      let ee := expBigFx a
      let one := 2 ^ fxBits
      roundF f r false ((if s then one else ee) * 2 ^ 1600 / (ee + one)) (-1600) true

end Sys2Proof.Machine
end

