-- ==== Sys2Proof/Machine/FloatArith.lean ====
section
/-! DEFINITION. The floating-point arithmetic instructions (R303 to R310). -/

namespace Sys2Proof.Machine

/-- The rounding mode in MOD[2:0]. -/
def modeOf (f : Fx) : RMode := RMode.ofCode (f.modAt 0 3)

def valFadd (f : Fx) (g : Group) (l : Nat) : Word := zipElems f.ty.width (addF (fmtOf f.ty) (modeOf f)) (aAt g f l) (bAt g f l)
def valFsub (f : Fx) (g : Group) (l : Nat) : Word := zipElems f.ty.width (subF (fmtOf f.ty) (modeOf f)) (aAt g f l) (bAt g f l)
def valFmul (f : Fx) (g : Group) (l : Nat) : Word := zipElems f.ty.width (mulF (fmtOf f.ty) (modeOf f)) (aAt g f l) (bAt g f l)
def valFmin (f : Fx) (g : Group) (l : Nat) : Word := zipElems f.ty.width (minF (fmtOf f.ty)) (aAt g f l) (bAt g f l)
def valFmax (f : Fx) (g : Group) (l : Nat) : Word := zipElems f.ty.width (maxF (fmtOf f.ty)) (aAt g f l) (bAt g f l)

/-- A class 1 function of one operand. -/
def floatFun1 (s : State) (f : Fx) (h : FVal → Nat) : Out :=
  vectorOp s f (fun g l => mapElems f.ty.width (fun a => h (unpackF (fmtOf f.ty) a)) (aAt g f l)) (fun _ _ => false)

/-- FADD (R305). -/
def execFadd (f : Fx) (s : State) : Out := laneOp s f (valFadd f)
/-- FSUB (R305). -/
def execFsub (f : Fx) (s : State) : Out := laneOp s f (valFsub f)
/-- FMUL (R305). -/
def execFmul (f : Fx) (s : State) : Out := laneOp s f (valFmul f)
/-- FFMA (R305). -/
def execFfma (f : Fx) (s : State) : Out :=
  laneOp s f (fun g l => zipElems3 f.ty.width (fmaF (fmtOf f.ty) (modeOf f)) (aAt g f l) (bAt g f l) (cAt g f l))
/-- FMIN (R237, R305). -/
def execFmin (f : Fx) (s : State) : Out := laneOp s f (valFmin f)
/-- FMAX (R237, R305). -/
def execFmax (f : Fx) (s : State) : Out := laneOp s f (valFmax f)

/-- FSETP (R306). -/
def execFsetp (f : Fx) (s : State) : Out :=
  predOp s f (fun g _ l =>
    let w := f.ty.width
    let v (x : Word) (k : Nat) : FVal := unpackF (fmtOf f.ty) (elemAt w x k)
    (if f.modAt 4 1 == 1 then (List.range (64 / w)).any (fun k => floatCond (f.modAt 0 4) (v (aAt g f l) k) (v (bAt g f l) k))
      else (List.range (64 / w)).all (fun k => floatCond (f.modAt 0 4) (v (aAt g f l) k) (v (bAt g f l) k))) &&
    match f.c with
    | .p n => inMask (pReg g n.toNat) l
    | _ => true)

/-- FCLS (R307). -/
def execFcls (f : Fx) (s : State) : Out :=
  predOp s f (fun g _ l =>
    let w := f.ty.width
    let hit (k : Nat) : Bool := bitAt (uniformB g f % 1024) (classBit (fmtOf f.ty) (elemAt w (aAt g f l) k))
    if f.modAt 0 1 == 1 then (List.range (64 / w)).all hit else (List.range (64 / w)).any hit)

/-- FRND (R308). -/
def execFrnd (f : Fx) (s : State) : Out := laneOp s f (fun g l => mapElems f.ty.width (frndF (fmtOf f.ty) (modeOf f)) (aAt g f l))

/-- FRCP (R309): 1 ÷ x. -/
def execFrcp (f : Fx) (s : State) : Out := floatFun1 s f (fun x => divF (fmtOf f.ty) (modeOf f) (.fin false 1 0) x)
/-- FRSQ (R309). -/
def execFrsq (f : Fx) (s : State) : Out := floatFun1 s f (rsqrtF (fmtOf f.ty) (modeOf f))
/-- FSQRT (R309). -/
def execFsqrt (f : Fx) (s : State) : Out := floatFun1 s f (sqrtF (fmtOf f.ty) (modeOf f))
/-- FDIV (R309). -/
def execFdiv (f : Fx) (s : State) : Out :=
  vectorOp s f (fun g l => zipElems f.ty.width (fun a b =>
    divF (fmtOf f.ty) (modeOf f) (unpackF (fmtOf f.ty) a) (unpackF (fmtOf f.ty) b)) (aAt g f l) (bAt g f l)) (fun _ _ => false)
/-- FEX2 (R310). -/
def execFex2 (f : Fx) (s : State) : Out := floatFun1 s f (ex2F (fmtOf f.ty) (modeOf f))
/-- FLG2 (R310). -/
def execFlg2 (f : Fx) (s : State) : Out := floatFun1 s f (lg2F (fmtOf f.ty) (modeOf f))
/-- FSIN (R310). -/
def execFsin (f : Fx) (s : State) : Out := floatFun1 s f (sinF (fmtOf f.ty) (modeOf f))
/-- FCOS (R310). -/
def execFcos (f : Fx) (s : State) : Out := floatFun1 s f (cosF (fmtOf f.ty) (modeOf f))
/-- FTANH (R310). -/
def execFtanh (f : Fx) (s : State) : Out := floatFun1 s f (tanhF (fmtOf f.ty) (modeOf f))
/-- FSIG (R310). -/
def execFsig (f : Fx) (s : State) : Out := floatFun1 s f (sigF (fmtOf f.ty) (modeOf f))

end Sys2Proof.Machine
end

