-- ==== Sys2Proof/Machine/Integer.lean ====
section
/-! DEFINITION. The integer, logic, bit-field, address and packing instructions (R285 to R301). -/

namespace Sys2Proof.Machine

/-! ### Element arithmetic -/

/-- An exact integer function of one, two or three elements in the type's signedness, wrapped to the width (R271). -/
def int1 (t : Ty) (h : Int → Int) (x : Word) : Word :=
  mapElems t.width (fun a => wrapTo t.width (h (asInt t.signed t.width a))) x
def int2 (t : Ty) (h : Int → Int → Int) (x y : Word) : Word :=
  zipElems t.width (fun a b => wrapTo t.width (h (asInt t.signed t.width a) (asInt t.signed t.width b))) x y
def int3 (t : Ty) (h : Int → Int → Int → Int) (x y z : Word) : Word :=
  zipElems3 t.width (fun a b c => wrapTo t.width
    (h (asInt t.signed t.width a) (asInt t.signed t.width b) (asInt t.signed t.width c))) x y z

/-- Saturation to the type when the modifier asks for it (R287). -/
def satIf (sat : Bool) (t : Ty) (v : Int) : Int := if sat then clampTo t.signed t.width v else v

def addWord (t : Ty) (sat : Bool) : Word → Word → Word := int2 t (fun x y => satIf sat t (x + y))
def subWord (t : Ty) (sat : Bool) : Word → Word → Word := int2 t (fun x y => satIf sat t (x - y))
def mulWord (t : Ty) : Word → Word → Word := int2 t (fun x y => x * y)
def mulHighWord (t : Ty) : Word → Word → Word := int2 t (fun x y => x * y / 2 ^ t.width)
def minWord (t : Ty) : Word → Word → Word := int2 t min
def maxWord (t : Ty) : Word → Word → Word := int2 t max

/-- IMADW (R289): 32 ÷ w elements of double width. -/
def madWideWord (t : Ty) (x y z : Word) : Word :=
  let w := t.width
  BitVec.ofNat 64 (packFrom (2 * w) (fun j => wrapTo (2 * w) (asInt t.signed w (elemAt w x j) * asInt t.signed w (elemAt w y j) +
    asInt t.signed (2 * w) (elemAt (2 * w) z j))) (32 / w) 0)

/-! ### Division (R233) -/

/-- A division corner. -/
def badDiv (t : Ty) (x y : Int) : Bool := y == 0 || (t.signed && x == minOf true t.width && y == -1)

/-- Quotient and remainder of one element. -/
def divElem (t : Ty) (x y : Int) : Int := if y = 0 then -1 else if badDiv t x y then minOf true t.width else x.tdiv y
def remElem (t : Ty) (x y : Int) : Int := if y = 0 then x else if badDiv t x y then 0 else x - x.tdiv y * y

/-- A lane is bad when any of its elements is. -/
def badLane (t : Ty) (x y : Word) : Bool :=
  (List.range (64 / t.width)).any (fun k => badDiv t (asInt t.signed t.width (elemAt t.width x k)) (asInt t.signed t.width (elemAt t.width y k)))

/-! ### Comparison (R291) -/

def intCond (c : Nat) (x y : Int) : Bool :=
  match c with
  | 0 => x == y
  | 1 => x != y
  | 2 => x < y
  | 3 => x ≤ y
  | 4 => x > y
  | _ => x ≥ y

/-- All or any of the elements. -/
def foldElems (any : Bool) (w : Nat) (p : Nat → Bool) : Bool :=
  if any then (List.range (64 / w)).any p else (List.range (64 / w)).all p

/-! ### Shifts (R293) -/

def shlWord (w : Nat) : Word → Word → Word := zipElems w (fun x s => if s < w then x * 2 ^ s else 0)
def shrWord (w : Nat) : Word → Word → Word := zipElems w (fun x s => if s < w then x / 2 ^ s else 0)
def sarWord (w : Nat) : Word → Word → Word := zipElems w (fun x s =>
  let v := asSigned w x
  wrapTo w (if s < w then v / 2 ^ s else if v < 0 then -1 else 0))
def rotlElem (w x s : Nat) : Nat := x * 2 ^ (s % w) % 2 ^ w + x / 2 ^ (w - s % w)
def rotWord (w : Nat) (right : Bool) : Word → Word → Word :=
  zipElems w (fun x s => rotlElem w x (if right then w - s % w else s))
def funnelWord (w : Nat) (left : Bool) : Word → Word → Word → Word := zipElems3 w (fun x y z =>
  let q := x * 2 ^ w + y
  let u := z % w
  if left then q * 2 ^ u / 2 ^ w else q / 2 ^ u)

/-! ### Bits -/

/-- A three-input lookup, bit by bit (R281, R294). -/
def lutBit (lut : BitVec 8) (a b c : Bool) : Bool := lut.getLsbD (bool1 a + 2 * bool1 b + 4 * bool1 c)
def lutWord (lut : BitVec 8) (a b c : Word) : Word :=
  BitVec.ofNat 64 (packFrom 1 (fun i => bool1 (lutBit lut (a.getLsbD i) (b.getLsbD i) (c.getLsbD i))) 64 0)

/-- A field's length within the element; 0 when it is empty (R296). -/
def fieldLen (w ctl : Nat) : Nat := if ctl % 256 ≥ w then 0 else min (ctl / 256 % 256) (w - ctl % 256)

def extractElem (t : Ty) (x ctl : Nat) : Nat :=
  let n := fieldLen t.width ctl
  if n = 0 then 0
  else
    let v := x / 2 ^ (ctl % 256) % 2 ^ n
    wrapTo t.width (asInt t.signed n v)

def insertElem (w x y ctl : Nat) : Nat :=
  let n := fieldLen w ctl
  let p := ctl % 256
  if n = 0 then x else x - bitsAt x p n * 2 ^ p + y % 2 ^ n * 2 ^ p

/-! ### Dot products, widths and packing -/

/-- IDOT (R297). -/
def dotWord (t : Ty) (x y z : Word) : Word :=
  let w := t.width
  let e := 32 / w
  BitVec.ofNat 64 (packFrom 32 (fun h => wrapTo 32 ((List.range e).foldl (fun acc j =>
    acc + asInt t.signed w (elemAt w x (e * h + j)) * asInt t.signed w (elemAt w y (e * h + j))) (asInt t.signed 32 (elemAt 32 z h)))) 2 0)

/-- CVTI (R299): the result, and whether an element saturated. -/
def convertWord (src dst : Ty) (sat : Bool) (x : Word) : Word × Bool :=
  let n := 64 / max src.width dst.width
  let v (k : Nat) : Int := asInt src.signed src.width (elemAt src.width x k)
  let r (k : Nat) : Int := if sat then clampTo dst.signed dst.width (v k) else v k
  (BitVec.ofNat 64 (packFrom dst.width (fun k => wrapTo dst.width (r k)) n 0), sat && (List.range n).any (fun k => r k != v k))

/-- LEA (R300): the scaled index is added in the low 56 bits. -/
def leaWord (signed : Bool) (sh : Nat) (a b : Word) : Word :=
  let i : Int := asInt signed 64 b.toNat
  BitVec.ofNat 64 (a.toNat / 2 ^ 56 * 2 ^ 56 + wrapTo 56 ((a.toNat : Int) + i * 2 ^ sh))

/-- PACK (R301). -/
def packHalves (t : Ty) (sat : Bool) (a b : Word) : Word × Bool :=
  let w := t.width
  let m := 64 / w
  let v (j : Nat) : Int := asInt t.signed (2 * w) (if j < m / 2 then elemAt (2 * w) a j else elemAt (2 * w) b (j - m / 2))
  let r (j : Nat) : Int := if sat then clampTo t.signed w (v j) else v j
  (packElems w (fun j => wrapTo w (r j)), sat && (List.range m).any (fun j => r j != v j))

/-- UNPK (R301). -/
def unpackHalf (t : Ty) (hi : Bool) (a : Word) : Word :=
  let w := t.width
  let m := 64 / w
  packElems (2 * w) (fun j => wrapTo (2 * w) (asInt t.signed w (elemAt w a (j + (if hi then m / 2 else 0)))))

/-! ### Values of the instructions, per lane -/

def valAdd (f : Fx) (g : Group) (l : Nat) : Word := addWord f.ty (f.modAt 0 1 == 1) (aAt g f l) (bAt g f l)
def valSub (f : Fx) (g : Group) (l : Nat) : Word := subWord f.ty (f.modAt 0 1 == 1) (aAt g f l) (bAt g f l)
def valMul (f : Fx) (g : Group) (l : Nat) : Word := mulWord f.ty (aAt g f l) (bAt g f l)
def valMin (f : Fx) (g : Group) (l : Nat) : Word := minWord f.ty (aAt g f l) (bAt g f l)
def valMax (f : Fx) (g : Group) (l : Nat) : Word := maxWord f.ty (aAt g f l) (bAt g f l)
def valShl (f : Fx) (g : Group) (l : Nat) : Word := shlWord f.ty.width (aAt g f l) (bAt g f l)
def valShr (f : Fx) (g : Group) (l : Nat) : Word := shrWord f.ty.width (aAt g f l) (bAt g f l)
def valSar (f : Fx) (g : Group) (l : Nat) : Word := sarWord f.ty.width (aAt g f l) (bAt g f l)
def valAnd (f : Fx) (g : Group) (l : Nat) : Word := aAt g f l &&& bAt g f l
def valOr (f : Fx) (g : Group) (l : Nat) : Word := aAt g f l ||| bAt g f l
def valXor (f : Fx) (g : Group) (l : Nat) : Word := aAt g f l ^^^ bAt g f l
/-- MOV: the one source present, a or b (R298). -/
def valMov (f : Fx) (g : Group) (l : Nat) : Word := if f.a = .none then bAt g f l else aAt g f l

/-! ### The instructions -/

/-- IADD (R287). -/
def execIadd (f : Fx) (s : State) : Out := laneOp s f (valAdd f)
/-- ISUB (R287). -/
def execIsub (f : Fx) (s : State) : Out := laneOp s f (valSub f)

/-- IADDC (R288): the carry comes from a predicate and goes back to it after all reads. -/
def execIaddc (f : Fx) (s : State) : Out :=
  onIssue s f false (fun i m =>
    let uni := uniformResult i.g f m
    let p := fxPlan i f m 0 uni
    passing s i p (fun s =>
      let (s, g) := readView s i.g p.srcs
      let cin (l : Nat) : Nat := match f.c with | .p n => bool1 (inMask (pReg g n.toNat) l) | _ => 0
      let t (l : Nat) : Nat := (aAt g f l).toNat + (bAt g f l).toNat + cin l
      let s := applyReleases s i p
      let s := writeDest s i f.d uni m (fun l => BitVec.ofNat 64 (t l))
      let s := match f.c with
        | .p n => onIssuing s i (fun h => writePred h n.toNat m (fun l => t l / 2 ^ 64 == 1))
        | _ => s
      complete s i []))

/-- IMUL (R287). -/
def execImul (f : Fx) (s : State) : Out := laneOp s f (valMul f)
/-- IMULH (R287). -/
def execImulh (f : Fx) (s : State) : Out := laneOp s f (fun g l => mulHighWord f.ty (aAt g f l) (bAt g f l))
/-- IMAD (R287). -/
def execImad (f : Fx) (s : State) : Out :=
  laneOp s f (fun g l => int3 f.ty (fun x y z => x * y + z) (aAt g f l) (bAt g f l) (cAt g f l))
/-- IMADW (R289). -/
def execImadw (f : Fx) (s : State) : Out := laneOp s f (fun g l => madWideWord f.ty (aAt g f l) (bAt g f l) (cAt g f l))
/-- IDIV (R233, R290). -/
def execIdiv (f : Fx) (s : State) : Out :=
  vectorOp s f (fun g l => int2 f.ty (divElem f.ty) (aAt g f l) (bAt g f l)) (fun g l => badLane f.ty (aAt g f l) (bAt g f l))
/-- IREM (R233, R290). -/
def execIrem (f : Fx) (s : State) : Out :=
  vectorOp s f (fun g l => int2 f.ty (remElem f.ty) (aAt g f l) (bAt g f l)) (fun g l => badLane f.ty (aAt g f l) (bAt g f l))
/-- IMIN (R287). -/
def execImin (f : Fx) (s : State) : Out := laneOp s f (valMin f)
/-- IMAX (R287). -/
def execImax (f : Fx) (s : State) : Out := laneOp s f (valMax f)
/-- IABS (R287). -/
def execIabs (f : Fx) (s : State) : Out :=
  laneOp s f (fun g l => int1 f.ty (fun x => satIf (f.modAt 0 1 == 1) f.ty (x.natAbs : Int)) (aAt g f l))
/-- INEG (R287). -/
def execIneg (f : Fx) (s : State) : Out :=
  laneOp s f (fun g l => int1 f.ty (fun x => satIf (f.modAt 0 1 == 1) f.ty (-x)) (aAt g f l))
/-- ISAD (R287). -/
def execIsad (f : Fx) (s : State) : Out :=
  laneOp s f (fun g l => int3 f.ty (fun x y z => ((x - y).natAbs : Int) + z) (aAt g f l) (bAt g f l) (cAt g f l))

/-- ICMP (R291). -/
def execIcmp (f : Fx) (s : State) : Out :=
  predOp s f (fun g _ l =>
    let w := f.ty.width
    foldElems (f.modAt 3 1 == 1) w (fun k => intCond (f.modAt 0 3) (asInt f.ty.signed w (elemAt w (aAt g f l) k))
      (asInt f.ty.signed w (elemAt w (bAt g f l) k))) &&
    match f.c with
    | .p n => inMask (pReg g n.toNat) l
    | _ => true)

/-- IPICK (R292). -/
def execIpick (f : Fx) (s : State) : Out :=
  laneOp s f (fun g l => if inMask (pReg g f.c.num) l then aAt g f l else bAt g f l)

/-- SHL (R293). -/
def execShl (f : Fx) (s : State) : Out := laneOp s f (valShl f)
/-- SHR (R293). -/
def execShr (f : Fx) (s : State) : Out := laneOp s f (valShr f)
/-- SAR (R293). -/
def execSar (f : Fx) (s : State) : Out := laneOp s f (valSar f)
/-- ROT (R293). -/
def execRot (f : Fx) (s : State) : Out := laneOp s f (fun g l => rotWord f.ty.width (f.modAt 0 1 == 1) (aAt g f l) (bAt g f l))
/-- FSHF (R293). -/
def execFshf (f : Fx) (s : State) : Out :=
  laneOp s f (fun g l => funnelWord f.ty.width (f.modAt 0 1 == 1) (aAt g f l) (bAt g f l) (cAt g f l))
/-- AND (R294). -/
def execAndBits (f : Fx) (s : State) : Out := laneOp s f (valAnd f)
/-- OR (R294). -/
def execOrBits (f : Fx) (s : State) : Out := laneOp s f (valOr f)
/-- XOR (R294). -/
def execXorBits (f : Fx) (s : State) : Out := laneOp s f (valXor f)
/-- NOT (R294). -/
def execNotBits (f : Fx) (s : State) : Out := laneOp s f (fun g l => ~~~ (aAt g f l))
/-- BLUT (R294). -/
def execBlut (f : Fx) (s : State) : Out := laneOp s f (fun g l => lutWord f.xmod (aAt g f l) (bAt g f l) (cAt g f l))
/-- POPC (R295). -/
def execPopc (f : Fx) (s : State) : Out := laneOp s f (fun g l => mapElems f.ty.width (popCount f.ty.width) (aAt g f l))
/-- CLZ (R295). -/
def execClz (f : Fx) (s : State) : Out := laneOp s f (fun g l => mapElems f.ty.width (leadZeros f.ty.width) (aAt g f l))
/-- CTZ (R295). -/
def execCtz (f : Fx) (s : State) : Out := laneOp s f (fun g l => mapElems f.ty.width (trailZeros f.ty.width) (aAt g f l))
/-- BREV (R295). -/
def execBrev (f : Fx) (s : State) : Out := laneOp s f (fun g l => mapElems f.ty.width (reverseBits f.ty.width) (aAt g f l))
/-- BFX (R296). -/
def execBfx (f : Fx) (s : State) : Out := laneOp s f (fun g l => zipElems f.ty.width (extractElem f.ty) (aAt g f l) (bAt g f l))
/-- BFI (R296). -/
def execBfi (f : Fx) (s : State) : Out :=
  laneOp s f (fun g l => zipElems3 f.ty.width (insertElem f.ty.width) (aAt g f l) (bAt g f l) (cAt g f l))
/-- IDOT (R297). -/
def execIdot (f : Fx) (s : State) : Out := laneOp s f (fun g l => dotWord f.ty (aAt g f l) (bAt g f l) (cAt g f l))
/-- MOV (R298). -/
def execMov (f : Fx) (s : State) : Out := laneOp s f (valMov f)
/-- CVTI (R299). -/
def execCvti (f : Fx) (s : State) : Out :=
  laneOpSat s f (fun g l => convertWord (Ty.ofCode (f.modAt 0 4)) f.ty (f.modAt 4 1 == 1) (aAt g f l))
/-- LEA (R300). -/
def execLea (f : Fx) (s : State) : Out := laneOp s f (fun g l => leaWord f.ty.signed (f.modAt 0 3) (aAt g f l) (bAt g f l))
/-- TAGS (R300). -/
def execTags (f : Fx) (s : State) : Out := laneOp s f (fun g l => setField (aAt g f l) 56 4 (bAt g f l).toNat)
/-- TAGG (R300). -/
def execTagg (f : Fx) (s : State) : Out := laneOp s f (fun g l => BitVec.ofNat 64 (fieldOf (aAt g f l) 56 4))
/-- PACK (R301). -/
def execPack (f : Fx) (s : State) : Out := laneOpSat s f (fun g l => packHalves f.ty (f.modAt 0 1 == 1) (aAt g f l) (bAt g f l))
/-- UNPK (R301). -/
def execUnpk (f : Fx) (s : State) : Out := laneOp s f (fun g l => unpackHalf f.ty (f.modAt 0 1 == 1) (aAt g f l))

end Sys2Proof.Machine
end

