-- ==== Sys2Proof/Machine/Compact.lean ====
section
/-! DEFINITION. The compact instructions of format C: each acts as the F instruction it names (R250, R256). -/

namespace Sys2Proof.Machine

/-- IADD_I32_C (R256). -/
def execIaddI32C (c : CForm) (s : State) : Out := laneOp s (cToFx c .i32 false) (valAdd (cToFx c .i32 false))

/-- ISUB_I32_C (R256). -/
def execIsubI32C (c : CForm) (s : State) : Out := laneOp s (cToFx c .i32 false) (valSub (cToFx c .i32 false))

/-- IMUL_I32_C (R256). -/
def execImulI32C (c : CForm) (s : State) : Out := laneOp s (cToFx c .i32 false) (valMul (cToFx c .i32 false))

/-- IMIN_I32_C (R256). -/
def execIminI32C (c : CForm) (s : State) : Out := laneOp s (cToFx c .i32 false) (valMin (cToFx c .i32 false))

/-- IMAX_I32_C (R256). -/
def execImaxI32C (c : CForm) (s : State) : Out := laneOp s (cToFx c .i32 false) (valMax (cToFx c .i32 false))

/-- IADD_I64_C (R256). -/
def execIaddI64C (c : CForm) (s : State) : Out := laneOp s (cToFx c .i64 false) (valAdd (cToFx c .i64 false))

/-- ISUB_I64_C (R256). -/
def execIsubI64C (c : CForm) (s : State) : Out := laneOp s (cToFx c .i64 false) (valSub (cToFx c .i64 false))

/-- AND_B64_C (R256). -/
def execAndB64C (c : CForm) (s : State) : Out := laneOp s (cToFx c .b64 false) (valAnd (cToFx c .b64 false))

/-- OR_B64_C (R256). -/
def execOrB64C (c : CForm) (s : State) : Out := laneOp s (cToFx c .b64 false) (valOr (cToFx c .b64 false))

/-- XOR_B64_C (R256). -/
def execXorB64C (c : CForm) (s : State) : Out := laneOp s (cToFx c .b64 false) (valXor (cToFx c .b64 false))

/-- SHL_B32_C (R256). -/
def execShlB32C (c : CForm) (s : State) : Out := laneOp s (cToFx c .b32 false) (valShl (cToFx c .b32 false))

/-- SHR_N32_C (R256). -/
def execShrN32C (c : CForm) (s : State) : Out := laneOp s (cToFx c .n32 false) (valShr (cToFx c .n32 false))

/-- SAR_I32_C (R256). -/
def execSarI32C (c : CForm) (s : State) : Out := laneOp s (cToFx c .i32 false) (valSar (cToFx c .i32 false))

/-- SHL_B64_C (R256). -/
def execShlB64C (c : CForm) (s : State) : Out := laneOp s (cToFx c .b64 false) (valShl (cToFx c .b64 false))

/-- SHR_N64_C (R256). -/
def execShrN64C (c : CForm) (s : State) : Out := laneOp s (cToFx c .n64 false) (valShr (cToFx c .n64 false))

/-- IMIN_N32_C (R256). -/
def execIminN32C (c : CForm) (s : State) : Out := laneOp s (cToFx c .n32 false) (valMin (cToFx c .n32 false))

/-- IMAX_N32_C (R256). -/
def execImaxN32C (c : CForm) (s : State) : Out := laneOp s (cToFx c .n32 false) (valMax (cToFx c .n32 false))

/-- FADD_F32_C (R256). -/
def execFaddF32C (c : CForm) (s : State) : Out := laneOp s (cToFx c .f32 false) (valFadd (cToFx c .f32 false))

/-- FSUB_F32_C (R256). -/
def execFsubF32C (c : CForm) (s : State) : Out := laneOp s (cToFx c .f32 false) (valFsub (cToFx c .f32 false))

/-- FMUL_F32_C (R256). -/
def execFmulF32C (c : CForm) (s : State) : Out := laneOp s (cToFx c .f32 false) (valFmul (cToFx c .f32 false))

/-- FMIN_F32_C (R256). -/
def execFminF32C (c : CForm) (s : State) : Out := laneOp s (cToFx c .f32 false) (valFmin (cToFx c .f32 false))

/-- FMAX_F32_C (R256). -/
def execFmaxF32C (c : CForm) (s : State) : Out := laneOp s (cToFx c .f32 false) (valFmax (cToFx c .f32 false))

/-- FADD_F16_C (R256). -/
def execFaddF16C (c : CForm) (s : State) : Out := laneOp s (cToFx c .f16 false) (valFadd (cToFx c .f16 false))

/-- FMUL_F16_C (R256). -/
def execFmulF16C (c : CForm) (s : State) : Out := laneOp s (cToFx c .f16 false) (valFmul (cToFx c .f16 false))

/-- FADD_BF16_C (R256). -/
def execFaddBf16C (c : CForm) (s : State) : Out := laneOp s (cToFx c .bf16 false) (valFadd (cToFx c .bf16 false))

/-- FMUL_BF16_C (R256). -/
def execFmulBf16C (c : CForm) (s : State) : Out := laneOp s (cToFx c .bf16 false) (valFmul (cToFx c .bf16 false))

/-- FADD_F64_C (R256). -/
def execFaddF64C (c : CForm) (s : State) : Out := laneOp s (cToFx c .f64 false) (valFadd (cToFx c .f64 false))

/-- FMUL_F64_C (R256). -/
def execFmulF64C (c : CForm) (s : State) : Out := laneOp s (cToFx c .f64 false) (valFmul (cToFx c .f64 false))

/-- MOV_B64_C (R256). -/
def execMovB64C (c : CForm) (s : State) : Out := laneOp s (cToFx c .b64 true) (valMov (cToFx c .b64 true))

/-- FMIN_F64_C (R256). -/
def execFminF64C (c : CForm) (s : State) : Out := laneOp s (cToFx c .f64 false) (valFmin (cToFx c .f64 false))

/-- FMAX_F64_C (R256). -/
def execFmaxF64C (c : CForm) (s : State) : Out := laneOp s (cToFx c .f64 false) (valFmax (cToFx c .f64 false))

end Sys2Proof.Machine
end

