-- ==== Sys2Proof/Machine/Control.lean ====
section
/-! DEFINITION. Control transfers, waiting and leaving, barriers, predicates and traps from code (R272 to R281, R284). -/

namespace Sys2Proof.Machine

/-- NOP (R275). -/
def execNop (f : Fx) (s : State) : Out := onIssue s f false (fun i _ => complete s i [])

/-! ### Transfers (R273) -/

/-- Lanes of a mask by their targets, in the order of their lowest lanes. -/
def byTarget (m : Mask) (t : Nat → Word) : List (Word × Mask) :=
  ((lanesIn m).map t).eraseDups.map (fun a => (a, maskWhere (fun l => inMask m l && t l == a)))

/-- A transfer: active lanes enter their targets, the others fall through; `link` writes the header that follows. -/
def transfer (s : State) (f : Fx) (target : Issuer → Group → Nat → Word) : Out :=
  onIssue s f true (fun i m =>
    let uni := isFull i.g m
    let p := fxPlan i f m 0 uni
    passing s i p (fun s =>
      let (s, g) := readView s i.g p.srcs
      let parts := (byTarget m (target i g)).map (fun e => i.enter e.2 e.1)
      let s := applyReleases s i p
      let s := writeDest s i f.d uni m (fun _ => (followPlace i.e i.len).pc)
      endIssue s i true (parts ++ [i.onward (i.others m)]) []))

/-- The target of BRA and CALL: this instruction's address plus b as i64. -/
def relativeTarget (f : Fx) (i : Issuer) (g : Group) (l : Nat) : Word := i.e.pc + bAt g f l
/-- The target of BRX, CALLX and RET: a, all 64 bits. -/
def absoluteTarget (f : Fx) (_ : Issuer) (g : Group) (l : Nat) : Word := aAt g f l

/-- BRA (R273). -/
def execBra (f : Fx) (s : State) : Out := transfer s f (relativeTarget f)
/-- BRX (R273). -/
def execBrx (f : Fx) (s : State) : Out := transfer s f (absoluteTarget f)
/-- CALL (R273). -/
def execCall (f : Fx) (s : State) : Out := transfer s f (relativeTarget f)
/-- CALLX (R273). -/
def execCallx (f : Fx) (s : State) : Out := transfer s f (absoluteTarget f)
/-- RET (R274): as BRX. -/
def execRet (f : Fx) (s : State) : Out := transfer s f (absoluteTarget f)

/-! ### Waiting, leaving, yielding -/

/-- JOIN (R27, R276): active lanes wait at the JOIN's PC. -/
def execJoin (f : Fx) (s : State) : Out :=
  onIssue s f false (fun i m =>
    let e := issuedAge { i.e with mask := m, st := .waitingJoin, skip := i.len }
    onIssuing (endIssue s i true [e, i.onward (i.others m)] []) i joinCheck)

/-- A group that has ended holds no registers and no control state (R34). -/
def endGroup (g : Group) : Group :=
  if g.ended then { g with v := [], s := [], p := [], f := [], pend := [], entries := [], service := none } else g

/-- The team drains when every group of it has ended (R34, R35). -/
def drainCheck (s : State) (k t uid : Nat) : State :=
  onCore s k (fun c =>
    if (teamGroups c uid).all (fun e => e.2.ended) then
      { c with teams := alter c.teams t (fun x => if x.st = .placed || x.st = .running then { x with st := .draining } else x) }
    else c)

/-- Lanes of a group exit. -/
def exitLanes (g : Group) (m : Mask) : Group :=
  let g := dropLanes { g with exited := g.exited ||| m } m
  endGroup g

/-- EXIT (R34, R277). -/
def execExit (f : Fx) (s : State) : Out :=
  onIssue s f false (fun i m =>
    let s := endIssue s i true [i.onward (i.others m)] []
    let s := onIssuing s i (fun g => exitLanes g m)
    let s := drainCheck s i.k i.t i.g.uid
    afterExit s i)

/-- The other seven slots of a slot's scheduler. -/
def otherSlots (slot : Nat) : List Nat := ((List.range 8).map (slot / 8 * 8 + ·)).filter (· != slot)

/-- YIELD (R278). -/
def execYield (f : Fx) (s : State) : Out :=
  onIssue s f false (fun i _ =>
    endIssue s i true [{ i.onward i.e.mask with hold := .yielded (otherSlots i.slot) }] [])

/-- WAITF (R279): the entry stays ready and ineligible until the flags of the mask are 0. -/
def execWaitf (f : Fx) (s : State) : Out :=
  onIssue s f false (fun i m =>
    let p := fxPlan i f m 0 false
    if mustWait (coreOf s i.k) i.g p || !flagsClear i.g (uniformB i.g f % 4096) then held s else complete s i [])

/-! ### Barriers (R28, R29, R280) -/

/-- The count that a BAR names. -/
def barCount (g : Group) (f : Fx) : Option Nat :=
  let n := if f.lit?.isSome then uniformB g f else min 1024 (uniformB g f % 2048)
  if !f.hasB || n = 0 then none else some n

/-- The waiting entries of a BAR: the active lanes by the generation that they wait for. -/
def barEntries (i : Issuer) (m : Mask) (b : Nat) (gen : Nat → Nat) : List Entry :=
  let ls := (lanesIn m).zipIdx
  (ls.map (fun e => gen e.2)).eraseDups.map (fun n =>
    { i.onward (maskOfLanes ((ls.filter (fun e => gen e.2 == n)).map (·.1))) with st := .waitingBarrier, hold := .barrier b n })

/-- A BAR after its checks: `arrives` and `waits` are the variant. -/
def barrierOp (s : State) (f : Fx) (arrives waits : Bool) : Out :=
  onIssue s f false (fun i m =>
    let p := fxPlan i f m 0 false
    passing s i p (fun s =>
      let b := f.modAt 2 4
      let n := barCount i.g f
      let c := coreOf s i.k
      let gen (j : Nat) : Nat := if arrives then arrivalGen c i.tm b n j else (barrierOf i.tm b).gen
      let parts := if waits then barEntries i m b gen ++ [i.onward (i.others m)] else [i.onward i.e.mask]
      let s := endIssue s i true parts []
      if arrives then onCore s i.k (fun c => arrive c i.t b (countMask m) n) else s))

/-- BAR.sync (R28): arrives and waits. -/
def execBarSync (f : Fx) (s : State) : Out := barrierOp s f true true
/-- BAR.arv (R28). -/
def execBarArv (f : Fx) (s : State) : Out := barrierOp s f true false
/-- BAR.wait (R28): the current generation. -/
def execBarWait (f : Fx) (s : State) : Out := barrierOp s f false true

/-- CBAR (R29): active lanes arrive at the cluster's barrier and wait. -/
def execCbar (f : Fx) (s : State) : Out :=
  onIssue s f false (fun i m =>
    let x := barrierOf i.tm 16
    let e := { i.onward m with st := .waitingBarrier, hold := .barrier 16 x.gen }
    let s := endIssue s i true [e, i.onward (i.others m)] []
    let s := onCore s i.k (fun c => { c with teams := alter c.teams i.t (fun t =>
      { t with bars := put t.bars 16 { x with arrived := x.arrived + countMask m, open_ := true } }) })
    clusterCheck s i.tm.launch i.tm.cluster)

/-! ### Predicates (R281) -/

/-- The mask of VOTE's operand: a predicate, or a constant. -/
def voteMask (g : Group) (f : Fx) : Mask :=
  match f.a with
  | .p n => pReg g n.toNat
  | .k .zero => 0
  | _ => BitVec.allOnes 32

/-- VOTE.any (R281). -/
def execVoteAny (f : Fx) (s : State) : Out := predOp s f (fun g m _ => (voteMask g f &&& m) != 0)
/-- VOTE.all (R281). -/
def execVoteAll (f : Fx) (s : State) : Out := predOp s f (fun g m _ => (voteMask g f &&& m) == m)
/-- VOTE.bal (R281): full form in a vector register. -/
def execVoteBal (f : Fx) (s : State) : Out :=
  writeLanes s f (fun _ _ => false) (fun g m _ => (BitVec.ofNat 64 (voteMask g f &&& m).toNat, false))

/-- Bit `l` of a predicate or constant operand. -/
def predBit (g : Group) (f : Fx) (o : Opnd) (l : Nat) : Bool := (opndAt g f.ty o 0 l).getLsbD l

/-- PLOP (R281). -/
def execPlop (f : Fx) (s : State) : Out :=
  predOp s f (fun g _ l => lutBit8 f.xmod (predBit g f f.a l) (predBit g f f.b l) (predBit g f f.c l))
where
  lutBit8 (lut : BitVec 8) (a b c : Bool) : Bool := lut.getLsbD (bool1 a + 2 * bool1 b + 4 * bool1 c)

/-- PMOV (R281). -/
def execPmov (f : Fx) (s : State) : Out :=
  predOp s f (fun g _ l => if f.a.isV then aAt g f l != 0 else (aAt g f l).getLsbD l)

/-! ### Traps from code (R284) -/

/-- TRAP and BKPT: a trap of the active lanes whose resume point is the next instruction. -/
def codeTrap (s : State) (f : Fx) (cause : Nat) (addr : Group → Word) : Out :=
  onIssue s f false (fun i m =>
    let p := fxPlan i f m 14 false
    passing s i p (fun s => complete s i [{ cause := cause, addr := addr i.g, lanes := m, next := true }]))

/-- TRAP (R284). -/
def execTrap (f : Fx) (s : State) : Out := codeTrap s f causeTrapi (fun g => BitVec.ofNat 64 (uniformB g f))
/-- BKPT (R284). -/
def execBkpt (f : Fx) (s : State) : Out := codeTrap s f causeBkpt (fun _ => 0)

end Sys2Proof.Machine
end

