-- ==== Sys2Proof/Machine/Blocks.lean ====
section
/-! DEFINITION. The BX block formats (R239 to R242), matrix accumulation (R246), categorical sampling (R247) and the random
generator (R248). -/

namespace Sys2Proof.Machine

/-- Bits of a BX magnitude: 6 for BX8, 2 for BX4. -/
def bxMagBits (bx8 : Bool) : Nat := if bx8 then 6 else 2

/-- log2 of the unit: 32 for BX8, 2 for BX4. -/
def bxUnitLog (bx8 : Bool) : Nat := if bx8 then 5 else 1

/-- The datum of an element code under the scale pair E0, E1 (R239, R240). -/
def bxValue (bx8 : Bool) (code e0 e1 : Nat) : FVal :=
  let mb := bxMagBits bx8
  let m := code % 2 ^ mb
  let s := code / 2 ^ mb % 2 == 1
  let e := if code / 2 ^ (mb + 1) % 2 == 1 then e1 else e0
  if e = 0xFF || (s && m == 0) then .nan
  else .fin s m ((e : Int) - 127 - bxUnitLog bx8)

/-- Round to nearest even of m × 2^e, as an integer. -/
def rneInt (m : Nat) (e : Int) : Nat := roundInt .rne false m e

/-- floor(log2(m × 2^e)) for m > 0. -/
def floorLog2 (m : Nat) (e : Int) : Int := e + Nat.log2 m

/-- The greatest finite magnitude, as (m, e); m = 0 when there is none. -/
def bxMax (xs : List FVal) : Nat × Int :=
  xs.foldl (fun (a : Nat × Int) x =>
    match x with
    | .fin _ m e => if cmpV (.fin false a.1 a.2) (.fin false m e) < 0 then (m, e) else a
    | _ => a) (0, 0)

/-- E1 and E0 of a block (R242). -/
def bxScales (d : Nat) (xs : List FVal) : Nat × Nat :=
  let (m, e) := bxMax xs
  let e1 := if m = 0 then 0 else (max 0 (min 254 (floorLog2 m e + 127))).toNat
  (e1 - d, e1)

/-- The code of one element and whether it saturated (R242). -/
def bxCode (bx8 : Bool) (e0 e1 : Nat) (x : FVal) : Nat × Bool :=
  let mb := bxMagBits bx8
  let mmax := 2 ^ mb - 1
  let mk : Bool → Bool → Nat → Nat := fun sel s m => m + 2 ^ mb * (bool1 s + 2 * bool1 sel)
  match x with
  | .nan => (mk false true 0, false)
  | .inf s => (mk true s mmax, true)
  | .fin s m e =>
    let q0 := rneInt m (e + bxUnitLog bx8 - ((e0 : Int) - 127))
    if q0 ≤ mmax then (mk false (s && q0 != 0) q0, false)
    else
      let q1 := rneInt m (e + bxUnitLog bx8 - ((e1 : Int) - 127))
      let k := min q1 mmax
      (mk true (s && k != 0) k, mmax < q1)

/-- The input types of a matrix operation (R354). -/
inductive MatType where
  | f16 | bf16 | bx8 | bx4 | i8
  deriving DecidableEq, Repr

def MatType.ofCode (n : Nat) : Option MatType :=
  match n with
  | 0x8 => some .f16
  | 0x9 => some .bf16
  | 0xC => some .bx8
  | 0xD => some .bx4
  | 0x1 => some .i8
  | _ => none

/-- K of MMA; MMAW doubles it (R356). -/
def MatType.depth (t : MatType) (wide : Bool) : Nat :=
  (match t with
    | .f16 | .bf16 => 16
    | .i8 | .bx8 => 32
    | .bx4 => 64) * (if wide then 2 else 1)

/-- Rounding of an exact sum into f32, nearest even. -/
def toF32 (v : FVal) : Nat := packF fmtF32 .rne v

/-- acc + group sum, one rounding each (R246). -/
def accumGroup (acc : Nat) (terms : List FVal) : Nat := addF fmtF32 .rne acc (toF32 (sumV terms))

/-- The groups of a list, `n` at a time; `fuel` bounds their number. -/
def chunks {α : Type} (n : Nat) : Nat → List α → List (List α)
  | 0, _ => []
  | _ + 1, [] => []
  | k + 1, xs => xs.take n :: chunks n k (xs.drop n)

/-- One accumulator element of a matrix operation (R246). `prods` are the exact products of the K elements in order. -/
def accumulate (t : MatType) (acc : Nat) (prods : List FVal) : Nat :=
  match t with
  | .f16 | .bf16 => (chunks 8 (prods.length) prods).foldl accumGroup acc
  | _ => (chunks 32 (prods.length) prods).foldl accumGroup acc

/-- The i32 accumulator: products added modulo 2^32 (R246). -/
def accumulateInt (acc : Nat) (prods : List Int) : Nat := wrapTo 32 (prods.foldl (· + ·) (acc : Int))

/-- CSAMP (R247): the lane, 32 for none, and the predicate bit. Weights are f32 bit patterns of the 32 lanes, +0 where inactive. -/
def csampPick (w : List Nat) (r : Nat) : Nat × Bool :=
  let clampneg : Nat → Nat := fun a =>
    match unpackF fmtF32 a with
    | .nan => fmtF32.nanBits
    | v => if signV v then 0 else a
  let ws := w.map clampneg
  let pre := (ws.foldl (fun (a : List Nat × Nat) x => let p := addF fmtF32 .rne a.2 x; (p :: a.1, p)) ([], 0)).1.reverse
  let total := pre.getLastD 0
  match unpackF fmtF32 total with
  | .fin _ 0 _ => (32, false)
  | .fin _ _ _ =>
    let u := packF fmtF32 .rne (.fin false (r / 256) (-24))
    let t := unpackF fmtF32 (mulF fmtF32 .rne u total)
    match (List.range 32).find? (fun l => cmpV (unpackF fmtF32 (pre.getD l 0)) t > 0) with
    | some l => (l, true)
    | none =>
      ((((List.range 32).filter (fun l => cmpV (unpackF fmtF32 (ws.getD l 0)) (.fin false 0 0) > 0)).getLast?).getD 32, true)
  | _ => (32, false)

/-- The random generator (R248). -/
def rngOut (key ctr : Word) (l : Nat) : Word :=
  let z0 := key ^^^ (ctr * 32 + BitVec.ofNat 64 l)
  let z1 := (z0 ^^^ (z0 >>> 30)) * 0xBF58476D1CE4E5B9
  let z2 := (z1 ^^^ (z1 >>> 27)) * 0x94D049BB133111EB
  z2 ^^^ (z2 >>> 31)

end Sys2Proof.Machine
end

