-- ==== Sys2Proof/Machine/Convert.lean ====
section
/-! DEFINITION. Conversions and block encoding (R311 to R314). -/

namespace Sys2Proof.Machine

/-- The type of a 2-bit float source code (R303). -/
def floatSource (c : Nat) : Ty :=
  match c with
  | 0 => .f16
  | 1 => .bf16
  | 2 => .f32
  | _ => .f64

/-- CVTF of one element. -/
def cvtElem (src dst : Ty) (r : RMode) (a : Nat) : Nat := packF (fmtOf dst) r (unpackF (fmtOf src) a)

/-- CVTF (R311). -/
def cvtfWord (src dst : Ty) (r : RMode) (hi hasB : Bool) (a b : Word) : Word :=
  let ws := src.width
  let wd := dst.width
  let n := 64 / max ws wd
  if wd < ws then
    BitVec.ofNat 64 (packFrom wd (fun k =>
      if k < n then cvtElem src dst r (elemAt ws a k) else if hasB then cvtElem src dst r (elemAt ws b (k - n)) else 0) (2 * n) 0)
  else BitVec.ofNat 64 (packFrom wd (fun k => cvtElem src dst r (elemAt ws a (k + (if hi then n else 0)))) n 0)

/-- CVTF (R311). -/
def execCvtf (f : Fx) (s : State) : Out :=
  laneOp s f (fun g l => cvtfWord (floatSource (f.modAt 3 2)) f.ty (modeOf f) (f.modAt 5 1 == 1) f.hasB (aAt g f l) (bAt g f l))

/-- F2I (R312): the lane value and whether an element saturated. -/
def f2iWord (src dst : Ty) (r : RMode) (hi : Bool) (a : Word) : Word × Bool :=
  let n := 64 / max src.width dst.width
  let v (k : Nat) : Nat × Bool := toIntF (fmtOf src) r dst.signed dst.width (elemAt src.width a (k + (if hi then n else 0)))
  (BitVec.ofNat 64 (packFrom dst.width (fun k => (v k).1) n 0), (List.range n).any (fun k => (v k).2))

/-- F2I (R312). -/
def execF2i (f : Fx) (s : State) : Out :=
  laneOpSat s f (fun g l => f2iWord (floatSource (f.modAt 3 2)) f.ty (modeOf f) (f.modAt 5 1 == 1) (aAt g f l))

/-- I2F (R312). -/
def i2fWord (src dst : Ty) (r : RMode) (hi : Bool) (a : Word) : Word :=
  let n := 64 / max src.width dst.width
  BitVec.ofNat 64 (packFrom dst.width (fun k =>
    ofIntF (fmtOf dst) r (asInt src.signed src.width (elemAt src.width a (k + (if hi then n else 0))))) n 0)

/-- I2F (R312). -/
def execI2f (f : Fx) (s : State) : Out :=
  laneOp s f (fun g l => i2fWord (Ty.ofCode (f.modAt 3 3)) f.ty (modeOf f) (f.modAt 6 1 == 1) (aAt g f l))

/-! ### BX blocks -/

/-- The scales and the codes of block `j`: element i from sub-element j of lane i, +0 in lanes that are not active. -/
def bxBlock (bx8 : Bool) (src : Ty) (d : Nat) (a : Nat → Word) (m : Mask) (j : Nat) : (Nat × Nat) × List (Nat × Bool) :=
  let xs := laneNums.map (fun i => if inMask m i then unpackF (fmtOf src) (elemAt src.width (a i) j) else .fin false 0 0)
  let sc := bxScales d xs
  (sc, xs.map (bxCode bx8 sc.1 sc.2))

/-- The 64-bit value at a lane of BXENC's layout (R313). -/
def bxLane (bx8 : Bool) (bs : List ((Nat × Nat) × List (Nat × Bool))) (l : Nat) : Word :=
  let codes (j first n w : Nat) : Nat := packFrom w (fun i => (((bs.getD j ((0, 0), [])).2).getD (first + i) (0, false)).1) n 0
  if 16 ≤ l then
    match bs[l - 16]? with
    | some b => BitVec.ofNat 64 (b.1.1 + 256 * b.1.2)
    | none => 0
  else if bx8 then (if l / 4 < bs.length then BitVec.ofNat 64 (codes (l / 4) (8 * (l % 4)) 8 8) else 0)
  else if l / 2 < bs.length then BitVec.ofNat 64 (codes (l / 2) (16 * (l % 2)) 16 4)
  else 0

/-- BXENC (R242, R313). -/
def execBxenc (f : Fx) (s : State) : Out :=
  let src := floatSource (f.modAt 3 2)
  let bx8 := f.ty == .bx8
  let blocks (g : Group) (m : Mask) := (List.range (64 / src.width)).map (bxBlock bx8 src (f.modAt 0 3 + 1) (aAt g f) m)
  onIssue s f false (fun i m =>
    let p := fxPlan i f m 0 false
    passing s i p (fun s =>
      let (s, g) := readView s i.g p.srcs
      let bs := blocks g m
      let sat := maskWhere (fun l => inMask m l && bs.any (fun b => (b.2.getD l (0, false)).2))
      let s := applyReleases s i p
      let s := writeDest s i f.d false m (bxLane bx8 bs)
      let s := countAstat (onIssuing s i (fun g => setAstat g sat 0)) i.ctx sat 0
      complete s i []))

/-- The element code of block `j` for lane `l`, and the block's scale pair (R314). A uniform b is an s register, or a literal or
constant formed in each sub-element of the destination's type (R253, R262). -/
def bxElement (bx8 : Bool) (g : Group) (f : Fx) (j l : Nat) : Nat :=
  if bx8 then elemAt 8 (aAt g f (4 * j + l / 8)) (l % 8) else elemAt 4 (aAt g f (2 * j + l / 16)) (l % 16)
def bxPair (g : Group) (f : Fx) (j : Nat) : Nat :=
  if f.b.isV then (bAt g f (16 + j)).toNat % 65536 else bitsAt (bAt g f 0).toNat (16 * j) 16

/-- BXDEC (R241, R314). -/
def execBxdec (f : Fx) (s : State) : Out :=
  let bx8 := f.modAt 3 1 == 0
  writeLanes s f (fun _ _ => false) (fun g _ l =>
    (packElems f.ty.width (fun j =>
      let sp := bxPair g f j
      packF (fmtOf f.ty) (modeOf f) (bxValue bx8 (bxElement bx8 g f j l) (sp % 256) (sp / 256))), false))

end Sys2Proof.Machine
end

