-- ==== Sys2Proof/Machine/CrossLane.lean ====
section
/-! DEFINITION. The cross-lane instructions (R315 to R324, R244, R245, R247, R248). -/

namespace Sys2Proof.Machine

/-- LXCH (R317). -/
def lxchVal (g : Group) (f : Fx) (l : Nat) : Word :=
  let sz := 2 ^ f.modAt 2 3
  let base := l / sz * sz
  let i := (bAt g f l).toNat % 2 ^ 32
  let src : Option Nat :=
    match f.modAt 0 2 with
    | 0 => some (base + i % sz)
    | 1 => if base + i ≤ l then some (l - i) else none
    | 2 => if l + i < base + sz then some (l + i) else none
    | _ => some (base + ((l - base) ^^^ (i % sz)))
  match src with
  | some k => aAt g f k
  | none => cAt g f l

/-- LXCH (R317). -/
def execLxch (f : Fx) (s : State) : Out := writeLanes s f (fun _ _ => false) (fun g _ l => (lxchVal g f l, false))

/-- PRM (R318). -/
def prmVal (a b c : Word) : Word :=
  packElems 8 (fun i => let k := elemAt 4 b i; if k < 8 then byteAt a k else byteAt c (k - 8))

/-- PRM (R318): lane-independent. -/
def execPrm (f : Fx) (s : State) : Out := laneOp s f (fun g l => prmVal (aAt g f l) (bAt g f l) (cAt g f l))

/-- LBC (R319): a full write mask gives a uniform result, unless the index is the lane number. -/
def execLbc (f : Fx) (s : State) : Out :=
  writeLanes s f (fun i m => isFull i.g m && f.b != .k .lane) (fun g _ l => (aAt g f ((bAt g f l).toNat % 32), false))

/-! ### Reductions and scans -/

/-- The operation of two elements (R320). -/
def reduceOp (t : Ty) (op : Nat) (x y : Nat) : Nat :=
  let w := t.width
  let v (n : Nat) : Int := asInt t.signed w n
  match op with
  | 0 => if t.isFloat then addF (fmtOf t) .rne x y else (x + y) % 2 ^ w
  | 1 => if t.isFloat then minF (fmtOf t) x y else if v y < v x then y else x
  | 2 => if t.isFloat then maxF (fmtOf t) x y else if v x < v y then y else x
  | 3 => x &&& y
  | 4 => x ||| y
  | _ => x ^^^ y

/-- The identity (R244). -/
def reduceUnit (t : Ty) (op : Nat) : Nat :=
  let f := fmtOf t
  match op with
  | 0 => if t.isFloat then f.signBit else 0
  | 1 => if t.isFloat then f.infBits else wrapTo t.width (maxOf t.signed t.width)
  | 2 => if t.isFloat then f.signBit + f.infBits else wrapTo t.width (minOf t.signed t.width)
  | 3 => 2 ^ t.width - 1
  | _ => 0

/-- One level of the tree: the first half combined with the second. -/
def halve (h : Nat → Nat → Nat) (xs : List Nat) : List Nat :=
  List.zipWith h (xs.take (xs.length / 2)) (xs.drop (xs.length / 2))

/-- The full 32-lane tree (R244). -/
def treeReduce (h : Nat → Nat → Nat) (xs : List Nat) : Nat :=
  (halve h (halve h (halve h (halve h (halve h xs))))).headD 0

/-- Whether candidate `y` beats `x` (R245). -/
def beats245 (t : Ty) (mini : Bool) (x y : Nat) : Bool :=
  if t.isFloat then
    let a := unpackF (fmtOf t) x
    let b := unpackF (fmtOf t) y
    if isNan a then false else if isNan b then true else if mini then belowV b a else belowV a b
  else if mini then asInt t.signed t.width y < asInt t.signed t.width x else asInt t.signed t.width x < asInt t.signed t.width y

/-- The winner among lanes in rising order: its value, canonical for a NaN, and its lane. -/
def pickIndex (t : Ty) (mini : Bool) (xs : List (Nat × Nat)) : Nat × Nat :=
  match xs with
  | [] => (0, 0)
  | x :: r =>
    let w := r.foldl (fun b y => if beats245 t mini b.2 y.2 then y else b) x
    (w.1, if t.isFloat && isNan (unpackF (fmtOf t) w.2) then (fmtOf t).nanBits else w.2)

/-- REDC (R244, R245, R320). -/
def redcVal (g : Group) (f : Fx) (m : Mask) : Word :=
  let t := f.ty
  let op := f.modAt 0 3
  if op ≥ 6 then
    let w := pickIndex t (op == 7) ((lanesIn m).map (fun l => (l, elemAt t.width (aAt g f l) 0)))
    BitVec.ofNat 64 (w.2 + 2 ^ 32 * w.1)
  else
    packElems t.width (fun k => treeReduce (reduceOp t op) (laneNums.map (fun l =>
      if inMask m l then elemAt t.width (aAt g f l) k else reduceUnit t op)))

/-- REDC (R320). -/
def execRedc (f : Fx) (s : State) : Out := writeLanes s f (fun _ _ => false) (fun g m _ => (redcVal g f m, false))

/-- The running value of SCAN at a lane (R321). -/
def scanVal (g : Group) (f : Fx) (m : Mask) (l : Nat) : Word :=
  let t := f.ty
  let op := f.modAt 0 3
  let sz := 2 ^ f.modAt 4 3
  let base := l / sz * sz
  let upto := if f.modAt 3 1 == 1 then l - base else l - base + 1
  packElems t.width (fun k => (List.range upto).foldl (fun acc j =>
    reduceOp t op acc (if inMask m (base + j) then elemAt t.width (aAt g f (base + j)) k else reduceUnit t op)) (reduceUnit t op))

/-- SCAN (R321). -/
def execScan (f : Fx) (s : State) : Out := writeLanes s f (fun _ _ => false) (fun g m l => (scanVal g f m l, false))

/-- What MATCH compares. -/
def matchVal (g : Group) (f : Fx) (l : Nat) : Nat := (aAt g f l).toNat % 2 ^ f.ty.width

/-- MATCH (R322). -/
def execMatchLanes (f : Fx) (s : State) : Out :=
  if f.modAt 0 1 == 1 then
    predOp s f (fun g m _ => (lanesIn m).all (fun l => matchVal g f l == matchVal g f (lowestLane m)))
  else
    writeLanes s f (fun _ _ => false) (fun g m l =>
      (BitVec.ofNat 64 (maskWhere (fun j => inMask m j && matchVal g f j == matchVal g f l)).toNat, false))

/-! ### Sampling and random numbers -/

/-- CSAMP (R247, R323): the chosen lane to d, and a bit to the predicate that MOD names. -/
def execCsamp (f : Fx) (s : State) : Out :=
  onIssue s f false (fun i m =>
    let p := fxPlan i f m 0 false
    passing s i p (fun s =>
      let (s, g) := readView s i.g p.srcs
      let ws := laneNums.map (fun l => if inMask m l then elemAt 32 (aAt g f l) 0 else 0)
      let r := match f.lit? with
        | some v => v.toNat
        | none => (bAt g f (lowestLane m)).toNat % 2 ^ 32
      let (lane, ok) := csampPick ws r
      let s := applyReleases s i p
      let s := writeDest s i f.d false m (fun _ => BitVec.ofNat 64 lane)
      let s := if f.modAt 0 3 = 7 then s else onIssuing s i (fun h => writePred h (f.modAt 0 3) m (fun _ => ok))
      complete s i []))

/-- The form of RNG's output (R324). -/
def rngForm (t : Ty) (x : Word) : Word :=
  match t with
  | .f32 => packElems 32 (fun k => packF fmtF32 .rne (.fin false (elemAt 32 x k / 256) (-24)))
  | .f64 => BitVec.ofNat 64 (packF fmtF64 .rne (.fin false (x.toNat / 2 ^ 11) (-53)))
  | _ => x

/-- RNG (R248, R324): RNGCTR advances at the issue. -/
def execRng (f : Fx) (s : State) : Out :=
  onIssue s f false (fun i m =>
    let p := fxPlan i f m 0 false
    passing s i p (fun s =>
      let s := applyReleases s i p
      let s := writeDest s i f.d false m (fun l => rngForm f.ty (rngOut i.g.rngkey i.g.rngctr l))
      complete (onIssuing s i (fun g => { g with rngctr := g.rngctr + 1 })) i []))

end Sys2Proof.Machine
end

