-- ==== Sys2Proof/Machine/FenceInstr.lean ====
section
/-! DEFINITION. Fences and cache maintenance at issue (R214, R215, R226, R228, R345, R346), and the start of what they wait for. -/

namespace Sys2Proof.Machine

/-! ### The earlier operations that a fence waits for -/

/-- Accesses that a fence of any kind and scope waits for: those that perform on this node (R214, .grp and .team), and fabric atomics
whose old values are still to come (R215, R229). Lanes parked on a remote read are not covered (R215). -/
def isLocalAccess (o : Op) : Bool :=
  match o.kind with
  | .load .. | .store .. | .homeStore .. | .atomic .. | .launch .. | .mopen .. | .remoteAtomic .. => true
  | _ => false

/-- Copies, and merge stages and closes on their way: what a release at .clu waits for besides (R214, R226). -/
def isWideAccess (o : Op) : Bool :=
  match o.kind with
  | .copy .. | .stage .. | .close .. | .remoteClose .. => true
  | _ => false

/-- Fabric writes that are not yet acknowledged (R214, .sys). -/
def isFabricAccess (o : Op) : Bool :=
  match o.kind with
  | .remoteWrite .. | .remoteClose .. => true
  | _ => false

/-- A fence of the group: what RST, LAUNCH and others with a release wait in, too. -/
def isFence (o : Op) : Bool :=
  match o.kind with
  | .fence .. => true
  | _ => false

/-- Whether a fence waits for an earlier operation of its group. -/
def fenceWaits (w : FenceWhat) (o : Op) : Bool :=
  match w with
  | .fence _ rel scope =>
    isLocalAccess o || isFence o || (rel && 2 ≤ scope && isWideAccess o) || (rel && 5 ≤ scope && isFabricAccess o)
  | .flush => isLocalAccess o || isFence o || isFabricAccess o || (match o.kind with | .copy .. => true | _ => false)
  | _ => isLocalAccess o || isFence o

/-- The lines whose dirty bytes a fence writes back. -/
def fenceLines (w : FenceWhat) : Option (L1Line → Bool) :=
  match w with
  | .fence _ rel scope => if rel && 2 ≤ scope then some (fun _ => true) else none
  | .cwb va n => some (inRange va n)
  | .cinv _ _ => none
  | .flush => some (fun _ => true)
  | .icinv scope va n => some (fun l => scope == 2 || inRange va n l)

/-- A fence's write-backs start when every earlier operation that it waits for has performed (R219). -/
def beginFence (s : State) (k n : Nat) : State :=
  match opOf s k n with
  | none => s
  | some o =>
    match o.kind with
    | .fence w wbs ops false tok after =>
      let left := ops.filter (fun x => (opOf s k x).any (fun e => !setAside (coreOf s k) e))
      if left.isEmpty then
        let (s, ns) := match fenceLines w with
          | some p => startWriteBacks s k o.ctx p (needsApplied w) n
          | none => (s, [])
        onOp s k n (fun o => { o with kind := .fence w (wbs ++ ns) [] true tok after })
      else onOp s k n (fun o => { o with kind := .fence w wbs left false tok after })
    | _ => s

/-- Port tracker entries that a release form holds from its issue (R128, R371, R372). -/
def afterTracker (a : After) : Nat :=
  match a with
  | .rst accs => (fabricWrites accs).length
  | .ratom _ _ accs => accs.length
  | .puts .. => 1
  | .nothing | .launch .. => 0

/-- A fence-like operation of the issuing group begins. -/
def startFence (s : State) (i : Issuer) (p : Plan) (m : Mask) (w : FenceWhat) (after : After) : State × Nat :=
  let c := coreOf s i.k
  let ops := earlierOps c i.g.uid i.g.gid c.nextOp (fenceWaits w)
  let (s, n) := startOp s i { newOp s i p m (.fence w [] ops false 0 after) with tracker := afterTracker after }
  (beginFence s i.k n, n)

/-- The plan of a fence-like instruction. -/
def fencePlan (s : State) (f : Fx) (i : Issuer) (m : Mask) (cls : Nat) : Plan :=
  { cls := cls, active := m, sNames := sSrcNames f, flag := flagNumber i.e f.fen f.fsel, ready := !fenceOpen (coreOf s i.k) i.g }

/-- An instruction that acts as a fence; `none` does nothing. -/
def fenceOp (s : State) (f : Fx) (what : Group → Option FenceWhat) : Out :=
  onIssue s f false (fun i m =>
    let p := fencePlan s f i m 12
    passing s i p (fun s =>
      match what i.g with
      | none => complete s i []
      | some w => complete (startFence s i p m w .nothing).1 i []))

/-- FENCE.acq (R345). -/
def execFenceAcq (f : Fx) (s : State) : Out := fenceOp s f (fun _ => some (.fence true false (f.modAt 2 3)))
/-- FENCE.rel (R345). -/
def execFenceRel (f : Fx) (s : State) : Out := fenceOp s f (fun _ => some (.fence false true (f.modAt 2 3)))
/-- FENCE.ar (R345). -/
def execFenceAr (f : Fx) (s : State) : Out := fenceOp s f (fun _ => some (.fence true true (f.modAt 2 3)))

/-- The range of bytes of CWB and CINV: a, and bits 39:0 of b (R346). -/
def rangeArgs (g : Group) (f : Fx) : Word × Nat := (uniformA g f, uniformB g f % 2 ^ 40)

/-- CWB (R346). A range of 0 bytes does nothing. -/
def execCwb (f : Fx) (s : State) : Out :=
  fenceOp s f (fun g => let (va, n) := rangeArgs g f; if n = 0 then none else some (.cwb va n))
/-- CINV (R346). -/
def execCinv (f : Fx) (s : State) : Out :=
  fenceOp s f (fun g => let (va, n) := rangeArgs g f; if n = 0 then none else some (.cinv va n))
/-- FLUSH (R346). -/
def execFlush (f : Fx) (s : State) : Out := fenceOp s f (fun _ => some .flush)

end Sys2Proof.Machine
end

