-- ==== Sys2Proof/Machine/MergeInstr.lean ====
section
/-! DEFINITION. The merge instructions at issue (R363 to R367). Sets and coordinators act in the completions. -/

namespace Sys2Proof.Machine

/-- A handle pair (R363). -/
structure Handle where
  word : Word
  remote : Bool
  node : BitVec 14
  id : BitVec 16
  deriving DecidableEq, Repr

def handleOf (g : Group) (f : Fx) : Handle :=
  let n := f.a.num
  let w := sReg g (n + 1)
  { word := sReg g n, remote := bitAt w.toNat 31, node := BitVec.ofNat 14 (fieldOf w 16 14), id := BitVec.ofNat 16 (fieldOf w 0 16) }

/-- The generation that a handle names; one that no record has when FAIL is set or no slice is named (R363). -/
def handleGen (h : Word) : Nat := match handleKey h with | some (_, g) => g | none => 2 ^ 31

def subRemote : Nat := 6

/-! ### MOPEN -/

/-- The plan of an instruction of the merge unit that acts once, with an s destination or none. -/
def mergePlan (s : State) (f : Fx) (cls tracker : Nat) (i : Issuer) (m : Mask) : Plan :=
  { cls := cls, active := m, srcs := opNames f.a ++ opNames f.b ++ opNames f.c, rel := relNames f,
    sNames := runSNames f.a 2 ++ opSNames f.b ++ opSNames f.c ++ opSNames f.d, flag := flagNumber i.e f.fen f.fsel,
    ready := memReady i s [] && tracker ≤ trackerFree (coreOf s i.k) }

/-- MOPEN (R98, R364): the access checks of the descriptor are made by the lowest active lane; the rest follows in order at
the coordinator. -/
def execMopen (f : Fx) (s : State) : Out :=
  let q : Need := { acc := accRead, n := 64 }
  onceOp s f (mergePlan s f 10 1) q none (fun i g p ok _ s =>
    let l := lowestLane ok
    let o := { newOp s i p ok (.mopen (eaAt g f false l) l) with tracker := 1, dest := .s f.d.num }
    (startOp s i o).1) true

/-! ### MSTG -/

/-- Sub-element `j` of a staged value, as f32 (R365). -/
def stageValue (t : Ty) (x : Word) (j : Nat) : Nat :=
  if t == .bf16 then packF fmtF32 .rne (unpackF fmtBf16 (elemAt 16 x j)) else elemAt 32 x j

/-- Two staged elements are one: at one place of the fabric window or of memory, and, where the home compares tags, with one tag, since each
lane's tag is compared (R91, R103; DEDUCED, log 21). -/
def sameElem (far tags : Bool) (a b : Mask × Word × Nat × BitVec 32) : Bool :=
  (if far then untag a.2.1 == untag b.2.1 else a.2.2.1 == b.2.2.1) && (!tags || vaTag a.2.1 == vaTag b.2.1)

/-- An element joins those of the instruction: lanes that name one element are combined (R103). -/
def combineElem (far tags : Bool) (l : List (Mask × Word × Nat × BitVec 32)) (e : Mask × Word × Nat × BitVec 32) : List (Mask × Word × Nat × BitVec 32) :=
  match l with
  | [] => [e]
  | a :: r =>
    if sameElem far tags a e then (a.1 ||| e.1, a.2.1, a.2.2.1, BitVec.ofNat 32 (addF fmtF32 .rne a.2.2.2.toNat e.2.2.2.toNat)) :: r
    else a :: combineElem far tags r e

/-- The combined elements of the accesses of an MSTG, to the fabric window or to memory, whose home compares tags or not. -/
def stageElems (far tags : Bool) (g : Group) (f : Fx) (count : Nat) (accs : List LaneAcc) : List (Mask × Word × Nat × BitVec 32) :=
  (accs.flatMap (fun a => (List.range count).map (fun j =>
    (maskOfLanes [a.lane], a.va + BitVec.ofNat 64 (4 * j), a.pa + 4 * j,
      BitVec.ofNat 32 (stageValue f.ty (dataAt g f.ty f.c 0 a.lane) j))))).foldl (combineElem far tags) []

/-- The MSTAGE packet of the elements of one line (R110, R137), with handle and id (log 12). -/
def stagePacket (s : State) (ctx : BitVec 10) (h : Word) (id : BitVec 16) (line : Word) (es : List (Mask × Word × Nat × BitVec 32)) : Packet :=
  let mask := es.foldl (fun m e => m + 15 * 2 ^ lineOff e.2.1) 0
  let data := es.foldl (fun d e => d + e.2.2.2.toNat * 2 ^ (8 * lineOff e.2.1)) 0
  let fl := BitVec.ofNat 512 mask :: (maskSectors mask).map (lineFlit data)
  { requestOf s ctx kMstage 2 line with masked := true, payload := fl, len := BitVec.ofNat 3 fl.length, tyField := 0xA, handle := h, cid := id }

/-- The line of an address, its tag kept. -/
def taggedLine (a : Word) : Word := BitVec.ofNat 64 (a.toNat / 256 * 256)

/-- The entry waits at the instruction until its operation is accepted or refused (R365, R366). -/
def awaitAccept (s : State) (i : Issuer) (n : Nat) (trs : List Trap) : State := completeWait s i i.e.mask (.accept [n]) trs

/-- What an MSTG needs of its accesses. -/
def stageNeed (f : Fx) : Need :=
  { acc := accAtomic, n := 4 * memCount f, tagged := false, data := false, hostOk := false, lowerOk := false, fabricOk := true }

/-- The address of a staged element of a lane. -/
def stageAddr (g : Group) (f : Fx) (l : Nat) : Word := opndAt g .b64 f.b f.smb l

/-- Port tracker entries that an MSTG may need: one for each element of an active lane (R21, R128). -/
def stageEntries (f : Fx) (m : Mask) : Nat := countMask m * memCount f

/-- MSTG (R365). -/
def execMstg (f : Fx) (s : State) : Out :=
  onIssue s f false (fun i m =>
    let h := handleOf i.g f
    let p := mergePlan s f 10 (stageEntries f m) i m
    let p := { p with ready := p.ready && fabricReady (coreOf s i.k) i.g ((lanesIn m).map (stageAddr i.g f)) (stageEntries f m) }
    passing s i p (fun s =>
      let (s, g) := readView s i.g p.srcs
      let (s, r) := probe s i g (stageNeed f) m (stageAddr g f)
      let trs := r.traps (stageNeed f)
      let ok := m &&& ~~~ trapLanes trs
      let s := applyReleases (countTagFaults s i r) i p
      if ok == 0 then complete s i trs
      else
        let accs := ofLanes ok r.byLane
        let tags := (ctxOf s i.g.ctx.toNat).tagmode != 0
        let near := stageElems false tags g f (memCount f) (accs.filter (·.space != .fabric))
        let far := stageElems true tags g f (memCount f) (accs.filter (·.space == .fabric))
        let lines := (far.map (fun e => taggedLine e.2.1)).eraseDups
        let mine (w : Word) : List (Mask × Word × Nat × BitVec 32) := far.filter (fun e => taggedLine e.2.1 == w)
        let remote := lines.map (fun w => (w.toNat, (mine w).foldl (fun m e => m ||| e.1) 0))
        let o := { newOp s i p ok (.stage (handleSet h.word) (handleGen h.word) h.id near remote) with
          tracker := near.length + remote.length }
        let s := fabricFirst s i (accs.filter (·.space == .fabric))
        let (s, n) := startOp s i o
        let s := lines.foldl (fun s w => submit s i.k n (stagePacket s i.g.ctx h.word h.id w (mine w))) s
        awaitAccept (reportTags s i (stageNeed f).acc.code r.mism) i n trs))

/-! ### MCLOSE, MABORT, MSTAT -/

/-- The earlier stages of a group are all accepted (R366). -/
def noStages (c : CoreState) (g : Group) : Bool :=
  !(c.ops.any (fun e => e.2.uid == g.uid && e.2.gid == g.gid && match e.2.kind with | .stage .. => true | _ => false))

/-- The first free continuation entries of a core (R143). -/
def freeConts (c : CoreState) (n : Nat) : List Nat :=
  ((List.range 1024).filter (fun e => !((look c.conts e).any (·.used)))).take n

/-- A continuation entry is taken for a packet; the packet carries its number, generation and core. -/
def takeCont (s : State) (k entry op : Nat) (lanes : List LaneAcc) (p : Packet) : State × Packet :=
  let c := coreOf s k
  let x := lookD c.conts entry {}
  let y : Continuation := { x with used := true, op := op, lanes := lanes, sent := c.ccyc, reissued := false }
  let y := { y with limit := s.fabric.ftimeout.toNat, skimmed := false }
  let y := { y with plane := BitVec.ofNat 2 (planeOf s p.off.toNat), dst := p.dst, line := p.off }
  (setCore s k { c with conts := put c.conts entry y },
    { p with cont := BitVec.ofNat 10 entry, gen := x.gen, rcore := BitVec.ofNat 9 k })

/-- The MCLOSE packet (R110, R366): its payload flit holds handle and id (log 12). -/
def closePacket (s : State) (ctx : BitVec 10) (h : Handle) : Packet :=
  let body := [BitVec.ofNat 512 (h.word.toNat + h.id.toNat * 2 ^ 64)]
  { requestOf s ctx kMclose 1 0 with dst := h.node, off := 0, rel := true, len := 1, payload := body }

/-- MCLOSE (R366). -/
def execMclose (f : Fx) (s : State) : Out :=
  onIssue s f false (fun i m =>
    let h := handleOf i.g f
    let c := coreOf s i.k
    let p := mergePlan s f 10 1 i m
    let p := { p with ready := p.ready && noStages c i.g && (!h.remote || 1 ≤ contsFree c) }
    passing s i p (fun s =>
      if h.remote then
        let entry := (freeConts (coreOf s i.k) 1).headD 0
        let (s, n) := startOp s i { newOp s i p m (.remoteClose entry) with tracker := 1 }
        let (s, pk) := takeCont s i.k entry n [] (closePacket s i.g.ctx h)
        awaitAccept (submit s i.k n pk) i n []
      else
        let o := { newOp s i p m (.close (handleSet h.word) (handleGen h.word) h.id) with tracker := 1 }
        let (s, n) := startOp s i o
        awaitAccept s i n []))

/-- MERGE REMOTE (R367). -/
def remoteTrap (m : Mask) : Trap := { cause := causeMerge, sub := subRemote, lanes := m }

/-- MABORT (R367). -/
def execMabort (f : Fx) (s : State) : Out :=
  onIssue s f false (fun i m =>
    let h := handleOf i.g f
    let p := mergePlan s f 10 1 i m
    passing s i p (fun s =>
      if h.remote then complete s i [remoteTrap m]
      else
        let o := { newOp s i p m (.mabort (handleSet h.word) (handleGen h.word) h.id) with tracker := 1, dest := .s f.d.num }
        let (s, n) := startOp s i o
        completeWait s i m (.accept [n]) []))

/-- The active lanes park at the instruction until an operation answers; the others go on (R26). -/
def parkRemote (s : State) (i : Issuer) (m : Mask) (n : Nat) (trs : List Trap) : State :=
  let ok := m &&& ~~~ trapLanes trs
  let e := issuedAge { i.e with mask := ok, st := .parkedRemote, hold := .remote n, skip := i.len }
  endIssue s i true [e, i.onward (i.others m)] trs

/-- MSTAT (R367). -/
def execMstat (f : Fx) (s : State) : Out :=
  onIssue s f false (fun i m =>
    let h := handleOf i.g f
    let p := mergePlan s f 8 0 i m
    passing s i p (fun s =>
      if h.remote then complete s i [remoteTrap m]
      else
        let o := { newOp s i p m (.mstat (handleSet h.word) (handleGen h.word) h.id) with dest := .s f.d.num }
        let (s, n) := startOp s i o
        parkRemote s i m n []))

end Sys2Proof.Machine
end

