-- ==== Sys2Proof/Machine/FabricInstr.lean ====
section
/-! DEFINITION. The fabric instructions at issue, and the packets that they send (R368 to R373). -/

namespace Sys2Proof.Machine

/-- What a fabric access needs: alignment and the fabric window (R368). -/
def fabricNeed (f : Fx) (n : Nat) : Need := { acc := accRead, n := n, fabricOk := true, bx := none, path := memPath f }

/-- ALIGN, then ACCESS SPACE for every space but the fabric window, then the fabric port's access table (R181). -/
def fabricLane (grant : Bool) (n : Nat) (p : Probe) (e : Nat × Word) : Probe :=
  if e.2.toNat % n != 0 then p.fail e.1 e.2 { cause := causeAlign }
  else if !isFabricVa e.2 then p.fail e.1 e.2 { cause := causeAccess, sub := subSpace }
  else if !grant then p.fail e.1 e.2 { cause := causeAccess }
  else p.note e.1 0 n e.2 { found := .ok .fabric 0 0 }

/-- The lanes of a fabric instruction. -/
def fabricProbe (s : State) (i : Issuer) (right : Nat) (m : Mask) (ea : Nat → Word) (n : Nat) : Probe :=
  (laneAddrs m ea).foldl (fabricLane (tatGrants s 2 (ctxOf s i.ctx).polder right) n) {}

/-- The lines of some accesses, tags kept. -/
def linesOf (accs : List LaneAcc) : List Word := (accs.map (fun a => taggedLine a.va)).eraseDups

/-- The plan of a fabric instruction. Continuation and port tracker entries that depend on vector operands are counted one for each
active lane (R21); `once` names an instruction with one line. -/
def fabricPlan (s : State) (f : Fx) (cls k : Nat) (conts tracker : Nat) (once : Bool) (i : Issuer) (m : Mask) : Plan :=
  let c := coreOf s i.k
  let as := if once then let a := eaAt i.g f false (lowestLane m); [a, a + 64, a + 128, a + 192] else (lanesIn m).map (eaAt i.g f false)
  { cls := cls, active := m, srcs := opNames f.a ++ opNames f.b ++ runNames f.c k,
    rel := relRun f k,
    sNames := opSNames f.a ++ opSNames f.b ++ runSNames f.c k, flag := flagNumber i.e f.fen f.fsel,
    ready := memReady i s [] && conts ≤ contsFree c && fabricReady c i.g as tracker }

/-! ### Reads (R369, R370) -/

/-- The lowest address of some accesses, in the request of their line. -/
def lowestVa (accs : List LaneAcc) (d : Word) : Word := accs.foldl (fun m a => if a.va.toNat < m.toNat then a.va else m) ((accs.head?.map (·.va)).getD d)

/-- The sectors of a line that accesses to it touch. -/
def sectorBits (accs : List LaneAcc) : BitVec 4 :=
  accs.foldl (fun m a => m ||| 1#4 <<< (a.va.toNat % 256 / 64) ||| 1#4 <<< ((a.va.toNat + a.n - 1) % 256 / 64)) 0

/-- One request per line, each with a continuation that knows its lanes and the sectors that they touch (R91; log 49). ADDR names the
lowest byte that the lanes read (DEDUCED, log 31). -/
def sendReads (s : State) (i : Issuer) (n : Nat) (kind : BitVec 8) (accs : List LaneAcc) : State :=
  ((linesOf accs).zip (freeConts (coreOf s i.k) (linesOf accs).length)).foldl (fun s e =>
    let mine := accs.filter (fun a => taggedLine a.va == e.1)
    let (s, pk) := takeCont s i.k e.2 n mine { requestOf s i.g.ctx kind 1 (lowestVa mine e.1) with sectors := sectorBits mine }
    submit s i.k n pk) s

/-- A fabric read that parks its lanes. -/
def fabricRead (s : State) (f : Fx) (k n : Nat) (getf : Bool) (r : State → Issuer → Group → Mask → Probe) (accsOf : Mask → List LaneAcc → List LaneAcc)
    (conts : Mask → Nat) (once : Bool) : Out :=
  onIssue s f false (fun i m =>
    let p := { fabricPlan s f 8 1 (conts m) 0 once i m with dst := (runNames f.d k).map (fun x => (x, false)) }
    passing s i p (fun s =>
      let (s, g) := readView s i.g p.srcs
      let pr := r s i g m
      let trs := pr.traps (fabricNeed f n)
      let trs := if once then onceTraps m trs else trs
      let ok := m &&& ~~~ trapLanes trs
      let s := applyReleases s i p
      if ok == 0 then complete (allocOnly s i (p.dst.map (·.1))) i trs
      else
        let accs := accsOf ok pr.byLane
        let s := fabricFirst s i accs
        let o := { newOp s i p ok (.remoteRead getf accs) with dest := .v f.d.num, regs := k }
        let (s, x) := startOp s i o
        let s := allocFor s i (runNames f.d k) x p.flag
        let s := sendReads s i x (if getf then kGetreq else kRdreq) accs
        parkRemote s i m x trs))

/-- RLD (R369). -/
def execRld (f : Fx) (s : State) : Out :=
  let k := memCount f
  let n := memBytes f k
  fabricRead s f k n false (fun s i g m => fabricProbe s i 0 m (eaAt g f false) n) (fun ok accs => (ofLanes ok accs).flatMap (loadParts f))
    (fun m => countMask m) false

/-- GETF (R370): one line; lane l has its bytes 8l to 8l + 7. -/
def execGetf (f : Fx) (s : State) : Out :=
  fabricRead s f 1 256 true (fun s i g m => fabricProbe s i 0 (maskOfLanes [lowestLane m]) (eaAt g f false) 256)
    (fun ok accs => (lanesIn ok).flatMap (fun l => accs.map (fun a =>
      { a with lane := l, va := a.va + BitVec.ofNat 64 (8 * l), n := 8 }))) (fun _ => 1) true

/-! ### Writes (R371) -/

/-- The packets of a release form wait for the release of FENCE.rel.sys; other packets leave at once. -/
def sysRelease : FenceWhat := .fence false true 5

/-- TAGMODE as the instruction of an operation found it (R68). -/
def opTagmode (s : State) (k n : Nat) : Nat := (opOf s k n).elim 0 (·.tagmode)

/-- The WR packets of an operation leave; its flag retires at handoff. -/
def sendStores (s : State) (k n : Nat) (ctx : BitVec 10) (rel : Bool) (accs : List LaneAcc) : State :=
  let ws := fabricWrites accs
  let mode := opTagmode s k n
  let s := retireFlag s k n
  let s := onOp s k n (fun o => { o with kind := .remoteWrite ws.length accs, tracker := ws.length })
  ws.foldl (fun s w => submit s k n (withTags mode (wrPacketOf s ctx w.1 w.2.1 w.2.2 rel))) s

/-- RST (R371). -/
def execRst (f : Fx) (s : State) : Out :=
  let k := memCount f
  let n := memBytes f k
  let rel := f.modAt 4 1 == 1
  onIssue s f false (fun i m =>
    let p := fabricPlan s f 9 k 0 (countMask m) false i m
    passing s i p (fun s =>
      let (s, g) := readView s i.g p.srcs
      let pr := fabricProbe s i 1 m (eaAt g f false) n
      let trs := pr.traps { fabricNeed f n with acc := accWrite }
      let ok := m &&& ~~~ trapLanes trs
      let s := applyReleases s i p
      if ok == 0 then complete s i trs
      else
        let accs := (ofLanes ok pr.byLane).flatMap (storeParts g f)
        let s := fabricFirst s i accs
        if rel then complete (startFence s i p ok sysRelease (.rst accs)).1 i trs
        else
          let (s, x) := startOp s i (newOp s i p ok (.remoteWrite 0 []))
          complete (sendStores s i.k x i.g.ctx false accs) i trs)) (relRun f k)

/-- The PUTS packet (R371). -/
def putsPacket (s : State) (ctx : BitVec 10) (a : Word) (v : Word) : Packet :=
  let off := lineOff a
  { wrPacketOf s ctx a (255 * 2 ^ off) (v.toNat * 2 ^ (8 * off)) true with kind := kPuts }

/-- PUTS (R371): one packet with REL, after the release of FENCE.rel.sys. -/
def execPuts (f : Fx) (s : State) : Out :=
  onIssue s f false (fun i m =>
    let p := fabricPlan s f 9 1 0 1 true i m
    passing s i p (fun s =>
      let pr := fabricProbe s i 1 (maskOfLanes [lowestLane m]) (eaAt i.g f false) 8
      let trs := onceTraps m (pr.traps { fabricNeed f 8 with acc := accWrite })
      match trs, pr.accs with
      | [], a :: _ =>
        let s := fabricFirst s i [a]
        complete (startFence s i p m sysRelease (.puts a.va (dataAt i.g f.ty f.c 0 (lowestLane m)))).1 i []
      | _, _ => complete s i trs))

/-! ### Atomics (R372) -/

/-- The ATOMREQ packet of a lane (R136, R137): operation and type in OPX, operand and new value in the payload flit. -/
def atomPacket (s : State) (ctx : BitVec 10) (op : Nat) (t : Ty) (rel : Bool) (a : LaneAcc) : Packet :=
  let body := [BitVec.ofNat 512 (a.data.toNat + a.data2.toNat * 2 ^ 64)]
  { requestOf s ctx kAtomreq 2 a.va with
    len := 1, rel := rel, op := BitVec.ofNat 4 op, tyField := BitVec.ofNat 4 t.code, payload := body, lane := BitVec.ofNat 5 a.lane }

/-- The ATOMREQ packets of an operation leave, in increasing lane order; with a destination each takes a continuation. -/
def sendAtomics (s : State) (k n : Nat) (ctx : BitVec 10) (op : Nat) (t : Ty) (rel ret : Bool) (accs : List LaneAcc) : State :=
  let mode := opTagmode s k n
  if ret then
    let s := onOp s k n (fun o => { o with kind := .remoteAtomic op t accs })
    (accs.zip (freeConts (coreOf s k) accs.length)).foldl (fun s e =>
      let (s, pk) := takeCont s k e.2 n [e.1] (withTags mode (atomPacket s ctx op t rel e.1))
      submit s k n pk) s
  else
    let s := retireFlag s k n
    let s := onOp s k n (fun o => { o with kind := .remoteWrite accs.length accs })
    accs.foldl (fun s a => submit s k n (withTags mode (atomPacket s ctx op t rel a))) s

/-- RATOM (R372). -/
def execRatom (f : Fx) (s : State) : Out :=
  let n := atomicBytes f.ty
  let rel := f.modAt 4 1 == 1
  let ret := f.d.isV
  onIssue s f false (fun i m =>
    let p := fabricPlan s f 9 (atomicRegs f) (if ret then countMask m else 0) (countMask m) false i m
    let p := { p with dst := if ret then (opNames f.d).map (fun x => (x, false)) else [] }
    passing s i p (fun s =>
      let (s, g) := readView s i.g p.srcs
      let pr := fabricProbe s i 2 m (eaAt g f false) n
      let trs := pr.traps { fabricNeed f n with acc := accAtomic }
      let ok := m &&& ~~~ trapLanes trs
      let s := applyReleases s i p
      if ok == 0 then complete (allocOnly s i (p.dst.map (·.1))) i trs
      else
        let accs := (ofLanes ok pr.byLane).map (atomicPart g f)
        let s := fabricFirst s i accs
        let dest : Dest := if ret then .v f.d.num else .none
        let s := if rel then
            let (s, x) := startFence s i p ok sysRelease (.ratom (f.modAt 0 3) f.ty accs)
            let s := onOp s i.k x (fun o => { o with dest := dest })
            if ret then allocFor s i (opNames f.d) x p.flag else s
          else
            let (s, x) := startOp s i { newOp s i p ok (.remoteWrite 0 []) with dest := dest, tracker := accs.length }
            let s := if ret then allocFor s i (opNames f.d) x p.flag else s
            sendAtomics s i.k x i.g.ctx (f.modAt 0 3) f.ty false ret accs
        complete s i trs)) (relRun f (atomicRegs f))

/-! ### FSTATC (R373) -/

/-- FSTATC: d takes FSTAT, and the named bits clear. -/
def execFstatc (f : Fx) (s : State) : Out :=
  onIssue s f false (fun i m =>
    let p : Plan := { cls := 14, active := m, sNames := sSrcNames f ++ opSNames f.d }
    passing s i p (fun s =>
      let clear := BitVec.ofNat 4 (uniformB i.g f)
      let s := writeDest s i f.d true m (fun _ => BitVec.ofNat 64 i.tm.fstat.toNat)
      let s := onCore s i.k (fun c => { c with teams := alter c.teams i.t (fun t => { t with fstat := t.fstat &&& ~~~ clear }) })
      complete s i []))

end Sys2Proof.Machine
end

