-- ==== Sys2Proof/Machine/GaugeInstr.lean ====
section
/-! DEFINITION. The gauge instructions (R374 to R376, R198). -/

namespace Sys2Proof.Machine

/-- The result word of VCOST (R374). -/
def costWord (s : State) (c : CoreState) (cls bytes : Nat) : Word :=
  if 15 ≤ cls then 0
  else
    BitVec.ofNat 64 (chargeOf s c cls bytes % 2 ^ 32 + vctEngine cls * 2 ^ 32 + (if vctGran cls then 2 ^ 36 else 0) +
      if doubled c cls then 2 ^ 37 else 0)

/-- VCOST (R374). -/
def execVcost (f : Fx) (s : State) : Out :=
  onIssue s f false (fun i m =>
    let uni := isFull i.g m
    let p := fxPlan i f m 14 uni
    passing s i p (fun s =>
      let w := costWord s (coreOf s i.k) (uniformB i.g f % 32) ((uniformC i.g f).toNat % 2 ^ 25)
      let s := applyReleases s i p
      complete (writeDest s i f.d uni m (fun _ => w)) i []))

/-- VCHK (R375): the outcome of the admission test of R193. -/
def execVchk (f : Fx) (s : State) : Out :=
  predOp s f (fun _ _ _ =>
    match issuer s with
    | none => false
    | some i =>
      admits s i.k i.g.ctx (f.modAt 0 3) (uniformB i.g f % 2 ^ 32) (wordInt (uniformC i.g f)) (sluiceBound s i.k i.g.ctx))

/-- VCKPT (R198, R376): in a soft stage the active lanes wait at the next instruction, and the team may leave; outside one it
does nothing. -/
def execVckpt (f : Fx) (s : State) : Out :=
  onIssue s f false (fun i m =>
    let p : Plan := { cls := 14, active := m }
    passing s i p (fun s =>
      if inSoftStage (coreOf s i.k) i.ctx then
        let e := { i.onward m with hold := .checkpoint }
        leaveCheck (endIssue s i true [e, i.onward (i.others m)] []) i.k i.g.uid
      else complete s i []))

/-- VCKPT.poll (R376). -/
def execVckptPoll (f : Fx) (s : State) : Out :=
  predOp s f (fun _ _ _ =>
    match issuer s with
    | none => false
    | some i => inSoftStage (coreOf s i.k) i.ctx)

end Sys2Proof.Machine
end

