-- ==== Sys2Proof/Machine/Immediate.lean ====
section
/-! DEFINITION. The immediate instructions of format I: each acts as the F instruction it names (R251, R257). -/

namespace Sys2Proof.Machine

/-- IADD_I32_I (R257). -/
def execIaddI32I (i : IForm) (s : State) : Out := laneOp s (iToFx i .i32 false) (valAdd (iToFx i .i32 false))

/-- IADD_I64_I (R257). -/
def execIaddI64I (i : IForm) (s : State) : Out := laneOp s (iToFx i .i64 false) (valAdd (iToFx i .i64 false))

/-- AND_B32_I (R257). -/
def execAndB32I (i : IForm) (s : State) : Out := laneOp s (iToFx i .b32 false) (valAnd (iToFx i .b32 false))

/-- OR_B32_I (R257). -/
def execOrB32I (i : IForm) (s : State) : Out := laneOp s (iToFx i .b32 false) (valOr (iToFx i .b32 false))

/-- XOR_B32_I (R257). -/
def execXorB32I (i : IForm) (s : State) : Out := laneOp s (iToFx i .b32 false) (valXor (iToFx i .b32 false))

/-- SHL_B32_I (R257). -/
def execShlB32I (i : IForm) (s : State) : Out := laneOp s (iToFx i .b32 false) (valShl (iToFx i .b32 false))

/-- SHR_N32_I (R257). -/
def execShrN32I (i : IForm) (s : State) : Out := laneOp s (iToFx i .n32 false) (valShr (iToFx i .n32 false))

/-- SAR_I32_I (R257). -/
def execSarI32I (i : IForm) (s : State) : Out := laneOp s (iToFx i .i32 false) (valSar (iToFx i .i32 false))

/-- SHL_B64_I (R257). -/
def execShlB64I (i : IForm) (s : State) : Out := laneOp s (iToFx i .b64 false) (valShl (iToFx i .b64 false))

/-- SHR_N64_I (R257). -/
def execShrN64I (i : IForm) (s : State) : Out := laneOp s (iToFx i .n64 false) (valShr (iToFx i .n64 false))

/-- MOV_I32_I (R257). -/
def execMovI32I (i : IForm) (s : State) : Out := laneOp s (iToFx i .i32 true) (valMov (iToFx i .i32 true))

/-- MOV_I64_I (R257). -/
def execMovI64I (i : IForm) (s : State) : Out := laneOp s (iToFx i .i64 true) (valMov (iToFx i .i64 true))

/-- IMUL_I32_I (R257). -/
def execImulI32I (i : IForm) (s : State) : Out := laneOp s (iToFx i .i32 false) (valMul (iToFx i .i32 false))

/-- IMIN_I32_I (R257). -/
def execIminI32I (i : IForm) (s : State) : Out := laneOp s (iToFx i .i32 false) (valMin (iToFx i .i32 false))

/-- IMAX_I32_I (R257). -/
def execImaxI32I (i : IForm) (s : State) : Out := laneOp s (iToFx i .i32 false) (valMax (iToFx i .i32 false))

end Sys2Proof.Machine
end

