-- ==== Sys2Proof/Machine/Matrix.lean ====
section
/-! DEFINITION. The matrix format register and the matrix operations (R354 to R362): what they do at issue, and the product. -/

namespace Sys2Proof.Machine

/-! ### Formats -/

/-- Whether a format word is valid (R355). -/
def formatOk (w : Word) : Bool :=
  let t := fieldOf w 0 4
  let a := fieldOf w 8 4
  w.toNat == t + 256 * a && (((t == 0x8 || t == 0x9 || t == 0xC || t == 0xD) && a == 0xA) || (t == 0x1 && a == 0x5))

/-- The input type of MFMT. -/
def formatType (m : BitVec 16) : Option MatType := MatType.ofCode (m.toNat % 16)

/-- The word that OPRF takes from its operand. -/
def formatWord (g : Group) (f : Fx) (m : Mask) : Word :=
  match f.lit? with
  | some v => BitVec.ofNat 64 v.toNat
  | none => opndAt g .b64 f.b f.smb (lowestLane m)

/-- OPRF (R355). -/
def execOprf (f : Fx) (s : State) : Out :=
  onIssue s f false (fun i m =>
    let (s1, g) := readView s i.g (srcNames f)
    let w := formatWord g f m
    let differ := if f.b.isV then maskWhere (fun l => inMask m l && opndAt g .b64 f.b f.smb l != w) else 0
    let bad : Option Trap := if differ == 0 && !formatOk w then some { cause := causeMhaz, sub := 3, lanes := m } else none
    let p := { fxPlan i f m 0 false with early := bad }
    passing s i p (fun _ =>
      let s := applyReleases s1 i p
      if differ != 0 then complete s i [{ cause := causeMhaz, sub := 4, lanes := differ }]
      else complete (onIssuing s i (fun g => { g with mfmt := BitVec.ofNat 16 (2 ^ 15 + w.toNat) })) i []))

/-! ### Issue of MMA and MMAW -/

/-- Spans of A, B and the scales (R356). -/
def aSpan (wide : Bool) : Nat := if wide then 16 else 8
def bSpan (wide : Bool) : Nat := if wide then 8 else 4

/-- The names that a matrix operation's last-use bits release: every name of their spans (R357). -/
def matrixRel (f : Fx) (wide : Bool) : List Nat :=
  let names (o : Opnd) (k : Nat) : List Nat := match o with | .v n => run n.toNat k | _ => []
  (if f.lua then names f.a (aSpan wide) else []) ++ (if f.lub then names f.b (bSpan wide) else []) ++ (if f.luc then names f.c 4 else [])

/-- The sub-array of a group is fenced, and its partner too (R361). -/
def bothFenced (c : CoreState) (gid : Nat) : Bool := c.suba.getLsbD (gid % 4) && c.suba.getLsbD (gid % 4 ^^^ 1)

/-- The faults of a matrix operation at issue, the lowest subcode first (R362). -/
def matrixFault (s : State) (i : Issuer) (f : Fx) (m : Mask) : Option Trap :=
  let fail (sub : Nat) : Option Trap := some { cause := causeMhaz, sub := sub, lanes := m }
  let bx := match formatType i.g.mfmt with | some .bx8 | some .bx4 => true | _ => false
  if !i.g.mfmt.getLsbD 15 then fail 2
  else if bx != f.c.isV then fail 3
  else if !isFull i.g m then fail 5
  else if bothFenced (coreOf s i.k) i.g.gid then fail 6
  else none

/-- The plan of a matrix operation. -/
def matrixPlan (s : State) (f : Fx) (wide : Bool) (i : Issuer) (m : Mask) : Plan :=
  let a := runNames' f.a (aSpan wide)
  let b := runNames' f.b (bSpan wide)
  let c := runNames' f.c 4
  let d := runNames' f.d 32
  { cls := if wide then 7 else 6, active := m, srcs := a ++ b ++ c ++ (if f.modAt 0 1 == 1 then [] else d),
    rel := matrixRel f wide, dst := d.map (fun n => (n, false)), flag := flagNumber i.e f.fen f.fsel, ready := (coreOf s i.k).fenceReq.isNone,
    early := matrixFault s i f m, chain := some f.d.num }
where
  runNames' (o : Opnd) (k : Nat) : List Nat :=
    match o with
    | .v n => run n.toNat k
    | _ => []

/-- The values of a span, by register and lane. -/
def spanValues (g : Group) (n k : Nat) : List (List Word) := (run n k).map (fun r => laneNums.map (vLane g r))

/-- The reuse latch after a matrix operation (R51). -/
def latchAfter (c : CoreState) (slot : Nat) (f : Fx) (wide : Bool) (av : List (List Word)) : CoreState :=
  let q := slot / 8
  if f.reuse && !f.lua then { c with latches := put c.latches q { slot := slot, base := f.a.num, span := aSpan wide, values := av } }
  else { c with latches := del c.latches q }

/-- The latched A operand, when the latch applies (R51). -/
def latchedA (c : CoreState) (slot : Nat) (f : Fx) (wide : Bool) : Option (List (List Word)) :=
  match look c.latches (slot / 8) with
  | some x => if f.reuse && x.slot == slot && x.base == f.a.num && x.span == aSpan wide then some x.values else none
  | none => none

/-- An accumulator name of a new operation: pending. A result to come of a chained operation, in flight or complete with its flag still
to return to 0, stays as it is; any other one, and this one with it, is discarded as `pendName` says (R45, R360). -/
def pendAcc (d : Nat) (a : State × Group) (n op : Nat) (flag : Option Nat) : State × Group :=
  if a.2.pend.any (fun p => p.name == n && (p.spoiled || p.acc != some d)) then pendName a n op flag
  else (a.1, { a.2 with pend := a.2.pend ++ [({ name := n, op := op, flag := flag, acc := some d } : Pend)] })

/-- MMA and MMAW at issue (R357, R359): the operands are taken as the registers stand, and D is allocated. -/
def matrixOp (s : State) (f : Fx) (wide : Bool) : Out :=
  onIssue s f false (fun i m =>
    let p := matrixPlan s f wide i m
    passing s i p (fun s =>
      let d := f.d.num
      let (s, g) := readView s i.g (p.srcs.filter (fun n => !(accNames d).contains n))
      let av := (latchedA (coreOf s i.k) i.slot f wide).getD (spanValues g f.a.num (aSpan wide))
      let bv := spanValues g f.b.num (bSpan wide)
      let cv := if f.c.isV then spanValues g f.c.num 4 else []
      let srcs := p.srcs.filter (fun n => !(accNames d).contains n)
      let s := applyReleases s i p
      let o := { newOp s i p m (.mma wide (f.modAt 0 1 == 1) i.g.mfmt d av bv cv srcs false) with dest := .v d, regs := 32 }
      let (s, n) := startOp s i o
      let r := (accNames d).foldl (fun a x => pendAcc d (a.1, allocName a.2 x) x n p.flag) (s, groupNow s i)
      let s := onIssuing r.1 i (fun _ => r.2)
      let s := onCore s i.k (fun c => latchAfter c i.slot f wide av)
      complete s i [])) (matrixRel f wide)

/-- MMA (R359). -/
def execMma (f : Fx) (s : State) : Out := matrixOp s f false
/-- MMAW (R359). -/
def execMmaw (f : Fx) (s : State) : Out := matrixOp s f true

/-! ### The product (R358, R359) -/

/-- Byte `y` of a span. -/
def spanByte (vs : List (List Word)) (y : Nat) : Nat := byteAt ((vs.getD (y / 256) []).getD (y % 256 / 8) 0) (y % 8)

/-- Element `x` of a span, of a size in bits: 4, 8, 16 or 32. -/
def spanElem (vs : List (List Word)) (bits x : Nat) : Nat :=
  match bits with
  | 4 => bitsAt (spanByte vs (x / 2)) (4 * (x % 2)) 4
  | 8 => spanByte vs x
  | 16 => spanByte vs (2 * x) + 256 * spanByte vs (2 * x + 1)
  | _ => (List.range 4).foldl (fun a b => a + spanByte vs (4 * x + b) * 2 ^ (8 * b)) 0

/-- The size of an input element in bits. -/
def MatType.bits (t : MatType) : Nat :=
  match t with
  | .f16 | .bf16 => 16
  | .bx8 | .i8 => 8
  | .bx4 => 4

/-- The value of an input element: `x` its index, `sp` its block's scale pair. -/
def matValue (t : MatType) (vs : List (List Word)) (x sp : Nat) : FVal :=
  let v := spanElem vs t.bits x
  match t with
  | .f16 => unpackF fmtF16 v
  | .bf16 => unpackF fmtBf16 v
  | .bx8 => bxValue true v (sp % 256) (sp / 256)
  | .bx4 => bxValue false v (sp % 256) (sp / 256)
  | .i8 => .nan

/-- The scale pairs of row `i` of A and of column `j` of B, for k-block `kb` of `n`. -/
def aScale (cv : List (List Word)) (n i kb : Nat) : Nat := spanElem cv 16 (i * n + kb)
def bScale (cv : List (List Word)) (n j kb : Nat) : Nat := spanElem cv 16 (256 + j * n + kb)

/-- One accumulator element of a matrix operation. -/
def matElement (t : MatType) (wide : Bool) (av bv cv : List (List Word)) (acc i j : Nat) : Nat :=
  let k := t.depth wide
  match t with
  | .i8 => accumulateInt acc ((List.range k).map (fun x =>
      asSigned 8 (spanElem av 8 (i * k + x)) * asSigned 8 (spanElem bv 8 (j * k + x))))
  | _ => accumulate t acc ((List.range k).map (fun x =>
      mulV (matValue t av (i * k + x) (aScale cv (k / 32) i (x / 32))) (matValue t bv (j * k + x) (bScale cv (k / 32) j (x / 32)))))

/-- Register `r`, lane `l` of D after a matrix operation: elements (i, j) and (i, j + 1). -/
def matLane (t : MatType) (wide z : Bool) (av bv cv : List (List Word)) (old : Word) (r l : Nat) : Word :=
  let x := 64 * r + 2 * l
  let e (h : Nat) : Nat := matElement t wide av bv cv (if z then 0 else fieldOf old (32 * h) 32) ((x + h) / 32) ((x + h) % 32)
  BitVec.ofNat 64 (e 0 + 2 ^ 32 * e 1)

end Sys2Proof.Machine
end

