-- ==== Sys2Proof/Machine/Pair.lean ====
section
/-! DEFINITION. Pairs (format P): two halves that issue as one instruction (R258, R259). Each row of the opcode table names half 0. -/

namespace Sys2Proof.Machine

/-- The type of a pair opcode. -/
def pairTy : PairOp → Ty
  | .iaddI32 => .i32
  | .isubI32 => .i32
  | .iaddI64 => .i64
  | .andB64 => .b64
  | .orB64 => .b64
  | .xorB64 => .b64
  | .iminI32 => .i32
  | .imaxI32 => .i32
  | .faddF32 => .f32
  | .fmulF32 => .f32
  | .fminF32 => .f32
  | .fmaxF32 => .f32
  | .faddBf16 => .bf16
  | .fmulBf16 => .bf16
  | .faddF16 => .f16
  | .fmulF16 => .f16
  | .movB64 => .b64
  | .faddF64 => .f64
  | .fmulF64 => .f64

/-- Whether the half is MOV, whose one source is vs. -/
def pairUnary : PairOp → Bool
  | .movB64 => true
  | _ => false

/-- A half as its F instruction. -/
def halfFx (o : PairOp) (h : PHalf) : Fx := pToFx h (pairTy o) (pairUnary o)

/-- The value of a half in a lane. -/
def halfVal (o : PairOp) (f : Fx) : Group → Nat → Word :=
  match o with
  | .iaddI32 => valAdd f
  | .isubI32 => valSub f
  | .iaddI64 => valAdd f
  | .andB64 => valAnd f
  | .orB64 => valOr f
  | .xorB64 => valXor f
  | .iminI32 => valMin f
  | .imaxI32 => valMax f
  | .faddF32 => valFadd f
  | .fmulF32 => valFmul f
  | .fminF32 => valFmin f
  | .fmaxF32 => valFmax f
  | .faddBf16 => valFadd f
  | .fmulBf16 => valFmul f
  | .faddF16 => valFadd f
  | .fmulF16 => valFmul f
  | .movB64 => valMov f
  | .faddF64 => valFadd f
  | .fmulF64 => valFmul f

/-- A pair of two halves. -/
def runPair (o0 : PairOp) (h0 : PHalf) (o1 : PairOp) (h1 : PHalf) (s : State) : Out :=
  pairOp s (halfFx o0 h0) (halfFx o1 h1) (halfVal o0 (halfFx o0 h0)) (halfVal o1 (halfFx o1 h1))

/-- IADD_I32_P (R258). -/
def execIaddI32P (h0 : PHalf) (op1 : PairOp) (h1 : PHalf) (s : State) : Out := runPair .iaddI32 h0 op1 h1 s

/-- ISUB_I32_P (R258). -/
def execIsubI32P (h0 : PHalf) (op1 : PairOp) (h1 : PHalf) (s : State) : Out := runPair .isubI32 h0 op1 h1 s

/-- IADD_I64_P (R258). -/
def execIaddI64P (h0 : PHalf) (op1 : PairOp) (h1 : PHalf) (s : State) : Out := runPair .iaddI64 h0 op1 h1 s

/-- AND_B64_P (R258). -/
def execAndB64P (h0 : PHalf) (op1 : PairOp) (h1 : PHalf) (s : State) : Out := runPair .andB64 h0 op1 h1 s

/-- OR_B64_P (R258). -/
def execOrB64P (h0 : PHalf) (op1 : PairOp) (h1 : PHalf) (s : State) : Out := runPair .orB64 h0 op1 h1 s

/-- XOR_B64_P (R258). -/
def execXorB64P (h0 : PHalf) (op1 : PairOp) (h1 : PHalf) (s : State) : Out := runPair .xorB64 h0 op1 h1 s

/-- IMIN_I32_P (R258). -/
def execIminI32P (h0 : PHalf) (op1 : PairOp) (h1 : PHalf) (s : State) : Out := runPair .iminI32 h0 op1 h1 s

/-- IMAX_I32_P (R258). -/
def execImaxI32P (h0 : PHalf) (op1 : PairOp) (h1 : PHalf) (s : State) : Out := runPair .imaxI32 h0 op1 h1 s

/-- FADD_F32_P (R258). -/
def execFaddF32P (h0 : PHalf) (op1 : PairOp) (h1 : PHalf) (s : State) : Out := runPair .faddF32 h0 op1 h1 s

/-- FMUL_F32_P (R258). -/
def execFmulF32P (h0 : PHalf) (op1 : PairOp) (h1 : PHalf) (s : State) : Out := runPair .fmulF32 h0 op1 h1 s

/-- FMIN_F32_P (R258). -/
def execFminF32P (h0 : PHalf) (op1 : PairOp) (h1 : PHalf) (s : State) : Out := runPair .fminF32 h0 op1 h1 s

/-- FMAX_F32_P (R258). -/
def execFmaxF32P (h0 : PHalf) (op1 : PairOp) (h1 : PHalf) (s : State) : Out := runPair .fmaxF32 h0 op1 h1 s

/-- FADD_BF16_P (R258). -/
def execFaddBf16P (h0 : PHalf) (op1 : PairOp) (h1 : PHalf) (s : State) : Out := runPair .faddBf16 h0 op1 h1 s

/-- FMUL_BF16_P (R258). -/
def execFmulBf16P (h0 : PHalf) (op1 : PairOp) (h1 : PHalf) (s : State) : Out := runPair .fmulBf16 h0 op1 h1 s

/-- FADD_F16_P (R258). -/
def execFaddF16P (h0 : PHalf) (op1 : PairOp) (h1 : PHalf) (s : State) : Out := runPair .faddF16 h0 op1 h1 s

/-- FMUL_F16_P (R258). -/
def execFmulF16P (h0 : PHalf) (op1 : PairOp) (h1 : PHalf) (s : State) : Out := runPair .fmulF16 h0 op1 h1 s

/-- MOV_B64_P (R258). -/
def execMovB64P (h0 : PHalf) (op1 : PairOp) (h1 : PHalf) (s : State) : Out := runPair .movB64 h0 op1 h1 s

/-- FADD_F64_P (R258). -/
def execFaddF64P (h0 : PHalf) (op1 : PairOp) (h1 : PHalf) (s : State) : Out := runPair .faddF64 h0 op1 h1 s

/-- FMUL_F64_P (R258). -/
def execFmulF64P (h0 : PHalf) (op1 : PairOp) (h1 : PHalf) (s : State) : Out := runPair .fmulF64 h0 op1 h1 s

end Sys2Proof.Machine
end

