-- ==== Sys2Proof/Machine/System.lean ====
section
/-! DEFINITION. Special registers (R52 to R59, R377, R378), code maintenance, service requests and the return from a trap (R379 to
R381), and LAUNCH at its issue (R282). -/

namespace Sys2Proof.Machine

/-! ### Reading a special register (R53, R377) -/

/-- The record of a team's launch. -/
def launchRecord (s : State) (tm : Team) : BitVec 1024 := ((look s.launches tm.launch).map (·.record)).getD 0

/-- TEAMID (R10): the axis is 0, 1 or 2. -/
def teamId (s : State) (tm : Team) (axis : Nat) : Nat :=
  let r := launchRecord s tm
  let gx := lrGridX r
  let gy := lrGridY r
  match axis with
  | 0 => tm.cluster % gx * lrW r + tm.px
  | 1 => tm.cluster / gx % gy * lrH r + tm.py
  | _ => tm.cluster / gx / gy

/-- A special register as one 64-bit word, in the issuing group; a reserved index reads 0 (R52). -/
def specialRead (s : State) (i : Issuer) (x : Nat) : Word :=
  let g := groupNow s i
  let c := coreOf s i.k
  let tm := (teamOf c i.t).getD i.tm
  let r := launchRecord s tm
  let num (n : Nat) : Word := BitVec.ofNat 64 n
  if x = 0x01 then num g.gid
  else if 0x02 ≤ x && x ≤ 0x04 then num (teamId s tm (x - 2))
  else if x = 0x05 then num tm.px
  else if x = 0x06 then num tm.py
  else if x = 0x07 then num (tm.py * lrW r + tm.px)
  else if x = 0x08 then num (lrGridX r)
  else if x = 0x09 then num (lrGridY r)
  else if x = 0x0A then num (lrGridZ r)
  else if x = 0x10 then num (coreNo i.k)
  else if x = 0x11 then num (dieOfCore i.k)
  else if x = 0x12 then num (ctxOf s i.ctx).polder
  else if x = 0x13 then num i.ctx
  else if x = 0x14 then c.ccyc
  else if x = 0x20 then num (vbnd s i.k g.ctx)
  else if x = 0x21 then num (vest s i.k g.ctx)
  else if x = 0x22 then num (vbnd s i.k g.ctx) - num (vest s i.k g.ctx)
  else if x = 0x23 then num g.vmode.toNat
  else if x = 0x24 then tm.vmeas
  else if x = 0x25 then num (tm.saves.toNat * 2 ^ 16 + (if tm.mfence then 2 else 0) + tm.resumed.toNat)
  else if x = 0x30 then num tm.fstat.toNat
  else if x = 0x31 then g.astat
  else if x = 0x32 then num g.trapen.toNat
  else if x = 0x38 then num g.tcause.toNat
  else if x = 0x39 then g.taddr
  else if x = 0x3A then g.tpc
  else if x = 0x3B then num g.tlanes.toNat
  else if 0x40 ≤ x && x ≤ 0x47 then channelWord tm (x - 0x40)
  else if x = 0x50 then g.sclwin
  else if x = 0x51 then g.sclwins
  else if x = 0x60 then g.rngkey
  else if x = 0x61 then g.rngctr
  else if x = 0x70 then num s.device.version.toNat
  else if x = 0x71 then devHash s
  else if 0x80 ≤ x && x ≤ 0x83 then lookD g.watch (x - 0x80) 0
  else if x = 0x84 then g.watchcfg
  else if 0x85 ≤ x && x ≤ 0x88 then num (lookD g.wmask (x - 0x85) 0).toNat
  else 0

/-- Class 1 operations of a group that could still set ASTAT (R54). -/
def astatOpen (c : CoreState) (g : Group) : Bool :=
  c.ops.any (fun e => e.2.uid == g.uid && e.2.gid == g.gid && match e.2.kind with | .vec .. => true | _ => false)

/-- The index that b names (R377, R378). -/
def specialIndex (g : Group) (f : Fx) : Nat := uniformB g f % 256

/-- The plan of an instruction on a special register. -/
def specialPlan (s : State) (f : Fx) (i : Issuer) (m : Mask) (uni : Bool) : Plan :=
  { fxPlan i f m 14 uni with ready := !(specialIndex i.g f == 0x31 && astatOpen (coreOf s i.k) i.g) }

/-- GETSR (R377). Its index is read once the register that holds it has been written (R269, R335). The gauge registers read the value after its own issue (R54). -/
def execGetsr (f : Fx) (s : State) : Out :=
  whenIssuing s (fun i =>
    let late := (coreOf s i.k).ops.any (fun e => e.2.uid == i.g.uid && e.2.gid == i.g.gid && (opS e.2).any (opSNames f.b).contains)
    if i.e.left != 0 && f.d.isS && late then held s
    else if i.e.left != 0 && specialIndex i.g f == 0 && f.d.isS then trapAtIssue s i (encodingTrap i causeIllenc subOpnd)
    else
      (onIssue s f false (fun i m =>
        let x := specialIndex i.g f
        let uni := x != 0 && isFull i.g m
        let p := specialPlan s f i m uni
        passing s i p (fun s =>
          let s := applyReleases s i p
          let after := writeDest s i f.d uni m (fun _ => 0)
          let w := specialRead after i x
          complete (writeDest s i f.d uni m (fun l => if x = 0 then BitVec.ofNat 64 l else w)) i []))).stateOr s)

/-! ### Writing a special register (R52, R54, R378) -/

/-- WATCHCFG as a write leaves it (R59). -/
def watchcfgOf (v : Word) : Word := BitVec.ofNat 64 ((List.range 4).foldl (fun a n => a + watchField (fieldOf v (16 * n) 16) * 2 ^ (16 * n)) 0)

/-- Whether a register has a field that SETSR may write. -/
def specialWritable (x : Nat) : Bool :=
  [0x23, 0x25, 0x30, 0x31, 0x32, 0x3A, 0x50, 0x51, 0x60, 0x61].contains x || (0x80 ≤ x && x ≤ 0x88)

/-- The write of a group register. A change of VMODE restarts the count of refused cycles (R54). -/
def writeGroupReg (g : Group) (x : Nat) (v : Word) : Group :=
  if x = 0x23 then { g with vmode := BitVec.ofNat 1 v.toNat, entries := g.entries.map (fun e => { e with stall := none }) }
  else if x = 0x31 then { g with astat := g.astat &&& ~~~ v }
  else if x = 0x32 then { g with trapen := BitVec.ofNat 2 v.toNat }
  else if x = 0x3A then { g with tpc := v }
  else if x = 0x50 then { g with sclwin := v &&& 0xFFFF_FFFF_FFFF_FFE1, window := none }
  else if x = 0x51 then { g with sclwins := v }
  else if x = 0x60 then { g with rngkey := v }
  else if x = 0x61 then { g with rngctr := v }
  else if 0x80 ≤ x && x ≤ 0x83 then { g with watch := putD g.watch (x - 0x80) 0 v }
  else if x = 0x84 then { g with watchcfg := watchcfgOf v }
  else if 0x85 ≤ x && x ≤ 0x88 then { g with wmask := putD g.wmask (x - 0x85) 0 (BitVec.ofNat 32 v.toNat) }
  else g

/-- The write of a team register: VSTAT.RESUMED and FSTAT are write-1-to-clear. -/
def writeTeamReg (t : Team) (x : Nat) (v : Word) : Team :=
  if x = 0x25 then { t with resumed := t.resumed &&& ~~~ BitVec.ofNat 1 v.toNat }
  else if x = 0x30 then { t with fstat := t.fstat &&& ~~~ BitVec.ofNat 4 v.toNat }
  else t

/-- The write takes effect at issue. -/
def specialWrite (s : State) (i : Issuer) (x : Nat) (v : Word) : State :=
  let s := onIssuing s i (fun g => writeGroupReg g x v)
  onCore s i.k (fun c => { c with teams := alter c.teams i.t (fun t => writeTeamReg t x v) })

/-- The load of a scale window descriptor by the lowest active lane (R58). -/
def windowNeed : Need := { acc := accRead, n := 32 }

/-- SETSR of SCLWIN with V = 1. -/
def setWindow (s : State) (i : Issuer) (p : Plan) (m : Mask) (v : Word) : State :=
  let one := maskOfLanes [lowestLane m]
  let (s2, r) := probe s i i.g windowNeed one (fun _ => v &&& 0xFFFF_FFFF_FFFF_FFE0)
  match r.wait with
  | some n => holdForHost s s2 i n
  | none =>
    finishMem s2 i p windowNeed none one r (fun ok accs => (watchHold (watchTrap s2 i .read accs)).or (some (ok, .accept))) (fun _ s =>
      let parts := r.accs.flatMap (fun a => (List.range 4).map (fun j =>
        { a with reg := j, n := 8, va := a.va + BitVec.ofNat 64 (8 * j), pa := a.pa + 8 * j, ipa := a.ipa + 8 * j }))
      let s := specialWrite s i 0x50 v
      (startOp s i (newOp s i p one (.load .keep parts true))).1)

/-- SETSR (R378). -/
def execSetsr (f : Fx) (s : State) : Out :=
  onIssue s f false (fun i m =>
    let x := specialIndex i.g f
    let v := uniformA i.g f
    let load := x == 0x50 && bitAt v.toNat 0
    let p := specialPlan s f i m true
    let p := { p with
      cls := if load then 2 else 14
      early := if specialWritable x then none else some { cause := causePriv, lanes := m }
      ready := p.ready && !(x == 0x50 && (windowOpen (coreOf s i.k) i.g || (load && fenceOpen (coreOf s i.k) i.g))) }
    passing s i p (fun s => if load then setWindow s i p m v else complete (specialWrite s i x v) i []))

/-! ### ICINV, SYSC, TRET -/

/-- ICINV (R379). -/
def execIcinv (f : Fx) (s : State) : Out :=
  onIssue s f false (fun i m =>
    let p := fencePlan s f i m 14
    passing s i p (fun s =>
      let (va, n) := rangeArgs i.g f
      let w : FenceWhat := match f.modAt 0 2 with
        | 0 => .icinv 0 (BitVec.ofNat 64 (va.toNat / 256 * 256)) 256
        | 1 => .icinv 1 va n
        | _ => .icinv 2 0 0
      complete (startFence s i p m w .nothing).1 i []))

/-- SYSC (R380): the record goes to the polder's queue whatever TRAPMODE says. -/
def execSysc (f : Fx) (s : State) : Out :=
  onIssue s f false (fun i m =>
    let p := fxPlan i f m 14 false
    passing s i p (fun s =>
      let code := BitVec.ofNat 64 (uniformB i.g f % 2 ^ 16)
      complete s i [{ cause := causeTrapi, sub := 1, addr := code, ipa := (uniformC i.g f).toNat, lanes := m, next := true, report := true,
                      toPolder := true }]))

/-- TRET (R381): the active lanes wait; when every lane of TLANES that has not exited has issued a TRET, the service ends. -/
def execTret (f : Fx) (s : State) : Out :=
  onIssue s f true (fun i m =>
    let p : Plan := { cls := 14, active := m, early := if i.g.service.isSome then none else some { cause := causePriv, lanes := m } }
    passing s i p (fun s =>
      let e := issuedAge { i.e with mask := m, hold := .tret, skip := i.len }
      let s := endIssue s i true [e, i.onward (i.others m)] []
      onIssuing s i (fun g =>
        finishService { g with service := g.service.map (fun v => { v with done := v.done ||| (m &&& g.tlanes) }) })))

/-! ### LAUNCH (R282) -/

/-- LAUNCH: the release of FENCE.rel.dev comes first; what follows is in the completions. -/
def execLaunch (f : Fx) (s : State) : Out :=
  onIssue s f false (fun i m =>
    let p := { fencePlan s f i m 13 with sNames := sSrcNames f ++ opSNames f.d }
    passing s i p (fun s =>
      let (s, n) := startFence s i p m (.fence false true 4) (.launch (uniformA i.g f) (f.modAt 0 3))
      completeWait (onOp s i.k n (fun o => { o with dest := .s f.d.num })) i m (.accept [n]) []))

end Sys2Proof.Machine
end

