-- ==== Sys2Proof/Machine/Perform.lean ====
section
/-! DEFINITION. Loads, stores and atomics as they perform (R79, R216 to R218, R225, R332 to R335, R339, R348), and the failure of an
access at its home (R128). -/

namespace Sys2Proof.Machine

/-! ### The order of one group's accesses to one byte (R216) -/

/-- The lane accesses of an operation, and whether it writes. -/
def accsOf (k : OpKind) : List LaneAcc × Bool :=
  match k with
  | .load _ a _ => (a, false)
  | .store _ a _ _ => (a, true)
  | .homeStore a _ => (a, true)
  | .atomic _ _ a => (a, true)
  | .stage _ _ _ elems _ => (elems.map (fun e => { lane := lowestLane e.1, space := .hbm, va := e.2.1, pa := e.2.2.1, n := 4 }), true)
  | _ => ([], false)

/-- The bytes of an access: space kind, first byte, number. A tag access takes its sector. -/
def accSpan (a : LaneAcc) : Nat × Nat × Nat :=
  match a.space with
  | .scratch => (0, a.pa, a.n)
  | .fabric => (1, untag a.va, a.n)
  | _ => if a.n = 0 then (2, a.pa / 64 * 64, 64) else (2, a.pa, a.n)

def spansMeet (x y : Nat × Nat × Nat) : Bool := x.1 == y.1 && x.2.1 < y.2.1 + y.2.2 && y.2.1 < x.2.1 + x.2.2

/-- Whether two operations access one byte, one of them writing it. -/
def opsConflict (a b : OpKind) : Bool :=
  let (xs, w) := accsOf a
  let (ys, w') := accsOf b
  (w || w') && xs.any (fun x => ys.any (fun y => spansMeet (accSpan x) (accSpan y)))

/-- An earlier operation of an operation's group, which its team's save does not set aside (R200). -/
def goesBefore (c : CoreState) (n : Nat) (o : Op) (e : Nat × Op) : Bool :=
  e.1 < n && e.2.uid == o.uid && e.2.gid == o.gid && !setAside c e.2

/-- The bytes that an operation reads at its coordinator or queue, by virtual address: the record of a LAUNCH, the descriptor of a MOPEN. -/
def readsAhead (k : OpKind) : Option (Word × Nat) :=
  match k with
  | .launch a _ | .fence _ _ _ _ _ (.launch a _) => some (a, 128)
  | .mopen a _ => some (a, 64)
  | _ => none

/-- An earlier LAUNCH or MOPEN of the group has still to read bytes of a range. Its address is not translated before it reads, so the two are
compared by virtual address (DEDUCED, log 48). -/
def readFirst (c : CoreState) (n : Nat) (o : Op) (va : Word) (b : Nat) : Bool :=
  c.ops.any (fun e => goesBefore c n o e && (readsAhead e.2.kind).any (fun r => spansMeet (2, untag r.1, r.2) (2, untag va, b)))

/-- An earlier access of the group to the same bytes has still to perform. -/
def mustFollow (c : CoreState) (n : Nat) (o : Op) : Bool :=
  let (xs, w) := accsOf o.kind
  c.ops.any (fun e => goesBefore c n o e && opsConflict e.2.kind o.kind) ||
    w && xs.any (fun x => x.space != .scratch && readFirst c n o x.va x.n)

/-- The same of a range that an operation goes on to read or write: a beat of a copy, the record of a LAUNCH, the descriptor and the
lines of a MOPEN. -/
def rangeFollows (c : CoreState) (n : Nat) (o : Op) (writes : Bool) (span : Nat × Nat × Nat) : Bool :=
  c.ops.any (fun e => goesBefore c n o e &&
    let (xs, w) := accsOf e.2.kind
    (w || writes) && xs.any (fun x => spansMeet (accSpan x) span))

/-- Who makes an access of an operation of core `k`. -/
def Op.source (o : Op) (k : Nat) (a : LaneAcc) : Option Origin :=
  some { core := k, ctx := o.ctx, polder := o.polder, va := a.va, ipa := a.ipa }

/-! ### Scratch bytes (R82) -/

/-- `n` bytes of scratch within one 8-byte word, at bank × 32 KiB + offset. -/
def scratchRead (c : CoreState) (a n : Nat) : Nat :=
  bitsAt (lookD (bankOf c (a / 32768)).words (a % 32768 / 8) 0).toNat (8 * (a % 8)) (8 * n)

def scratchWrite (c : CoreState) (a n v : Nat) : CoreState :=
  let b := a / 32768
  let x := bankOf c b
  let i := a % 32768 / 8
  let w := BitVec.ofNat 64 (overlayBytes (lookD x.words i 0).toNat n (a % 8) (2 ^ n - 1) v)
  setBank c b { x with words := putD x.words i 0 w, bad := if n = 8 then x.bad.filter (· != i) else x.bad }

/-! ### The page heat of accesses (R177) -/

/-- An upper-half access that reaches the L2 is counted. -/
def heatOne (s : State) (k : Nat) (polder : Nat) (a : LaneAcc) : State :=
  if !isUpper a.va || a.space != .hbm then s else countHeat s (homeDie a.pa) (dieOfCore k) polder a.ipa

/-- The accesses of distinct sectors. -/
def perSector (accs : List LaneAcc) : List LaneAcc :=
  accs.foldl (fun l a => if l.any (fun b => b.pa / 64 == a.pa / 64 && b.space == a.space) then l else l ++ [a]) []

/-! ### Loads -/

/-- Whether a load goes to the home, and not through the L1. -/
def loadsHome (c : CoreState) (path : Path) : Bool := path == .home || (cacheBanks c).isEmpty

/-- Whether the L1 has what a load needs. -/
def l1Has (c : CoreState) (ctx : BitVec 10) (a : LaneAcc) : Bool :=
  ((l1Find c ctx a.va).bind (look c.l1)).any (fun l =>
    let x := l1Sector l (sectorIx a.va)
    if a.n = 0 then x.valid || x.tagDirty else holdsBytes x a.va a.n)

/-- The bytes of a load can be had now: a copy of a remote line can be installed (R223). -/
def loadAllowed (s : State) (k : Nat) (o : Op) (path : Path) (accs : List LaneAcc) : Bool :=
  let c := coreOf s k
  accs.all (fun a => a.space != .hbm || (!loadsHome c path && l1Has c o.ctx a) || canFill s (dieOfCore k) a.pa)

/-- The value of a load's bytes, extended. -/
def loadValue (a : LaneAcc) (v : Nat) : Word := if a.sgn then sext (8 * a.n) v else BitVec.ofNat 64 v

/-- What leaves the core before the fill of an access of a load (R81, R218): the context's dirty bytes of a sector that is read beyond the
L1, and the line under another virtual address. -/
def loadFirst (s : State) (k : Nat) (o : Op) (path : Path) (a : LaneAcc) : State :=
  let c := coreOf s k
  if a.space != .hbm then s
  else if loadsHome c path then homeFirst s k o.ctx (.phys (lineOf a.pa)) a.va
  else if (l1Find c o.ctx a.va).isSome then s
  else
    match synonymKey c (.phys (lineOf a.pa)) with
    | some key => evictLine s k key
    | none => s

/-- The data that a load has returned is poisoned (R94). -/
def loadPoison (s : State) (k : Nat) (o : Op) (path : Path) (a : LaneAcc) : Bool :=
  match a.space with
  | .scratch => scratchBadWord (coreOf s k) a.pa a.n
  | .hbm => a.n != 0 && poisonSeen s k o.ctx { acc := accRead, n := a.n, path := path } a.va a.pa
  | _ => false

/-- One access of a load: the state after it, and its value. -/
def loadOne (s : State) (k : Nat) (o : Op) (path : Path) (a : LaneAcc) : State × Word :=
  match a.space with
  | .scratch => (s, loadValue a (scratchRead (coreOf s k) a.pa a.n))
  | .host => (s, loadValue a (homeRead s a.pa a.n))
  | .fabric => (s, 0)
  | .hbm =>
    let d := dieOfCore k
    let far (s : State) : State × Word :=
      let s := homeFirst s k o.ctx (.phys (lineOf a.pa)) a.va
      let s := fillCopy s d a.pa
      (s, if a.n = 0 then BitVec.ofNat 64 (dieTag s d a.pa).toNat else loadValue a (dieRead s d a.pa a.n))
    if loadsHome (coreOf s k) path then far s
    else
      match allocLine s k o.ctx a.va (.phys (lineOf a.pa)) a.ipa with
      | (s, none) => far s
      | (s, some key) =>
        let i := sectorIx a.va
        let s := if l1Has (coreOf s k) o.ctx a then s else fillSector (heatOne s k o.polder.toNat a) k key i
        let s := if path = .pass then markLine s k key false true else s
        let x := ((look (coreOf s k).l1 key).map (fun l => l1Sector l i)).getD {}
        (s, if a.n = 0 then BitVec.ofNat 64 x.tag.toNat else loadValue a (bitsAt x.data.toNat (8 * (a.va.toNat % 64)) (8 * a.n)))

/-- A sector of a load that does not come by the L1: its token and its count at the home. -/
def fetchSector (s : State) (k : Nat) (o : Op) (far : Bool) (a : LaneAcc) : State :=
  match a.space with
  | .host => spendTok s k o.ctx 1
  | .hbm => if far then heatOne (takeSector s k o.ctx a.pa) k o.polder.toNat a else s
  | _ => s

/-- A load asks something of the port: it is not served by scratch and the L1 alone (R205). -/
def loadNeedsPort (s : State) (k : Nat) (o : Op) (path : Path) (accs : List LaneAcc) : Bool :=
  let c := coreOf s k
  accs.any (fun a => a.space == .host || (a.space == .hbm && (loadsHome c path || !l1Has c o.ctx a)))

/-- Every access of a load: the values by lane and register. -/
def loadAll (s : State) (k : Nat) (o : Op) (path : Path) (accs : List LaneAcc) : State × List (LaneAcc × Word) :=
  let far := loadsHome (coreOf s k) path
  let s := (perSector accs).foldl (fun s a => fetchSector s k o far a) s
  let s := if far then s else countEvent s k (some o.ctx) 4 ((perSector accs).filter (fun a => a.space == .hbm && l1Has (coreOf s k) o.ctx a)).length
  accs.foldl (fun r a => let (s, v) := loadOne r.1 k o path a; (s, r.2 ++ [(a, v)])) (s, [])

/-- A load of a launch's team reads bytes of the argument block that software has changed before every team had started: R14 forbids the
change and names no consequence, so that what is read is undefined (R6). -/
def argChanged (s : State) (k uid : Nat) (a : LaneAcc) : Bool :=
  ((findTeam (coreOf s k) uid).bind (fun t => look s.launches t.2.launch)).any (fun l =>
    rangesMeet (lrArgptr l.record).toNat (lrArgsize l.record) a.va.toNat a.n &&
      l.changed.any (fun x => rangesMeet x.1 x.2 a.pa a.n))

/-- The values of a load, those of a changed argument block free (R6, R14). -/
def loadFree (s : State) (k : Nat) (o : Op) (vs : List (LaneAcc × Word)) : State × List (LaneAcc × Word) :=
  vs.foldl (fun r e =>
    if (e.1.space == .hbm || e.1.space == .host) && argChanged r.1 k o.uid e.1 then
      ({ r.1 with fresh := r.1.fresh + 1 }, r.2 ++ [(e.1, loadValue e.1 ((Config.freeValue r.1.fresh).toNat % 2 ^ (8 * e.1.n)))])
    else (r.1, r.2 ++ [e])) (s, [])

/-- The value that a lane's register takes. -/
def valueOf (vs : List (LaneAcc × Word)) (reg l : Nat) : Word :=
  ((vs.find? (fun e => e.1.lane == l && e.1.reg == reg)).map (·.2)).getD 0

/-- The results of an operation reach their names. -/
def deliver (s : State) (n : Nat) (o : Op) (vs : List (LaneAcc × Word)) : State :=
  match o.dest with
  | .none => s
  | .s d => onGroup s o.uid o.gid (fun g => match vs with | e :: _ => setS g d e.2 | [] => g)
  | .v d =>
    onGroup s o.uid o.gid (fun g => (List.range o.regs).foldl (fun g r =>
      lateWrite g (d + r) n (maskOfLanes ((vs.filter (fun e => e.1.reg == r)).map (·.1.lane))) (valueOf vs r)) g)

/-- Poison goes on into the registers that an operation has written (R94): the next read of those lanes raises ECC. -/
def spoilDest (s : State) (n : Nat) (o : Op) (bad : List LaneAcc) : State :=
  if bad.isEmpty then s
  else
    match o.dest with
    | .none => s
    | .s d => onGroup s o.uid o.gid (fun g => { g with badS := d :: g.badS })
    | .v d =>
      onGroup s o.uid o.gid (fun g => (List.range o.regs).foldl (fun g r =>
        let m := maskOfLanes ((bad.filter (·.reg == r)).map (·.lane))
        if m != 0 && awaited g (d + r) n then { g with badV := putD g.badV (d + r) 0 (lookD g.badV (d + r) 0 ||| m) } else g) g)

/-- A scale window descriptor arrives (R58): ECC when it is poisoned (R94), ACCESS when a reserved byte is not 0. -/
def deliverWindow (s : State) (k : Nat) (o : Op) (vs : List (LaneAcc × Word)) (bad : List LaneAcc) : State :=
  let w (j : Nat) : Word := ((vs.find? (fun e => e.1.reg == j)).map (·.2)).getD 0
  if !bad.isEmpty then trapLater s k o { cause := causeEcc, addr := ((bad.head?).map (·.va)).getD 0, lanes := o.lanes, acc := accRead.code }
  else if w 3 != 0 then
    trapLater s k o { cause := causeAccess, addr := ((vs.head?).map (·.1.va)).getD 0, lanes := o.lanes, acc := accRead.code }
  else onGroup s o.uid o.gid (fun g => { g with window := some { eb := w 0, sb := w 1, elen := w 2 } })

/-- Whether a load can return now. -/
def canReturn (s : State) (k n : Nat) : Bool :=
  match opOf s k n with
  | some o => (match o.kind with
    | .load path accs _ => !opLeaves (coreOf s k) o.uid && !mustFollow (coreOf s k) n o && loadAllowed s k o path accs
    | _ => false)
  | none => false

/-- LOAD_RETURN (R216, R335): the value is fixed and written, and the flag retires. -/
def execLoadReturn (k : BitVec 9) (op : Nat) (s : State) : Out :=
  .next (match opOf s k.toNat op with
    | some o => (match o.kind with
      | .load path accs w =>
        if !canReturn s k.toNat op then s
        else if loadNeedsPort s k.toNat o path accs && !portOpen s k.toNat o.ctx (.op op) then portWait s k.toNat o.ctx (.op op)
        else
          -- what must go home first goes, and a fill may then have to wait for it (R218, R223)
          let s := accs.foldl (fun s a => loadFirst s k.toNat o path a) s
          if !loadAllowed s k.toNat o path accs then s
          else
            let (s, vs) := loadAll s k.toNat o path accs
            let (s, vs) := loadFree s k.toNat o vs
            let bad := accs.filter (loadPoison s k.toNat o path)
            let s := if w then deliverWindow s k.toNat o vs bad else spoilDest (deliver s op o vs) op o bad
            finishOp s k.toNat op
      | _ => s)
    | none => s)

/-! ### An access that its home refuses after the handoff (R128) -/

/-- The KIND 4 record, FSTAT.HANDOFF, and all ones in the destination lanes. -/
def handFail (s : State) (k n : Nat) (o : Op) (cause sub acc : Nat) (addr : Word) (lanes : Mask) : State :=
  let r : Rec :=
    { cause := cause, sub := sub, kind := 4, ctx := o.ctx.toNat, polder := o.polder.toNat, acc := acc, pc := o.pc, addr := addr,
      lanes := lanes, core := k, team := o.team, group := o.gid }
  let s := onTeam (reportCtx s r) o.uid (fun t => { t with fstat := t.fstat ||| 8 })
  match o.dest with
  | .v d => onGroup s o.uid o.gid (fun g => lateWrite g d n lanes (fun _ => BitVec.allOnes 64))
  | .s d => onGroup s o.uid o.gid (fun g => setS g d (BitVec.allOnes 64))
  | .none => s

/-- A fault that an operation meets after its issue: the trap in its lanes, which wait for it, or, once a vacate has handed it off, the
failure of R128. -/
def failLater (s : State) (k n : Nat) (o : Op) (tr : Trap) : State :=
  if o.handed then handFail s k n o tr.cause tr.sub tr.acc tr.addr tr.lanes else trapLater s k o tr

/-! ### Stores -/

/-- A sector as STTAG leaves it: filled first unless zeroed, the tag of the address, every byte dirty (R348). -/
def tagStore (s : State) (k key : Nat) (ctx : BitVec 10) (z : Bool) (a : LaneAcc) : State :=
  let i := sectorIx a.va
  let s := if z then s else fillSector (heatOne s k (ctxOf s ctx.toNat).polder a) k key i
  onCore s k (fun c => { c with l1 := alter c.l1 key (fun l =>
    let x := l1Sector l i
    setSector l i { x with valid := true, tag := vaTag a.va, dirty := BitVec.allOnes 64, tagDirty := true, poison := false,
                           data := if z then 0 else x.data }) })

/-- A store at the home, as the core's die makes it (R209, R218). -/
def storeHome (s : State) (k n : Nat) (o : Op) (tagSet : Option Bool) (a : LaneAcc) : State :=
  let d := dieOfCore k
  let s := homeFirst s k o.ctx (.phys (lineOf a.pa)) a.va
  if !memGrants s o.polder.toNat a.pa 1 then handFail s k n o causeAccess 0 accWrite.code a.va (maskOfLanes [a.lane])
  else
    let s := if isUpper a.va then markWritten s (homeDie a.pa) o.polder.toNat a.ipa else s
    match tagSet with
    | none => dieWrite s d a.pa a.n (2 ^ a.n - 1) a.data.toNat none (o.source k a)
    | some z =>
      let s := if z then s else fillCopy s d a.pa
      dieWrite s d a.pa 64 (2 ^ 64 - 1) (if z then 0 else dieRead s d a.pa 64) (some (vaTag a.va)) (o.source k a)

/-- One access of a store. -/
def storeOne (s : State) (k n : Nat) (o : Op) (path : Path) (tagSet : Option Bool) (a : LaneAcc) : State :=
  match a.space with
  | .scratch => onCore s k (fun c => scratchWrite c a.pa a.n a.data.toNat)
  | .host => homeWrite s a.pa a.n a.data.toNat
  | .fabric | .hbm =>
    let home : LineHome := if a.space = .fabric then .fabric else .phys (lineOf a.pa)
    match allocLine s k o.ctx a.va home a.ipa with
    | (s, none) =>
      if a.space = .fabric then
        let off := a.va.toNat % 64
        sendOff s k { ctx := o.ctx, polder := o.polder, va := BitVec.ofNat 64 (a.va.toNat / 64 * 64), home := .fabric,
                      mask := BitVec.ofNat 64 ((2 ^ a.n - 1) * 2 ^ off), tag := vaTag a.va, tagDirty := false,
                      data := BitVec.ofNat 512 (a.data.toNat * 2 ^ (8 * off)) }
      else storeHome s k n o tagSet a
    | (s, some key) =>
      let s := markLine s k key true (path = .pass)
      match tagSet with
      | some z => tagStore s k key o.ctx z a
      | none => storeSector s k key (sectorIx a.va) (a.va.toNat % 64) a.n a.data.toNat

/-- Whether a store can perform now; one that fills its sectors waits for the fill, and one that goes home for the replies of the
atomics to its lines. -/
def canPerform (s : State) (k n : Nat) : Bool :=
  let d := dieOfCore k
  match opOf s k n with
  | some o => !mustFollow (coreOf s k) n o && (match o.kind with
    | .store path accs tagSet _ =>
      (tagSet != some false || accs.all (fun a => canFill s d a.pa)) &&
        (!(loadsHome (coreOf s k) path) || accs.all (fun a => a.space != .hbm || lineFree s d a.pa))
    | .homeStore accs tagSet => accs.all (fun a => lineFree s d a.pa && (tagSet != some false || canFill s d a.pa))
    | _ => false)
  | none => false

/-- The L1 sector hits and misses of a store (R212): a sector that the L1 holds, whole or by dirty bytes, is hit, DESIGN CHOICE, log 42. A
miss that fills counts with its fill. -/
def countStore (s : State) (k : Nat) (o : Op) (path : Path) (tagSet : Option Bool) (accs : List LaneAcc) : State :=
  let c := coreOf s k
  if loadsHome c path then s
  else
    let as := (accs.filter (fun a => a.space == .hbm || a.space == .fabric)).foldl (fun l a => if l.any (fun b => b.va.toNat / 64 == a.va.toNat / 64) then l else l ++ [a]) []
    let hit (a : LaneAcc) : Bool := ((l1Find c o.ctx a.va).bind (look c.l1)).any (fun l =>
      let x := l1Sector l (sectorIx a.va)
      x.valid || x.isDirty)
    let s := countEvent s k (some o.ctx) 4 (as.filter hit).length
    if tagSet == some false then s else countEvent s k (some o.ctx) 5 (as.filter (fun a => !hit a)).length

/-- A store asks something of the port at once: it is made at the home (R205). What one in the L1 evicts or fills is owed. -/
def storeNeedsPort (kind : OpKind) : Bool :=
  match kind with
  | .homeStore .. => true
  | _ => false

/-- A store performs (R216, R335). -/
def performStore (s : State) (k n : Nat) : State :=
  match opOf s k n with
  | some o =>
    if !canPerform s k n then s
    else if storeNeedsPort o.kind && !portOpen s k o.ctx (.op n) then portWait s k o.ctx (.op n)
    else
      (match o.kind with
      | .store path accs tagSet _ =>
        finishOp (accs.foldl (fun s a => storeOne s k n o path tagSet a) (countStore s k o path tagSet accs)) k n
      | .homeStore accs tagSet =>
        let s := (perSector accs).foldl (fun s a => heatOne (takeSector s k o.ctx a.pa) k o.polder.toNat a) s
        finishOp (accs.foldl (fun s a => match a.space with
          | .host => homeWrite s a.pa a.n a.data.toNat
          | _ => storeHome s k n o tagSet a) s) k n
      | _ => s)
  | none => s

/-- The accesses that an operation has still to make. -/
def accsLeft (s : State) (k n : Nat) : List LaneAcc := ((opOf s k n).map (fun o => (accsOf o.kind).1)).getD []

/-- The bytes of memory that an event of an operation has written, or sent to their home. -/
def wroteSpans (s t : State) (k n : Nat) : List (Nat × Nat) :=
  memSpans ((accsLeft s k n).filter (fun a => !(accsLeft t k n).contains a))

/-- A store performs, and what it wrote is noted for the launches that have teams to start (R14). -/
def storeNoted (s : State) (k n : Nat) : State :=
  let t := performStore s k n
  noteArgs t (wroteSpans s t k n)

/-- STORE_PERFORM (R335). -/
def execStorePerform (k : BitVec 9) (op : Nat) (s : State) : Out := .next (storeNoted s k.toNat op)

/-! ### Atomics (R225, R339) -/

/-- An old value as it goes into a lane's register: whole, or into its half of the word that is there (R402). -/
def atomicValue (all : List LaneAcc) (pa : Nat) (old v : Word) : Word :=
  if all.any (fun x => x.pa == pa && x.n == 2) && v != BitVec.allOnes 64 then setField (BitVec.ofNat 64 (fieldOf old 0 32)) (8 * (pa % 4)) 16 v.toNat
  else v

/-- The old values of a location's lanes arrive, poisoned or not (R94), and its port tracker entry frees, that of a packed word with its
second half; the last ends the operation. -/
def atomicReply (s : State) (k n pa : Nat) (vals : List (Nat × Word)) (bad : Bool) : State :=
  match opOf s k n with
  | none => s
  | some o =>
    match o.kind with
    | .atomic op t all =>
      let s := match o.dest with
        | .v d => onGroup s o.uid o.gid (fun g =>
            lateWrite g d n (maskOfLanes (vals.map (·.1)))
              (fun l => atomicValue all pa (vLane g d l) (((vals.find? (fun e => e.1 == l)).map (·.2)).getD 0)))
        | _ => s
      let s := spoilDest s n o (if bad then all.filter (·.pa == pa) |>.map (fun x => { x with reg := 0 }) else [])
      let rest := all.filter (fun x => x.pa != pa)
      if rest.isEmpty then finishOp s k n
      else onOp s k n (fun o => { o with tracker := if rest.any (fun x => x.pa / 4 == pa / 4) then o.tracker else o.tracker - 1,
                                         kind := .atomic op t rest })
    | _ => s

/-- The read-modify-write of one location at its home, made by die `w`: the old values. -/
def atomicAt (s : State) (w : Nat) (op : Nat) (t : Ty) (accs : List LaneAcc) (org : Option Origin := none) : State × List (Nat × Word) :=
  match accs with
  | [] => (s, [])
  | a :: _ =>
    let (vals, new) := atomicLanes op t (homeRead s a.pa a.n) accs
    (dieWrite s w a.pa a.n (2 ^ a.n - 1) new none org, vals)

/-- One location of an atomic, its lanes marked when it is under way: at once when its home is this die, else stamped and sent to its home (R209). -/
def atomicLocation (s : State) (k n : Nat) (o : Op) (op : Nat) (t : Ty) (accs : List LaneAcc) : State :=
  match accs with
  | [] => s
  | a :: _ =>
    let d := dieOfCore k
    let s := accs.foldl (fun s a => homeFirst s k o.ctx (.phys (lineOf a.pa)) a.va) s
    if !lineFree s d a.pa then s
    else if !memGrants s o.polder.toNat a.pa 2 then
      let s := handFail s k n { o with dest := .none } causeAccess 0 accAtomic.code a.va (maskOfLanes (accs.map (·.lane)))
      -- both halves of a packed word fail as one
      (if a.n = 2 then [a.pa / 4 * 4, a.pa / 4 * 4 + 2] else [a.pa]).foldl (fun s pa =>
        atomicReply s k n pa (accs.map (fun x => (x.lane, BitVec.allOnes 64))) false) s
    else
      let s := heatOne (takeSector s k o.ctx a.pa) k o.polder.toNat a
      let s := if isUpper a.va then markWritten s (homeDie a.pa) o.polder.toNat a.ipa else s
      if isHostWindow a.pa || homeDie a.pa = d then
        let bad := isPoisoned s a.pa
        let (s, vals) := atomicAt s d op t accs (o.source k a)
        atomicReply s k n a.pa vals bad
      else
        let (s, stamp) := stampClock s d (lineOf a.pa)
        let s := let x := dieOf s d; setDie s d { x with awaiting := lineOf a.pa :: x.awaiting }
        let s := sendLink s d (homeDie a.pa) (.atomic (BitVec.ofNat 2 d) stamp a.pa k n accs (o.source k a))
        onOp s k n (fun o => match o.kind with
          | .atomic op t all => { o with kind := .atomic op t (all.map (fun x => if x.pa = a.pa then { x with reg := 1 } else x)) }
          | _ => o)

/-- Whether an atomic can be performed now. -/
def canAtomic (s : State) (k n : Nat) : Bool :=
  match opOf s k n with
  | some o => (match o.kind with
    | .atomic _ _ accs => accs.any (fun a => a.reg == 0 && lineFree s (dieOfCore k) a.pa) && !mustFollow (coreOf s k) n o
    | _ => false)
  | none => false

/-- The locations of an atomic that an event performs: all that are left, but of packed words one half at a time, so that another agent's
operation may fall between the halves (R225, R402). -/
def atomicTodo (accs : List LaneAcc) : List LaneAcc :=
  let l := accs.filter (fun a => a.reg == 0)
  l.filter (fun a => a.n != 2 || a.pa % 4 == ((l.head?).map (·.pa % 4)).getD 0)

/-- The locations of an atomic. -/
def performAtomic (s : State) (k n : Nat) : State :=
  match opOf s k n with
  | some o =>
    (match o.kind with
    | .atomic op t accs =>
      if !canAtomic s k n then s
      else if !portOpen s k o.ctx (.op n) then portWait s k o.ctx (.op n)
      else
        let todo := atomicTodo accs
        ((todo.map (·.pa)).eraseDups).foldl (fun s pa => atomicLocation s k n o op t (todo.filter (fun a => a.pa == pa))) (portLeave s k (.op n))
    | _ => s)
  | none => s

/-- Locations of an atomic perform, and what was written is noted (R14). -/
def atomicNoted (s : State) (k n : Nat) : State :=
  let t := performAtomic s k n
  noteArgs t (wroteSpans s t k n)

/-- ATOMIC_PERFORM (R339). -/
def execAtomicPerform (k : BitVec 9) (op : Nat) (s : State) : Out := .next (atomicNoted s k.toNat op)

end Sys2Proof.Machine
end

