-- ==== Sys2Proof/Machine/Engines.lean ====
section
/-! DEFINITION. What the engines of a core complete: vector results, matrix operations, copies, bank switches and FIFO operations
(R75, R76, R83, R92, R123, R124, R127, R191, R359). -/

namespace Sys2Proof.Machine

/-! ### Vector results (R191) -/

/-- The value of a lane of a class 1 result. -/
def laneValue (ws : List (Nat × Word)) (l : Nat) : Word := ((ws.find? (fun e => e.1 == l)).map (·.2)).getD 0

/-- A class 1 result is written. -/
def performVector (s : State) (k n : Nat) : State :=
  match opOf s k n with
  | none => s
  | some o =>
    match o.kind with
    | .vec ws uni =>
      let m := maskOfLanes (ws.map (·.1))
      let s := match o.dest with
        | .v d => onGroup s o.uid o.gid (fun g =>
            if awaited g d n then writeName g d uni (if uni then m else m &&& liveLanes g) (laneValue ws) else g)
        | .s d => onGroup s o.uid o.gid (fun g => setS g d (laneValue ws (lowestLane m)))
        | .none => s
      finishOp s k n
    | _ => s

/-- VECTOR_RESULT_WRITE (R191). -/
def execVectorResultWrite (k : BitVec 9) (op : Nat) (s : State) : Out := .next (performVector s k.toNat op)

/-! ### Matrix operations (R359, R360) -/

/-- An earlier matrix operation of the group on the same accumulator is still in flight. -/
def behindMatrix (c : CoreState) (n : Nat) (o : Op) (d : Nat) : Bool :=
  c.ops.any (fun e => e.1 < n && e.2.uid == o.uid && e.2.gid == o.gid &&
    match e.2.kind with | .mma _ _ _ d' _ _ _ _ _ => d' == d | _ => false)

/-- The accumulator's names take their values; operands overwritten too early leave free values. -/
def writeMatrix (s : State) (n : Nat) (o : Op) (wide z : Bool) (fmt : BitVec 16) (d : Nat) (av bv cv : List (List Word)) (poisoned : Bool) :
    State :=
  let fresh := s.fresh
  let val (g : Group) (r l : Nat) : Word :=
    if poisoned then Config.freeValue (fresh + 32 * r + l)
    else
      match formatType fmt with
      | some t => matLane t wide z av bv cv (vLane g (d + r) l) r l
      | none => Config.freeValue (fresh + 32 * r + l)
  let s := { s with fresh := fresh + 1024 }
  onGroup s o.uid o.gid (fun g =>
    (List.range 32).foldl (fun g' r => lateWrite g' (d + r) n (BitVec.allOnes 32) (val g r)) g)

/-- A matrix operation writes its accumulator. -/
def performMatrix (s : State) (k n : Nat) : State :=
  match opOf s k n with
  | none => s
  | some o =>
    match o.kind with
    | .mma wide z fmt d av bv cv _ poisoned =>
      if behindMatrix (coreOf s k) n o d then s else finishOp (writeMatrix s n o wide z fmt d av bv cv poisoned) k n
    | _ => s

/-- MMA_COMPLETE (R359). -/
def execMmaComplete (k : BitVec 9) (op : Nat) (s : State) : Out := .next (performMatrix s k.toNat op)

/-! ### Copies (R92, R123, R124) -/

/-- A change of a channel of a team, wherever it is. -/
def onChannel (s : State) (uid ch : Nat) (f : Channel → Channel) : State :=
  onTeam s uid (fun t => { t with chans := put t.chans ch (f (channelOf t ch)) })

/-- The slot and the words of a FIFO that a copy still has reserved; none once the bank has changed its mode (R76). -/
def reservedBy (o : Op) : Option (Nat × Nat) :=
  match o.kind with
  | .copy _ _ 2 _ da len done _ => if o.lost.contains da.toNat then none else some (da.toNat, (len - done) / 8)
  | _ => none

/-- Words that a copy still has reserved in its FIFO are given back. R124 and R127 take
the words at acceptance and name no return; a copy that stops or is discarded will not write them (DESIGN CHOICE, log 18). -/
def giveBack (s : State) (k : Nat) (o : Op) : State :=
  match reservedBy o with
  | some (slot, n) => onCore s k (fun c =>
      match (findTeam c o.uid).bind (fun t => bankOfSlot c t.1 slot) with
      | some b => setBank c b { bankOf c b with reserved := (bankOf c b).reserved - n }
      | none => c)
  | none => s

/-- A copy stops (R124): STOP, the position at the last delivered byte, and every copy queued behind it is discarded. -/
def stopCopy (s : State) (k n : Nat) : State :=
  match opOf s k n with
  | none => s
  | some o =>
    match o.kind with
    | .copy ch _ _ _ _ _ done _ =>
      let s := onChannel s o.uid ch (fun c => { c with pos := c.pos + (done - copyCounted o), stop := true })
      (channelOps (coreOf s k) o.uid ch).foldl (fun s e => finishOp (giveBack s k e.2) k e.1) s
    | _ => s

/-- What one side of a beat meets: its physical address, a fault, a page that its writes wait for, or another wait. -/
inductive Side where
  | at_ (pa ipa : Nat)
  | bad (f : XFault)
  | park (ipa : Nat)
  | wait
  deriving DecidableEq, Repr

/-- The bytes of the next beat (R92): 64, less at the copy's end and at a page boundary of either range in memory. -/
def beatLen (fromScratch : Bool) (dst : Nat) (sa da : Word) (len done : Nat) : Nat :=
  let left (a : Word) : Nat := 4096 - (a.toNat + done) % 4096
  let n := min 64 (len - done)
  let n := if fromScratch then n else min n (left sa)
  if dst = 0 then min n (left da) else n

/-- The sectors of a range of a page, by offset from its first byte. -/
def beatSectors (pa n : Nat) : List Nat :=
  let first := pa / 64
  let last := (pa + n - 1) / 64
  if first = last then [pa] else [pa, last * 64]

/-- A tag of the sectors of a range that differs from an address's. -/
def tagDiffers (s : State) (pa n : Nat) (va : Word) : Bool := (beatSectors pa n).any (fun a => memTag s a != vaTag va)

/-- The context's dirty bytes of a range leave the L1 first (R218). -/
def rangeFirst (s : State) (k : Nat) (ctx : BitVec 10) (pa : Nat) (va : Word) (n : Nat) : State :=
  [0, n - 1].foldl (fun s j => homeFirst s k ctx (.phys (lineOf (pa + j))) (va + BitVec.ofNat 64 j)) s

/-- One memory side of a beat: translation and target rights. Neither side may be the host window (R328). -/
def memSide (s : State) (k : Nat) (o : Op) (va : Word) (acc : Acc) : State × Side :=
  match translate s k o.ctx va acc with
  | (s, .fault f) => (s, match f.hold with
    | .none => .bad f
    | .page ipa => .park ipa
    | _ => .wait)
  | (s, .wait _) => (s, .wait)
  | (s, .ok pa ipa) =>
    if isHostWindow pa then (s, .bad { cause := causeAccess, sub := subSpace })
    else if !memGrants s o.polder.toNat pa (if acc.writes then 1 else 0) then (s, .bad { cause := causeAccess })
    else (s, .at_ pa ipa)

/-- The place of a scratch offset of an operation's team. -/
def scratchAt (c : CoreState) (o : Op) (a : Nat) : Nat :=
  match (findTeam c o.uid).bind (fun t => bankOfSlot c t.1 (a / 32768)) with
  | some b => b * 32768 + a % 32768
  | none => 0

/-- The places of the words of a scratch range. -/
def scratchPlaces (c : CoreState) (o : Op) (a n : Nat) : List Nat := (List.range (n / 8)).map (fun j => scratchAt c o (a + 8 * j))

/-- A scratch side of a beat: BANK when a slot of it is not in SCRATCH mode or has changed its mode since the copy issued (R76), ECC
when a source word is poisoned (R94). -/
def scratchSide (c : CoreState) (o : Op) (a : Word) (n : Nat) (source : Bool) : Side :=
  match findTeam c o.uid with
  | none => .wait
  | some (t, tm) =>
    if scratchBad c t tm a.toNat n || (scratchSlots a.toNat n).any o.lost.contains then .bad { cause := causeBank }
    else if source && (scratchPlaces c o a.toNat n).any (fun p => (bankOf c (p / 32768)).bad.contains (p % 32768 / 8)) then .bad { cause := causeEcc }
    else .at_ a.toNat 0

/-- The FIFO side of a beat: BANK when the slot has left FIFO mode, be it for a time (R76). -/
def fifoSide (c : CoreState) (o : Op) (slot : Nat) : Side :=
  match findTeam c o.uid with
  | none => .wait
  | some (t, tm) => if slotIn c t tm .fifo slot && !o.lost.contains slot then .at_ 0 0 else .bad { cause := causeBank }

/-- Bytes of scratch, as 8-byte words. -/
def scratchBytes (c : CoreState) (o : Op) (a : Nat) : Nat → Nat
  | 0 => 0
  | n + 1 => scratchRead c (scratchAt c o a) 8 + 2 ^ 64 * scratchBytes c o (a + 8) n

def putScratch (c : CoreState) (o : Op) (a : Nat) : Nat → Nat → CoreState
  | 0, _ => c
  | n + 1, v => putScratch (scratchWrite c (scratchAt c o a) 8 (v % 2 ^ 64)) o (a + 8) n (v / 2 ^ 64)

/-- The home of a range answers a beat of a core: every write to its lines that the core's die knows of, its own among them, has reached
it, and no reply for them is due (R209, R222, R223). -/
def homeAnswers (s : State) (k pa n : Nat) : Bool :=
  let d := dieOfCore k
  (beatSectors pa n).all (fun a => lineFree s d a && (homeDie a == d || !homeLacks s d a (fun _ _ => false)))

/-- Bytes written to memory by a copy, at most two sectors. -/
def beatWrite (s : State) (k : Nat) (o : Op) (va : Word) (ipa pa n v : Nat) : State :=
  let d := dieOfCore k
  let n1 := min n (64 - pa % 64)
  let org (j : Nat) : Option Origin := some { core := k, ctx := o.ctx, polder := o.polder, va := va + BitVec.ofNat 64 j, ipa := ipa + j }
  let s := dieWrite s d pa n1 (2 ^ n1 - 1) (v % 2 ^ (8 * n1)) none (org 0)
  if n1 = n then s else dieWrite s d (pa + n1) (n - n1) (2 ^ (n - n1) - 1) (v / 2 ^ (8 * n1)) none (org n1)

/-- Where a destination word of a beat lies in the source range of its copy (R341): `at_` is the place of the word. -/
def inSource (fs : Bool) (dst : Nat) (sa : Word) (len : Nat) (at_ : Word) : Bool :=
  let base (a : Word) : Nat := if fs then a.toNat else untag a
  (if fs then dst == 1 else dst == 0) && base sa ≤ base at_ && base at_ < base sa + len

/-- The value of a beat of `b` bytes: words that lie in both ranges of the copy are undefined (R341). -/
def overlapped (s : State) (fs : Bool) (dst : Nat) (sa da : Word) (len done b v : Nat) : State × Nat :=
  let js := (List.range (b / 8)).filter (fun j => inSource fs dst sa len (da + BitVec.ofNat 64 (done + 8 * j)))
  if js.isEmpty then (s, v)
  else ({ s with fresh := s.fresh + 8 }, js.foldl (fun v j => overlayBytes v 8 (8 * j) 0xFF (Config.freeValue (s.fresh + j)).toNat) v)

/-- Words appended to a FIFO by a copy, out of its reservation. -/
def appendFifo (c : CoreState) (o : Op) (slot n v : Nat) : CoreState :=
  match (findTeam c o.uid).bind (fun t => bankOfSlot c t.1 slot) with
  | some b =>
    let x := bankOf c b
    let ws := (List.range (n / 8)).map (fun i => BitVec.ofNat 64 (bitsAt v (64 * i) 64))
    setBank c b { x with queue := x.queue ++ ws, reserved := x.reserved - n / 8 }
  | none => c

/-- The record of a copy's fault (R124, R131), and what the channel does. -/
def copyFail (s : State) (k n : Nat) (o : Op) (ch done : Nat) (f : XFault) (va : Word) (acc : Acc) : State :=
  let x := f.cause == causeXlate || f.cause == causeXlate2 || f.cause == causeWalk2
  let p := f.cause == causeXlate2 || f.cause == causeWalk2
  let tm := findTeam (coreOf s k) o.uid
  let held := (tm.map (fun t => (channelOf t.2 ch).pos)).getD 0
  let pos := if x then held else held + (done - copyCounted o)
  let r : Rec :=
    { cause := f.cause, sub := f.sub, kind := 1, level := f.level, ctx := o.ctx.toNat, polder := o.polder.toNat, acc := acc.code, pc := o.pc,
      addr := va, ipa := if p then f.ipa else 0, lanes := BitVec.ofNat 32 ch, core := k, team := o.team, group := o.gid,
      mask := BitVec.ofNat 64 pos }
  if x then
    let (s, t) := writeResumable s p r
    onOp s k n (fun o => match o.kind with
      | .copy c fs d sa da len done _ => { o with kind := .copy c fs d sa da len done (some t) }
      | _ => o)
  else stopCopy (reportCtx s r) k n

/-- Tag mismatches of a beat (R67, R92): a stop in trap mode, a KIND 3 record in report mode. -/
def beatTags (s : State) (k n : Nat) (o : Op) (ch done : Nat) (va : Word) (acc : Acc) (bad : Bool) : State × Bool :=
  if !bad || o.tagmode = 0 then (s, true)
  else if o.tagmode = 2 then (copyFail (countTagTrap s o.ctx.toNat 1) k n o ch done { cause := causeTag } va acc, false)
  else
    let r : Rec :=
      { cause := causeTag, kind := 3, ctx := o.ctx.toNat, polder := o.polder.toNat, acc := acc.code, pc := o.pc, addr := va, core := k,
        team := o.team, group := o.gid }
    (reportCtx (countTagReport s o.ctx.toNat 1) r, true)

/-- The bytes of a beat are delivered: the position advances at 32-byte boundaries of the copy and at its end. -/
def delivered (s : State) (k n : Nat) (o : Op) (ch b : Nat) : State :=
  match o.kind with
  | .copy _ fs d sa da len done _ =>
    let o' := { o with kind := .copy ch fs d sa da len (done + b) none }
    let s := onChannel s o.uid ch (fun c => { c with pos := c.pos + (copyCounted o' - copyCounted o) })
    onOp (countEvent s k (some o.ctx) 9 (ceilDiv (copyCounted o' - copyCounted o) 32)) k n (fun _ => o')
  | _ => s

/-- An access of the group that is earlier than the copy has still to perform at one side of its beat (R216). -/
def sideFollows (c : CoreState) (n : Nat) (o : Op) (scratch writes : Bool) (va : Word) (a b : Nat) : Bool :=
  if scratch then (scratchPlaces c o a b).any (fun p => rangeFollows c n o writes (0, p, 8))
  else rangeFollows c n o writes (2, a, b) || writes && readFirst c n o va b

/-- The sectors of a memory side of a beat are counted at their homes (R177). -/
def beatHeat (s : State) (k : Nat) (o : Op) (pa ipa b : Nat) : State :=
  (beatSectors pa b).foldl (fun s a => countHeat s (homeDie a) (dieOfCore k) o.polder.toNat ipa) s

/-- Whether the copy is the first of its channel and can move. -/
def canBeat (s : State) (k n : Nat) : Bool :=
  match opOf s k n with
  | some o => (match o.kind with
    | .copy ch _ _ _ _ len done none => done < len && (channelOps (coreOf s k) o.uid ch).head?.map (·.1) == some n
    | _ => false)
  | none => false

/-- One beat of a copy: the source side, the destination side, the tags, and the bytes. -/
def performBeat (s : State) (k n : Nat) : State :=
  match opOf s k n with
  | none => s
  | some o =>
    match o.kind with
    | .copy ch fs dst sa da len done none =>
      if !canBeat s k n then s
      else if !(fs && dst != 0) && !portOpen s k o.ctx (.op n) then portWait s k o.ctx (.op n)
      else
        let s := portLeave s k (.op n)
        let s0 := s
        let b := beatLen fs dst sa da len done
        let src := sa + BitVec.ofNat 64 done
        let dest := da + BitVec.ofNat 64 done
        let (s, x) := if fs then (s, scratchSide (coreOf s k) o src b true) else memSide s k o src accRead
        match x with
        | .wait => s
        | .park ipa => onOp s k n (fun o => { o with page := some ipa })
        | .bad f => copyFail s k n o ch done f src accRead
        | .at_ a ipa =>
          let (s, y) := match dst with
            | 0 => memSide s k o dest accCopyDst
            | 1 => (s, scratchSide (coreOf s k) o dest b false)
            | _ => (s, fifoSide (coreOf s k) o da.toNat)
          match y with
          | .wait => s
          | .park ipa => onOp s k n (fun o => { o with page := some ipa })
          | .bad f => copyFail s k n o ch done f dest accCopyDst
          | .at_ a' ipa' =>
            if sideFollows (coreOf s k) n o fs false src a b || dst != 2 && sideFollows (coreOf s k) n o (dst == 1) true dest a' b then s0
            else
            let s := if fs then s else rangeFirst s k o.ctx a src b
            let s := if dst = 0 then rangeFirst s k o.ctx a' dest b else s
            if !(fs || homeAnswers s k a b) || !(dst != 0 || homeAnswers s k a' b) then s
            -- the group's own stores have gone before, and may have cleared it (R94, R218)
            else if !fs && (beatSectors a b).any (isPoisoned s) then copyFail s k n o ch done { cause := causeEcc } src accRead
            else
              let (s, go) := beatTags s k n o ch done src accRead (!fs && tagDiffers s a b src)
              if !go then s
              else
                let (s, go) := beatTags s k n o ch done dest accCopyDst (dst = 0 && tagDiffers s a' b dest)
                if !go then s
                else
                  let s := if fs || !isUpper src then s else beatHeat s k o a ipa b
                  let s := if dst = 0 && isUpper dest then markWritten (beatHeat s k o a' ipa' b) (homeDie a') o.polder.toNat ipa' else s
                  let v := if fs then scratchBytes (coreOf s k) o a (b / 8) else homeRead s a b
                  let s := ((if fs then [] else beatSectors a b) ++ (if dst = 0 then beatSectors a' b else [])).foldl (fun s x => takeSector s k o.ctx x) s
                  let (s, v) := overlapped s fs dst sa da len done b v
                  let s := match dst with
                    | 0 => noteArgs (beatWrite s k o dest ipa' a' b v) [(a', b)]
                    | 1 => onCore s k (fun c => putScratch c o a' (b / 8) v)
                    | _ => onCore s k (fun c => appendFifo c o da.toNat b v)
                  delivered s k n o ch b
    | _ => s

/-- COPY_BEAT (R92). -/
def execCopyBeat (k : BitVec 9) (op : Nat) (s : State) : Out := .next (performBeat s k.toNat op)

/-- A copy that has delivered its last byte ends. -/
def finishCopy (s : State) (k n : Nat) : State :=
  match opOf s k n with
  | some o => (match o.kind with
    | .copy _ _ _ _ _ len done _ => if done = len then finishOp s k n else s
    | _ => s)
  | none => s

/-- COPY_COMPLETE (R123). -/
def execCopyComplete (k : BitVec 9) (op : Nat) (s : State) : Out := .next (finishCopy s k.toNat op)

/-! ### Bank switches (R75, R76) -/

/-- An operation accesses a bank of scratch. -/
def touchesBank (o : Op) (b : Nat) : Bool := (accsOf o.kind).1.any (fun a => a.space == .scratch && a.pa / 32768 == b)

/-- A write-back of a line of a CACHE bank is on its way, or refused. -/
def wbOfBank (c : CoreState) (b : Nat) : Bool :=
  c.wbs.any (fun e => !e.2.sent && (l1Holding c e.2.ctx e.2.home e.2.va).any (fun key => key / 128 == b))

/-- A copy names a slot of scratch or of a FIFO. -/
def copyUses (o : Op) (slot : Nat) : Bool :=
  match o.kind with
  | .copy _ fs dst sa da len _ _ =>
    (fs && (scratchSlots sa.toNat len).contains slot) || (dst == 1 && (scratchSlots da.toNat len).contains slot) || (dst == 2 && da.toNat == slot)
  | _ => false

/-- A slot of a team has changed its mode: BANK for what is left of the copies that name it (R76). -/
def loseSlot (c : CoreState) (x : Bank) : CoreState :=
  { c with ops := c.ops.map (fun e =>
      if (teamOf c x.owner).any (fun t => t.uid == e.2.uid) && copyUses e.2 x.slot then (e.1, { e.2 with lost := x.slot :: e.2.lost }) else e) }

/-- A bank in its new mode: former contents are gone (R75). -/
def switchBank (s : State) (k b : Nat) (target : BankMode) : State :=
  let x := bankOf (coreOf s k) b
  if x.mode = target then s
  else
    let s := onCore s k (fun c => loseSlot c x)
    let s := if x.mode = .cache then emptyWay s k b else s
    onCore s k (fun c => setBank c b { mode := target, owner := x.owner, slot := x.slot, lent := target == .cache, home := x.home })

/-! ### FIFO operations (R83, R127) -/

/-- The first operation of a slot that is not accepted. -/
def fifoHead (c : CoreState) (uid slot : Nat) : Option Nat :=
  (c.ops.find? (fun e => e.2.uid == uid && fifoSlot e.2 == some slot)).map (·.1)

/-- The bank of an operation's slot. -/
def fifoBank (c : CoreState) (o : Op) (slot : Nat) : Option Nat := (findTeam c o.uid).bind (fun t => bankOfSlot c t.1 slot)

/-- A FIFO operation that fails: its lanes return to the instruction with the trap. -/
def fifoTrap (s : State) (k n : Nat) (o : Op) (cause sub : Nat) : State :=
  finishOp (trapLater s k o { cause := cause, sub := sub, lanes := o.lanes }) k n

/-- Whether the slot's bank has room or words for an operation. -/
def fifoFits (x : Bank) (o : Op) : Bool :=
  match o.kind with
  | .push _ xs => xs.length ≤ fifoFree x
  | .pop _ => countMask o.lanes ≤ x.queue.length
  | _ => false

/-- A switch of a bank that issued before an operation is under way (R76). -/
def switchBefore (c : CoreState) (n b : Nat) : Bool :=
  c.ops.any (fun e => e.1 < n && match e.2.kind with | .bank b' _ => b' == b | _ => false)

/-- Whether the acceptance of an operation can be decided now: it is the first of its slot, no earlier switch of the bank is under way, and
the queue has room or words for it, or the slot has left FIFO mode. A PUSHF does not wait for the words of an earlier copy to its slot: R127 lets
a copy's words join as its beats come, and does not say that later pushes wait for the last of them (DESIGN CHOICE, log 18). -/
def canAccept (s : State) (k n : Nat) : Bool :=
  let c := coreOf s k
  match opOf s k n with
  | none => false
  | some o =>
    match fifoSlot o with
    | none => false
    | some slot =>
      fifoHead c o.uid slot == some n && !opLeaves c o.uid &&
        match fifoBank c o slot with
        | none => false
        | some b => !switchBefore c n b && ((bankOf c b).mode != .fifo || fifoFits (bankOf c b) o)

/-- An operation of a slot is accepted: a push appends its words, a pop gives words to its lanes in rising order. A slot that
has left FIFO mode gives BANK (R76). -/
def acceptFifo (s : State) (k n : Nat) : State :=
  if !canAccept s k n then s
  else
    let c := coreOf s k
    match opOf s k n with
    | none => s
    | some o =>
      match fifoBank c o ((fifoSlot o).getD 64) with
      | none => s
      | some b =>
        let x := bankOf c b
        if x.mode != .fifo then fifoTrap s k n o causeBank 0
        else
          match o.kind with
          | .push _ xs => finishOp (onCore s k (fun c => setBank c b { x with queue := x.queue ++ xs })) k n
          | .pop _ =>
            let m := countMask o.lanes
            if let some i := (List.range m).find? (fun i => x.bad.contains ((x.head + i) % 4096)) then
              let gone (b : Bank) : Bank := { b with bad := b.bad.filter (· != (x.head + i) % 4096) }
              fifoTrap (onCore s k (fun c => setBank c b (gone x))) k n o causeEcc 0
            else
            let s := onCore s k (fun c => setBank c b { x with queue := x.queue.drop m, head := (x.head + m) % 4096 })
            let vs := (lanesIn o.lanes).zip (x.queue.take m)
            let s := match o.dest with
              | .v d => onGroup s o.uid o.gid (fun g => lateWrite g d n o.lanes (laneValue vs))
              | _ => s
            finishOp s k n
          | _ => s

/-- An earlier PUSHF or POPF of a bank's slot is not blocked: it is accepted before a switch (R76). -/
def acceptsFirst (s : State) (k n b : Nat) : Bool :=
  let c := coreOf s k
  c.ops.any (fun e => e.1 < n && (fifoSlot e.2).any (fun slot => fifoBank c e.2 slot == some b) && canAccept s k e.1)

/-- A switch waits for every access to its bank that issued before it, the write-backs of a CACHE bank and the FIFO operations that are not
blocked among them, and for an earlier switch of it. -/
def canSwitch (s : State) (k n : Nat) : Bool :=
  let c := coreOf s k
  match opOf s k n with
  | some o => (match o.kind with
    | .bank b _ => !wbOfBank c b && !switchBefore c n b && !acceptsFirst s k n b &&
        !c.ops.any (fun e => e.1 < n && touchesBank e.2 b && !setAside c e.2)
    | _ => false)
  | none => false

/-- BANK_TRANSITION_COMPLETE (R76). -/
def execBankTransitionComplete (k : BitVec 9) (op : Nat) (s : State) : Out :=
  .next (match opOf s k.toNat op with
    | some o => (match o.kind with
      | .bank b t => if canSwitch s k.toNat op then finishOp (switchBank s k.toNat b t) k.toNat op else s
      | _ => s)
    | none => s)

/-- FIFO_OP_ACCEPT (R127). -/
def execFifoOpAccept (k : BitVec 9) (op : Nat) (s : State) : Out := .next (acceptFifo s k.toNat op)

/-- FIFO_TIMEOUT (R127): 2^20 cycles without acceptance. -/
def execFifoTimeout (k : BitVec 9) (op : Nat) (s : State) : Out :=
  .next (match opOf s k.toNat op with
    | some o =>
      if (fifoSlot o).isSome && !opLeaves (coreOf s k.toNat) o.uid && 2 ^ 20 ≤ ((coreOf s k.toNat).ccyc - o.start).toNat then
        fifoTrap s k.toNat op o causeFifo (match o.kind with | .push .. => 1 | _ => 2)
      else s
    | none => s)

end Sys2Proof.Machine
end

