-- ==== Sys2Proof/Machine/FenceDone.lean ====
section
/-! DEFINITION. Fences and write-backs as they complete, refusals (R214, R219, R220, R228, R230), and what LAUNCH and the release forms
do once their release is over (R282, R371, R372). -/

namespace Sys2Proof.Machine

/-! ### Write-backs -/

/-- Every ready entry of a group parks at a fence whose write-back was refused, one that has yielded among them; one that waits for a
barrier or an acceptance may not issue either once it is ready again (mayIssue). -/
def parkGroup (g : Group) (n : Nat) (token : Word) : Group :=
  { g with entries := g.entries.map (fun e =>
      if e.st = .ready && (match e.hold with | .none | .yielded _ => true | _ => false) then { e with st := .parkedFault, hold := .fence n, token := token } else e) }

/-- Entries parked at a fence return to ready. -/
def unparkGroup (g : Group) (n : Nat) : Group :=
  { g with entries := g.entries.map (fun e => if e.hold = .fence n then { e with st := .ready, hold := .none, token := 0 } else e) }

/-- A refused write-back is charged to one fence: a KIND 2 record, on which its group parks (R230). A fence whose record of the
write-back is still unanswered gets no second one. -/
def refuseFence (s : State) (k n : Nat) (w : WriteBack) (cause sub : Nat) (e : Nat × Op) : State :=
  if w.tokens.any (fun x => x.1 == e.1) || (opOf s k e.1).isNone then s
  else
  let o := e.2
  let r : Rec :=
    { cause := cause, sub := sub, kind := 2, ctx := o.ctx.toNat, polder := o.polder.toNat, acc := 2, pc := o.pc,
      addr := BitVec.ofNat 64 (w.va.toNat / 64 * 64), lanes := o.lanes, core := k, team := o.team, group := o.gid, mask := w.mask }
  let (s, t) := writeResumable s false r
  if t = 0 then s
  else
    let s := onCore s k (fun c => { c with wbs := alter c.wbs n (fun w => { w with tokens := w.tokens ++ [(e.1, t)] }) })
    let s := onOp s k e.1 (fun o => match o.kind with
      | .fence what wbs ops b _ a => { o with kind := .fence what wbs ops b t a }
      | _ => o)
    onGroup s o.uid o.gid (fun g => parkGroup g e.1 t)

/-- A write-back is refused: it is charged to the fences that wait for it and keeps its bytes, which stay the L1's dirty bytes for
every load and for S, until it is retried; with no fence, R230's last rule. -/
def refuseWriteBack (s : State) (k n cause sub : Nat) : State :=
  match look (coreOf s k).wbs n with
  | none => s
  | some w =>
    match waitingFences (coreOf s k) w with
    | [] => refuseUncovered (onCore s k (fun c => { c with wbs := del c.wbs n })) k w cause sub
    | fs =>
      let s := onCore s k (fun c => { c with wbs := alter c.wbs n (fun w => { w with sent := false, refused := true }) })
      fs.foldl (fun s e => refuseFence s k n w cause sub e) s

/-- A write-back is tried: it is written, or refused by the home's tables (R219, R230). -/
def ackWriteBack (s : State) (k n : Nat) : State :=
  match look (coreOf s k).wbs n with
  | none => s
  | some w =>
    if w.sent || w.refused then s
    else if wbGranted s w then landWb s k n
    else refuseWriteBack s k n causeAccess 0

/-- The launches of a context whose completion waited for a write-back (R120). -/
def checkLaunches (s : State) (ctx : BitVec 10) : State :=
  (s.launches.filter (fun e => e.2.ctx == ctx)).foldl (fun s e => checkLaunch s e.1) s

/-- WRITEBACK_ACK (R219, R230). -/
def execWritebackAck (k : BitVec 9) (wb : Nat) (s : State) : Out :=
  .next (match look (coreOf s k.toNat).wbs wb with
    | none => s
    | some w => checkLaunches (ackWriteBack s k.toNat wb) w.ctx)

/-- L1_EVICTION (R221). -/
def execL1Eviction (k : BitVec 9) (way : BitVec 6) (line : BitVec 7) (s : State) : Out :=
  .next (evictLine s k.toNat (way.toNat * 128 + line.toNat))

/-! ### When a fence is complete -/

/-- A write-back is acknowledged for a fence: it is written, or no longer waited for (R219). -/
def wbDone (c : CoreState) (fence n : Nat) : Bool := !((look c.wbs n).any (fun w => w.waiters.contains fence))

/-- What CWB, FLUSH and the write-back of ICINV wait for besides (R228, R346, R379): what the context has written on the core to the lines
that they cover has been applied at its homes on other dies. -/
def homesDone (s : State) (k : Nat) (ctx : BitVec 10) (w : FenceWhat) : Bool :=
  let line (o : Origin) : L1Line := { ctx := o.ctx, va := vLineOf o.va, home := .fabric, sectors := [] }
  match w with
  | .cwb .. | .flush | .icinv .. =>
    !linkPending s (dieOfCore k) (fun o => o.core == k && o.ctx == ctx && (fenceLines w).any (fun p => p (line o)))
  | _ => true

/-- Whether a fence's waits are all met. -/
def canComplete (s : State) (k n : Nat) : Bool :=
  match opOf s k n with
  | some o => (match o.kind with
    | .fence w wbs _ true _ _ => wbs.all (wbDone (coreOf s k) n) && homesDone s k o.ctx w
    | _ => false)
  | none => false

/-- Code lines of a context leave the instruction cache of every core that holds a team of it (R379). -/
def dropCode (s : State) (ctx : BitVec 10) (p : Word → Bool) : State :=
  { s with cores := s.cores.map (fun e =>
      if e.2.teams.any (fun t => t.2.ctx == ctx) then (e.1, { e.2 with icache := e.2.icache.filter (fun l => !(l.ctx == ctx && p l.va)) }) else e) }

/-- A line's address in the range of ICINV. -/
def codeInRange (va : Word) (n : Nat) (a : Word) : Bool :=
  inRange va n { ctx := 0, va := a, home := .fabric, sectors := [] }

/-- What a fence does to caches at its completion. -/
def fenceEffect (s : State) (k : Nat) (ctx : BitVec 10) (w : FenceWhat) : State :=
  match w with
  | .fence acq _ scope => if acq then acquireOn s k ctx scope else s
  | .cinv va n => onCore s k (fun c => acquireWhere c ctx (inRange va n))
  | .icinv scope va n => dropCode s ctx (fun a => scope == 2 || codeInRange va n a)
  | _ => s

/-! ### LAUNCH after its release (R282) -/

/-- What LAUNCH needs of the record. -/
def launchNeed : Need := { acc := accRead, n := 128, path := .home }

/-- A fault of a LAUNCH parks every active lane, and nothing is enqueued. -/
def launchFault (s : State) (k n : Nat) (o : Op) (f : XFault) (va : Word) : State :=
  finishOp (failLater s k n o (xlateTrap f va o.lanes accRead.code)) k n

/-- The record's bytes go to the queue, and the status to d. -/
def launchEnqueue (s : State) (k n : Nat) (o : Op) (q pa : Nat) : State :=
  let s := fillCopy s (dieOfCore k) pa
  let r := BitVec.ofNat 1024 (dieRead s (dieOfCore k) pa 128)
  let (s, seq) := enqueueRecord s o.ctx.toNat q r
  let w : Word := match seq with
    | some x => BitVec.ofNat 64 (x % 2 ^ 32 * 2 ^ 32)
    | none => 1
  finishOp (deliver s n o [({ lane := 0, space := .hbm, va := 0, pa := pa, n := 8 }, w)]) k n

/-- The record is read, with the checks of a 128-byte load and the tags of both sectors, and enqueued. -/
def performLaunch (s : State) (k n : Nat) (o : Op) (addr : Word) (q : Nat) : State :=
  match if addr.toNat % 128 != 0 then some { cause := causeAlign } else spaceFault launchNeed addr with
  | some f => launchFault s k n o f addr
  | none =>
    let both := [addr, addr + 64]
    match translate s k o.ctx addr accRead with
    | (s, .wait _) => s
    | (s, .fault f) => if f.hold = .none then launchFault s k n o f addr else s
    | (s, .ok pa ipa) =>
      if !memGrants s o.polder.toNat pa 0 then launchFault s k n o { cause := causeAccess } addr
      else if rangeFollows (coreOf s k) n o false (2, pa, 128) then s
      else if !portOpen s k o.ctx (.op n) then portWait s k o.ctx (.op n)
      else
        let s := (both.zip [pa, pa + 64]).foldl (fun s e => homeFirst s k o.ctx (.phys (lineOf e.2)) e.1) s
        if !isHostWindow pa && !canFill s (dieOfCore k) pa then s
        else
        let bad := both.zip [pa, pa + 64] |>.filter (fun e => !isHostWindow pa && dieTag s (dieOfCore k) e.2 != vaTag e.1)
        if o.tagmode = 2 && !bad.isEmpty then
          launchFault (countTagTrap s o.ctx.toNat 1) k n o { cause := causeTag } ((bad.map (·.1)).headD addr)
        else if !isHostWindow pa && (diePoison s (dieOfCore k) pa || diePoison s (dieOfCore k) (pa + 64)) then launchFault s k n o { cause := causeEcc } addr
        else
          let s := if o.tagmode = 1 && !bad.isEmpty then
              (match originOf s k o with
              | some i => reportTags s i accRead.code (bad.map (fun e => (lowestLane o.lanes, e.1)))
              | none => s)
            else s
          let s := [pa, pa + 64].foldl (fun s a => takeSector s k o.ctx a) s
          let s := if isUpper addr && isHbm pa then countHeat s (homeDie pa) (dieOfCore k) o.polder.toNat ipa else s
          launchEnqueue s k n o q pa

/-! ### Completion -/

/-- The access of a PUTS. -/
def putsAcc (o : Op) (a d : Word) : LaneAcc := { lane := lowestLane o.lanes, space := .fabric, va := a, pa := 0, ipa := 0, n := 8, data := d }

/-- What follows a completed fence. -/
def afterFence (s : State) (k n : Nat) (o : Op) (a : After) : State :=
  match a with
  | .nothing => finishOp s k n
  | .launch addr q => onOp s k n (fun o => { o with kind := .launch addr q })
  | .rst accs => sendStores s k n o.ctx true accs
  | .ratom op ty accs => sendAtomics s k n o.ctx op ty true (o.dest != .none) accs
  | .puts a d =>
    let s := onOp (retireFlag s k n) k n (fun o => { o with kind := .remoteWrite 1 [putsAcc o a d], tracker := 1 })
    submit s k n (withTags o.tagmode (putsPacket s o.ctx a d))

/-- A fence goes on: its write-backs start, it completes, or the LAUNCH behind it reads its record. -/
def performFence (s : State) (k n : Nat) : State :=
  match opOf s k n with
  | none => s
  | some o =>
    match o.kind with
    | .fence _ _ _ false _ _ => beginFence s k n
    | .fence w _ _ true _ a =>
      if canComplete s k n then
        let s := onGroup (fenceEffect s k o.ctx w) o.uid o.gid (fun g => unparkGroup g n)
        afterFence s k n o a
      else s
    | .launch addr q => performLaunch s k n o addr q
    | _ => s

/-- FENCE_COMPLETE (R214). -/
def execFenceComplete (k : BitVec 9) (op : Nat) (s : State) : Out := .next (performFence s k.toNat op)

/-- The token of a record of a fence that is still unanswered. With none it is 1, which no record has: the fence has been refused, and its
group stays parked until it completes (R132). -/
def openToken (wbs : List (Nat × WriteBack)) (fence : Nat) : Word :=
  ((wbs.flatMap (fun e => e.2.tokens)).find? (fun x => x.1 == fence)).elim 1 (·.2)

/-- A write-back answers a RETRY: it is to be tried again. -/
def WriteBack.retry (t : Word) (w : WriteBack) : WriteBack :=
  if w.tokens.any (fun x => x.2 == t) then { w with refused := false, tokens := w.tokens.filter (fun x => x.2 != t) } else w

/-- The records of the fences among some operations that are still unanswered. -/
def reopen (wbs : List (Nat × WriteBack)) (e : Nat × Op) : Op :=
  match e.2.kind with
  | .fence w l ops b t a => if t = 0 then e.2 else { e.2 with kind := .fence w l ops b (openToken wbs e.1) a }
  | _ => e.2

/-- RETRY of a refused write-back (R132): it is tried again, on its core or when its team is placed again; the fence's group stays
parked until the fence completes. -/
def retryWb (s : State) (t : Word) : State :=
  { s with
    cores := s.cores.map (fun c =>
      let wbs := c.2.wbs.map (fun e => (e.1, e.2.retry t))
      (c.1, { c.2 with wbs := wbs, ops := c.2.ops.map (fun o => (o.1, reopen wbs o)) }))
    saved := s.saved.map (fun x =>
      let wbs := x.wbs.map (fun e => (e.1, e.2.retry t))
      { x with wbs := wbs, ops := x.ops.map (fun o => reopen wbs (o.seq, o)) }) }

/-! ### Port tracker entries (R128) -/

/-- One answered packet of a fabric write; the last ends the operation. -/
def remoteDone (s : State) (k n : Nat) (gone : List LaneAcc) : State :=
  match opOf s k n with
  | none => s
  | some o =>
    match o.kind with
    | .remoteWrite left accs =>
      if left ≤ 1 then finishOp s k n
      else onOp s k n (fun o => { o with kind := .remoteWrite (left - 1) (accs.filter (fun a => !gone.contains a)), tracker := o.tracker - 1 })
    | _ => s

/-- PORT_TRACKER_COMPLETE (R128): the entry's store or atomic performs at its home, or fails there, and the entry frees. -/
def execPortTrackerComplete (k : BitVec 9) (op : Nat) (s : State) : Out :=
  .next (match opOf s k.toNat op with
    | some o => (match o.kind with
      | .homeStore .. => storeNoted s k.toNat op
      | .atomic .. => atomicNoted s k.toNat op
      | .remoteWrite 0 _ => finishOp s k.toNat op
      | _ => s)
    | none => s)

end Sys2Proof.Machine
end

