-- ==== Sys2Proof/Machine/MergeEvents.lean ====
section
/-! DEFINITION. What coordinators and slices do for merge sets: stages, slots, closes, measures, commits, signal updates, and the
answers to MOPEN, MABORT and MSTAT (R97 to R115, R364 to R367, R409). -/

namespace Sys2Proof.Machine

/-! ### Stages (R102 to R104) -/

/-- The open set of a key and generation. -/
def openSet (s : State) (key gen : Nat) : Option MergeSet := (look s.sets key).bind (fun m => if m.st = .opened && m.gen.toNat = gen then some m else none)

/-- A slice still has a measure request of a closed contributor on its way (R105). -/
def stillStaging (x : Contrib) (slice : Nat) : Bool := x.st == .idle || x.st == .staging || (x.st == .closed && x.asked.contains slice)

/-- The first rule that a stage of elements breaks: STALE, POLDER, ID, RANGE, STATE (R104). -/
def stageRule (s : State) (key gen : Nat) (polder : Option Nat) (id : Nat) (pas : List Nat) : Option Nat :=
  match openSet s key gen with
  | none => some 1
  | some m =>
    if polder.any (· != m.polder.toNat) then some 2
    else if m.expect ≤ id then some 3
    else if pas.any (fun a => !m.lines.contains (lineOf a)) then some 4
    else if pas.any (fun a => !stillStaging (contribOf m id) (homeSlice a)) then some 5
    else none

/-- The slot of an id, granted to the first id that asks while it is free (R102); the claim is that of a context of this node, or of
another node's stage. -/
def claimSlot (m : MergeSet) (id : Nat) (ctx : Option Nat) : MergeSet :=
  if (look m.slots (slotOf m id)).isNone then
    setContrib { m with slots := put m.slots (slotOf m id) id } id { contribOf m id with claimedBy := ctx }
  else m

/-- The elements of a stage are accepted by a set, for a contributor that holds its slot. -/
def acceptStage (m : MergeSet) (id : Nat) (es : List (Nat × BitVec 32)) : MergeSet :=
  let m := es.foldl (fun m e => stageElem m id e.1 e.2) m
  let x := contribOf m id
  setContrib m id { x with st := if x.st = .idle then .staging else x.st }

/-- A stage with nothing left has been accepted or refused whole: its flag retires, and its lanes go on. -/
def stageEnd (s : State) (k n : Nat) : State :=
  match opOf s k n with
  | none => s
  | some o =>
    match o.kind with
    | .stage _ _ _ [] [] => finishOp s k n
    | _ => s

/-- The first line of a stage that has not been accepted, and its elements. -/
def nextLine (es : List (Mask × Word × Nat × BitVec 32)) : List (Mask × Word × Nat × BitVec 32) :=
  match es with
  | [] => []
  | e :: _ => es.filter (fun x => lineOf x.2.2.1 == lineOf e.2.2.1)

/-- Elements leave a stage. -/
def dropElems (s : State) (k n : Nat) (gone : List (Mask × Word × Nat × BitVec 32)) : State :=
  stageEnd (onOp s k n (fun o => match o.kind with
    | .stage a b c es r => { o with kind := .stage a b c (es.filter (fun e => !gone.contains e)) r, tracker := o.tracker - gone.length }
    | _ => o)) k n

/-- Lanes of some elements, and their lowest address. -/
def elemLanes (es : List (Mask × Word × Nat × BitVec 32)) : Mask := es.foldl (fun m e => m ||| e.1) 0
def elemLow (es : List (Mask × Word × Nat × BitVec 32)) : Word :=
  es.foldl (fun a e => if e.2.1.toNat < a.toNat then e.2.1 else a) ((es.head?.map (·.2.1)).getD 0)

/-- An earlier stage of the group for the same slot of a slice goes first (R103): one of the same id, or one that asks for the slot
while it is free. -/
def stageBehind (s : State) (k n : Nat) (o : Op) (m : MergeSet) (id : Nat) (now : List (Mask × Word × Nat × BitVec 32)) : Bool :=
  (coreOf s k).ops.any (fun e => e.1 < n && e.2.uid == o.uid && e.2.gid == o.gid && match o.kind, e.2.kind with
    | .stage set gen _ _ _, .stage set' gen' id' es _ =>
      set == set' && gen == gen' && slotOf m id == slotOf m id'.toNat && (id == id'.toNat || !holds m id) &&
        es.any (fun x => now.any (fun y => homeSlice x.2.2.1 == homeSlice y.2.2.1))
    | _, _ => false)

/-- The elements of a stage whose address has another tag than its sector at the home (R91, R103). -/
def tagElems (s : State) (es : List (Mask × Word × Nat × BitVec 32)) : List (Mask × Word × Nat × BitVec 32) :=
  es.filter (fun e => memTag s e.2.2.1 != vaTag e.2.1)

/-- Tag mismatches of elements in report mode, for the lanes of an operation (R67). -/
def reportElems (s : State) (k : Nat) (o : Op) (es : List (Mask × Word × Nat × BitVec 32)) : State :=
  match originOf s k o with
  | some i => reportTags s i accAtomic.code (es.flatMap (fun e => (lanesIn e.1).map (fun l => (l, e.2.1))))
  | none => s

/-- The next line of a stage reaches its home, behind what the core still holds of its sectors (R218) and behind its group's earlier
accesses (R216): accepted, refused with TAG or a MERGE subcode, or left waiting while another id holds the slot. Of a tag mismatch in trap
mode and a broken rule of the set, TAG is raised: R104 orders its subcodes and no more (DESIGN CHOICE, log 21). -/
def performStage (s : State) (k n : Nat) : State :=
  match opOf s k n with
  | none => s
  | some o =>
    match o.kind with
    | .stage set gen id es _ =>
      let now := nextLine es
      if now.isEmpty then stageEnd s k n
      else if mustFollow (coreOf s k) n o then s
      else if !portOpen s k o.ctx (.op n) then portWait s k o.ctx (.op n)
      else
        let s := now.foldl (fun s e => homeFirst s k o.ctx (.phys (lineOf e.2.2.1)) e.2.1) (portLeave s k (.op n))
        let bad := if o.tagmode = 0 then [] else tagElems s now
        if o.tagmode = 2 && !bad.isEmpty then
          dropElems (failLater (countTagTrap s o.ctx.toNat (countMask (elemLanes bad))) k n o
            { cause := causeTag, addr := elemLow bad, lanes := elemLanes bad, acc := 4 }) k n bad
        else
        let key := setIdKey set
        match stageRule s key gen (some o.polder.toNat) id.toNat (now.map (·.2.2.1)) with
        | some sub =>
          dropElems (failLater s k n o { cause := causeMerge, sub := sub, addr := elemLow now, lanes := elemLanes now, acc := 4 }) k n now
        | none =>
          match openSet s key gen with
          | none => s
          | some m =>
            let behind := stageBehind s k n o m id.toNat now
            let m := claimSlot m id.toNat (some o.ctx.toNat)
            if behind || !holds m id.toNat then s
            else
              let s := reportElems s k o bad
              dropElems (setSet (spendTok s k o.ctx (((now.map (fun e => sectorOf e.2.2.1)).eraseDups).length)) key (acceptStage m id.toNat (now.map (fun e => (e.2.2.1, e.2.2.2))))) k n now
    | _ => s

/-- STAGE_ACCEPT (R103). -/
def execStageAccept (k : BitVec 9) (op : Nat) (s : State) : Out := .next (performStage s k.toNat op)

/-- The context of a stage of a contributor that waits at a slice, breaking no rule of R104. -/
def stageWaits (s : State) (set : SetId) (slice id : Nat) : Option Nat :=
  ((s.cores.flatMap (fun c => c.2.ops)).find? (fun o => match o.2.kind with
    | .stage x gen i es _ =>
      let at_ := es.filter (fun e => homeSlice e.2.2.1 == slice)
      x == set && i.toNat == id && !at_.isEmpty && (stageRule s (setIdKey set) gen (some o.2.polder.toNat) id (at_.map (·.2.2.1))).isNone
    | _ => false)).map (·.2.ctx.toNat)

/-- SLOT_REQUEST (R102). -/
def execSlotRequest (set : SetId) (slice : BitVec 8) (id : BitVec 16) (s : State) : Out :=
  .next (match look s.sets (setIdKey set), stageWaits s set slice.toNat id.toNat with
    | some m, some ctx => setSet s (setIdKey set) (claimSlot m id.toNat (some ctx))
    | _, _ => s)

/-! ### Closes, measures (R105 to R107, R409) -/

/-- The rule that a close breaks. -/
def closeRule (s : State) (key gen : Nat) (polder : Option Nat) (id : Nat) : Option Nat :=
  match openSet s key gen with
  | none => some 1
  | some m =>
    if polder.any (· != m.polder.toNat) then some 2
    else if m.expect ≤ id then some 3
    else if (contribOf m id).st == .idle || (contribOf m id).st == .staging then none
    else some 5

/-- A contributor is CLOSED, and every slice is asked for its partial. -/
def closeContrib (m : MergeSet) (id : Nat) : MergeSet := setContrib m id { contribOf m id with st := .closed, asked := slicesOf m, partials := [] }

/-- A close reaches the coordinator, after every earlier stage of its group. -/
def performClose (s : State) (k n : Nat) : State :=
  match opOf s k n with
  | none => s
  | some o =>
    match o.kind with
    | .close set gen id =>
      if (coreOf s k).ops.any (fun e => e.1 < n && e.2.uid == o.uid && e.2.gid == o.gid && match e.2.kind with | .stage .. => true | _ => false)
      then s
      else
        let key := setIdKey set
        let s := match closeRule s key gen (some o.polder.toNat) id.toNat with
          | some sub => failLater s k n o { cause := causeMerge, sub := sub, lanes := o.lanes }
          | none => match openSet s key gen with
            | some m => setSet s key (closeContrib m id.toNat)
            | none => s
        finishOp s k n
    | _ => s

/-- CLOSE_ACCEPT (R105). -/
def execCloseAccept (k : BitVec 9) (op : Nat) (s : State) : Out := .next (performClose s k.toNat op)

/-- A slice answers a measure request. -/
def measureSlice (m : MergeSet) (id slice : Nat) : MergeSet :=
  let x := contribOf m id
  if x.st = .closed && x.asked.contains slice then
    setContrib m id { x with asked := x.asked.filter (· != slice), partials := put x.partials slice (BitVec.ofNat 64 (partialSum m id slice)) }
  else m

/-- A change of an open set. -/
def onOpen (s : State) (set : SetId) (f : MergeSet → MergeSet) : State :=
  match look s.sets (setIdKey set) with
  | some m => if m.st = .opened then setSet s (setIdKey set) (f m) else s
  | none => s

/-- MEASURE_REQUEST (R106). -/
def execMeasureRequest (set : SetId) (slice : BitVec 8) (id : BitVec 16) (s : State) : Out :=
  .next (onOpen s set (fun m => measureSlice m id.toNat slice.toNat))

/-- Every partial has arrived: the scale, or the rejection. -/
def measureDone (m : MergeSet) (id : Nat) : MergeSet :=
  let x := contribOf m id
  if x.st != .closed || !x.asked.isEmpty then m
  else
    let sigma := sigmaOf m x
    if notFinite fmtF64 sigma then
      if m.rank then freeSlot (setContrib m id { x with st := .measured, scale := 0, marked := true }) id
      else retireId m id .rejected
    else { setContrib m id { x with st := .measured, scale := scaleOf m.lambda sigma } with measured := m.measured ++ [id] }

/-- MEASURE_COMPLETE (R106, R107). -/
def execMeasureComplete (set : SetId) (id : BitVec 16) (s : State) : Out := .next (onOpen s set (fun m => measureDone m id.toNat))

/-! ### Commits and signal updates (R108, R109) -/

/-- The contributor whose turn it is (R108). -/
def nextTurn (m : MergeSet) : Option Nat :=
  if m.rank then
    match (idsOf m).find? (fun id => !(contribOf m id).retired) with
    | some id => if (contribOf m id).st = .measured then some id else none
    | none => none
  else m.measured.head?

/-- A contributor commits: its sequence number, and its place among the retirements. -/
def commitId (m : MergeSet) (id : Nat) : MergeSet :=
  let x := contribOf m id
  { setContrib m id { x with st := .committed, seq := some m.commits.length } with
    commits := m.commits ++ [(id, x.scale)], signals := m.signals ++ [(id, true)], measured := m.measured.filter (· != id) }

/-- COMMIT_ISSUE (R108, R409). -/
def execCommitIssue (set : SetId) (s : State) : Out :=
  .next (onOpen s set (fun m =>
    match nextTurn m with
    | none => m
    | some id => if (contribOf m id).marked then retireId m id .rejected else commitId m id))

/-- COMMIT_APPLY (R108). -/
def execCommitApply (set : SetId) (slice : BitVec 8) (s : State) : Out :=
  .next (match look s.sets (setIdKey set) with
    | some m => if m.st = .opened && (slicesOf m).contains slice.toNat then
        noteArgs (commitSlice s (setIdKey set) m slice.toNat) ((nextElems m slice.toNat).map (fun e => (e.1, 4))) else s
    | none => s)

/-- A 64-bit atomic add of die `d` at a word of memory (R109): sent to a home on another die, the die's later accesses to the line wait
for its reply (R209). -/
def atomicAdd (s : State) (d pa : Nat) (v : Nat) (org : Option Origin) : State :=
  let a : LaneAcc := { lane := 0, space := .hbm, va := 0, pa := pa, n := 8, data := BitVec.ofNat 64 v }
  if isHostWindow pa || homeDie pa = d then (atomicAt s d 0 .b64 [a]).1
  else
    let (s, stamp) := stampClock s d (lineOf pa)
    let s := let x := dieOf s d; setDie s d { x with awaiting := lineOf pa :: x.awaiting }
    sendLink s d (homeDie pa) (.atomic (BitVec.ofNat 2 d) stamp pa 512 0 [a] org)

/-- An update of a set's signal word, whose page becomes dirty (R100, R109). -/
def signalAdd (s : State) (key : Nat) (m : MergeSet) (v : Nat) : State :=
  atomicAdd (dirtyPage s m.polder.toNat (key / 1280) m.signalIpa) (key / 1280) m.signal v
    (some { core := coreCount, ctx := m.ctx, polder := m.polder, ipa := m.signalIpa })

/-- The die of a set's coordinator can send an update of its signal word: no reply for the word's line is due (R209). -/
def signalFree (s : State) (key : Nat) (m : MergeSet) : Bool :=
  isHostWindow m.signal || homeDie m.signal = key / 1280 || lineFree s (key / 1280) m.signal

/-- A set with every contributor retired and every signal update made: COMPLETE, or ABORTED; its berms are released. R109 says COMPLETE when
all contributors have retired, and R101 lets COMMITTED begin at the issue of a commit: that the set waits for the last update is a
DESIGN CHOICE (log 21). -/
def endSet (s : State) (key : Nat) (m : MergeSet) : State :=
  if m.signals.isEmpty && allRetired m then
    let m := { m with st := if m.aborting then .aborted else .complete, slots := [], berms := [], badSlots := [], measured := [], ended := s.nextEnd }
    setSet { s with nextEnd := s.nextEnd + 1 } key m
  else setSet s key m

/-- SIGNAL_UPDATE (R109): the next retirement's update, when its commit has been applied everywhere. -/
def execSignalUpdate (set : SetId) (s : State) : Out :=
  .next (match look s.sets (setIdKey set) with
    | none => s
    | some m =>
      let key := setIdKey set
      if m.st != .opened || !signalFree s key m then s
      else
        match m.signals with
        | [] => s
        | (id, true) :: rest =>
          if appliedAll m ((contribOf m id).seq.getD 0) then endSet (signalAdd s key m 1) key { m with signals := rest } else s
        | (_, false) :: rest => endSet (signalAdd s key m (2 ^ 32 + 1)) key { m with signals := rest })

/-! ### MOPEN (R97 to R99) -/

/-- A field of a set descriptor. -/
def descField (d : Nat) (off n : Nat) : Nat := bitsAt d (8 * off) (8 * n)

/-- A descriptor outside its limits. -/
def badDesc (d : Nat) : Bool :=
  let tbase := BitVec.ofNat 64 (descField d 0 8)
  let tlen := descField d 8 4
  let lambda := descField d 12 4
  let expect := descField d 16 2
  let width := descField d 18 1
  let mode := descField d 19 1
  let sig := BitVec.ofNat 64 (descField d 24 8)
  !isUpper tbase || tbase.toNat % 256 != 0 || tlen % 256 != 0 || tlen < 256 || 2 ^ 23 < tlen ||
    lambda = 0 || 0x7F80_0000 < lambda || expect < 1 || 4096 < expect || width < 1 || 64 < width ||
    2 ≤ mode || (mode = 1 && width < expect) || !isUpper sig || sig.toNat % 8 != 0 || descField d 20 4 != 0 || descField d 32 32 != 0

/-- The pages of T as MOPEN translates them: physical addresses of lines in order, whether one is read-duplicate, the
lanes and addresses of tag mismatches, or a fault and its address. -/
structure TPages where
  lines : List Nat := []
  ipas : List Nat := []
  mism : List (Nat × Word) := []
  dup : Bool := false
  bad : Option (XFault × Word) := none
  deriving DecidableEq, Repr

/-- One page, translated as a write; that it is read-duplicate is noted (R98 steps 3 and 4). -/
def mopenPage (s : State) (k : Nat) (ctx : BitVec 10) (va : Word) : State × (Xl ⊕ XFault) :=
  walk1 s ctx.toNat (ctxOf s ctx.toNat).polder va { accWrite with dup := true } (dieOfCore k)

/-- The lines of T from an address, line by line; a page is walked at its first line. -/
def mopenLines (k : Nat) (o : Op) (tag : BitVec 4) : Nat → State → Word → Nat × Nat → TPages → State × TPages
  | 0, s, _, _, t => (s, t)
  | n + 1, s, va, page, t =>
    if t.bad.isSome then (s, t)
    else
      let (s, r) : State × (Xl ⊕ XFault) :=
        if t.lines.isEmpty || va.toNat % 4096 = 0 then mopenPage s k o.ctx va
        else (s, .inl { pa := page.1 + va.toNat % 4096, ipa := page.2 + va.toNat % 4096, w := true, x := false, dirty := true, rdup := t.dup, mig := false, size := 0 })
      match r with
      | .inr f => (s, { t with bad := some (f, va) })
      | .inl x =>
        let mis := o.tagmode != 0 && isHbm x.pa && [0, 64, 128, 192].any (fun i => memTag s (x.pa + i) != tag)
        if mis && o.tagmode = 2 then (s, { t with bad := some ({ cause := causeTag }, va) })
        else
          mopenLines k o tag n s (va + 256) (x.pa / 4096 * 4096, x.ipa / 4096 * 4096)
            { t with lines := t.lines ++ [x.pa / 256], ipas := t.ipas ++ [x.ipa], dup := t.dup || x.rdup,
                     mism := if mis then t.mism ++ [(lowestLane o.lanes, va)] else t.mism }

/-- MOPEN ends with a result word. -/
def mopenResult (s : State) (k n : Nat) (o : Op) (w : Word) : State :=
  finishOp (deliver s n o [({ lane := 0, space := .hbm, va := 0, pa := 0, n := 8 }, w)]) k n

/-- MOPEN ends with a fault of every active lane (R364), or waits while a page of it is on the move (R175, R179). -/
def mopenFault (s : State) (k n : Nat) (o : Op) (f : XFault) (va : Word) (acc : Acc) : State :=
  match f.hold with
  | .page ipa => onOp s k n (fun o => { o with page := some ipa })
  | _ =>
    let s := if f.cause = causeTag then countTagTrap s o.ctx.toNat 1 else s
    finishOp (failLater s k n o (xlateTrap f va o.lanes acc.code)) k n

def mopenFail (status : Nat) : Word := BitVec.ofNat 64 (2 ^ 63 + status)

/-- Steps 4 to 6 of R98: placement, quotas, the set record. -/
def openRecord (s : State) (o : Op) (d : Nat) (t : TPages) (signal signalIpa : Nat) : State × Word :=
  let die := homeDie ((t.lines.headD 0) * 256)
  let p := o.polder.toNat
  if t.dup || t.lines.any (fun l => !isHbm (l * 256) || homeDie (l * 256) != die) then (s, mopenFail 4)
  else
    let slice := homeSlice ((t.lines.headD 0) * 256)
    let m : MergeSet :=
      { st := .opened, polder := o.polder, ctx := o.ctx, lines := t.lines, ipas := t.ipas, lambda := BitVec.ofNat 32 (descField d 12 4),
        expect := descField d 16 2, width := descField d 18 1, rank := descField d 19 1 = 1, signal := signal,
        signalIpa := signalIpa }
    let key0 := setKey die slice 0
    if (List.range 160).any (fun i => quotaOf s p die < quotaUsed s p die i + setLinesIn key0 m i && 0 < setLinesIn key0 m i) then (s, mopenFail 1)
    else
      match freeRecord s die slice with
      | none => (s, mopenFail 2)
      | some key =>
        let gen := (lookD s.sets key {}).gen + 1
        (setSet s key { m with gen := gen }, BitVec.ofNat 64 (gen.toNat * 2 ^ 32 + die * 2 ^ 16 + slice * 2 ^ 8 + key % 8))

/-- The signal word's address, as an atomic's. -/
def mopenSignal (s : State) (k n : Nat) (o : Op) (d : Nat) (t : TPages) : State :=
  let va := BitVec.ofNat 64 (descField d 24 8)
  match translate s k o.ctx va accAtomic with
  | (s, .fault f) => mopenFault s k n o f va accAtomic
  | (s, .wait _) => s
  | (s, .ok pa ipa) =>
    let mis := o.tagmode != 0 && isHbm pa && memTag s pa != vaTag va
    if mis && o.tagmode = 2 then mopenFault s k n o { cause := causeTag } va accAtomic
    else
      let s := match originOf s k o with
        | some i => reportTags (reportTags s i accWrite.code t.mism) i accAtomic.code (if mis then [(lowestLane o.lanes, va)] else [])
        | none => s
      let (s, w) := openRecord s o d t pa ipa
      mopenResult s k n o w

/-- MOPEN at its coordinator, in the order of R98. -/
def performMopen (s : State) (k n : Nat) (o : Op) (addr : Word) : State :=
  match translate s k o.ctx addr accRead with
  | (s, .wait _) => s
  | (s, .fault f) => mopenFault s k n o f addr accRead
  | (s, .ok pa ipa) =>
    if rangeFollows (coreOf s k) n o false (2, pa, 64) then s
    else if !isHostWindow pa && !canFill s (dieOfCore k) pa then s
    else if !portOpen s k o.ctx (.op n) then portWait s k o.ctx (.op n)
    else
      let s := takeSector (homeFirst s k o.ctx (.phys (lineOf pa)) addr) k o.ctx pa
      let s := if isUpper addr && isHbm pa then countHeat s (homeDie pa) (dieOfCore k) o.polder.toNat ipa else s
      let s := fillCopy s (dieOfCore k) pa
      let d := dieRead s (dieOfCore k) pa 64
      if badDesc d then mopenResult s k n o (mopenFail 3)
      else
        let tbase := BitVec.ofNat 64 (descField d 0 8)
        match mopenLines k o (vaTag tbase) (descField d 8 4 / 256) s tbase (0, 0) {} with
        | (s, { bad := some (f, va), .. }) => mopenFault s k n o f va accWrite
        | (s, t) => mopenSignal s k n o d t

/-! ### MABORT, MSTAT (R111, R114, R367) -/

/-- The set of an operation's handle, open or ended, with its generation. -/
def heldSet (s : State) (set : SetId) (gen : Nat) : Option MergeSet :=
  (look s.sets (setIdKey set)).bind (fun m => if m.st != .stale && m.gen.toNat = gen then some m else none)

/-- MABORT at the coordinator: the result, or a MERGE subcode. -/
def abortAt (s : State) (set : SetId) (gen id polder : Nat) : State × (Word ⊕ Nat) :=
  match heldSet s set gen with
  | none => (s, .inr 1)
  | some m =>
    let key := setIdKey set
    if m.polder.toNat != polder then (s, .inr 2)
    else if id = 0xFFFF then
      if m.st = .opened && !allRetired m then (setSet s key (abortSet m), .inl 0) else (s, .inl 1)
    else if m.expect ≤ id then (s, .inr 3)
    else if m.st = .opened && abortable m id then (setSet s key (abortId m id), .inl 0)
    else (s, .inl 1)

/-- MSTAT at the coordinator. -/
def statAt (s : State) (set : SetId) (gen id : Nat) : Word ⊕ Nat :=
  match heldSet s set gen with
  | none => .inl 0
  | some m => if id = 0xFFFF then .inl (setWord m) else if m.expect ≤ id then .inr 3 else .inl (contribWord m id)

/-- Lanes parked on an operation go on past their instruction. -/
def readyRemote (g : Group) (n : Nat) : Group :=
  { g with entries := g.entries.map (fun e => if e.hold = .remote n then e.pass else e) }

/-- The answer of a MABORT or MSTAT reaches its core. -/
def answerCore (s : State) (k n : Nat) (o : Op) (r : Word ⊕ Nat) : State :=
  match r with
  | .inl w => onGroup (mopenResult s k n o w) o.uid o.gid (fun g => readyRemote g n)
  | .inr sub => finishOp (failLater s k n o { cause := causeMerge, sub := sub, lanes := o.lanes }) k n

/-- COORDINATOR_ANSWER (R364, R367). -/
def execCoordinatorAnswer (k : BitVec 9) (op : Nat) (s : State) : Out :=
  .next (match opOf s k.toNat op with
    | none => s
    | some o =>
      match o.kind with
      | .mopen addr _ => performMopen s k.toNat op o addr
      | .mabort set gen id => let (s, r) := abortAt s set gen id.toNat o.polder.toNat; answerCore s k.toNat op o r
      | .mstat set gen id => answerCore s k.toNat op o (statAt s set gen id.toNat)
      | _ => s)

end Sys2Proof.Machine
end

