-- ==== Sys2Proof/Machine/DieEvents.lean ====
section
/-! DEFINITION. Messages between dies under the vector clocks (R209, R223, R224), and the flow of tokens and rates (R205 to R208). -/

namespace Sys2Proof.Machine

/-! ### The clock tests -/

/-- A write or notice stamped V from die `w` may be applied on die `x` (R209). -/
def writeTest (vc v : List Word) (w x : Nat) : Bool :=
  clk v w == clk vc w + 1 && (List.range 4).all (fun e => e == w || e == x || clk v e ≤ clk vc e)

/-- A settle with a home's clock may be applied on die `x` (R223, R224). -/
def settleTest (vc v : List Word) (x : Nat) : Bool := (List.range 4).all (fun e => e == x || clk v e ≤ clk vc e)

/-- Whether a message passes its test on die `x`. -/
def linkTest (s : State) (x : Nat) (m : LinkMsg) : Bool :=
  let vc := (dieOf s x).vc
  match m with
  | .write w v .. => writeTest vc v w.toNat x
  | .notice w v => writeTest vc v w.toNat x
  | .atomic w v .. => writeTest vc v w.toNat x
  | .update w v _ _ => writeTest vc v w.toNat x
  | .settle _ v .. => settleTest vc v x
  | .reply .. => true

/-- The die whose held buffer takes a message (R209). -/
def linkSource (m : LinkMsg) : Nat :=
  match m with
  | .write w .. => w.toNat
  | .notice w _ => w.toNat
  | .atomic w .. => w.toNat
  | .update w .. => w.toNat
  | .settle h .. => h.toNat
  | .reply h .. => h.toNat

/-! ### Applying -/

/-- Entry `w` of a die's clock takes the stamp's. -/
def advanceClock (s : State) (x w : Nat) (v : List Word) : State :=
  let d := dieOf s x
  setDie s x { d with vc := d.vc.set w (v.getD w 0) }

/-- A settle of a line is sent to some dies, with the home's clock (R224) and the write that it brings to each, where it brings one. -/
def sendSettles (s : State) (h line : Nat) (p : Nat → Bool) (cause : Nat → Option (BitVec 2 × Word)) : State :=
  (List.range 4).foldl (fun s e =>
    if e != h && p e then sendLink s h e (.settle (BitVec.ofNat 2 h) (dieOf s h).vc line (homeLine s line) (cause e)) else s) s

/-- A write stamped V by die `w` follows the last write of its line causally (R224). -/
def followsLast (s : State) (line w : Nat) (v : List Word) : Bool :=
  let x := lookD s.shares line {}
  x.lastDie.toNat == w || x.lastCnt.toNat ≤ clk v x.lastDie.toNat

/-- The home has applied a write of die `w`: the line's last write, and the settles that it needs. -/
def homeApplied (s : State) (h line w : Nat) (v : List Word) (upd : BitVec 4) (causal : Bool) : State :=
  let s := noteLast s line w v
  let cause (e : Nat) : Option (BitVec 2 × Word) := if e = w || upd.getLsbD e then none else some (BitVec.ofNat 2 w, v.getD w 0)
  if causal then sendSettles s h line (fun e => e != w && sharersOf s line e && !upd.getLsbD e) cause
  else sendSettles s h line (fun e => sharersOf s line e) cause

/-- The line a die's copy takes, if it holds one. -/
def installCopy (s : State) (d line : Nat) (x : LineCopy) : State :=
  let y := dieOf s d
  setDie s d { y with copies := alter y.copies line (fun _ => x) }

/-- The lines on their way to die `w` that atomics of other dies have left take a write of that die's own which the home has applied
meanwhile: it is visible on the die already, and stays so (R209, R403; DEDUCED, log 44). -/
def overUpdates (s : State) (w line : Nat) (f : LineCopy → LineCopy) : State :=
  let renew (m : LinkMsg) : LinkMsg := match m with
    | .update a v l y => if l = line then .update a v l (f y) else m
    | m => m
  onDie s w (fun x => { x with link := x.link.map (fun e => (e.1, e.2.map renew)), held := x.held.map (fun e => (e.1, e.2.map renew)) })

/-- The reply of an atomic on its die: the line is installed where the die holds a copy, its later accesses go on, and the lanes take
their values (R209). -/
def takeReply (s : State) (d pa core op : Nat) (vals : List (Nat × Word)) (x : LineCopy) : State :=
  let s := installCopy s d (lineOf pa) x
  let y := dieOf s d
  atomicReply (setDie s d { y with awaiting := y.awaiting.filter (· != lineOf pa) }) core op pa vals (x.poison.getLsbD (pa / 64 % 4))

/-- An atomic of die `w` performs at its home `h` (R209): the resulting line to the line's other sharers as they now are, which are its
update mask, notices to the rest, and the reply. -/
def applyAtomic (s : State) (h w : Nat) (v : List Word) (pa core op : Nat) (accs : List LaneAcc) : State :=
  match accs with
  | [] => s
  | a :: _ =>
    let line := lineOf pa
    let (o, t) : Nat × Ty := match opOf s core op with
      | some x => (match x.kind with | .atomic o t _ => (o, t) | _ => (0, .b64))
      | none => (0, .b64)
    let causal := followsLast s line w v
    let upd := dieMask (fun e => e != w && sharersOf s line e)
    -- an operation that a kill has removed changes nothing (R128)
    let old := homeRead s pa a.n
    let (vals, new) := if core < coreCount && (opOf s core op).isNone then ([], old) else atomicLanes o t old accs
    let s := overUpdates (applyHome s pa a.n (2 ^ a.n - 1) new none) w line (fun y => y.write pa a.n (2 ^ a.n - 1) new none)
    let s := (List.range 4).foldl (fun s e =>
      if e = h || e = w then s
      else if upd.getLsbD e then
        sendLink s h e (.update (BitVec.ofNat 2 w) v line (homeLine s line))
      else sendLink s h e (.notice (BitVec.ofNat 2 w) v)) s
    let s := sendLink s h w (.reply (BitVec.ofNat 2 h) pa core op vals (homeLine s line))
    homeApplied s h line w v upd causal

/-- A message is applied on die `x`. -/
def applyLink (s : State) (x : Nat) (m : LinkMsg) : State :=
  match m with
  | .notice w v => advanceClock s x w.toNat v
  | .write w v pa mask data tag upd bad _ =>
    let s := advanceClock s x w.toNat v
    let n := 256 - pa % 256
    if homeDie pa = x then
      let causal := followsLast s (lineOf pa) w.toNat v
      let s := spoilHome (applyHome s pa n mask.toNat data.toNat tag) pa bad
      homeApplied (overUpdates s w.toNat (lineOf pa) (fun y => (y.write pa n mask.toNat data.toNat tag).spoil pa bad)) x (lineOf pa) w.toNat v upd causal
    else copyWrite s x pa n mask.toNat data.toNat tag bad
  | .atomic w v pa core op accs _ => applyAtomic (advanceClock s x w.toNat v) x w.toNat v pa core op accs
  | .update w v line y => installCopy (advanceClock s x w.toNat v) x line (withOwn s x (homeDie (256 * line)) line y)
  | .settle _ v line y _ =>
    if clk v x < (lookD (dieOf s x).own line 0).toNat then s else installCopy s x line y
  | .reply _ pa core op vals y => takeReply s x pa core op vals y

/-! ### Arrival and holding -/

/-- The head of the link from `src` to `dst`, when it is of a kind, is applied, or held while the buffer has room. -/
def arriveLink (s : State) (src dst : Nat) (kind : LinkMsg → Bool) : State :=
  let d := dieOf s dst
  match lookD d.link src [] with
  | [] => s
  | m :: rest =>
    if !kind m then s
    else
      let s1 := setDie s dst { d with link := putD d.link src [] rest }
      if linkTest s dst m then applyLink s1 dst m
      else
        let w := linkSource m
        if 4096 ≤ (lookD d.held w []).length then s
        else
          let s1 := match m with | .notice .. => s1 | _ => bumpCounter s1 13 1
          let d1 := dieOf s1 dst
          setDie s1 dst { d1 with held := put d1.held w (lookD d1.held w [] ++ [m]) }

/-- CROSS_DIE_WRITE (R209): a write, an atomic, the line that an atomic has left, or an atomic's reply. -/
def execCrossDieWrite (src dst : BitVec 2) (s : State) : Out :=
  .next (arriveLink s src.toNat dst.toNat (fun m => match m with | .write .. | .atomic .. | .update .. | .reply .. => true | _ => false))

/-- CLOCK_NOTICE (R209). -/
def execClockNotice (src dst : BitVec 2) (s : State) : Out :=
  .next (arriveLink s src.toNat dst.toNat (fun m => match m with | .notice .. => true | _ => false))

/-- SETTLE (R224). -/
def execSettle (src dst : BitVec 2) (s : State) : Out :=
  .next (arriveLink s src.toNat dst.toNat (fun m => match m with | .settle .. => true | _ => false))

/-- HELD_WRITE_APPLY (R209): the first held message of a source whose test passes. -/
def execHeldWriteApply (src dst : BitVec 2) (s : State) : Out :=
  .next (
    let x := dst.toNat
    let d := dieOf s x
    let l := lookD d.held src.toNat []
    match l.findIdx? (linkTest s x) with
    | none => s
    | some i =>
      match l[i]? with
      | none => s
      | some m => applyLink (setDie s x { d with held := putD d.held src.toNat [] (l.eraseIdx i) }) x m)

/-! ### Tokens (R205, R206) -/

/-- A core's bucket is to be refilled: 1,024 of its cycles have passed. -/
def refillDue (c : CoreState) : Bool := decide (c.refillAt.toNat + 1024 ≤ c.ccyc.toNat)

/-- A bucket after a refill, which first pays what is owed. -/
def refilled (c : CoreState) : CoreState :=
  let t := min (c.tok.toNat + c.rTok.toNat) (2 * c.rTok.toNat)
  { c with tok := BitVec.ofNat 18 (t - c.owed), owed := c.owed - t, took := c.took || (c.owed != 0 && t != 0),
           refillAt := c.refillAt + 1024 }

/-- TOKEN_REFILL (R205). -/
def execTokenRefill (k : BitVec 9) (s : State) : Out :=
  .next (if refillDue (coreOf s k.toNat) then onCore s k.toNat refilled else s)

/-- The tokens of an interval of a die (R206). -/
def poolTokens : Nat := 131072

def Polder.idlew (p : Polder) : Nat := fieldOf p.pflowcfg 0 6
def Polder.rmin (p : Polder) : Nat := fieldOf p.pflowcfg 16 16
def Polder.addInc (p : Polder) : Nat := fieldOf p.pflowcfg 32 16

def baseAllot (p : Polder) : Nat := poolTokens * p.share / 256

/-- The cores of a die that a polder owns. -/
def coresOn (s : State) (p d : Nat) : List Nat := ((List.range 80).map (d * 80 + ·)).filter (fun k => (polderOf s p).owns k)

/-- Intervals without a token, after the interval that ends. -/
def quietAfter (s : State) (p d : Nat) : Nat :=
  if (coresOn s p d).any (fun k => (coreOf s k).took) then 0 else lookD (polderOf s p).quiet d 0 + 1

/-- A polder takes no token on a die for its idle window (R206). -/
def idleAfter (s : State) (p d : Nat) : Bool := decide ((polderOf s p).idlew ≤ quietAfter s p d)

/-- The polders that share the pool, those in STATE 1, whose shares R64 bounds (log 23), with their idle flags at the boundary. -/
def sharers (s : State) (d : Nat) : List (Nat × Bool) :=
  ((List.range 64).filter (fun p => (polderOf s p).state == 1)).map (fun p => (p, idleAfter s p d))

/-- EFF of a polder for the next interval (R206); one that is not in STATE 1 has none of the pool (DEDUCED, log 23). -/
def effAllot (s : State) (l : List (Nat × Bool)) (e : Nat × Bool) : Nat :=
  let base := baseAllot (polderOf s e.1)
  if (polderOf s e.1).state != 1 then 0
  else if e.2 then base
  else
    let all := l.foldl (fun a x => a + (polderOf s x.1).share) 0
    let idle := l.foldl (fun a x => if x.2 then a + baseAllot (polderOf s x.1) else a) 0
    let act := l.foldl (fun a x => if x.2 then a else a + (polderOf s x.1).share) 0
    let u := idle + poolTokens * (256 - all) / 256
    base + u * (polderOf s e.1).share / act

/-- A polder's registers and its cores' refills for the next interval. -/
def intervalPolder (s : State) (d : Nat) (l : List (Nat × Bool)) (e : Nat × Bool) : State :=
  let x := polderOf s e.1
  let ks := coresOn s e.1 d
  let eff := effAllot s l e
  let served := lookD x.served d 0
  let dry := min (2 ^ 32 - 1) (fieldOf (lookD x.pocc d 0) 32 32 + (ks.filter (fun k => (coreOf s k).dry)).length)
  let tok := BitVec.ofNat 64 (baseAllot x % 2 ^ 18 + eff % 2 ^ 18 * 2 ^ 20 + if e.2 then 2 ^ 63 else 0)
  let y : Polder := { x with ptok := put x.ptok d tok, pocc := put x.pocc d (BitVec.ofNat 64 (dry * 2 ^ 32 + served % 2 ^ 32)),
                             quiet := put x.quiet d (quietAfter s e.1 d), served := del x.served d }
  let s := setPolder s e.1 y
  ks.foldl (fun s k => onCore s k (fun c => { c with rTok := BitVec.ofNat 17 (eff / ks.length) })) s

/-- A die's token interval is over: 1,024 of its cycles have passed. -/
def intervalDue (x : Die) : Bool := decide (x.flowAt.toNat + 1024 ≤ x.cyc.toNat)

/-- The interval that begins on a die: the registers of every polder, and nothing taken yet. -/
def nextInterval (s : State) (d : Nat) : State :=
  let l := sharers s d
  let s := ((List.range 64).map (fun p => (p, idleAfter s p d))).foldl (fun t e => intervalPolder t d l e) s
  let s := onDie s d (fun x => { x with flowAt := x.flowAt + 1024 })
  { s with cores := s.cores.map (fun e => if e.1 / 80 = d then (e.1, { e.2 with took := false, dry := !(portQueue s e.1).isEmpty }) else e) }

/-- TOKEN_INTERVAL (R206). -/
def execTokenInterval (d : BitVec 2) (s : State) : Out := .next (if intervalDue (dieOf s d.toNat) then nextInterval s d.toNat else s)

/-! ### Rates (R208) -/

/-- RATE of a polder at a port. -/
def Polder.rate (p : Polder) (port : Nat) : Nat := (lookD p.prate port 8533).toNat

/-- A port's rate interval is over: 1,024 fabric cycles have passed. -/
def rateDue (s : State) (port : Nat) : Bool := decide ((portOf s port).rateAt.toNat + 1024 ≤ s.fabric.cyc.toNat)

/-- A polder's rate at a port for the next interval. -/
def nextRate (x : Polder) (n : Nat) : Polder :=
  let r := if lookD x.marked n false then max (x.rate n * 7 / 8) x.rmin else min (x.rate n + x.addInc) 8533
  { x with prate := put x.prate n (BitVec.ofNat 14 r), sent := del x.sent n, marked := del x.marked n }

/-- RATE_INTERVAL (R208). -/
def execRateInterval (port : BitVec 4) (s : State) : Out :=
  .next (if rateDue s port.toNat then
      onPort { s with polders := s.polders.map (fun e => (e.1, nextRate e.2 port.toNat)) } port.toNat (fun x => { x with rateAt := x.rateAt + 1024 })
    else s)

end Sys2Proof.Machine
end

