-- ==== Sys2Proof/Machine/PageEvents.lean ====
section
/-! DEFINITION. Invalidations of translations, quarantine, page heat, migration, replication and the collapse of replicas (R93, R168
to R170, R172, R173, R175 to R179). -/

namespace Sys2Proof.Machine

/-! ### Invalidation (R169) -/

/-- The polder of a context. -/
def polderOfCtx (s : State) (c : BitVec 10) : Nat := (ctxOf s c.toNat).polder

/-- TLB entries of every quartet for which a test holds leave. -/
def dropTlb (s : State) (p : TlbEntry → Bool) : State := { s with tlb := s.tlb.map (fun e => (e.1, e.2.filter (fun t => !p t))) }

/-- L1 lines of every core for which a test holds are written back and leave. -/
def dropLines (s : State) (p : L1Line → Bool) : State :=
  (keysOf s.cores).foldl (fun s k =>
    (((coreOf s k).l1.filter (fun e => p e.2)).map (·.1)).foldl (fun s key => evictLine s k key) s) s

/-- Write-backs under way of every core for which a test holds are written. -/
def landWhere (s : State) (p : WriteBack → Bool) : State :=
  (keysOf s.cores).foldl (fun s k => ((coreOf s k).wbs.filter (fun e => p e.2)).foldl (fun s e => landWb s k e.1) s) s

/-- Whether an operation has still to perform an access for which a test holds. A merge stage is handed off to the port tracker when it
issues (R128), which is enough for R169. -/
def pendingAccess (s : State) (p : Op → LaneAcc → Bool) : Bool :=
  s.cores.any (fun c => c.2.ops.any (fun o => match o.2.kind with
    | .stage .. => false
    | kind => (accsOf kind).1.any (p o.2)))

/-- A write-back of HBM for which a test holds has still to be written: one that was refused, on a core or in a saved image, is still the
dirty bytes of its line, and waits for a RETRY (R132, R230). -/
def pendingLine (s : State) (p : Origin → Bool) : Bool :=
  let left (w : WriteBack) : Bool := w.home != .fabric && !w.sent && p (w.origin 0)
  s.cores.any (fun c => c.2.wbs.any (fun w => left w.2)) || s.saved.any (fun t => t.wbs.any (fun w => left w.2))

/-- What an invalidation covers: a context's addresses, or a polder's IPAs. -/
structure Cover where
  tlb : TlbEntry → Bool
  line : L1Line → Bool
  acc : Op → LaneAcc → Bool
  wb : Origin → Bool

/-- The bytes that a range of pages stands for. One page of any size (R168) may be as large as 1 GiB (R162), and the entry that mapped it
may be gone: the 1 GiB around its address are taken, DESIGN CHOICE, log 22. -/
def coverRange (a n : Nat) (anySize : Bool) : Nat × Nat := if anySize then (a / 2 ^ 30 * 2 ^ 30, 2 ^ 30) else (a, n)

/-- A context's virtual pages from a page on; `n` = 0 covers every entry of the context. A TLB entry of any size that meets the pages is
matched. -/
def ctxCover (c : BitVec 10) (upper : Bool) (va n : Nat) (anySize : Bool) : Cover :=
  let a := va % 2 ^ 56
  let r := coverRange a n anySize
  let hit (v : Word) (m : Nat) : Bool := n == 0 || (bitAt v.toNat 63 == upper && rangesMeet (v.toNat % 2 ^ 56) m r.1 r.2)
  { tlb := fun t => t.ctx == c && (n == 0 || (t.upper == upper && rangesMeet t.va.toNat (2 ^ sizeBits t.size) r.1 r.2))
    line := fun l => l.ctx == c && l.home != .fabric && hit l.va 256
    acc := fun o x => o.ctx == c && x.space != .scratch && x.space != .fabric && hit x.va (max 1 x.n)
    wb := fun w => w.ctx == c && hit w.va 64 }

/-- A polder's IPAs from one on; `n` = 0 covers every entry of the polder. -/
def polderCover (s : State) (p ipa n : Nat) (anySize : Bool) : Cover :=
  let r := coverRange ipa n anySize
  let hit (a m : Nat) : Bool := n == 0 || rangesMeet a m r.1 r.2
  { tlb := fun t => polderOfCtx s t.ctx == p && (n == 0 || rangesMeet t.ipa (2 ^ sizeBits t.size) r.1 r.2)
    line := fun l => polderOfCtx s l.ctx == p && l.home != .fabric && hit l.ipa 256
    acc := fun o x => o.polder.toNat == p && x.space != .scratch && x.space != .fabric && hit x.ipa (max 1 x.n)
    wb := fun w => w.polder.toNat == p && hit w.ipa 256 }

/-- The TLB entries and the L1 lines that a cover matches leave, dirty bytes written back, those under way among them (R169). -/
def invalidate (s : State) (c : Cover) : State :=
  landWhere (dropLines (dropTlb s c.tlb) c.line) (fun w => w.home != .fabric && c.wb (w.origin 0))

/-- An invalidation can complete: every access that used a matching entry has performed at its home, on whatever die, and every
write-back is written. -/
def coverIdle (s : State) (c : Cover) : Bool :=
  !pendingAccess s c.acc && !pendingLine s c.wb && !(List.range 4).any (fun d => linkPending s d c.wb)

/-- The cover of a context's invalidation in progress. -/
def ctlbiCover (s : State) (c : BitVec 10) : Cover :=
  let x := ctxOf s c.toNat
  ctxCover c true (x.tlbiAddr.toNat * 4096) (if x.tlbiScope = 0 then 4096 else 0) (x.tlbiScope == 0)

/-- The cover of a polder's invalidation in progress. -/
def ptlbiCover (s : State) (p : Nat) : Cover :=
  let x := polderOf s p
  polderCover s p (x.tlbiAddr.toNat * 4096) (if x.tlbiScope = 0 then 4096 else 0) (x.tlbiScope == 0)

/-- The answer to an XLINV that has been carried out (R171, R172): XLRSP OP 3 with its CONTEXT, REQID and VA. -/
def xlinvAnswer (s : State) (c : BitVec 10) (x : XlInv) : State :=
  let body := 3 + x.context.toNat * 2 ^ 16 + x.req.toNat * 2 ^ 32 + x.va.toNat * 2 ^ 64
  submitAt s x.die.toNat (planeOf s 0)
    { kind := kXlrsp, cls := 1, len := 1, polder := BitVec.ofNat 6 (polderOfCtx s c), dst := s.device.hostNode, ctx := c,
      payload := [BitVec.ofNat 512 body] } 0 0

/-- A context's XLINV in progress. -/
def finishXlinv (s : State) (c : BitVec 10) : State :=
  match (ctxOf s c.toNat).xlinv with
  | none => s
  | some v =>
    let cv := ctxCover c false (v.va.toNat / 4096 * 4096) (v.n.toNat * 4096) false
    let t := invalidate s cv
    if !coverIdle s cv then s
    else if !coverIdle t cv then t
    else
      let s := onCtx t c.toNat (fun x => { x with xlinv := none })
      -- one XLINV may cover every context: the last answers
      if s.ctxs.any (fun e => e.2.xlinv.any (fun x => x.req == v.req)) then s else xlinvAnswer s c v

/-- What a cover matches leaves, and the invalidation is over when the last write-back that this started is written (R169). -/
def carryOut (s : State) (c : Cover) (done : State → State) : State :=
  let t := invalidate s c
  if !coverIdle s c then s else if coverIdle t c then done t else t

/-- INVALIDATION_COMPLETE (R169). -/
def execInvalidationComplete (polder : Bool) (n : BitVec 10) (s : State) : Out :=
  .next (
    if polder then
      let p := n.toNat % 64
      if (polderOf s p).tlbiBusy then carryOut s (ptlbiCover s p) (fun t => onPolder t p (fun x => { x with tlbiBusy := false })) else s
    else
      finishXlinv (if (ctxOf s n.toNat).tlbiBusy then carryOut s (ctlbiCover s n) (fun t => onCtx t n.toNat (fun x => { x with tlbiBusy := false })) else s) n)

/-! ### Quarantine (R93) -/

/-- Cells of a range, given by a test, leave memory. -/
def clearRange (m : List Host.Cell) (a n : Nat) : List Host.Cell := m.filter (fun c => !(a ≤ c.1 && c.1 < a + n))

/-- Keys of a sector map in a range of bytes leave it. -/
def clearSectors {α : Type} (m : AMap α) (a n : Nat) : AMap α := m.filter (fun e => !(a ≤ e.1 * 64 && e.1 * 64 < a + n))

/-- A frame is zeroed. -/
def zeroFrame (s : State) (f : Nat) : State := { s with mem := clearRange s.mem (f * 4096) 4096, poison := clearSectors s.poison (f * 4096) 4096 }

/-- A frame's tags are 0. -/
def untagFrame (s : State) (f : Nat) : State := { s with tags := clearSectors s.tags (f * 4096) 4096 }

/-- Every cached copy of a frame's lines leaves without write-back. -/
def uncacheFrame (s : State) (f : Nat) : State :=
  let hit (line : Nat) : Bool := line * 256 / 4096 == f
  { s with
    cores := s.cores.map (fun e => (e.1, { e.2 with
      l1 := e.2.l1.filter (fun l => match l.2.home with | .phys n => !hit n | .fabric => true)
      wbs := e.2.wbs.filter (fun w => match w.2.home with | .phys n => !hit n | .fabric => true) }))
    dies := s.dies.map (fun e => (e.1, { e.2 with copies := e.2.copies.filter (fun c => !hit c.1) }))
    shares := s.shares.filter (fun e => !hit e.1) }

/-- Every byte of a frame is 0. -/
def isZeroFrame (s : State) (f : Nat) : Bool := (List.range 64).all (fun i => homeRead s (f * 4096 + 64 * i) 64 == 0)

/-- QUARANTINE_CLEAR (R93): the frame is zeroed, its tags are 0, every cached copy is invalidated, and QUAR clears. In the host-assisted mode
(R65) the host zeroes the frame through its own writes: QUAR stays until every byte of it is 0, and the device sets the tags and
invalidates. -/
def execQuarantineClear (frame : BitVec 40) (s : State) : Out :=
  .next (
    let f := frame.toNat
    match look s.quar f with
    | none => s
    | some host =>
      if host && !isZeroFrame s f then s
      else
      let s := untagFrame (if host then s else zeroFrame s f) f
      let s := uncacheFrame s f
      { s with quar := del s.quar f })

/-! ### Leaves of a page (R176) -/

/-- The leaf of an IPA in a polder's stage-2 tables, whatever its rights. -/
def leafOf (s : State) (p ipa : Nat) : Option Leaf :=
  let x := polderOf s p
  if !bitAt x.ps2root.toNat 0 then none
  else
    match walkFrom (fun s pa _ => (s, .inl pa)) causeXlate2 true ipa 5 0 s (fieldOf x.ps2root 12 40 * 4096) with
    | (_, .inl l) => some l
    | (_, .inr _) => none

/-- A split (R176): a level-3 leaf becomes a pointer to 512 C16 leaves in the frame that PSPLIT offers. -/
def splitLeaf (s : State) (p : Nat) (l : Leaf) : Option State :=
  let x := polderOf s p
  if l.lvl != 3 then some s
  else if !bitAt x.psplit.toNat 0 then none
  else
    let t := fieldOf x.psplit 12 40 * 4096
    let low := bitsAt l.e 0 12
    let entry (i : Nat) : Nat :=
      if peRdup l.e then (if bitAt low 6 then l.e else l.e + 64)
      else peAddr l.e + 4096 * i + (if bitAt low 6 then low else low + 64)
    let s := (List.range 512).foldl (fun s i => deviceWrite s (t + 8 * i) 8 (entry i)) s
    let s := deviceWrite s l.entryPa 8 (t + 1)
    some (onPolder s p (fun x => { x with psplit := setField x.psplit 0 1 0 }))

/-- The first entry of the 64 KiB run of a leaf at level 4. -/
def runBase (l : Leaf) : Nat := l.entryPa / 128 * 128

/-- The 16 leaves of a page are rewritten. -/
def rewriteRun (s : State) (base : Nat) (f : Nat → Nat → Nat) : State :=
  (List.range 16).foldl (fun s i => deviceWrite s (base + 8 * i) 8 (f i (homeRead s (base + 8 * i) 8))) s

/-- The frames of a 64 KiB page. -/
def pageFrames (base : Nat) : List Nat := (List.range 16).map (base / 4096 + ·)

/-- The bytes whose translation a change of a page's leaf ends: the page, or the whole 2 MiB of a leaf that is split first (R176). -/
def leafSpan (l : Leaf) (ipa : Nat) : Nat × Nat := if l.lvl = 3 then (ipa / 2 ^ 21 * 2 ^ 21, 2 ^ 21) else (ipa, 65536)

/-- A group of a polder has lanes that wait for a page. -/
def groupWaits (s : State) (p ipa : Nat) (g : Group) : Bool := polderOfCtx s g.ctx == p && g.entries.any (fun e => e.hold.pages.contains ipa)

/-- Lanes, a copy or a MOPEN of a polder wait for a page. -/
def pageWaits (s : State) (p ipa : Nat) : Bool :=
  s.cores.any (fun c => c.2.groups.any (fun g => groupWaits s p ipa g.2) || c.2.ops.any (fun o => o.2.polder.toNat == p && o.2.page == some ipa)) ||
    s.saved.any (fun t => t.groups.any (fun g => groupWaits s p ipa g.2))

/-- Entries of a group that wait for a page return to ready. -/
def wakeEntries (ipa : Nat) (g : Group) : Group :=
  { g with entries := g.entries.map (fun e => if e.hold.pages.contains ipa then { e with st := .ready, hold := .none } else e) }

/-- Lanes that wait for a page return to ready, and operations that do are tried again (R175, R179). -/
def wakePage (s : State) (ipa : Nat) : State :=
  let cs := s.cores.map (fun c => (c.1, { c.2 with
    groups := c.2.groups.map (fun g => (g.1, wakeEntries ipa g.2))
    ops := c.2.ops.map (fun o => if o.2.page = some ipa then (o.1, { o.2 with page := none }) else o) }))
  let ts := s.saved.map (fun t => { t with groups := t.groups.map (fun g => (g.1, wakeEntries ipa g.2)) })
  { s with cores := cs, saved := ts }

/-- PIECE_COLLAPSE (R175): the piece is mapped for the writer's die, or for the lowest that holds a copy, when a writer waits for it: one
that met the piece in the hardware mode is served so whatever the mode is now (R66). Lanes that wait for a piece which the device does not
collapse, for want of a frame, try again and take the fault that R176 gives. -/
def execPieceCollapse (w : BitVec 2) (p : BitVec 6) (page : BitVec 36) (s : State) : Out :=
  .next (
    let ipa := page.toNat * 65536
    let pd := p.toNat
    match leafOf s pd ipa with
    | none => s
    | some l =>
      let span := leafSpan l ipa
      if !pageWaits s pd ipa || peMig l.e then s
      else if !peRdup l.e then wakePage s ipa
      else if !coverIdle s (polderCover s pd span.1 span.2 false) then s
      else
        let r := replicaPa l.e
        if pieceCollapsed s r ipa then wakePage s ipa
        else
          match splitLeaf s pd l with
          | none => wakePage s ipa
          | some s =>
            match leafOf s pd ipa with
            | none => s
            | some l =>
              let s := if span.2 = 65536 then s else invalidate s (polderCover s pd span.1 span.2 false)
              let i := pieceOf s r ipa
              let mask := replicaMask s r
              let owner := if bitAt mask w.toNat then w.toNat else lowestCopy s r
              let off := ipa % 2 ^ replicaBits s r / 65536 * 65536
              let frames := ((List.range 4).filter (fun d => d != owner && bitAt mask d)).flatMap (fun d => pageFrames (replicaPage s r d + off))
              let target := replicaPage s r owner + off
              let field := homeRead s (r + 0x28 + i / 2) 1
              let field' := field - bitsAt field (4 * (i % 2)) 4 * 2 ^ (4 * (i % 2)) + (8 + owner) * 2 ^ (4 * (i % 2))
              let s := deviceWrite s (r + 0x28 + i / 2) 1 field'
              let s := deviceWrite s (r + 0x22) 1 (replicaRefs s r - 1)
              let s := rewriteRun s (runBase l) (fun j e =>
                target + 4096 * j + (1 + 2 + 4 + 64) + bitsAt e 3 1 * 8 + bitsAt e 4 1 * 16 + bitsAt e 5 1 * 32)
              let s := invalidate s (polderCover s pd ipa 65536 false)
              wakePage (quarantine s pd frames) ipa)

/-! ### Page heat and migration (R177 to R179) -/

/-- The remote die with the largest count, ties to the lower. -/
def hottest (h : Heat) (d : Nat) : Nat :=
  ((List.range 4).filter (· != d)).foldl (fun b e => if (h.counts.getD b 0) < (h.counts.getD e 0) || b == d then e else b) d

/-- A page that an open set pins (R100). -/
def pinned (s : State) (p ipa : Nat) : Bool :=
  match leafOf s p ipa with
  | none => false
  | some l =>
    let base := l.out / 65536 * 65536
    s.sets.any (fun e => e.2.st == .opened && (e.2.lines.any (fun n => n * 256 / 65536 * 65536 == base) || e.2.signal / 65536 * 65536 == base))

/-- The key of a page in the table of migrations. -/
def pageKey (p page : Nat) : Nat := p * 2 ^ 36 + page

/-- The flits of a message on a die-to-die link: one for its header, and one for each 64 bytes it carries. The spec does not give the
format: DESIGN CHOICE, log 13. -/
def linkFlits (m : LinkMsg) : Nat :=
  match m with
  | .write _ _ pa mask .. => 1 + ([0, 1, 2, 3, 4].filter (fun i => (mask.toNat * 2 ^ (pa % 256)) / 2 ^ (64 * i) % 2 ^ 64 != 0)).length
  | .notice .. => 1
  | .settle .. => 5
  | .atomic _ _ _ _ _ accs _ => 1 + (accs.length + 7) / 8
  | .update .. => 5
  | .reply .. => 5

/-- The decision for one entry of a die's heat table (R178): the target die, and whether it replicates. How many free 64 KiB frames a
die has is firmware's own count, a free value: log 22. -/
def heatDecision (s : State) (d : Nat) (h : Heat) : Option (Nat × Bool) :=
  let m := s.device.migcfg
  let e := hottest h d
  let ce := h.counts.getD e 0
  let q := ((lookD (dieOf s e).link d []).map linkFlits).foldl (· + ·) 0
  let ipa := h.page.toNat * 65536
  if (polderOf s h.polder.toNat).hostMigrate || pinned s h.polder.toNat ipa || Config.freeFrames s.fresh e < fieldOf m 16 16 then none
  else if !h.written && fieldOf m 32 16 ≤ ce then some (e, true)
  else if fieldOf m 48 16 + h.counts.getD d 0 < ce * (64 + q) / 64 then some (e, false)
  else none

/-- The decisions of an epoch: a page decided for, with no frames yet. Earlier decisions that found no frames lapse. -/
def decideAll (s : State) (d : Nat) : State :=
  let old := s.migrating.filter (fun e => !e.2.2.2.isEmpty)
  let new := (dieOf s d).heat.foldl (fun m e =>
    let key := pageKey e.2.polder.toNat e.2.page.toNat
    match heatDecision s d e.2 with
    | some (t, rep) => if (look m key).isSome then m else put m key (BitVec.ofNat 2 t, rep, [])
    | none => m) old
  { s with migrating := new, fresh := s.fresh + 1 }

/-- An epoch of a die is over: 2^EPOCH of its cycles have passed (R185). -/
def epochOver (s : State) (d : Nat) : Bool := decide ((dieOf s d).epochAt.toNat + 2 ^ fieldOf s.device.migcfg 0 5 ≤ (dieOf s d).cyc.toNat)

/-- EPOCH_END (R178): at the end of an epoch decisions, then halved counts and WRITTEN cleared. -/
def execEpochEnd (d : BitVec 2) (s : State) : Out :=
  if !epochOver s d.toNat then .next s
  else
    let s := decideAll s d.toNat
    let x := dieOf s d.toNat
    .next (setDie s d.toNat { x with
      heat := x.heat.map (fun e => (e.1, { e.2 with counts := e.2.counts.map (· / 2), written := false }))
      epochAt := x.epochAt + BitVec.ofNat 64 (2 ^ fieldOf s.device.migcfg 0 5) })

/-- The address of a frame, or of a replica record, that firmware gives: units of 64 bytes. -/
def frameAt (f : BitVec 40) : Nat := f.toNat * 64

/-- The frames that firmware gives for a page: an aligned one of the target die, and for a replication the place of a record among the
first eight of a frame (R173). -/
def framesFit (s : State) (e : BitVec 2) (replicate : Bool) (frames : List (BitVec 40)) : Bool :=
  let ok (a n : Nat) : Bool := isHbm a && !rangeQuarantined s a n
  match frames with
  | [f] => !replicate && frameAt f % 65536 == 0 && homeDie (frameAt f) == e.toNat && ok (frameAt f) 65536
  | [f, r] => replicate && frameAt f % 65536 == 0 && homeDie (frameAt f) == e.toNat && ok (frameAt f) 65536 && frameAt r % 4096 < 512 && ok (frameAt r) 64
  | _ => false

/-- PAGE_MIGRATE (R179 steps 1 and 2): a page that was decided for, with the frames that firmware gives: the new page, and for a
replication its record, each as an address in units of 64 bytes. -/
def execPageMigrate (d e : BitVec 2) (p : BitVec 6) (page : BitVec 36) (replicate : Bool) (frames : List (BitVec 40)) (s : State) : Out :=
  .next (
    let ipa := page.toNat * 65536
    let key := pageKey p.toNat page.toNat
    match look s.migrating key, leafOf s p.toNat ipa with
    | some (t, rep, []), some l =>
      let span := leafSpan l ipa
      if t != e || rep != replicate || !framesFit s e replicate frames || peRdup l.e || peMig l.e || l.lvl < 3 ||
          pinned s p.toNat ipa || homeDie l.out != d.toNat || !coverIdle s (polderCover s p.toNat span.1 span.2 false) then s
      else
        match splitLeaf s p.toNat l with
        | none => s
        | some s =>
          match leafOf s p.toNat ipa with
          | none => s
          | some l =>
            if !peC16 l.e then s
            else
              let s := rewriteRun s (runBase l) (fun _ x => if bitAt x 8 then x else x + 256)
              let s := invalidate s (polderCover s p.toNat span.1 span.2 false)
              { s with migrating := put s.migrating key (t, rep, frames) }
    | _, _ => s)

/-- A page's bytes, tags and poison are copied to another frame. -/
def copyPage (s : State) (src dst : Nat) : State :=
  let cells := s.mem.filter (fun c => src ≤ c.1 && c.1 < src + 65536)
  let s := { s with mem := clearRange s.mem dst 65536, tags := clearSectors s.tags dst 65536, poison := clearSectors s.poison dst 65536 }
  let s := { s with mem := cells.foldl (fun m c => Memory.write m (c.1 - src + dst) c.2) s.mem }
  (List.range 1024).foldl (fun s i =>
    let s := if memTag s (src + 64 * i) = 0 then s else setMemTag s (dst + 64 * i) (memTag s (src + 64 * i))
    if isPoisoned s (src + 64 * i) then setPoison s (dst + 64 * i) true else s) s

/-- No write to a page is on its way to its home, a refused write-back among them. -/
def pageQuiet (s : State) (base : Nat) : Bool :=
  s.cores.all (fun c => c.2.wbs.all (fun w => match w.2.home with
    | .phys l => l * 256 / 65536 * 65536 != base
    | .fabric => true)) &&
  s.dies.all (fun d => (d.2.link ++ d.2.held).all (fun l => l.2.all (fun m => m.writes.all (fun x => x.2.2.1 / 65536 * 65536 != base))))

/-- The record of a new replica pair (R173). -/
def writeReplica (s : State) (r d old e new : Nat) : State :=
  let s := (List.range 8).foldl (fun s i => deviceWrite s (r + 8 * i) 8 0) s
  let s := deviceWrite s (r + 8 * d) 8 old
  let s := deviceWrite s (r + 8 * e) 8 new
  deviceWrite s (r + 0x20) 4 (2 ^ d + 2 ^ e + 256 + 65536)

/-- MIGRATION_COPY_DONE (R179 steps 3 to 6). -/
def execMigrationCopyDone (p : BitVec 6) (page : BitVec 36) (s : State) : Out :=
  .next (
    let ipa := page.toNat * 65536
    let key := pageKey p.toNat page.toNat
    match look s.migrating key, leafOf s p.toNat ipa with
    | some (t, rep, f :: more), some l =>
      let old := l.out / 65536 * 65536
      let new := frameAt f
      -- step 5's PTLBI: what was issued before it reads the old frame to its end (R169)
      if !pageQuiet s old || !coverIdle s (polderCover s p.toNat ipa 65536 false) then s
      else
        let s := copyPage s old new
        let keep (e : Nat) : Nat := 1 + 2 + bitsAt e 2 4 * 4 + 64
        let s := if rep then
            let r := frameAt (more.headD 0)
            let s := writeReplica s r (homeDie old) old t.toNat new
            rewriteRun s (runBase l) (fun _ e => r / 4096 * 4096 + r % 4096 / 64 % 8 * 2 ^ 9 + 128 + keep e)
          else rewriteRun s (runBase l) (fun i e => new + 4096 * i + keep e)
        let s := invalidate s (polderCover s p.toNat ipa 65536 false)
        let s := if rep then s else quarantine s p.toNat (pageFrames old)
        wakePage { s with migrating := del s.migrating key } ipa
    | _, _ => s)

end Sys2Proof.Machine
end

