-- ==== Sys2Proof/Machine/FabricSend.lean ====
section
/-! DEFINITION. The source side of the fabric: what leaves a port and when, retention, sealing, and the egress queue of the
integrated switch (R136, R138 to R142, R144, R148, R150, R154 to R158, R208). -/

namespace Sys2Proof.Machine

/-! ### The header flit (R136) -/

def flagByte (p : Packet) : Nat :=
  (if p.trim then 1 else 0) + (if p.notrim then 2 else 0) + (if p.cm then 4 else 0) + (if p.sealed then 8 else 0) +
    (if p.rel then 16 else 0) + (if p.refill then 32 else 0) + (if p.resend then 64 else 0) + (if p.masked then 128 else 0)

/-- The header as 64 little-endian bytes. -/
def headerFlit (p : Packet) : BitVec 512 :=
  BitVec.ofNat 512 (
    p.kind.toNat + flagByte p * 2 ^ 8 + (p.cls.toNat + p.len.toNat * 4 + p.polder.toNat * 32) * 2 ^ 16 +
    (p.src.toNat + p.plane.toNat * 2 ^ 14) * 2 ^ 32 + p.dst.toNat * 2 ^ 48 +
    (p.stag.toNat + if p.ck then 2 ^ 15 else 0) * 2 ^ 64 + (p.op.toNat + p.tyField.toNat * 16 + p.status.toNat * 256) * 2 ^ 80 +
    p.ctx.toNat * 2 ^ 96 + (p.cont.toNat + p.gen.toNat * 2 ^ 10) * 2 ^ 112 +
    (p.off.toNat + p.tag.toNat * 2 ^ 42 + p.rcore.toNat * 2 ^ 46 + (if p.tck then 2 ^ 55 else 0) + (if p.tref then 2 ^ 56 else 0)) * 2 ^ 128 +
    p.sealCtr.toNat * 2 ^ 192 + p.sealTag.toNat * 2 ^ 256 + p.hopTag.toNat * 2 ^ 384)

/-! ### Send tags and retention (R141, R142) -/

/-- The key of a combination of node, plane and class. -/
def streamKey (node plane cls : Nat) : Nat := (node * 4 + plane) * 4 + cls

/-- Order of send tags modulo 4,096 (R141). -/
def tagBefore (a b : BitVec 12) : Bool := a != b && (b - a).toNat < 2048

/-- Requests that a source retains until their response (R142). -/
def isRequest (p : Packet) : Bool := p.kind == kRdreq || p.kind == kGetreq || p.kind == kMclose || p.kind == kXlreq

/-- Packets that a source retains: class 2, and requests. -/
def retains (p : Packet) : Bool := p.cls == 2 || isRequest p

/-- The flits of a polder that are retained. -/
def retainedFlits (s : State) (p : BitVec 6) : Nat :=
  (s.fabric.retained.filter (fun r => r.pkt.polder == p)).foldl (fun a r => a + flitsOf r.pkt) 0

/-- The retained packets of one stream. -/
def streamOf (s : State) (p : Packet) : List Retained :=
  s.fabric.retained.filter (fun r => r.pkt.cls == 2 && r.pkt.dst == p.dst && r.pkt.plane == p.plane)

/-- The group that issued an operation. -/
def opGroup (s : State) (k op : Nat) : Option (Nat × Nat) := (opOf s k op).map (fun o => (o.uid, o.gid))

/-- Packets at the source side of every port. -/
def allWaiting (s : State) : List (Packet × Nat × Nat) := s.fabric.ports.flatMap (fun e => e.2.waiting)

/-- R148 at the source: every earlier class-2 packet of the issuing group to the destination has been received. -/
def releaseClear (s : State) (p : Packet) (k op : Nat) : Bool :=
  let mine (k' op' : Nat) (q : Packet) : Bool := q.cls == 2 && q.dst == p.dst && k' == k && op' < op && opGroup s k' op' == opGroup s k op
  !p.rel || (!(s.fabric.retained.any (fun r => mine r.core r.op r.pkt && !r.received)) && !((allWaiting s).any (fun w => mine w.2.1 w.2.2 w.1)))

/-! ### What may leave a port -/

/-- Credits of a hop (R138): 64, 256, and 2,048 shared by classes 2 and 3 with 256 reserved for each. -/
def creditOk (x : Port) (cls n : Nat) : Bool :=
  let u := lookD x.used cls 0
  if cls = 0 then u + n ≤ 64
  else if cls = 1 then u + n ≤ 256
  else u + n + max 256 (lookD x.used (5 - cls) 0) ≤ 2048

/-- Entry i of FPLANE awaits the drain of its old plane (R139, R140). -/
def entryPending (s : State) (e : Nat) : Bool := bitAt s.fabric.fplane.toNat (12 + e)

/-- Refills, resends and class 0 are never held by the rate, the allowance or a drain (R208, R140). -/
def exempt (p : Packet) : Bool := p.refill || p.resend || p.cls == 0

/-- The sectors that a packet of a core fetches or sends, for which its port takes tokens (R205): the data flits of a write or a stage, one
for an atomic, and for a read those that its lanes read. -/
def packetTokens (s : State) (k : Nat) (p : Packet) : Nat :=
  if p.kind == kWr || p.kind == kPuts then p.payload.length - (if p.masked then 1 else 0)
  else if p.kind == kMstage then p.payload.length - 1
  else if p.kind == kAtomreq then 1
  else if p.kind == kRdreq || p.kind == kGetreq then ((lookD (coreOf s k).conts p.cont.toNat {}).lanes.map (fun a => a.va.toNat / 64)).eraseDups.length
  else 0

/-- A packet as a request at its core's port (R205). -/
def packetReq (w : Packet × Nat × Nat) : PortReq := .packet w.2.2 w.1.off

/-- A packet takes no token. -/
def tokenFree (s : State) (w : Packet × Nat × Nat) : Bool := exempt w.1 || packetTokens s w.2.1 w.1 == 0

/-- A packet of a core does not wait for a token. -/
def hasTokens (s : State) (w : Packet × Nat × Nat) : Bool := tokenFree s w || portOpen s w.2.1 w.1.ctx (packetReq w)

/-- The polder's flits sent in the running interval leave room for a packet (R208). -/
def inRate (s : State) (port : Nat) (p : Packet) : Bool :=
  let x := polderOf s p.polder.toNat
  exempt p || lookD x.sent port 0 + flitsOf p ≤ x.rate port

/-- Whether a packet at the source side of a port may leave now, tokens apart (R138, R140 to R142, R148, R150, R208). -/
def mayLeaveBut (s : State) (port : Nat) (w : Packet × Nat × Nat) : Bool :=
  let p := w.1
  let n := flitsOf p
  let x := polderOf s p.polder.toNat
  creditOk (portOf s port) p.cls.toNat n &&
    (exempt p ||
      (!entryPending s (mapEntry p.off.toNat) && inRate s port p &&
        (!retains p || retainedFlits s p.polder + n ≤ x.psend.toNat) &&
        (p.cls != 2 || ((streamOf s p).length < 2048 && !(streamOf s p).any (·.resend))) &&
        releaseClear s p w.2.1 w.2.2))

/-- Whether a packet at the source side of a port may leave now: it has its tokens too (R205). -/
def mayLeave (s : State) (port : Nat) (w : Packet × Nat × Nat) : Bool := mayLeaveBut s port w && hasTokens s w

/-- An earlier packet at the source that a later one of its polder may not pass: of its class, or to its line (R142, R229). -/
def goesFirst (a b : Packet × Nat × Nat) : Bool :=
  !exempt b.1 && a.1.polder == b.1.polder &&
    (a.1.cls == b.1.cls || (a.1.cls != 0 && a.1.dst == b.1.dst && a.1.off.toNat / 256 == b.1.off.toNat / 256))

/-- The packets at the source side of a port, those of the context with the first service of their core before all others (R196). -/
def servedPackets (s : State) (port : Nat) : List (Packet × Nat × Nat) :=
  let mine (w : Packet × Nat × Nat) : Bool := ownRequest w.1 && firstServed (coreOf s w.2.1) == some w.1.ctx.toNat
  (portOf s port).waiting.filter mine ++ (portOf s port).waiting.filter (fun w => !mine w)

/-- Packets that lack nothing but a token wait for it at their cores' ports; those that lack something else give their places up (R205). -/
def askTokens (s : State) (port : Nat) : State :=
  let x := portOf s port
  ((servedPackets s port).foldl (fun a w =>
    let go := !x.down && !x.halt && mayLeaveBut a.1 port w && !a.2.any (fun v => goesFirst v w)
    let t := if tokenFree a.1 w then a.1
      else if !go then portLeave a.1 w.2.1 (packetReq w)
      else if hasTokens a.1 w then a.1
      else portWait a.1 w.2.1 w.1.ctx (packetReq w)
    (t, a.2 ++ [w])) (s, ([] : List (Packet × Nat × Nat)))).1

/-- The first packet of a class at the source that may leave. -/
def firstWaiting (s : State) (port cls : Nat) : List (Packet × Nat × Nat) → List (Packet × Nat × Nat) → Option (Packet × Nat × Nat)
  | _, [] => none
  | seen, w :: r =>
    if w.1.cls.toNat = cls && mayLeave s port w && !seen.any (fun v => goesFirst v w) then some w
    else firstWaiting s port cls (seen ++ [w]) r

/-- A packet about to leave a port: from the switch's egress queue, from the source side, or again after a REJECT (R150). -/
inductive Leaving where
  | transit (p : Packet)
  | first (w : Packet × Nat × Nat)
  | again (r : Retained)
  deriving DecidableEq, Repr

def Leaving.pkt : Leaving → Packet
  | .transit p => p
  | .first w => w.1
  | .again r => r.pkt

/-- The port of a retained packet. -/
def retainedPort (r : Retained) : Nat := 4 * dieOfCore r.core + r.pkt.plane.toNat

/-- No resend of the same stream, at whatever port, has a lower tag: resends go in tag order (R150). -/
def resendFirst (s : State) (r : Retained) : Bool := !(streamOf s r.pkt).any (fun q => q.resend && tagBefore q.pkt.stag r.pkt.stag)

/-- The first packet of a queue whose polder's rate leaves it room. The packets of one polder keep their order, but for those that the rate
never holds. -/
def firstInRate (s : State) (port : Nat) : List (BitVec 6) → List Packet → Option Packet
  | _, [] => none
  | held, p :: r =>
    if exempt p then some p
    else if held.contains p.polder then firstInRate s port held r
    else if inRate s port p then some p
    else firstInRate s port (p.polder :: held) r

/-- The packet of a class in a port's egress queue that goes next. -/
def firstQueued (s : State) (port cls : Nat) : Option Packet := firstInRate s port [] ((portOf s port).queue.filter (fun p => p.cls.toNat == cls))

/-- The next packet of a class at a port. -/
def nextOfClass (s : State) (port cls : Nat) : Option Leaving :=
  let fits (p : Packet) : Bool := creditOk (portOf s port) cls (flitsOf p)
  match (firstQueued s port cls).filter fits with
  | some p => some (.transit p)
  | none =>
    match if cls = 2 then s.fabric.retained.find? (fun r => r.resend && retainedPort r == port && resendFirst s r && fits r.pkt) else none with
    | some r => some (.again r)
    | none => (firstWaiting s port cls [] (servedPackets s port)).map .first

/-- Of classes 2 and 3, the one whose turn it is (R138: they alternate by packet). -/
def nextData (s : State) (port : Nat) : Option Leaving :=
  let a := nextOfClass s port 2
  let b := nextOfClass s port 3
  if (portOf s port).lastData == 2 then b.or a else a.or b

/-- The last counter value for data under a key (R155). -/
def counterEnd : Nat := 2 ^ 40 - 2

/-- The packet that a port sends next (R138): class 0 first; class 1 against classes 2 and 3 in a 1:3 ratio of flits. Classes 2 and 3 have
the first turn after reset: DESIGN CHOICE, log 3. -/
def nextToSend (s : State) (port : Nat) : Option Leaving :=
  let x := portOf s port
  if x.down || x.halt || counterEnd ≤ x.counter then none
  else
    match nextOfClass s port 0 with
    | some l => some l
    | none =>
      match nextOfClass s port 1, nextData s port with
      | some a, some b => if 3 * flitsOf a.pkt ≤ x.turnFlits then some a else some b
      | a, b => a.or b

/-! ### Leaving -/

/-- The header as the seal covers it: without the flags that switches, refills and resends change. -/
def sealHeader (p : Packet) : BitVec 512 :=
  headerFlit { p with refill := false, resend := false, notrim := false, cm := false, sealTag := 0, hopTag := 0 }

/-- The end-to-end seal of a payload (R156): SEALCTR counts by source, destination and polder. -/
def sealPacket (s : State) (p : Packet) : State × Packet :=
  let x := polderOf s p.polder.toNat
  match x.flowKey with
  | none => (s, p)
  | some key =>
    if p.cls.toNat < 2 || p.payload.isEmpty then (s, p)
    else
      let n := lookD x.sealCtr p.dst.toNat 0
      let q := { p with sealed := true, sealCtr := n }
      let (fl, tag) := Config.gcmSeal key n (sealHeader q) p.payload
      (setPolder s p.polder.toNat { x with sealCtr := put x.sealCtr p.dst.toNat (n + 1) }, { q with payload := fl, sealTag := tag })

/-- A packet of classes 2 and 3 takes its send tag (R141). -/
def tagPacket (s : State) (p : Packet) : State × Packet :=
  if p.cls.toNat < 2 then (s, p)
  else
    let key := streamKey p.dst.toNat p.plane.toNat p.cls.toNat
    let t := lookD s.fabric.tags key 0
    (onFabric s (fun f => { f with tags := put f.tags key (t + 1) }), { p with stag := t })

/-- The nonce of a hop: the link's identity and a counter (R154). -/
def hopNonce (port n : Nat) : BitVec 96 := BitVec.ofNat 96 ((Config.linkIdentity port).toNat * 2 ^ 40 + n)

/-- A packet as it goes on a link under the link's key and a counter value: with its HOPTAG, and its flits (R154). -/
def onWire (port : Nat) (x : Port) (n : Nat) (p : Packet) : Port :=
  let f := Config.hopSeal port x.keyNo (hopNonce port n) (headerFlit { p with hopTag := 0 } :: p.payload)
  { x with sent := { p with hopTag := f.2 } :: x.sent, wire := f.1 :: x.wire }

/-- A packet is on the link: its flits, credits, turn and hop counter are counted. Of an unused share the classes keep at most 18 flits, three
packets of the largest: DESIGN CHOICE, log 3. -/
def putOnLink (s : State) (port : Nat) (p : Packet) : State :=
  let n := flitsOf p
  let c := p.cls.toNat
  onPort s port (fun x => { onWire port x x.counter p with
    counter := x.counter + 1
    used := put x.used c (lookD x.used c 0 + n)
    turnFlits := if c = 0 then x.turnFlits else if c = 1 then x.turnFlits - 3 * n else min (x.turnFlits + n) 18
    lastData := if c < 2 then x.lastData else p.cls
    idle := 0 })

/-- The flits of a packet count against its polder's RATE (R208). -/
def countRate (s : State) (port : Nat) (p : Packet) : State :=
  onPolder s p.polder.toNat (fun x => { x with sent := put x.sent port (lookD x.sent port 0 + flitsOf p) })

/-- A packet leaves a port. -/
def sendNow (s : State) (port : Nat) (l : Leaving) : State :=
  match l with
  | .transit p => putOnLink (countRate (onPort s port (fun x => { x with queue := x.queue.erase p })) port p) port p
  | .again r =>
    let p := { r.pkt with resend := true, notrim := true }
    let s := onFabric s (fun f => { f with retained := f.retained.map (fun o => if o = r then { o with resend := false, sentAt := f.cyc } else o) })
    putOnLink (countRate s port p) port p
  | .first w =>
    let s := onPort s port (fun x => { x with waiting := x.waiting.erase w })
    let s := if w.1.kind == kRefillreq then bumpCounter s 2 1 else s
    if exempt w.1 then putOnLink (countRate s port w.1) port w.1
    else
      let s := spendTok s w.2.1 w.1.ctx (packetTokens s w.2.1 w.1)
      let (s, p) := tagPacket s w.1
      let (s, p) := sealPacket s p
      let wb := if wbBase ≤ w.2.2 then some (w.2.2 - wbBase) else none
      let s := if retains p then
          onFabric s (fun f => { f with retained := f.retained ++ [{ pkt := p, core := w.2.1, op := w.2.2, wb := wb, sentAt := f.cyc, limit := f.ftimeout.toNat }] })
        else s
      putOnLink (countRate s port p) port p

/-- FABRIC_SEND (R138 to R142). -/
def execFabricSend (port : BitVec 4) (s : State) : Out :=
  let s := askTokens s port.toNat
  .next (match nextToSend s port.toNat with
    | none => s
    | some l => sendNow s port.toNat l)

/-! ### The egress queue of the integrated switch (R144, R157, R158) -/

/-- The data queue's occupancy, and a polder's part of it. -/
def dataFlits (x : Port) (p : Packet → Bool) : Nat :=
  (x.queue.filter (fun q => 2 ≤ q.cls.toNat && p q)).foldl (fun a q => a + flitsOf q) 0

def ftrimField (s : State) (lo : Nat) : Nat := fieldOf s.fabric.ftrim lo 8

/-- Whether the queue trims a packet (R144). -/
def trims (s : State) (x : Port) (p : Packet) : Bool :=
  2 ≤ p.cls.toNat && !p.notrim && !p.trim && p.len != 0 && ftrimField s 0 * 8 ≤ dataFlits x (fun _ => true)

/-- Whether the queue marks a packet or a skim (R158). -/
def marks (s : State) (x : Port) (p : Packet) : Bool :=
  let all := dataFlits x (fun _ => true)
  (2 ≤ p.cls.toNat || p.trim) && ftrimField s 8 * 8 ≤ all && all ≤ 8 * dataFlits x (fun q => q.polder == p.polder)

/-- A packet goes into an egress queue, marked where the queue marks it. -/
def egress (s : State) (port : Nat) (p : Packet) : State :=
  onPort s port (fun x => { x with queue := x.queue ++ [if marks s x p then { p with cm := true } else p] })

/-- Two ATOMREQ packets that may be combined (R157): integer additions of one type code. R157 does not say whether i32 combines with n32, or i64
with n64, whose additions wrap alike: here they do not (DESIGN CHOICE, log 32). -/
def combines (a b : Packet) : Bool :=
  let ok (p : Packet) : Bool := p.kind == kAtomreq && !p.trim && !p.sealed && p.op == 0 && 4 ≤ p.tyField.toNat && p.tyField.toNat < 8
  ok a && ok b && a.off == b.off && a.tag == b.tag && a.tck == b.tck && a.tref == b.tref && a.dst == b.dst && a.polder == b.polder && a.tyField == b.tyField

/-- The operand of an ATOMREQ. -/
def atomOperand (p : Packet) : Nat := bitsAt (p.payload.headD 0).toNat 0 64

/-- The record of a queued combined packet. -/
def recordOf (s : State) (q : Packet) : Option (Nat × Combine) :=
  s.fabric.combines.find? (fun e => e.2.members.head?.any (fun m => m.src == q.src && m.plane == q.plane && m.stag == q.stag && m.off == q.off && m.dst == q.dst))

/-- A packet joins a queued one: the wrapped sum, NOTRIM, and its place in the record. None when no record is free. -/
def joinQueued (s : State) (port : Nat) (q p : Packet) : Option State :=
  let sum := { q with notrim := true, payload := [BitVec.ofNat 512 ((atomOperand q + atomOperand p) % 2 ^ 64)] }
  let place : Option (Nat × Combine) :=
    match recordOf s q with
    | some (i, r) => if r.members.length < 8 then some (i, { r with members := r.members ++ [p] }) else none
    | none => (freeKey s.fabric.combines 256).map (fun i => (i, { addr := q.off, dst := q.dst, polder := q.polder, members := [q, p] }))
  place.map (fun e =>
    let s := onPort s port (fun x => { x with queue := x.queue.map (fun o => if o = q then sum else o) })
    bumpCounter (onFabric s (fun f => { f with combines := put f.combines e.1 e.2 })) 7 1)

/-- A packet is queued: trimmed, marked, counted when it passes sealed; one that finds no room is not accepted. -/
def enqueue (s : State) (port : Nat) (p : Packet) : State :=
  let x := portOf s port
  let cut := trims s x p
  let q := if cut then { p with trim := true, cls := 0, payload := [] } else p
  if !cut && 2 ≤ p.cls.toNat && 2048 < dataFlits x (fun _ => true) + flitsOf p then s
  else
    let s := if cut then bumpCounter s 0 1 else s
    let s := if p.kind == kAtomreq && p.sealed then bumpCounter s 8 1 else s
    egress s port q

/-- SWITCH_EGRESS_ENQUEUE (R144, R157, R158). -/
def execSwitchEgressEnqueue (port : BitVec 4) (p : Packet) (s : State) : Out :=
  .next (
    match ((portOf s port.toNat).queue.filter (fun q => combines q p)).findSome? (fun q => joinQueued s port.toNat q p) with
    | some s => s
    | none => enqueue s port.toNat p)

/-! ### Credits, keys and planes (R138, R140, R154, R155) -/

/-- A control flit passes (R154, R155): its counter rises, and at its end with no next key the link goes down. -/
def countControl (x : Port) : Port :=
  { x with control := x.control + 1, down := x.down || (counterEnd ≤ x.control + 1 && !x.nextKey) }

/-- CREDIT_RETURN (R138). -/
def execCreditReturn (port : BitVec 4) (cls : BitVec 2) (flits : Nat) (s : State) : Out :=
  .next (onPort s port.toNat (fun x => countControl { x with used := putD x.used cls.toNat 0 (lookD x.used cls.toNat 0 - flits) }))

/-- A link control flit; its OP code tells KEYSWITCH (1) from KEYHALT (2), a DESIGN CHOICE: log 13. -/
def endpointFlit (s : State) (op : BitVec 4) : Packet := { kind := kEndpoint, src := s.fabric.node, op := op }

/-- A control flit that a port sends: it is counted, and goes on the link under the control key and the control counter, which are its own
(R154). -/
def controlFlit (port : Nat) (x : Port) (p : Packet) : Port :=
  { countControl x with wire := (Config.controlSeal port x.keyNo (hopNonce port x.control) [headerFlit p]).1 :: x.wire }

/-- The data counter of a link is at its end under the present key, and data has not been halted (R155). -/
def keyRunsOut (x : Port) : Bool := decide (counterEnd ≤ x.counter) && !x.halt

/-- KEYSWITCH (R154): the flit that announces it takes the counter value 2^40 - 1 of the old key, and the link goes over to its next keys,
whose counters start at 0. -/
def execKeyswitch (port : BitVec 4) (s : State) : Out :=
  .next (onPort s port.toNat (fun x =>
    if x.nextKey then { onWire port.toNat x (2 ^ 40 - 1) (endpointFlit s 1) with nextKey := false, counter := 0, control := 0, keyNo := x.keyNo + 1 } else x))

/-- KEYHALT (R155), sent or received: data stops. It is sent where the port's own key has run out with no next one. -/
def execKeyhalt (port : BitVec 4) (s : State) : Out :=
  .next (onPort s port.toNat (fun x =>
    { (if keyRunsOut x && !x.nextKey then controlFlit port.toNat x (endpointFlit s 2) else countControl x) with
      halt := true, haltFor := if x.halt then x.haltFor else 0, haltLimit := if x.halt then x.haltLimit else s.fabric.deadt.toNat }))

/-- HOP_KEY_INSTALL (R154, R155): a next key; on a halted link the KEYSWITCH flit announces it under the last value of the old key, and data
resumes under it. -/
def execHopKeyInstall (port : BitVec 4) (s : State) : Out :=
  .next (onPort s port.toNat (fun x =>
    if x.halt then { onWire port.toNat x (2 ^ 40 - 1) (endpointFlit s 1) with halt := false, haltFor := 0, counter := 0, control := 0, keyNo := x.keyNo + 1, nextKey := false } else { x with nextKey := true }))

/-- The last packet of a port goes out again from the link's replay buffer. -/
def replayed (port : Nat) (x : Port) : Port :=
  match x.sent with
  | p :: _ => onWire port x x.counter p
  | [] => x

/-- HOP_AUTH_FAIL (R154): the packet is replayed under a fresh counter value, and the error counted. -/
def execHopAuthFail (port : BitVec 4) (s : State) : Out :=
  .next (bumpCounter (onPort s port.toNat (fun x => { replayed port.toNat x with counter := x.counter + 1 })) 10 1)

/-- LINK_DOWN (R155). -/
def execLinkDown (port : BitVec 4) (s : State) : Out := .next (onPort s port.toNat (fun x => { x with down := true }))

/-- The four ports of a plane. -/
def planePorts (plane : Nat) : List Nat := (List.range 4).map (fun d => 4 * d + plane)

def deadBit (s : State) (plane : Nat) : Bool := bitAt s.fabric.fplane.toNat (8 + plane)
def mapOf (s : State) (e : Nat) : Nat := fieldOf s.fabric.fplane (2 * e) 2

/-- A port that makes its plane dead (R140): it is down, halted for DEADT cycles (R155, log 13), or silent for as long. -/
def portFails (s : State) (port : Nat) : Bool :=
  let x := portOf s port
  x.down || (x.halt && x.haltLimit ≤ x.haltFor) || (x.idle != 0 && x.idleLimit ≤ x.idle)

/-- PEND of an entry. -/
def setPend (w : Word) (e v : Nat) : Word := setField w (12 + e) 1 v

/-- PLANE_DEAD (R140): DEAD, and PEND of every entry that maps to the plane. -/
def execPlaneDead (plane : BitVec 2) (s : State) : Out :=
  let p := plane.toNat
  .next (
    if (planePorts p).any (portFails s) && !deadBit s p then
      let w := [0, 1, 2, 3].foldl (fun w e => if fieldOf w (2 * e) 2 = p then setPend w e 1 else w) (setField s.fabric.fplane (8 + p) 1 1)
      onFabric s (fun f => { f with fplane := w })
    else s)

/-- The request of a continuation is still at its source port. -/
def contWaits (s : State) (k e : Nat) (x : Continuation) : Bool :=
  (allWaiting s).any (fun w => w.2.1 == k && w.2.2 == x.op && w.1.cont.toNat == e && w.1.gen == x.gen && !exempt w.1)

/-- Nothing sent on a plane is still open: retained packets are answered or timed out, continuations returned (R140). A packet that was
acknowledged GAP or HELD has still its last acknowledgement to come, and the drain waits for that: R140 does not say which acknowledgement
counts (DESIGN CHOICE, log 30). -/
def planeDrained (s : State) (plane : Nat) : Bool :=
  !(s.fabric.retained.any (fun r => r.pkt.plane.toNat == plane && s.fabric.cyc.toNat < r.sentAt.toNat + r.limit)) &&
    !(s.cores.any (fun c => c.2.conts.any (fun x => x.2.used && x.2.plane.toNat == plane && !contWaits s c.1 x.1 x.2)))

/-- The live plane carried by the fewest entries, ties to the lower number. -/
def leastPlane (s : State) : Option Nat :=
  let live := (List.range 4).filter (fun p => !deadBit s p)
  let carried (p : Nat) : Nat := ((List.range 4).filter (fun e => mapOf s e == p)).length
  live.foldl (fun b p => match b with
    | none => some p
    | some q => if carried p < carried q then some p else b) none

/-- Packets of an entry that wait at a source port go over to the ports of another plane, and their continuations with them. -/
def moveWaiting (s : State) (e to' : Nat) : State :=
  let moved (k n : Nat) (x : Continuation) : Continuation :=
    if x.used && mapEntry x.line.toNat == e && contWaits s k n x then { x with plane := BitVec.ofNat 2 to' } else x
  let s := { s with cores := s.cores.map (fun c => (c.1, { c.2 with conts := c.2.conts.map (fun x => (x.1, moved c.1 x.1 x.2)) })) }
  let mine (w : Packet × Nat × Nat) : Bool := !exempt w.1 && mapEntry w.1.off.toNat == e
  (List.range 4).foldl (fun s d =>
    (List.range 4).foldl (fun s p =>
      if p = to' then s
      else
        let ws := (portOf s (4 * d + p)).waiting.filter mine
        let s := onPort s (4 * d + p) (fun x => { x with waiting := x.waiting.filter (fun w => !mine w) })
        onPort s (4 * d + to') (fun x => { x with waiting := x.waiting ++ ws.map (fun w => ({ w.1 with plane := BitVec.ofNat 2 to' }, w.2)) })) s) s

/-- PLANE_REMAP (R140): a drained entry goes to the plane that firmware named, or to the least carried live plane. -/
def execPlaneRemap (entry : BitVec 2) (s : State) : Out :=
  let e := entry.toNat
  .next (
    if !entryPending s e || !planeDrained s (mapOf s e) then s
    else
      match ((look s.fabric.newMap e).map BitVec.toNat).filter (fun p => !deadBit s p) |>.or (leastPlane s) with
      | none => s
      | some p =>
        let s := onFabric s (fun f => { f with fplane := setPend (setField f.fplane (2 * e) 2 p) e 0, newMap := del f.newMap e })
        moveWaiting s e p)

/-- PLANE_REVIVE (R140): the plane's ports have recovered; DEAD clears and MAP stays. -/
def execPlaneRevive (plane : BitVec 2) (s : State) : Out :=
  let p := plane.toNat
  .next (
    if deadBit s p then
      let s := (planePorts p).foldl (fun s q => onPort s q (fun x => { x with down := false, idle := 0 })) s
      if (planePorts p).any (portFails s) then s else onFabric s (fun f => { f with fplane := setField f.fplane (8 + p) 1 0 })
    else s)

/-- FLOW_KEY_INSTALL (R65, R156): by firmware, or by the host when KEYROT names it. -/
def execFlowKeyInstall (host : Bool) (p : BitVec 6) (key : Word) (s : State) : Out :=
  .next (if (polderOf s p.toNat).hostKeyrot == host then onPolder s p.toNat (fun x => { x with flowKey := some key }) else s)

end Sys2Proof.Machine
end

