-- ==== Sys2Proof/Machine/FabricRecv.lean ====
section
/-! DEFINITION. The source side's answers: acknowledgements, refusals, responses and their continuations, refill requests, and the
host translation agent (R142, R143, R146, R150, R151, R171, R172, R230). -/

namespace Sys2Proof.Machine

/-! ### What every arrival meets first (R136, R137, R153, R156) -/

/-- The class and the payload lengths of a kind (R137); none for a kind that no receiver knows. -/
def kindRule (k : BitVec 8) : Option (Nat × Nat × Nat) :=
  [(kRdreq, 1, 0, 0), (kRdrsp, 3, 1, 4), (kWr, 2, 1, 5), (kAtomreq, 2, 1, 1), (kAtomrsp, 3, 1, 1), (kPuts, 2, 1, 5),
   (kGetreq, 1, 0, 0), (kGetrsp, 3, 1, 4), (kMstage, 2, 1, 5), (kMclose, 1, 1, 1), (kXlreq, 1, 1, 1), (kXlrsp, 1, 1, 1),
   (kXlinv, 1, 1, 1), (kAck, 0, 0, 0), (kNack, 0, 0, 0), (kRefillreq, 0, 0, 0)].find? (fun e => e.1 == k) |>.map (·.2)

/-- A reserved bit of a mask flit is set (R136). -/
def maskBits (p : Packet) : Bool := p.masked && !p.trim && bitsAt (p.payload.headD 0).toNat 256 256 != 0

/-- The same before a seal is opened: the bits of a sealed flit are ciphertext. -/
def maskReserved (p : Packet) : Bool := !p.sealed && maskBits p

/-- A packet that the endpoint discards: a reserved bit, an unknown kind, a wrong class or length, another node's number, a
translation packet that is not the host's (R136, R137, R172). -/
def badFrame (s : State) (p : Packet) : Bool :=
  p.reservedSet || maskReserved p || p.dst != s.fabric.node ||
    (match kindRule p.kind with
      | none => true
      | some (c, lo, hi) =>
        if p.trim then c < 2 || p.cls != 0
        else p.cls.toNat != c || p.payload.length != p.len.toNat || p.len.toNat < lo || hi < p.len.toNat) ||
    ((p.kind == kXlreq || p.kind == kXlrsp || p.kind == kXlinv) && !(s.device.hostV && p.src == s.device.hostNode))

/-- A discarded packet is counted (R210). -/
def discard (s : State) : State := bumpCounter s 6 1

/-- A packet that asks for something: it is answered under a tombstone (R153). -/
def asks (p : Packet) : Bool :=
  (isRequest p || p.kind == kXlinv || p.kind == kWr || p.kind == kAtomreq || p.kind == kPuts || p.kind == kMstage) && !p.refill

/-- A packet that names a polder under a tombstone is absorbed (R153). -/
def absorbPacket (s : State) (p : Packet) : State :=
  let s := bumpCounter s 9 1
  if asks p then sendAnswer s p (answerOf p kNack stTomb) else s

/-- The receive window of a packet's stream; a skim counts in the class of its packet. -/
def windowKey (p : Packet) : Nat := streamKey p.src.toNat p.plane.toNat (if p.trim then ((kindRule p.kind).map (·.1)).getD 2 else p.cls.toNat)
def rxOf (s : State) (p : Packet) : RxWindow := lookD s.fabric.windows (windowKey p) {}
def setRx (s : State) (p : Packet) (w : RxWindow) : State := onFabric s (fun f => { f with windows := put f.windows (windowKey p) w })

/-- NEXT passes the tags received ahead of it. -/
def advanceNext (w : RxWindow) : Nat → RxWindow
  | 0 => w
  | n + 1 =>
    if w.early.contains w.next then advanceNext { w with next := w.next + 1, early := w.early.filter (· != w.next) } n else w

/-- A packet or skim is received (R141). -/
def receive (s : State) (p : Packet) : State :=
  let w := rxOf s p
  setRx s p (advanceNext { w with early := w.early ++ [p.stag] } (w.early.length + 1))

/-- A tag already received (R141). -/
def wasReceived (w : RxWindow) (t : BitVec 12) : Bool := tagBefore t w.next || w.early.contains t

/-- A sealed payload is opened: `none` when its tag does not verify (R156). -/
def openSeal (s : State) (p : Packet) : Option Packet :=
  if !p.sealed || p.trim then some p
  else
    match (polderOf s p.polder.toNat).flowKey with
    | none => none
    | some key =>
      (Config.gcmOpen key p.sealCtr (sealHeader p) p.payload p.sealTag).map (fun fl => { p with payload := fl })

/-- A replayed sealed packet (R156). -/
def isReplay (s : State) (p : Packet) : Bool := p.sealed && !p.refill && !p.resend && wasReceived (rxOf s p) p.stag

/-- Every arrival of a kind: malformed, absorbed, replayed or unsealable packets go no further. The NACK SEAL of a response names its tag like
that of a class-2 packet, and its responder, which retains no response, ignores it: DESIGN CHOICE, log 32. -/
def arrivePacket (s : State) (p : Packet) (kind : BitVec 8) (f : State → Packet → State) : State :=
  if p.kind != kind || badFrame s p then discard s
  else if (polderOf s p.polder.toNat).tomb.isSome then absorbPacket s p
  else if isReplay s p then s
  else
    match openSeal s p with
    | none => sendAnswer s p (answerOf p kNack stSeal)
    | some q => if maskBits q then discard s else f (if q.cls == 3 || ((kindRule q.kind).map (·.1)) == some 3 then receive s q else s) q

/-- MALFORMED_PACKET (R136, R137, R172). -/
def execMalformedPacket (p : Packet) (s : State) : Out := .next (if badFrame s p then discard s else s)

/-! ### Marks (R158, R208) -/

/-- A marked answer or response marks the running interval of its polder at the port it came in by. -/
def noteMark (s : State) (p : Packet) : State :=
  if p.cm then onPolder s p.polder.toNat (fun x => { x with marked := put x.marked (4 * p.inDie.toNat + p.plane.toNat) true }) else s

/-! ### Records of fabric accesses (R131, R143) -/

/-- The cause and subcode of a NACK status (R143). -/
def nackCause (st : BitVec 8) : Nat × Nat :=
  if st == stTag then (causeTag, st.toNat)
  else if 0x11 ≤ st.toNat && st.toNat ≤ 0x15 then (causeMerge, st.toNat - 0x10)
  else (causeFabric, st.toNat)

/-- The address that a packet named. -/
def fabricVa (p : Packet) : Word := BitVec.ofNat 64 (12 * 2 ^ 60 + p.tag.toNat * 2 ^ 56 + p.dst.toNat * 2 ^ 42 + p.off.toNat)

/-- The accesses that a packet carries: those of its line, or that of its lane for an atomic. -/
def packetAccs (p : Packet) (accs : List LaneAcc) : List LaneAcc :=
  if p.kind == kAtomreq then accs.filter (fun a => a.lane == p.lane.toNat && a.va == fabricVa p)
  else accs.filter (fun a => taggedLine a.va == taggedLine (fabricVa p))

/-- ACC of a packet's kind. -/
def packetAcc (p : Packet) : Nat :=
  if p.kind == kRdreq || p.kind == kGetreq then 1 else if p.kind == kAtomreq || p.kind == kMstage || p.kind == kMclose then 4 else 2

/-- A KIND 3 TAG record: the access was performed, and its tag did not match (R143). -/
def tagRecord (s : State) (k n : Nat) (p : Packet) (accs : List LaneAcc) : State :=
  let o := opOf s k n
  let s := onCtx s p.ctx.toNat (fun x => { x with tagReported := satAdd x.tagReported (max 1 ((accs.map (·.lane)).eraseDups).length) })
  reportCtx s
    { cause := causeTag, kind := 3, ctx := p.ctx.toNat, polder := p.polder.toNat, acc := packetAcc p, pc := (o.map (·.pc)).getD 0,
      addr := lowestVa accs (fabricVa p), lanes := maskOfLanes (accs.map (·.lane)), core := k, team := (o.map (·.team)).getD 0,
      group := (o.map (·.gid)).getD 0 }

/-! ### Continuations (R143) -/

/-- The entry that an answer or response names, when its generation matches. -/
def contOf (s : State) (p : Packet) : Option (Nat × Nat × Continuation) :=
  let k := p.rcore.toNat
  match look (coreOf s k).conts p.cont.toNat with
  | some x => if k < coreCount && x.used && x.gen == p.gen && x.dst == p.src then some (k, p.cont.toNat, x) else none
  | none => none

/-- Requests are given up: they are no longer retained, nor do they wait at a port (R142). -/
def dropRequests (s : State) (p : Packet → Nat → Bool) : State :=
  onFabric s (fun f => { f with
    retained := f.retained.filter (fun r => !p r.pkt r.core)
    ports := f.ports.map (fun e => (e.1, { e.2 with waiting := e.2.waiting.filter (fun w => !p w.1 w.2.1) })) })

/-- The entry is freed, its generation advances, and the request it kept is given up. -/
def endCont (s : State) (k e : Nat) : State :=
  let x := lookD (coreOf s k).conts e {}
  let s := onCore s k (fun c => { c with conts := put c.conts e (freeCont x) })
  dropRequests s (fun p core => isRequest p && p.kind != kXlreq && core == k && p.cont.toNat == e && p.gen == x.gen)

/-- The value of an access in a line's flits. -/
def lineValue (fl : List (BitVec 512)) (a : LaneAcc) : Word :=
  loadValue a (bitsAt (fl.getD (lineOff a.va / 64) 0).toNat (8 * (lineOff a.va % 64)) (8 * a.n))

/-- All ones for each access. -/
def onesFor (accs : List LaneAcc) : List (LaneAcc × Word) := accs.map (fun a => (a, BitVec.allOnes 64))

/-- A remote read has some of its lanes served; with none left its entry is ready and its flag retires (R26, R369). -/
def served (s : State) (k n : Nat) (gone : List LaneAcc) : State :=
  match opOf s k n with
  | none => s
  | some o =>
    match o.kind with
    | .remoteRead getf accs =>
      let rest := accs.filter (fun a => !gone.contains a)
      if rest.isEmpty then onGroup (finishOp s k n) o.uid o.gid (fun g => readyRemote g n)
      else onOp s k n (fun o => { o with kind := .remoteRead getf rest })
    | .remoteAtomic op t accs =>
      let rest := accs.filter (fun a => !gone.contains a)
      if rest.isEmpty then finishOp s k n else onOp s k n (fun o => { o with kind := .remoteAtomic op t rest, tracker := o.tracker - 1 })
    | _ => s

/-- The lanes that a continuation serves of its operation. -/
def contAccs (o : Op) (x : Continuation) : List LaneAcc :=
  match o.kind with
  | .remoteRead _ accs => accs.filter (fun a => x.lanes.contains a)
  | .remoteAtomic _ _ accs => accs.filter (fun a => x.lanes.contains a)
  | _ => []

/-- A response of a kind reaches its continuation; a trimmed one is reissued once (R143, R151). -/
def respondTo (s : State) (p : Packet) : State :=
  match contOf s p with
  | none => s
  | some (k, e, x) =>
    match opOf s k x.op with
    | none => s
    | some o =>
      let fits := match o.kind with
        | .remoteRead getf _ => p.kind == (if getf then kGetrsp else kRdrsp)
        | .remoteAtomic .. => p.kind == kAtomrsp
        | _ => false
      if !fits then s
      else if p.trim then onCore s k (fun c => { c with conts := alter c.conts e (fun x => { x with skimmed := !x.reissued }) })
      else
        let accs := contAccs o x
        let vs := accs.map (fun a => (a, match o.kind with
          | .remoteAtomic .. => BitVec.ofNat 64 (bitsAt (p.payload.headD 0).toNat 0 (8 * a.n))
          | _ => lineValue p.payload a))
        let s := if p.status == stTag then tagRecord s k x.op { p with dst := p.src, kind := if p.kind == kAtomrsp then kAtomreq else kRdreq } accs else s
        let s := deliver s x.op o vs
        served (endCont s k e) k x.op accs

/-- A response arrives: its mark, whatever becomes of it (R208), and its lanes. -/
def takeResponse (s : State) (p : Packet) : State := respondTo (noteMark s p) p

/-- RDRSP, GETRSP, ATOMRSP (R143). -/
def execRdrsp (p : Packet) (s : State) : Out := .next (arrivePacket s p kRdrsp takeResponse)
def execGetrsp (p : Packet) (s : State) : Out := .next (arrivePacket s p kGetrsp takeResponse)
def execAtomrsp (p : Packet) (s : State) : Out := .next (arrivePacket s p kAtomrsp takeResponse)

/-- CONTINUATION_TIMEOUT (R143): all ones, and the FSTAT bit of the instruction; an MCLOSE that is never answered frees its entry,
and its lanes go on. -/
def execContinuationTimeout (k : BitVec 9) (entry : BitVec 10) (s : State) : Out :=
  .next (
    let kk := k.toNat
    let e := entry.toNat
    let x := lookD (coreOf s kk).conts e {}
    if !x.used || (coreOf s kk).ccyc.toNat < x.sent.toNat + x.limit then s
    else
      match opOf s kk x.op with
      | none => endCont s kk e
      | some o =>
        let accs := contAccs o x
        let bit : BitVec 4 := match o.kind with
          | .remoteRead false _ => 1
          | .remoteRead true _ => 2
          | .remoteAtomic .. => 4
          | _ => 0
        let s := onTeam (deliver s x.op o (onesFor accs)) o.uid (fun t => { t with fstat := t.fstat ||| bit })
        let s := endCont s kk e
        match o.kind with
        | .remoteClose _ => finishOp s kk x.op
        | _ => served s kk x.op accs)

/-! ### Answers to class-2 packets (R142, R143, R150) -/

/-- The retained packet that an answer keyed by STAG names. -/
def retainedFor (s : State) (p : Packet) : Option Retained :=
  s.fabric.retained.find? (fun r => r.pkt.cls == 2 && r.pkt.dst == p.src && r.pkt.plane == p.plane && r.pkt.stag == p.stag)

def dropRetained (s : State) (r : Retained) : State := onFabric s (fun f => { f with retained := f.retained.erase r })

/-- A stage packet is answered: its line leaves the stage. -/
def stageAnswered (s : State) (k n : Nat) (p : Packet) : State :=
  stageEnd (onOp s k n (fun o => match o.kind with
    | .stage a b c es r =>
      { o with kind := .stage a b c es (r.filter (fun x => BitVec.ofNat 64 x.1 != taggedLine (fabricVa p))), tracker := o.tracker - 1 }
    | _ => o)) k n

/-- The accesses of an operation that a class-2 packet carried. -/
def opAccs (s : State) (k n : Nat) (p : Packet) : List LaneAcc :=
  match opOf s k n with
  | some o => (match o.kind with
    | .remoteWrite _ accs => packetAccs p accs
    | .remoteAtomic _ _ accs => packetAccs p accs
    | .stage _ _ _ _ rem =>
      let m := ((rem.find? (fun x => BitVec.ofNat 64 x.1 == taggedLine (fabricVa p))).map (·.2)).getD 0
      (lanesIn m).map (fun l => { lane := l, space := .fabric, va := fabricVa p, pa := 0, n := 4 })
    | _ => [])
  | none => []

/-- A retained packet was performed. -/
def performedAt (s : State) (r : Retained) (mism : Bool) : State :=
  let s := dropRetained s r
  let accs := opAccs s r.core r.op r.pkt
  let s := if mism then tagRecord s r.core r.op r.pkt accs else s
  match r.wb with
  | some n => onCore s r.core (fun c => { c with wbs := del c.wbs n })
  | none =>
    match opOf s r.core r.op with
    | none => s
    | some o =>
      match o.kind with
      | .remoteWrite .. => remoteDone s r.core r.op accs
      | .stage .. => stageAnswered s r.core r.op r.pkt
      | _ => s

/-- An MCLOSE is accepted or refused: its entry is freed (R143, R366). -/
def closeAnswered (s : State) (k e n : Nat) (o : Op) (bad : Option (Nat × Nat)) : State :=
  let s := endCont s k e
  let s := match bad with
    | none => s
    | some (c, sub) =>
      if o.handed then handFail s k n o c sub 4 0 o.lanes else trapLater s k o { cause := c, sub := sub, lanes := o.lanes, acc := 4 }
  finishOp s k n

/-- The ACK of an MCLOSE. -/
def ackClose (s : State) (p : Packet) : State :=
  match contOf s p with
  | none => s
  | some (k, e, x) =>
    match opOf s k x.op with
    | some o => (match o.kind with
      | .remoteClose _ => if p.status == stApplied then closeAnswered s k e x.op o none else s
      | _ => s)
    | none => s

/-- An ACK keyed by STAG. -/
def ackTag (s : State) (p : Packet) : State :=
  match retainedFor s p with
  | none => s
  | some r =>
    if p.status == stApplied then performedAt s r false
    else if p.status == stAppliedTag then performedAt s r true
    else if p.status == stGap || p.status == stHeld then
      onFabric s (fun f => { f with retained := f.retained.map (fun o => if o = r then { o with received := true } else o) })
    else if p.status == stReject then
      onFabric s (fun f => { f with retained := f.retained.map (fun o =>
        if o.pkt.cls == 2 && o.pkt.dst == p.src && o.pkt.plane == p.plane && !tagBefore o.pkt.stag p.stag then { o with resend := true } else o) })
    else s

/-- ACK (R142). -/
def execAck (p : Packet) (s : State) : Out := .next (arrivePacket s p kAck (fun s p => let s := noteMark s p; if p.ck then ackClose s p else ackTag s p))

/-- FLUSH, whatever follows. -/
def isFlush (o : Op) : Bool :=
  match o.kind with
  | .fence .flush .. => true
  | _ => false

/-- A NACK status that is charged to the fences that wait: DENIED and NOEXPORT (R230), and any while a FLUSH waits (R351). -/
def chargesFences (st : BitVec 8) (fs : List (Nat × Op)) : Bool := st == stDenied || st == stNoexport || fs.any (fun e => isFlush e.2)

/-- The fences that wait for an operation of their group. -/
def fencesOn (c : CoreState) (n : Nat) : List (Nat × Op) :=
  c.ops.filter (fun e => match e.2.kind with | .fence _ _ ops _ _ _ => ops.contains n | _ => false)

/-- The refused bytes of one sector of a fabric write stay with the core as its dirty bytes, charged to the fences that wait for the
write: a KIND 2 record to each (R230, R351). -/
def keepSector (k : Nat) (o : Op) (p : Packet) (c sub : Nat) (fs : List (Nat × Op)) (line : Word × Nat × Nat) (s : State) (i : Nat) : State :=
  let n := (coreOf s k).nextWb
  let w : WriteBack :=
    { ctx := o.ctx, polder := o.polder, va := line.1 + BitVec.ofNat 64 (64 * i), home := .fabric, mask := BitVec.ofNat 64 (bitsAt line.2.1 (64 * i) 64),
      tag := vaTag line.1, tagDirty := false, data := BitVec.ofNat 512 (bitsAt line.2.2 (512 * i) 512), waiters := fs.map (·.1), refused := true,
      rel := p.rel, puts := p.kind == kPuts }
  let waits (o : Op) : Op := { o with kind := match o.kind with | .fence w wbs ops b t a => .fence w (n :: wbs) ops b t a | x => x }
  let s := onCore s k (fun c => { c with nextWb := n + 1, wbs := put c.wbs n w })
  fs.foldl (fun s e => refuseFence (onOp s k e.1 waits) k n w c sub e) s

/-- A fabric write of an operation was refused: KIND 2 for the fences that wait for it, or, with none, the failure of its port tracker
entry (R128, R143, R230). An atomic is never repeated (R143). -/
def refusePacket (s : State) (k n : Nat) (o : Op) (p : Packet) (c sub : Nat) (st : BitVec 8) (accs : List LaneAcc) : State :=
  let fs := fencesOn (coreOf s k) n
  if p.kind != kAtomreq && !o.handed && !fs.isEmpty && chargesFences st fs then
    (fabricWrites accs).foldl (fun s w => (maskSectors w.2.1).foldl (keepSector k o p c sub fs w) s) s
  else handFail s k n o c sub (packetAcc p) (lowestVa accs (fabricVa p)) (maskOfLanes (accs.map (·.lane)))

/-- A fabric write-back was refused (R230): DENIED and NOEXPORT leave its bytes dirty and are charged to the fences that wait;
so does any NACK while a FLUSH waits (R351; DEDUCED, log 17). Any other refusal, or one that no fence waits for, is a handoff failure. -/
def refusedWb (s : State) (r : Retained) (c sub : Nat) (st : BitVec 8) : State :=
  match r.wb.bind (fun n => (look (coreOf s r.core).wbs n).map (fun w => (n, w))) with
  | none => s
  | some (n, w) =>
    if chargesFences st (waitingFences (coreOf s r.core) w) then refuseWriteBack s r.core n c sub
    else onCore (refuseUncovered s r.core w c sub) r.core (fun x => { x with wbs := del x.wbs n })

/-- A class-2 packet of an operation was refused. -/
def failPacket (s : State) (r : Retained) (st : BitVec 8) : State :=
  let s := dropRetained s r
  let (c, sub) := nackCause st
  let n := max 1 (((opAccs s r.core r.op r.pkt).map (·.lane)).eraseDups).length
  let s := if st == stTag then onCtx s r.pkt.ctx.toNat (fun x => { x with tagTrapped := satAdd x.tagTrapped n }) else s
  match if r.op = 0 || r.wb.isSome then none else opOf s r.core r.op with
  | none => refusedWb s r c sub st
  | some o =>
    let k := r.core
    let n := r.op
    let accs := opAccs s k n r.pkt
    match o.kind with
    | .remoteWrite .. => remoteDone (refusePacket s k n o r.pkt c sub st accs) k n accs
    | .remoteAtomic .. =>
      -- the lane is that of the packet's continuation, unless it has timed out
      (match look (coreOf s k).conts r.pkt.cont.toNat with
      | some x =>
        if x.used && x.gen == r.pkt.gen && x.op == n then
          let mine := contAccs o x
          served (endCont (handFail s k n o c sub 4 (lowestVa mine (lowestVa accs (fabricVa r.pkt))) (maskOfLanes (mine.map (·.lane)))) k r.pkt.cont.toNat) k n mine
        else s
      | none => s)
    | .stage _ _ _ _ rem =>
      let m := ((rem.find? (fun x => BitVec.ofNat 64 x.1 == taggedLine (fabricVa r.pkt))).map (·.2)).getD 0
      let s := if o.handed then handFail s k n o c sub 4 (fabricVa r.pkt) m
        else trapLater s k o { cause := c, sub := sub, addr := fabricVa r.pkt, lanes := m, acc := 4 }
      stageAnswered s k n r.pkt
    | _ => s

/-- A NACK keyed by a continuation: to a read its lanes fault, to a close the close is refused. -/
def nackCont (s : State) (p : Packet) : State :=
  match contOf s p with
  | none => s
  | some (k, e, x) =>
    let (c, sub) := nackCause p.status
    match opOf s k x.op with
    | none => endCont s k e
    | some o =>
      match o.kind with
      | .remoteRead .. =>
        let accs := contAccs o x
        let lanes := maskOfLanes (accs.map (·.lane))
        let s := if p.status == stTag then onCtx s o.ctx.toNat (fun y => { y with tagTrapped := satAdd y.tagTrapped (countMask lanes) }) else s
        let s := trapLater s k o { cause := c, sub := sub, addr := lowestVa accs 0, lanes := lanes, acc := 1 }
        served (endCont s k e) k x.op accs
      | .remoteClose _ => closeAnswered s k e x.op o (some (c, sub))
      | _ => s

/-- NACK (R143). -/
def execNack (p : Packet) (s : State) : Out :=
  .next (arrivePacket s p kNack (fun s p =>
    let s := noteMark s p
    if p.ck then nackCont s p
    else match retainedFor s p with
      | none => s
      | some r => failPacket s r p.status))

/-- REFILLREQ (R146): the retained payload goes out again, on the same plane, REFILL and NOTRIM. -/
def execRefillreq (p : Packet) (s : State) : Out :=
  .next (arrivePacket s p kRefillreq (fun s p =>
    match retainedFor s p with
    | none => s
    | some r => onPort s (retainedPort r) (fun x => { x with waiting := x.waiting ++ [({ r.pkt with refill := true, notrim := true }, r.core, r.op)] })))

/-! ### The host translation agent (R171, R172) -/

/-- A field of the payload flit of XLREQ, XLRSP and XLINV. -/
def xlField (p : Packet) (off n : Nat) : Nat := bitsAt (p.payload.headD 0).toNat (8 * off) (8 * n)

/-- Entries that waited for a request try again. -/
def wakeHost (s : State) (core req : Nat) : State :=
  onCore s core (fun c => { c with groups := c.groups.map (fun g =>
    (g.1, { g.2 with entries := g.2.entries.map (fun e => if e.hold = .host req then { e with hold := .none } else e) })) })

/-- XLRSP (R171): the answer is kept for the access that asked. -/
def execXlrsp (p : Packet) (s : State) : Out :=
  .next (arrivePacket s p kXlrsp (fun s p =>
    let req := xlField p 4 4
    match s.xlreqs.find? (fun e => e.1 % 2 ^ 32 == req) with
    | none => s
    | some (n, x) =>
      if xlField p 0 1 != 2 || x.answer.isSome || x.timedOut then s
      else
        let perms := xlField p 0x19 1
        let ans := (xlField p 0x10 8 / 4096 * 4096, xlField p 0x18 1 % 4, bitAt perms 0, bitAt perms 1, BitVec.ofNat 8 (xlField p 1 1))
        let s := dropRequests s (fun p _ => p.kind == kXlreq && bitsAt (p.payload.headD 0).toNat 32 32 == req)
        wakeHost { s with xlreqs := put s.xlreqs n { x with answer := some ans } } x.core n))

/-- The requests that an XLINV covers: an answer not yet used is asked for again, and one still to come is not cached. -/
def xlinvRequests (s : State) (c : Nat) (va : Word) (n : Nat) : State :=
  let hit (x : XlReq) : Bool := x.ctx.toNat == c && (n == 0 || (va.toNat % 2 ^ 56 ≤ x.va.toNat % 2 ^ 56 && x.va.toNat % 2 ^ 56 < va.toNat % 2 ^ 56 + n * 4096))
  { s with xlreqs := (s.xlreqs.filter (fun e => !(hit e.2 && e.2.answer.isSome))).map (fun e =>
      if hit e.2 then (e.1, { e.2 with stale := true }) else e) }

/-- The contexts of an XLINV: one, or every context the node knows. -/
def xlinvCtxs (s : State) (p : Packet) : List Nat := if bitAt (xlField p 2 2) 15 then keysOf s.ctxs else [xlField p 2 2 % 1024]

/-- An invalidation asked for by the host begins, unless one of its contexts has one in progress: it then waits. -/
def beginXlinv (s : State) (p : Packet) : State :=
  let cs := xlinvCtxs s p
  if cs.any (fun c => (ctxOf s c).xlinv.isSome) then onFabric s (fun f => { f with waiting := f.waiting ++ [p] })
  else
    let v : XlInv := { va := BitVec.ofNat 64 (xlField p 8 8), n := BitVec.ofNat 64 (xlField p 0x10 8), req := BitVec.ofNat 32 (xlField p 4 4),
                       context := BitVec.ofNat 16 (xlField p 2 2), die := p.inDie }
    let s := cs.foldl (fun s c => onCtx (xlinvRequests s c v.va v.n.toNat) c (fun x => { x with xlinv := some v })) s
    if cs.isEmpty then xlinvAnswer s 0 v else s

/-- XLINV (R172). -/
def execXlinv (p : Packet) (s : State) : Out := .next (arrivePacket s p kXlinv beginXlinv)

/-- XLREQ_TIMEOUT (R172). -/
def execXlreqTimeout (req : BitVec 32) (s : State) : Out :=
  .next (
    match s.xlreqs.find? (fun e => e.1 % 2 ^ 32 == req.toNat) with
    | none => s
    | some (n, x) =>
      if x.answer.isSome || (coreOf s x.core).ccyc.toNat < x.sent.toNat + x.limit then s
      else
        let s := dropRequests s (fun p _ => p.kind == kXlreq && bitsAt (p.payload.headD 0).toNat 32 32 == req.toNat)
        wakeHost { s with xlreqs := put s.xlreqs n { x with timedOut := true } } x.core n)

/-! ### Combined requests (R157) -/

/-- The members' responses: v, v + a1, v + a1 + a2, ... in the order they reached the queue. -/
def memberResponses (v : Nat) (p : Packet) : List Packet → List (Packet × Packet)
  | [] => []
  | m :: r =>
    let rsp : Packet := { p with dst := m.src, ctx := m.ctx, cont := m.cont, gen := m.gen, rcore := m.rcore, polder := m.polder,
                                 payload := [BitVec.ofNat 512 v] }
    (m, rsp) :: memberResponses ((v + atomOperand m) % 2 ^ (if m.tyField.toNat < 6 then 32 else 64)) p r

/-- A response that the switch sends on: to this node's core, or by the egress queue of its plane. -/
def forward (s : State) (p : Packet) : State :=
  if p.dst == s.fabric.node then takeResponse s p else egress s p.plane.toNat p

/-- The switch's answer to a member of a combined packet, as if it came by the way of the combined answer. -/
def memberAnswer (p m : Packet) (kind status : BitVec 8) : Packet :=
  { answerOf m kind status with src := p.src, plane := p.plane, inDie := p.inDie }

/-- A NACK for a combined request: each member's packet is answered with it, and the record is free (DESIGN CHOICE, log 32). -/
def nackCombined (s : State) (p : Packet) : State :=
  match s.fabric.combines.find? (fun e => e.2.dst == p.src && e.2.members.head?.any (fun m => m.src == p.dst && m.plane == p.plane && m.stag == p.stag)) with
  | none => s
  | some (i, r) =>
    let s := onFabric s (fun f => { f with combines := del f.combines i })
    r.members.foldl (fun s m =>
      let a := memberAnswer p m kNack p.status
      if m.src == s.fabric.node then (match retainedFor s a with
        | some x => failPacket (noteMark s a) x p.status
        | none => noteMark s a)
      else egress s p.plane.toNat a) s

/-- COMBINED_RESPONSE (R157). The packets that were merged into the first are acknowledged by the switch (DEDUCED, log 32). -/
def execCombinedResponse (p : Packet) (s : State) : Out :=
  .next (
    if p.kind == kNack then nackCombined s p else
    match s.fabric.combines.find? (fun e => e.2.dst == p.src && e.2.members.head?.any (fun m =>
        m.src == p.dst && m.cont == p.cont && m.gen == p.gen && m.rcore == p.rcore && m.off == p.off)) with
    | none => s
    | some (i, r) =>
      let s := onFabric s (fun f => { f with combines := del f.combines i })
      let s := (memberResponses (bitsAt (p.payload.headD 0).toNat 0 64) p r.members).foldl (fun s e => forward s e.2) s
      (r.members.drop 1).foldl (fun s m =>
        let a := memberAnswer p m kAck stApplied
        if m.src == s.fabric.node then ackTag (noteMark s a) a else egress s p.plane.toNat a) s)

end Sys2Proof.Machine
end

