-- ==== Sys2Proof/Machine/Window.lean ====
section
/-! DEFINITION. Reads of the control window (R60 to R71, R117, R121, R129, R133, R139, R168, R176, R177, R180 to R185, R197, R207, R209
to R212, R414, R419). -/

namespace Sys2Proof.Machine

/-! ### Rights (R61, R181, R419, R421) -/

/-- The regions of the window (R60), with an instance number and the offset within the instance. -/
inductive Region where
  | device (o : Nat)
  | baseDie (d o : Nat)
  | polder (p o : Nat)
  | entry (n o : Nat)
  | ctx (c o : Nat)
  | core (k o : Nat)
  | heat (d o : Nat)
  | reserved
  deriving DecidableEq, Repr

def regionOf (a : Nat) : Region :=
  if a < 0x1000 then .device a
  else if 0x4000 ≤ a && a < 0x8000 then .baseDie ((a - 0x4000) / 0x1000) (a % 0x1000)
  else if 0x1_0000 ≤ a && a < 0x5_0000 then .polder ((a - 0x1_0000) / 0x1000) (a % 0x1000)
  else if 0x8_0000 ≤ a && a < 0x8_2000 then .entry ((a - 0x8_0000) / 32) (a % 32)
  else if 0x10_0000 ≤ a && a < 0x14_0000 then .ctx ((a - 0x10_0000) / 0x100) (a % 0x100)
  else if 0x20_0000 ≤ a && a < 0x34_0000 then .core ((a - 0x20_0000) / 0x1000) (a % 0x1000)
  else if 0x40_0000 ≤ a && a < 0x50_0000 then .heat ((a - 0x40_0000) / 0x4_0000) (a % 0x4_0000)
  else .reserved

/-- The boot and attestation registers of R419. -/
def bootRegister (r : Region) : Bool :=
  match r with
  | .baseDie _ o => (0x800 ≤ o && o < 0x808) || (0x840 ≤ o && o < 0x940) || (0x980 ≤ o && o < 0x9A8)
  | _ => false

/-- A master's own blocks: its polder block, and the descriptors of its contexts (R181). -/
def ownBlock (s : State) (master : Nat) (r : Region) : Bool :=
  match r with
  | .polder p _ => p == master
  | .ctx c _ => (ctxOf s c).polder == master
  | .entry n _ => fieldOf (lookD s.device.expo n {}).attrs 8 8 == master
  | _ => false

/-- Whether an access is granted: reads by the read bit, writes by the configure bit, which reaches every block for masters 64 and
66 and the own blocks of others (R181). The boot and attestation registers are reached through export entry 0, whatever the table says, and
in no other way (R419). -/
def windowGrants (s : State) (master : Nat) (viaEntry0 write : Bool) (r : Region) : Bool :=
  if bootRegister r then viaEntry0
  else if write then tatGrants s 4 master 3 && (master == 64 || master == 66 || ownBlock s master r)
  else tatGrants s 4 master 0

/-! ### Registers -/

/-- Placed teams of a context. -/
def placedTeams (s : State) (c : Nat) : Nat := s.cores.foldl (fun a e => a + (ctxTeams e.2 (BitVec.ofNat 10 c)).length) 0

/-- The word of a flag. -/
def flagWord (b : Bool) (n : Nat) : Nat := if b then 2 ^ n else 0

/-- FLINKST (R139). -/
def linkStatus (s : State) : Nat :=
  s.fabric.ports.foldl (fun a e => a + (flagWord e.2.halt 0 + flagWord e.2.nextKey 1 + flagWord e.2.down 2) * 2 ^ (4 * e.1)) 0

/-- A word of the VCT (R182). -/
def vctWord (s : State) (cls : Nat) : Nat := vctCharge s cls + vctEngine cls * 2 ^ 24 + flagWord (vctGran cls) 31

/-- Eight bytes of a target access table. -/
def tatWord (s : State) (kind first : Nat) : Nat := (List.range 8).foldl (fun a i => a + (tatByte s kind (first + i)).toNat * 2 ^ (8 * i)) 0

/-- The device block. -/
def readDevice (s : State) (o : Nat) : Nat :=
  let d := s.device
  if o = 0x000 then d.version.toNat
  else if o = 0x008 then (devHash s).toNat
  else if o = 0x010 then d.xset.toNat
  else if o = 0x018 then d.dspill.toNat
  else if o = 0x020 then flagWord d.lock 0
  else if o = 0x028 then d.derrOff.toNat + flagWord d.derrV 63
  else if o = 0x030 then d.ppower.toNat
  else if o = 0x038 then d.pcap.toNat
  else if o = 0x100 then s.fabric.fplane.toNat
  else if o = 0x108 then s.fabric.ftimeout.toNat + s.fabric.deadt.toNat * 2 ^ 32
  else if o = 0x110 then s.fabric.ftrim.toNat
  else if o = 0x118 then linkStatus s
  else if o = 0x120 then d.hostNode.toNat + flagWord d.hostV 63
  else if o = 0x128 then d.migcfg.toNat
  else if 0x180 ≤ o && o < 0x200 then clk (dieOf s ((o - 0x180) / 0x20)).vc (o % 0x20 / 8)
  else if 0x200 ≤ o && o < 0x300 then vctWord s ((o - 0x200) / 8)
  else if 0x400 ≤ o && o < 0x680 then tatWord s ((o - 0x400) / 128) (o % 128)
  else if 0x700 ≤ o && o < 0x770 then (lookD d.counters ((o - 0x700) / 8) 0).toNat
  else 0

/-- A base-die block (R419). -/
def readBaseDie (s : State) (d o : Nat) : Nat :=
  let x := dieOf s d
  if o = 0x800 then x.bstat.toNat
  else if 0x840 ≤ o && o < 0x940 then bitsAt (lookD x.meas ((o - 0x840) / 0x40) 0).toNat (8 * (o % 0x40)) 64
  else if 0x980 ≤ o && o < 0x9A0 then bitsAt x.attnonce.toNat (8 * (o - 0x980)) 64
  else if o = 0x9A0 then x.attOff.toNat * 64 + flagWord x.attBusy 62 + flagWord x.attDone 61
  else 0

/-- The word of a ring's index register. -/
def ringIndex (held : Bool) (prod cons : BitVec 31) : Nat := cons.toNat + prod.toNat * 2 ^ 32 + flagWord held 63

/-- The word of an invalidation register (R168). -/
def tlbiWord (busy : Bool) (scope : BitVec 2) (a : BitVec 44) : Nat := a.toNat * 2 ^ 12 + scope.toNat * 2 ^ 61 + flagWord busy 63

/-- A polder block. -/
def readPolder (s : State) (p o : Nat) : Nat :=
  let x := polderOf s p
  if o = 0x000 then x.pcfg.toNat
  else if o = 0x008 then x.pberm.toNat
  else if o = 0x010 then x.psend.toNat
  else if o = 0x018 then x.ps2root.toNat
  else if 0x020 ≤ o && o < 0x048 then bitsAt x.cores.toNat (8 * (o - 0x020)) 64
  else if o = 0x048 then x.psvc.toNat
  else if o = 0x050 then x.pfrq.toNat
  else if o = 0x058 then ringIndex (!x.held.isEmpty) x.prod x.cons
  else if o = 0x060 then x.pdlog.toNat
  else if o = 0x068 then ringIndex x.logOverflow x.logProd x.logCons
  else if o = 0x070 then tlbiWord x.tlbiBusy x.tlbiScope x.tlbiAddr
  else if o = 0x078 then x.psplit.toNat
  else if o = 0x080 then x.pflowcfg.toNat
  else if 0x100 ≤ o && o < 0x120 then (lookD x.ptok ((o - 0x100) / 8) 0).toNat
  else if 0x120 ≤ o && o < 0x140 then (lookD x.pocc ((o - 0x120) / 8) 0).toNat
  else if 0x140 ≤ o && o < 0x1C0 then x.rate ((o - 0x140) / 8)
  else 0

/-- QSTS (R117). -/
def queueStatus (x : LaunchQueue) : Nat :=
  x.status.toNat + x.ovf.toNat * 2 ^ 16 + x.records.length * 2 ^ 17 + x.seq.toNat * 2 ^ 32

/-- A context descriptor. -/
def readCtx (s : State) (c o : Nat) : Nat :=
  let x := ctxOf s c
  if o = 0x00 then x.ctxcfg.toNat
  else if o = 0x08 then x.cs1root.toNat
  else if o = 0x10 then x.cbound.toNat
  else if o = 0x18 then x.q.toNat + x.vstallmax.toNat * 2 ^ 16 + x.kmargin.toNat * 2 ^ 48
  else if o = 0x20 then placedTeams s c + x.saves.toNat * 2 ^ 32
  else if o = 0x28 then x.cfrq.toNat
  else if o = 0x30 then ringIndex (!x.held.isEmpty) x.prod x.cons
  else if 0x40 ≤ o && o < 0xC0 then
    let y := queueOf x ((o - 0x40) / 16)
    if o % 16 = 0 then y.qdone.toNat else queueStatus y
  else if o = 0xC0 then tlbiWord x.tlbiBusy x.tlbiScope x.tlbiAddr
  else if o = 0xD0 then x.cvgrace.toNat
  else if o = 0xD8 then x.measns.toNat + x.phase.toNat * 2 ^ 60 + flagWord x.busy 63
  else if o = 0xE0 then x.tagReported.toNat + x.tagTrapped.toNat * 2 ^ 32
  else if o = 0xE8 then x.watchHits.toNat
  else if o = 0xF0 then x.divEv.toNat + x.satEv.toNat * 2 ^ 32
  else if o = 0xF8 then x.vbtEv.toNat + x.vneverEv.toNat * 2 ^ 32
  else 0

/-- A core block: VESTM mirrors VEST, and VBND reads 0 in an invalid slot (R69). -/
def readCore (s : State) (k o : Nat) : Nat :=
  let c := coreOf s k
  if o = 0x000 then c.mhz.toNat
  else if o = 0x008 then c.suba.toNat
  else if o = 0x100 then c.pmcfg.toNat
  else if o = 0x108 then c.pmfilt.toNat
  else if 0x110 ≤ o && o < 0x150 then (lookD c.pmc ((o - 0x110) / 8) 0).toNat
  else if 0x800 ≤ o then
    let slot := (o - 0x800) / 0x20
    if o % 0x20 = 0 then ((slotCtx s k slot).map (fun x => vbnd s k (BitVec.ofNat 10 x))).getD 0
    else if o % 0x20 = 8 then ((vestmCtx s k slot).map (fun x => vest s k (BitVec.ofNat 10 x))).getD 0
    else 0
  else 0

/-- The page heat table (R177). -/
def readHeat (s : State) (d o : Nat) : Nat :=
  match look (dieOf s d).heat (o / 16) with
  | none => 0
  | some h =>
    if o % 16 < 8 then (List.range 4).foldl (fun a i => a + h.counts.getD i 0 * 2 ^ (16 * i)) 0
    else h.page.toNat * 2 ^ 16 + h.polder.toNat * 2 ^ 56 + flagWord h.written 62 + 2 ^ 63

/-- Entry n of the export table (R183), with the reset value of entry 0. -/
def exportEntry (s : State) (n : Nat) : ExportEntry :=
  lookD s.device.expo n (if n = 0 then { base := 2 ^ 63, len := 0x0400_0000, attrs := BitVec.ofNat 64 (2 + 3 * 2 ^ 16 + 0x3FFF * 2 ^ 46) } else {})

/-- A word of an export entry. -/
def readEntry (s : State) (n o : Nat) : Nat :=
  let e := exportEntry s n
  if o = 0 then e.base.toNat else if o = 8 then e.len.toNat else if o = 16 then e.ipa.toNat else e.attrs.toNat

/-- The register at an offset; a reserved offset reads 0 (R61). -/
def windowRead (s : State) (a : Nat) : Word :=
  BitVec.ofNat 64 (match regionOf a with
    | .device o => readDevice s o
    | .baseDie d o => readBaseDie s d o
    | .polder p o => readPolder s p o
    | .entry n o => readEntry s n o
    | .ctx c o => readCtx s c o
    | .core k o => readCore s k o
    | .heat d o => readHeat s d o
    | .reserved => 0)

/-- A read as a master makes it: none is the ACCESS response (R61). -/
def windowReadAs (s : State) (master : Nat) (viaEntry0 : Bool) (a n : Nat) : Option Word :=
  if n != 8 || a % 8 != 0 || !windowGrants s master viaEntry0 false (regionOf a) then none else some (windowRead s a)

end Sys2Proof.Machine
end

