-- ==== Sys2Proof/Machine/Vacate.lean ====
section
/-! DEFINITION. The vacate ladder: requests, the soft stage, saves and flushes, the kill timer, and the fate of operations in flight
(R36, R88, R89, R128, R194, R196 to R203). -/

namespace Sys2Proof.Machine

/-! ### Bounds of a core's slots (R70, R71) -/

/-- Hardware conversion of bounds for a core's owner. -/
def hwConverts (s : State) (k : Nat) : Bool := (ownerOf s k).any (fun p => !(polderOf s p).hostBndconv)

def setBound (s : State) (k slot v : Nat) : State := onCore s k (fun c => { c with vbnd := putD c.vbnd slot 0 (BitVec.ofNat 64 v) })

/-- Every valid slot of a core takes the floor at a clock. -/
def convertAll (s : State) (k mhz : Nat) : State :=
  (List.range 64).foldl (fun t slot => match slotCtx s k slot with
    | some c => setBound t k slot (boundFloor (ctxOf s c) mhz)
    | none => t) s

/-- The clock that conversions use: that of a pending lowering, else MHZ (R71). -/
def boundClock (c : CoreState) : Nat := (c.lowering.getD c.mhz).toNat

/-- A refused write (R61). -/
def refuseWrite (s : State) (off : Nat) : State := onDevice s (fun d => { d with derrV := true, derrOff := BitVec.ofNat 24 off })

/-- A vacate request cancels a pending lowering (R71). -/
def cancelLowering (s : State) (k : Nat) : State :=
  if (coreOf s k).lowering.isNone then s
  else
    let s := onCore s k (fun c => { c with lowering := none })
    refuseWrite (convertAll s k (coreOf s k).mhz.toNat) (0x20_0000 + k * 0x1000)

/-! ### The request (R197, R198) -/

/-- The cores that hold teams of a context. -/
def coresWith (s : State) (c : Nat) : List Nat := (keysOf s.cores).filter (fun k => !(ctxTeams (coreOf s k) (BitVec.ofNat 10 c)).isEmpty)

/-- GO: the hold is set, and a request goes to each core of the context, converted with the core's own clock. -/
def requestVacate (s : State) (c lns : Nat) : State :=
  let ks := coresWith s c
  let x := ctxOf s c
  if ks.isEmpty then onCtx s c (fun x => { x with hold := true, phase := 3, lns := BitVec.ofNat 32 lns })
  else
    let s := onCtx s c (fun x => { x with hold := true, busy := true, phase := 1, lns := BitVec.ofNat 32 lns, pending := ks, measns := 0 })
    ks.foldl (fun s k =>
      let s := cancelLowering s k
      onCore s k (fun y => { y with vacates := y.vacates ++
        [(c, { arrived := y.ccyc, lc := lns * y.mhz.toNat / 1000, gc := x.cvgrace.toNat * y.mhz.toNat / 1000, margin := x.kmargin.toNat })] })) s

/-- A change of a context's stages on a core. -/
def onStage (s : State) (k c : Nat) (f : VacateStage → VacateStage) : State :=
  onCore s k (fun y => { y with vacates := y.vacates.map (fun e => if e.1 = c then (e.1, f e.2) else e) })

/-- VACATE_START (R196): the stages start when every earlier vacate of the core has ended. -/
def execVacateStart (k : BitVec 9) (c : BitVec 10) (s : State) : Out :=
  let y := coreOf s k.toNat
  .next (match y.vacates.head? with
    | some (x, v) => if x = c.toNat && !v.begun then onStage s k.toNat x (fun v => { v with begun := true, start := y.ccyc }) else s
    | none => s)

/-! ### The fate of operations (R200) -/

/-- An operation is handed off: it counts as completed under R48, and its values are still delivered (R128). -/
def handOp (s : State) (k n : Nat) (flush : Bool) : State :=
  match opOf s k n with
  | none => s
  | some o =>
    let s := onGroup s o.uid o.gid (fun g =>
      let g := { g with pend := g.pend.map (fun p => if p.op = n then { p with flag := none } else p) }
      match o.flag with | some f => lowerFlag g f | none => g)
    opOver (onOp s k n (fun o => { o with handed := true, flag := none, charge := 0, dest := if flush then .none else o.dest })) k n o.uid o.gid

/-- An entry parked at a remote read is ready again at the same instruction (R26). -/
def readyAgain (g : Group) (n : Nat) : Group :=
  { g with entries := g.entries.map (fun e => if e.hold = .remote n then { e with st := .ready, hold := .none, skip := 0 } else e) }

/-- A fence of a team that is saved waits no longer for what is abandoned: it completes (R200). -/
def unwait (s : State) (k n : Nat) : State :=
  onCore s k (fun c => { c with ops := c.ops.map (fun e => match e.2.kind with
    | .fence w wbs ops b tok a => (e.1, { e.2 with kind := .fence w wbs (ops.filter (· != n)) b tok a })
    | _ => e) })

/-- An abandoned operation is gone: its flag count, its pending names, its continuations and its requests. -/
def abandonOp (s : State) (k n : Nat) : State :=
  match opOf s k n with
  | none => s
  | some o =>
    let gone := ((coreOf s k).conts.filter (fun e => e.2.used && e.2.op == n)).map (·.1)
    let s := gone.foldl (fun s e => endCont s k e) s
    let s := onFabric s (fun f => { f with ports := f.ports.map (fun e =>
      (e.1, { e.2 with waiting := e.2.waiting.filter (fun w => !(w.2.1 == k && w.2.2 == n && w.2.2 != 0)) })) })
    let s := match o.kind with | .copy .. => giveBack s k o | _ => s
    onGroup (finishOp s k n) o.uid o.gid (fun g => readyAgain { g with pend := g.pend.filter (fun p => p.op != n) } n)

/-- A fence that an instruction performs before an effect that is handed off: RST, RATOM, PUTS and LAUNCH (R200, R283). -/
def precedes (a : After) : Bool :=
  match a with
  | .nothing => false
  | _ => true

/-- What the end of the soft stage does to an operation at once: hand off, abandon, or let it drain. -/
def fateOf (s : State) (k n : Nat) (flush : Bool) : State :=
  match (opOf s k n).map (·.kind) with
  | none => s
  | some kind =>
    match kind with
    | .homeStore .. | .atomic .. | .remoteWrite .. | .remoteAtomic .. | .stage .. | .close .. | .remoteClose .. | .mopen .. | .mabort ..
    | .launch .. => handOp s k n flush
    | .remoteRead .. | .mstat .. => abandonOp s k n
    | .load .. | .push .. | .pop .. => if flush then abandonOp s k n else unwait s k n
    | .vec .. | .mma .. | .copy .. => if flush then abandonOp s k n else s
    | .fence _ _ _ _ token after => if precedes after && token == 0 then handOp s k n flush else s
    | .store .. | .bank .. => s

/-- Every operation of a team meets its fate. -/
def fateAll (s : State) (k uid : Nat) (flush : Bool) : State :=
  (((coreOf s k).ops.filter (fun e => e.2.uid == uid && !e.2.handed)).map (·.1)).foldl (fun s n => fateOf s k n flush) s

/-- Nothing of a team is left that a save must wait for. -/
def teamDrained (c : CoreState) (uid : Nat) : Bool := c.ops.all (fun e => e.2.uid != uid || e.2.handed || keptOp c e.2)

/-! ### The end of the soft stage (R198, R199) -/

/-- The test of R198 for t_e. -/
def softStageOver (s : State) (k c : Nat) (v : VacateStage) : Bool :=
  let y := coreOf s k
  let t := stageTime y v
  v.gc ≤ t || v.lc ≤ vest s k (BitVec.ofNat 10 c) + t || (ctxTeams y (BitVec.ofNat 10 c)).isEmpty

/-- RESTARTABLE of a team's launch. -/
def restartable (s : State) (tm : Team) : Bool := (look s.launches tm.launch).any (fun l => lrRestartable l.record)

/-- A team is flushed when it is restartable and has run for less than twice its own save time (R199). -/
def flushes (s : State) (k t : Nat) (tm : Team) : Bool :=
  let y := coreOf s k
  restartable s tm && (y.ccyc - tm.since).toNat < 2 * ceilDiv (teamBytes y t tm) 64

/-- The PHASE of a context reads 2 once no core of it is in its soft stage. -/
def phaseCheck (s : State) (c : Nat) : State :=
  let x := ctxOf s c
  if x.busy && x.phase == 1 && x.pending.all (fun k => (vacateOf (coreOf s k) c).any (fun v => v.te.isSome)) then
    onCtx s c (fun x => { x with phase := 2 })
  else s

/-- The teams of a context that the ladder still has to deal with on a core: draining teams drain. -/
def laddered (s : State) (k c : Nat) : List (Nat × Team) :=
  (ctxTeams (coreOf s k) (BitVec.ofNat 10 c)).filter (fun e => e.2.st != .draining)

/-- SOFT_STAGE_END (R198, R199, R200). -/
def execSoftStageEnd (k : BitVec 9) (c : BitVec 10) (s : State) : Out :=
  let kk := k.toNat
  let cc := c.toNat
  .next (match vacateOf (coreOf s kk) cc with
    | some v =>
      if v.begun && v.te.isNone && softStageOver s kk cc v then
        let now := (coreOf s kk).ccyc
        let s := (laddered s kk cc).foldl (fun s e =>
          let fl := e.2.leaving.isNone && flushes s kk e.1 e.2
          let s := onTeam s e.2.uid (fun t => { t with leaving := some (!fl) })
          fateAll s kk e.2.uid fl) s
        phaseCheck (onStage s kk cc (fun v => { v with te := some now })) cc
      else s
    | none => s)

/-- SAVE_BEGIN (R201): at t_e + Q. -/
def execSaveBegin (k : BitVec 9) (c : BitVec 10) (s : State) : Out :=
  let kk := k.toNat
  let cc := c.toNat
  .next (match vacateOf (coreOf s kk) cc with
    | some v => (match v.te with
      | some te => if te.toNat + (ctxOf s cc).q.toNat ≤ (coreOf s kk).ccyc.toNat then onStage s kk cc (fun v => { v with saving := true }) else s
      | none => s)
    | none => s)

/-! ### Saving a team (R36, R88, R201) -/

/-- A group as its image holds it: every flag is 0 (R50); lanes that wait after a VCKPT are ready there, and so are lanes that
had yielded or that wait for the host, which ask again; no cycle of the save counts as one of refusal (R194). -/
def imageGroup (g : Group) : Group :=
  { g with f := [], entries := normalise ((g.entries.map (fun e => { e with stall := none, again := false })).map (fun e => match e.hold with
      | .checkpoint => { e with hold := .none }
      | .yielded _ => { e with hold := .none }
      | .host _ => { e with hold := .none }
      | _ => e)) }

/-- The banks of a team by slot. -/
def teamBanks (c : CoreState) (t : Nat) : List (Nat × Bank) :=
  ((List.range 40).filter (fun b => (bankOf c b).owner == t)).map (fun b => ((bankOf c b).slot, bankOf c b))

/-- The refused write-backs that the fences of a team wait for, as the image holds them; what is left of them on the core: those of a release
that was handed off stay there with it (R200, R230). -/
def imageWbs (c : CoreState) (uid : Nat) : List (Nat × WriteBack) × List (Nat × WriteBack) :=
  let mine (n : Nat) : Bool := (look c.ops n).any (fun o => o.uid == uid && !o.handed)
  ((c.wbs.filter (fun e => e.2.waiters.any mine)).map (fun e =>
      (e.1, { e.2 with waiters := e.2.waiters.filter mine, tokens := e.2.tokens.filter (fun x => mine x.1) })),
    (c.wbs.filter (fun e => !e.2.waiters.any mine || e.2.waiters.any (fun n => !mine n))).map (fun e =>
      (e.1, { e.2 with waiters := e.2.waiters.filter (fun n => !mine n), tokens := e.2.tokens.filter (fun x => !mine x.1) })))

/-- A kept operation as the image holds it: scratch accesses by slot, and its number on the core. -/
def imageOp (c : CoreState) (n : Nat) (o : Op) : Op :=
  let bySlot (a : LaneAcc) : LaneAcc := if a.space = .scratch then { a with pa := (bankOf c (a.pa / 32768)).slot * 32768 + a.pa % 32768 } else a
  { o with seq := n, kind := match o.kind with | .load path accs w => .load path (accs.map bySlot) w | other => other }

/-- 16-bit and 32-bit counters of saves. -/
def bumpSaves (s : State) (c : Nat) : State := onCtx s c (fun x => { x with saves := satAdd x.saves 1 })

/-- A team goes to SAVED: its image is written and its resources on the core are released. -/
def saveTeam (s : State) (k t : Nat) (tm : Team) (from' : Word) : State :=
  let c := coreOf s k
  let meas := c.ccyc - from'
  let img : SavedTeam :=
    { team := { tm with st := .saved, saves := satAdd tm.saves 1, vmeas := meas, leaving := none, leftAt := none }
      groups := (teamGroups c tm.uid).map (fun e => (e.2.gid, imageGroup e.2))
      banks := teamBanks c t
      ops := (c.ops.filter (fun e => e.2.uid == tm.uid && !e.2.handed)).map (fun e => imageOp c e.1 e.2)
      wbs := (imageWbs c tm.uid).1
      die := BitVec.ofNat 2 (dieOfCore k)
      chunks := ceilDiv (teamBytes c t tm) 65536
      order := s.nextSave }
  let s := onCore s k (fun c => { c with wbs := (imageWbs c tm.uid).2, ops := c.ops.filter (fun e => !(e.2.uid == tm.uid && !e.2.handed)) })
  let s := releaseTeam s k t tm.uid
  bumpSaves { s with saved := s.saved ++ [img], nextSave := s.nextSave + 1 } tm.ctx.toNat

/-- A team goes to FLUSHED: it is discarded, and goes back to its launch (R35, R119). -/
def flushTeam (s : State) (k t : Nat) (tm : Team) : State :=
  let s := releaseTeam s k t tm.uid
  { s with launches := alter s.launches tm.launch (fun l =>
      { l with outstanding := l.outstanding - 1, flushed := l.flushed ++ [(tm.cluster, tm.px, tm.py)] }) }

/-- The cycles of a core's stages in nanoseconds, rounded up (R197). -/
def stageNanos (c : CoreState) (v : VacateStage) : Nat := ceilDiv ((c.ccyc - v.arrived).toNat * 1000) (max 1 c.mhz.toNat)

/-- The stages of a context on a core end; the last core ends the vacate (R201). -/
def endStage (s : State) (k c : Nat) (v : VacateStage) : State :=
  let ns := stageNanos (coreOf s k) v
  let s := onCore s k (fun y => { y with vacates := y.vacates.filter (fun e => e.1 != c) })
  let s := onCtx s c (fun x => { x with pending := x.pending.filter (· != k), measns := BitVec.ofNat 32 (max x.measns.toNat ns) })
  let x := ctxOf s c
  if x.busy && x.pending.isEmpty then onCtx s c (fun x => { x with busy := false, phase := 3 }) else phaseCheck s c

/-- SAVE_COMPLETE (R198, R201): in the soft stage, the saves of teams that left; after it, of every team, with the context's dirty
sectors, and the stages end. -/
def execSaveComplete (k : BitVec 9) (c : BitVec 10) (s : State) : Out :=
  let kk := k.toNat
  let cc := c.toNat
  .next (match vacateOf (coreOf s kk) cc with
    | none => s
    | some v =>
      match v.te with
      | none =>
        ((laddered s kk cc).filter (fun e => e.2.leaving == some true)).foldl (fun s e =>
          let s := fateAll s kk e.2.uid false
          match e.2.leftAt with
          | some at' => if teamDrained (coreOf s kk) e.2.uid then saveTeam s kk e.1 ((teamOf (coreOf s kk) e.1).getD e.2) at' else s
          | none => s) s
      | some te =>
        let ts := ctxTeams (coreOf s kk) c
        if v.saving && ts.all (fun e => e.2.st != .draining && teamDrained (coreOf s kk) e.2.uid) then
          let s := writeBackCtx s kk c
          if wbsLeft (coreOf s kk) c then s
          else
          let s := ts.foldl (fun s e =>
            let tm := (teamOf (coreOf s kk) e.1).getD e.2
            if tm.leaving = some false then flushTeam s kk e.1 tm else saveTeam s kk e.1 tm (tm.leftAt.getD te)) s
          endStage s kk cc v
        else s)

/-- KILL_TIMER_EXPIRE (R203): VBND + KMARGIN cycles after t_e. -/
def execKillTimerExpire (k : BitVec 9) (c : BitVec 10) (s : State) : Out :=
  let kk := k.toNat
  .next (match vacateOf (coreOf s kk) c.toNat with
    | some v => (match v.te with
      | some te => if te.toNat + vbnd s kk c + v.margin ≤ (coreOf s kk).ccyc.toNat then killContext s c.toNat else s
      | none => s)
    | none => s)

/-- VBT_STALL_TIMEOUT (R194): an entry refused for VSTALLMAX cycles traps, if what it asks is still refused. -/
def execVbtStallTimeout (k : BitVec 9) (slot : BitVec 5) (lanes : BitVec 32) (s : State) : Out :=
  let kk := k.toNat
  .next (match entryNow s kk slot.toNat lanes with
    | none => s
    | some e =>
      if !e.stall.any (fun t => e.limit ≤ ((coreOf s kk).ccyc - t).toNat) then s
      else
        match groupAt (coreOf s kk) slot.toNat with
        | none => s
        | some g =>
          match fetchInstr s kk slot.toNat g.ctx e.pc with
          | (s, .inr _) => s
          | (s, .inl (_, n)) =>
            let s' := pointAt s kk slot.toNat lanes n
            match issuer s', e.asked.map (·.plan e.refusedLanes) with
            | some i, some p =>
              if p.admitted s i (vbnd s kk g.ctx) then s else trapAtIssue (countVbt s' i.ctx p.active) i (p.vbt s i)
            | _, _ => s)

end Sys2Proof.Machine
end

