-- ==== Sys2Proof/Machine/Teardown.lean ====
section
/-! DEFINITION. Exports as an arriving packet meets them, the answers of gaps, and the teardown of a polder (R145, R149, R153, R183,
R184). -/

namespace Sys2Proof.Machine

/-! ### Exports (R183, R184) -/

def ExportEntry.valid (e : ExportEntry) : Bool := bitAt e.base.toNat 63
def ExportEntry.start (e : ExportEntry) : Nat := fieldOf e.base 0 42
def ExportEntry.kind (e : ExportEntry) : Nat := fieldOf e.attrs 0 8
def ExportEntry.polder (e : ExportEntry) : Nat := fieldOf e.attrs 8 8
def ExportEntry.right (e : ExportEntry) (n : Nat) : Bool := bitAt e.attrs.toNat (16 + n)

/-- ADMIT accepts a node: (SRC xor node) and mask = 0. -/
def ExportEntry.admits (e : ExportEntry) (src : BitVec 14) : Bool :=
  (src ^^^ BitVec.ofNat 14 (fieldOf e.attrs 32 14)) &&& BitVec.ofNat 14 (fieldOf e.attrs 46 14) == 0

/-- The valid entry whose range covers an offset and that admits a node. -/
def exportMatch (s : State) (src : BitVec 14) (off : Nat) : Option (Nat × ExportEntry) :=
  ((List.range 256).map (fun n => (n, exportEntry s n))).find? (fun e =>
    e.2.valid && e.2.start ≤ off && off < e.2.start + e.2.len.toNat && e.2.admits src)

/-- An export of a polder: of its memory, or a launch window of it (R183). -/
def ofPolder (p : Nat) (e : Nat × ExportEntry) : Bool := decide (e.2.kind < 2) && e.2.polder == p

/-- A packet from a node to an offset is aimed at an export of a polder. -/
def aimedAt (s : State) (p : Nat) (src : BitVec 14) (off : Nat) : Bool := (exportMatch s src off).any (ofPolder p)

/-! ### Gaps -/

/-- What an answer to a gap needs of the lost packet. -/
def gapPacket (g : Gap) : Packet :=
  { kind := g.kind, cls := 2, src := g.src, plane := g.plane, stag := g.stag, polder := g.polder,
    off := BitVec.ofNat 42 (g.line.toNat * 256), inDie := g.die }

/-- A gap ends with a NACK, and its entry is free. -/
def nackGap (s : State) (i : Nat) (g : Gap) (st : BitVec 8) : State :=
  let s := onFabric s (fun f => { f with gaps := del f.gaps i, held := f.held.filter (·.gap != some i) })
  sendAnswer s (gapPacket g) (answerOf (gapPacket g) kNack st)

/-! ### Teardown (R153) -/

/-- A context of the polder that there is something of to kill. -/
def isAlive (s : State) (c : Nat) : Bool :=
  let x := ctxOf s c
  x.valid || 0 < placedTeams s c || s.saved.any (fun t => t.team.ctx.toNat == c) || x.queues.any (fun e => !e.2.records.isEmpty) ||
    s.launches.any (fun l => l.2.ctx.toNat == c)

/-- Steps 1 and 2: the polder's contexts are killed, its merge sets released, and its fabric state discarded without answers. -/
def teardownKill (s : State) (p : Nat) : State :=
  let cs := (keysOf s.ctxs).filter (fun c => (ctxOf s c).polder == p && isAlive s c)
  let s := releasePolderSets (cs.foldl (fun s c => killContext s c) s) p
  let s := { s with xlreqs := s.xlreqs.filter (fun e => (ctxOf s e.2.ctx.toNat).polder != p) }
  onFabric s (fun f => scrubFabric f (fun q => q.polder.toNat == p))

/-- Step 3: gaps, held packets and waiting packets of requesters in the polder, or aimed at its exports, get NACK NOEXPORT. -/
def teardownAnswer (s : State) (p : Nat) : State :=
  let mine (h : Held) : Bool := h.pkt.polder.toNat == p || h.entry.any (ofPolder p)
  let filling (i : Nat) : Bool := s.fabric.held.any (fun h => h.gap == some i && mine h)
  let gs := s.fabric.gaps.filter (fun e => e.2.polder.toNat == p || aimedAt s p e.2.src (e.2.line.toNat * 256) || filling e.1)
  let s := gs.foldl (fun s e => nackGap s e.1 e.2 stNoexport) s
  let hs := s.fabric.held.filter mine
  let s := onFabric s (fun f => { f with held := f.held.filter (fun h => !mine h) })
  hs.foldl (fun s h => sendAnswer s h.pkt (answerOf h.pkt kNack stNoexport)) s

/-- A polder's teardown. -/
def beginTeardown (s : State) (p : Nat) : State :=
  let s := teardownAnswer (teardownKill s p) p
  onPolder s p (fun x => { x with tomb := some (2 * s.fabric.ftimeout.toNat) })

/-! ### The frames of a polder (R93) -/

/-- The entries of a table that memory lists bytes of. -/
def listedEntries (m : List Host.Cell) (base n : Nat) : List Nat :=
  ((m.filter (fun c => base ≤ c.1 && c.1 < base + 8 * n)).map (fun c => (c.1 - base) / 8)).eraseDups

/-- The 4 KiB frames of a range of physical memory. -/
def framesOf (pa bytes : Nat) : List Nat := (List.range (bytes / 4096)).map (pa / 4096 + ·)

/-- The frames of a leaf: its own, or those of every copy that its replica record names (R173). -/
def leafFrames (s : State) (e lvl : Nat) : List Nat :=
  if peRdup e then
    let r := replicaPa e
    (List.range 4).flatMap (fun d => if bitAt (replicaMask s r) d then framesOf (replicaPage s r d / 4096 * 4096) (2 ^ leafBits lvl) else [])
  else framesOf (peAddr e) (2 ^ leafBits lvl)

/-- The frames that the leaves under a stage-2 table map. -/
def tableFrames (s : State) : Nat → Nat → Nat → List Nat
  | 0, _, _ => []
  | n + 1, base, lvl =>
    (listedEntries s.mem base (if lvl = 0 then 256 else 512)).flatMap (fun i =>
      let e := homeRead s (base + 8 * i) 8
      if !peV e then []
      else if peLeaf e then leafFrames s e lvl
      else tableFrames s n (peAddr e) (lvl + 1))

/-- TEARDOWN_COMPLETE (R153, R93, R422): the frames the polder mapped are in quarantine, STATE is 3, and firmware takes the polder's
rights away. -/
def execTeardownComplete (p : BitVec 6) (s : State) : Out :=
  let x := polderOf s p.toNat
  .next (
    if x.state = 2 then
      let root := fieldOf x.ps2root 12 40 * 4096
      let fs := if bitAt x.ps2root.toNat 0 then (tableFrames s 5 root 0).filter (fun f => isHbm (f * 4096)) else []
      let s := quarantine s p.toNat fs
      let s := onPolder s p.toNat (fun x => { x with pcfg := setField x.pcfg 0 2 3 })
      onDevice s (fun d => { d with tat := d.tat.filter (fun e => e.1 % 128 != p.toNat) })
    else s)

/-- TOMBSTONE_EXPIRE (R153): the count has reached 0, and V clears. -/
def execTombstoneExpire (p : BitVec 6) (s : State) : Out :=
  .next (if (polderOf s p.toNat).tomb = some 0 then onPolder s p.toNat (fun x => { x with tomb := none }) else s)

end Sys2Proof.Machine
end

