-- ==== Sys2Proof/Machine/WindowWrite.lean ====
section
/-! DEFINITION. Writes of the control window (R61 to R71, R117, R121, R129 to R133, R139, R142, R168, R180 to R185, R197, R207, R211,
R212, R414, R415, R419). A register's write answers `none` when a rule refuses it (R61). -/

namespace Sys2Proof.Machine

/-- The bits of a value that a register stores. -/
def keep (v : Word) (mask : Nat) : Word := v &&& BitVec.ofNat 64 mask

/-- A write under a condition. -/
def allow (c : Bool) (s : State) : Option State := if c then some s else none

/-! ### Bounds (R69, R70, R71) -/

/-- Hardware conversion of one slot. -/
def convertSlot (s : State) (k slot : Nat) : State :=
  match slotCtx s k slot with
  | some c => if hwConverts s k then setBound s k slot (boundFloor (ctxOf s c) (boundClock (coreOf s k))) else s
  | none => s

/-- A slot that has become valid, or another context's, has VBND 0 until it is converted or written. -/
def slotUpdate (old : State) (slot : Nat) (s : State) (k : Nat) : State :=
  if slotCtx s k slot = slotCtx old k slot || (slotCtx s k slot).isNone then s else convertSlot (setBound s k slot 0) k slot

def coresOf (s : State) (p : Nat) : List Nat := (List.range coreCount).filter (fun k => (polderOf s p).owns k)

/-- The contexts of the valid slots of a core, with their slots. -/
def validSlots (s : State) (k : Nat) : List (Nat × Nat) :=
  (List.range 64).filterMap (fun slot => (slotCtx s k slot).map (fun c => (slot, c)))

/-- CCLK (R71). -/
def writeCclk (s : State) (k : Nat) (v : Word) : Option State :=
  let mhz := fieldOf v 0 11
  let c := coreOf s k
  let ss := validSlots s k
  if mhz < 500 || 1500 < mhz || mhz % 25 != 0 then none
  else if ss.any (fun e => (ctxOf s e.2).phase == 1 || (ctxOf s e.2).phase == 2) || c.lowering.isSome then none
  else if c.mhz.toNat ≤ mhz || (ownerOf s k).isNone then
    let s := onCore s k (fun c => { c with mhz := BitVec.ofNat 11 mhz })
    some (if hwConverts s k then convertAll s k mhz else s)
  else if hwConverts s k then
    some (convertAll (onCore s k (fun c => { c with lowering := some (BitVec.ofNat 11 mhz) })) k mhz)
  else
    allow (ss.all (fun e => let x := BitVec.ofNat 10 e.2; vbnd s k x ≤ boundFloor (ctxOf s e.2) mhz && vest s k x ≤ vbnd s k x))
      (onCore s k (fun c => { c with mhz := BitVec.ofNat 11 mhz }))

/-- CLOCK_LOWER_APPLY (R71): the first cycle in which every valid slot's VEST is within its VBND. -/
def execClockLowerApply (k : BitVec 9) (s : State) : Out :=
  let kk := k.toNat
  .next (match (coreOf s kk).lowering with
    | some m =>
      if (validSlots s kk).all (fun e => vest s kk (BitVec.ofNat 10 e.2) ≤ vbnd s kk (BitVec.ofNat 10 e.2)) then
        onCore s kk (fun c => { c with mhz := m, lowering := none })
      else s
    | none => s)

/-! ### The device block -/

/-- FPLANE (R139, R140): a changed entry drains its old plane first. -/
def writePlanes (s : State) (v : Word) : Option State :=
  let es := [0, 1, 2, 3]
  allow (es.all (fun e => !deadBit s (fieldOf v (2 * e) 2)))
    (es.foldl (fun s e =>
      let p := fieldOf v (2 * e) 2
      if mapOf s e = p && !entryPending s e then s
      else onFabric s (fun f => { f with fplane := setPend f.fplane e 1, newMap := put f.newMap e (BitVec.ofNat 2 p) })) s)

/-- FTIME and FTRIM (R139). -/
def writeFtime (s : State) (v : Word) : Option State :=
  let t := fieldOf v 0 24
  allow (2 ^ 12 ≤ t && t ≤ 2 ^ 23)
    (onFabric s (fun f => { f with ftimeout := BitVec.ofNat 24 t, deadt := BitVec.ofNat 24 (fieldOf v 32 24) }))

def writeFtrim (s : State) (v : Word) : Option State :=
  let rmax := fieldOf v 24 6
  allow (1 ≤ rmax && rmax ≤ 32 && fieldOf v 16 8 != 0 && fieldOf v 0 8 != 0) (onFabric s (fun f => { f with ftrim := keep v 0x3FFF_FFFF }))

/-- The VCT (R182). -/
def writeVct (s : State) (master cls : Nat) (v : Word) : Option State :=
  allow (master == 64 && vctEngine cls != 0 && cls < 15 && vctReset cls ≤ fieldOf v 0 16)
    (onDevice s (fun d => { d with vct := put d.vct cls (BitVec.ofNat 16 (fieldOf v 0 16)) }))

/-- Eight bytes of a target access table, by master 64 (R180): the entries of masters 64 and 65 never change, and those of reserved
masters and bits 7:4 read 0. -/
def writeTat (s : State) (kind first : Nat) (v : Word) : Option State :=
  let es := (List.range 8).map (fun i => (first + i, byteAt v i % 16))
  allow (es.all (fun e => (e.1 != 64 && e.1 != 65) || e.2 == 0x0F))
    (onDevice s (fun d => { d with
      tat := es.foldl (fun t e => if 68 ≤ e.1 || e.1 = 64 || e.1 = 65 then t else putD t (kind * 128 + e.1) 0 (BitVec.ofNat 8 e.2)) d.tat }))

/-- Every base die has reported stage 4 (R416). -/
def allBooted (s : State) : Bool := [0, 1, 2, 3].all (fun d => bitsAt (dieOf s d).bstat.toNat 0 4 == 4)

/-- The device block: firmware writes DSPILL once, and LOCK after every die has reported stage 4 (R416). No write changes DVERSION: only the load of an extension set raises its minor number (R1, R266). -/
def writeDevice (s : State) (master o : Nat) (v : Word) : Option State :=
  let d := s.device
  if o = 0x018 then
    let m := fieldOf v 0 11
    allow (master == 64 && !d.lock && !d.spilled && m % 64 == 0 && 576 ≤ m && m ≤ 1024)
      (onDevice s (fun d => { d with dspill := BitVec.ofNat 64 m, spilled := true }))
  else if o = 0x020 then
    if bitAt v.toNat 0 then allow (master == 64 && allBooted s) (onDevice s (fun d => { d with lock := true })) else some s
  else if o = 0x028 then some (onDevice s (fun d => { d with derrV := d.derrV && !bitAt v.toNat 63 }))
  else if o = 0x038 then
    let w := fieldOf v 0 13
    allow (master == 64 && 1000 ≤ w && w ≤ 4600) (onDevice s (fun d => { d with pcap := BitVec.ofNat 13 w }))
  else if o = 0x100 then writePlanes s v
  else if o = 0x108 then writeFtime s v
  else if o = 0x110 then writeFtrim s v
  else if o = 0x120 then
    allow (master == 64) (onDevice s (fun d => { d with hostV := bitAt v.toNat 63, hostNode := BitVec.ofNat 14 (fieldOf v 0 14) }))
  else if o = 0x128 then
    allow (master == 64 && 16 ≤ fieldOf v 0 5 && fieldOf v 0 5 ≤ 30) (onDevice s (fun d => { d with migcfg := keep v 0xFFFF_FFFF_FFFF_001F }))
  else if 0x200 ≤ o && o < 0x300 then writeVct s master ((o - 0x200) / 8) v
  else if 0x400 ≤ o && o < 0x680 then writeTat s ((o - 0x400) / 128) (o % 128) v
  else some s

/-! ### Base-die blocks (R419, R420) -/

/-- ATTCTL: a GO takes the nonce and the measurements as they are. OFFSET keeps its value while a report is made (DEDUCED, log 35). -/
def writeAttctl (s : State) (master d : Nat) (v : Word) : Option State :=
  let x := dieOf s d
  let go := bitAt v.toNat 63
  let x' := { x with
    attDone := x.attDone && !bitAt v.toNat 61
    attOff := if x.attBusy then x.attOff else BitVec.ofNat 14 (fieldOf v 6 14) }
  if go then
    allow (!x.attBusy && 2 ≤ bitsAt x.bstat.toNat 0 4)
      (setDie s d { x' with
        attBusy := true
        attBy := master
        attSpoiled := false
        attGo := (x.attnonce, (List.range 4).map (fun i => lookD x.meas i 0))
        attGoOff := x'.attOff })
  else some (setDie s d x')

def writeBaseDie (s : State) (master d o : Nat) (v : Word) : Option State :=
  if 0x980 ≤ o && o < 0x9A0 then
    let i := 8 * (o - 0x980)
    let x := dieOf s d
    let n := x.attnonce.toNat
    allow (!x.attBusy) (setDie s d { x with attnonce := BitVec.ofNat 256 (n - bitsAt n i 64 * 2 ^ i + v.toNat * 2 ^ i) })
  else if o = 0x9A0 then writeAttctl s master d v
  else some s

/-! ### Polder blocks (R63 to R66, R121, R129, R133, R142, R168, R176, R207) -/

/-- A sum over the polders, with one polder's block replaced. -/
def sumPolders (s : State) (p : Nat) (x : Polder) (f : Polder → Nat) : Nat :=
  (List.range 64).foldl (fun a q => a + f (if q = p then x else polderOf s q)) 0

/-- PCFG (R64, R153, R422). -/
def writePcfg (s : State) (p : Nat) (v : Word) : Option State :=
  let x := polderOf s p
  let y := { x with pcfg := keep v 0x1F_FF03 }
  let legal := (x.state == y.state && y.state != 3) || (x.state, y.state) == (0, 1) || (x.state, y.state) == (1, 2) || (x.state, y.state) == (3, 0)
  if !legal || (x.tomb.isSome && y.state < 2) || 256 < sumPolders s p y (fun z => if z.state = 1 then z.share else 0) then none
  else
    let s := setPolder s p y
    if (x.state, y.state) = (0, 1) then
      some (onDevice s (fun d => { d with tat := [0, 1, 2, 3].foldl (fun t k => put t (k * 128 + p) 7) d.tat }))
    else if (x.state, y.state) = (1, 2) then some (beginTeardown s p)
    else some s

/-- PCORES i (R64): no core owned by another, and none that holds a placed team. -/
def writePcores (s : State) (p i : Nat) (v : Word) : Option State :=
  let x := polderOf s p
  let old := bitsAt x.cores.toNat (64 * i) 64
  let changed := ((List.range 64).filter (fun b => bitAt old b != bitAt v.toNat b)).map (64 * i + ·)
  if changed.any (fun k => !(coreOf s k).teams.isEmpty ||
      (List.range 64).any (fun q => q != p && (polderOf s q).owns k)) then none
  else
    let s' := setPolder s p { x with cores := BitVec.ofNat 320 (x.cores.toNat - old * 2 ^ (64 * i) + v.toNat * 2 ^ (64 * i)) }
    some (changed.foldl (fun t k => (List.range 64).foldl (fun t slot => slotUpdate s slot t k) t) s')

/-- PSVC (R121). -/
def writePsvc (s : State) (p : Nat) (v : Word) : Option State :=
  let y := { polderOf s p with psvc := keep v 0x103_FFFF }
  let minc (z : Polder) : Nat := fieldOf z.psvc 0 9
  allow (minc y ≤ fieldOf y.psvc 9 9 && fieldOf y.psvc 9 9 ≤ 320 && sumPolders s p y (fun z => if z.state = 1 then minc z else 0) ≤ 320)
    (setPolder s p y)

/-- PFLOWCFG (R207). -/
def writePflow (s : State) (p : Nat) (v : Word) : Option State :=
  let y := { polderOf s p with pflowcfg := keep v 0xFFFF_FFFF_003F }
  allow (y.idlew != 0 && 1 ≤ y.addInc && y.addInc ≤ 8533 && 1 ≤ y.rmin && y.rmin ≤ 8533 && y.rmin ≤ y.addInc + 8533) (setPolder s p y)

/-- Under a value of PBERM, every slice's quota still holds the berm lines of the polder's open sets (R96). -/
def bermsFit (s : State) (p : Nat) (v : Word) : Bool :=
  (List.range 4).all (fun d => (List.range 160).all (fun i => quotaUsed s p d i ≤ fieldOf v (16 * d) 16 / 10))

def writePolder (s : State) (p o : Nat) (v : Word) : Option State :=
  let x := polderOf s p
  if o = 0x000 then writePcfg s p v
  else if o = 0x008 then
    let y := { x with pberm := v }
    allow ([0, 1, 2, 3].all (fun d => sumPolders s p y (fun z => fieldOf z.pberm (16 * d) 16) ≤ 10240) && bermsFit s p v) (setPolder s p y)
  else if o = 0x010 then
    let y := { x with psend := BitVec.ofNat 32 (fieldOf v 0 32) }
    allow (sumPolders s p y (fun z => z.psend.toNat) ≤ 131072) (setPolder s p y)
  else if o = 0x018 then
    let y := { x with ps2root := keep v 0x000F_FFFF_FFFF_F001 }
    allow (x.state != 1 || y.ps2root == x.ps2root) (setPolder s p y)
  else if 0x020 ≤ o && o < 0x048 then writePcores s p ((o - 0x020) / 8) v
  else if o = 0x048 then writePsvc s p v
  else if o = 0x050 then allow (x.state != 1) (setPolder s p { x with pfrq := keep v 0x000F_FFFF_FFFF_F00F })
  else if o = 0x058 then some (drainPolder (setPolder s p { x with cons := BitVec.ofNat 31 (fieldOf v 0 31) }) p (x.held.length))
  else if o = 0x060 then some (setPolder s p { x with pdlog := keep v 0x000F_FFFF_FFFF_F00F })
  else if o = 0x068 then
    some (setPolder s p { x with logCons := BitVec.ofNat 31 (fieldOf v 0 31), logOverflow := x.logOverflow && !bitAt v.toNat 63 })
  else if o = 0x070 then
    allow (!x.tlbiBusy && fieldOf v 61 2 < 2)
      (setPolder s p { x with tlbiBusy := true, tlbiScope := BitVec.ofNat 2 (fieldOf v 61 2), tlbiAddr := BitVec.ofNat 44 (fieldOf v 12 44) })
  else if o = 0x078 then some (setPolder s p { x with psplit := keep v 0x000F_FFFF_FFFF_F001 })
  else if o = 0x080 then writePflow s p v
  else some s

/-! ### The export table (R183) -/

/-- The entry as a write of one of its words leaves it. -/
def entryAfter (s : State) (n o : Nat) (v : Word) : ExportEntry :=
  let e := exportEntry s n
  if o = 0 then { e with base := keep v 0x8000_03FF_FFFF_F000 }
  else if o = 8 then { e with len := keep v 0xFFFF_FFFF_FFFF_F000 }
  else if o = 16 then { e with ipa := keep v 0x000F_FFFF_FFFF_F000 }
  else { e with attrs := keep v 0x0FFF_FFFF_000F_FFFF }

/-- Ranges of valid entries do not overlap. -/
def overlaps (s : State) (n : Nat) (e : ExportEntry) : Bool :=
  e.valid && (List.range 256).any (fun m => m != n &&
    (let f := exportEntry s m; f.valid && rangesMeet e.start e.len.toNat f.start f.len.toNat))

def writeEntry (s : State) (n o : Nat) (v : Word) : Option State :=
  let e := entryAfter s n o v
  allow (!overlaps s n e) (onDevice s (fun d => { d with expo := put d.expo n e }))

/-- A master that may write an entry: KIND 2 by master 64 only, and others for their own polder before and after. -/
def entryGrants (s : State) (master n o : Nat) (v : Word) : Bool :=
  let e := exportEntry s n
  let f := entryAfter s n o v
  master == 64 || (e.kind != 2 && f.kind != 2 && (master == 66 || (e.polder == master && f.polder == master)))

/-! ### Context descriptors (R67, R68, R117, R129, R132, R168, R197) -/

/-- CTXCFG (R68, R69, R211). -/
def writeCtxcfg (s : State) (c : Nat) (v : Word) : Option State :=
  let x := ctxOf s c
  let y := { x with ctxcfg := keep v 0xFF_F07F }
  if y.tagmode = 3 || ((x.polder != y.polder || x.slot != y.slot) && 0 < placedTeams s c) then none
  else
    let y := if y.valid && !x.valid then
        { y with tagTrapped := 0, tagReported := 0, watchHits := 0, satEv := 0, divEv := 0, vneverEv := 0, vbtEv := 0 }
      else y
    let s' := setCtx s c y
    some (((coresOf s x.polder ++ coresOf s y.polder).eraseDups).foldl (fun t k => slotUpdate s y.slot (slotUpdate s x.slot t k) k) s')

/-- CBOUND (R70). -/
def writeCbound (s : State) (c : Nat) (v : Word) : State :=
  let s := onCtx s c (fun x => { x with cbound := BitVec.ofNat 32 (fieldOf v 0 32) })
  let x := ctxOf s c
  (coresOf s x.polder).foldl (fun s k => if slotCtx s k x.slot = some c then convertSlot s k x.slot else s) s

/-- Entries that wait on a token return to ready (R132). -/
def readyToken (t : Word) (g : Group) : Group :=
  { g with entries := g.entries.map (fun e => if e.token = t then { e with st := .ready, hold := .none, token := 0 } else e) }

/-- A paused copy goes on. -/
def unpause (t : Word) (o : Op) : Op :=
  match o.kind with
  | .copy a b c d e f g (some u) => if u = t then { o with kind := .copy a b c d e f g none } else o
  | _ => o

/-- The copy, by core and number, that waits on a token. -/
def tokenOp (s : State) (t : Word) : Option (Nat × Nat) :=
  (s.cores.flatMap (fun c => c.2.ops.map (fun o => (c.1, o.1, o.2)))).find? (fun e => match e.2.2.kind with
    | .copy _ _ _ _ _ _ _ (some u) => u == t
    | _ => false) |>.map (fun e => (e.1, e.2.1))

/-- RETRY (R132), on the core or in the saved image: of a refused write-back (KIND 2), of lanes or of a copy. -/
def retryToken (s : State) (kind : Nat) (t : Word) : State :=
  if kind = 2 then retryWb s t
  else
    { s with
      cores := s.cores.map (fun c => (c.1, { c.2 with
        groups := c.2.groups.map (fun g => (g.1, readyToken t g.2))
        ops := c.2.ops.map (fun o => (o.1, unpause t o.2)) }))
      saved := s.saved.map (fun x => { x with
        groups := x.groups.map (fun g => (g.1, readyToken t g.2))
        ops := x.ops.map (unpause t) }) }

/-- A paused copy of a saved image stops with its channel (R124). -/
def stopSaved (x : SavedTeam) (o : Op) (ch done : Nat) : SavedTeam :=
  let mine (q : Op) : Bool := match q.kind with | .copy c .. => c == ch | _ => false
  let c := channelOf x.team ch
  let c' := { c with pos := c.pos + (done - copyCounted o), stop := true }
  let lower (g : Nat × Group) : Nat × Group :=
    (g.1, (x.ops.filter (fun q => mine q && q.gid == g.1)).foldl (fun g q => match q.flag with | some f => lowerFlag g f | none => g) g.2)
  { x with
    team := { x.team with chans := put x.team.chans ch c' }
    groups := x.groups.map lower
    banks := (x.ops.filter mine).foldl (fun bs q => match reservedBy q with
      | some (slot, n) => bs.map (fun b => if b.1 = slot then (b.1, { b.2 with reserved := b.2.reserved - n }) else b)
      | none => bs) x.banks
    ops := x.ops.filter (fun q => !mine q) }

/-- FAIL of a copy's record: the copy stops under R124, on the core or in the saved image. -/
def failCopy (s : State) (t : Word) : State :=
  let waits (o : Op) : Bool := match o.kind with | .copy _ _ _ _ _ _ _ (some u) => u == t | _ => false
  match tokenOp s t with
  | some (k, n) => stopCopy s k n
  | none =>
    { s with saved := s.saved.map (fun x =>
        match x.ops.find? waits with
        | some o => (match o.kind with | .copy ch _ _ _ _ _ done _ => stopSaved x o ch done | _ => x)
        | none => x) }

/-- CRESUME (R132). -/
def writeCresume (s : State) (c : Nat) (v : Word) : Option State :=
  let t := v &&& ~~~ 1
  match s.tokens.find? (fun e => e.1 == t) with
  | none => none
  | some (_, kind, ctx) =>
    if ctx != c then none
    else
      let s := { s with tokens := s.tokens.filter (fun e => e.1 != t) }
      some (if !bitAt v.toNat 0 then retryToken s kind t else if kind = 1 then failCopy s t else killContext s c)

/-- CVAC (R197, R203). -/
def writeCvac (s : State) (c : Nat) (v : Word) : Option State :=
  let x := ctxOf s c
  let go := bitAt v.toNat 63
  let kill := bitAt v.toNat 62
  let resume := bitAt v.toNat 61
  if (go && x.busy) || (resume && (x.phase == 1 || x.phase == 2)) then none
  else
    let s := if resume then onCtx s c (fun x => { x with hold := false, phase := 0 }) else s
    let s := if kill then killContext s c else s
    some (if go && kill then onCtx s c (fun x => { x with hold := true }) else if go then requestVacate s c (fieldOf v 0 32) else s)

def writeCtx (s : State) (c o : Nat) (v : Word) : Option State :=
  let x := ctxOf s c
  let idle := placedTeams s c == 0
  if o = 0x00 then writeCtxcfg s c v
  else if o = 0x08 then allow idle (setCtx s c { x with cs1root := keep v 0x000F_FFFF_FFFF_F001 })
  else if o = 0x10 then some (writeCbound s c v)
  else if o = 0x18 then
    let q := max 256 (fieldOf v 0 16)
    allow (idle || q == x.q.toNat)
      (setCtx s c { x with q := BitVec.ofNat 16 q, vstallmax := BitVec.ofNat 32 (fieldOf v 16 32), kmargin := BitVec.ofNat 16 (fieldOf v 48 16) })
  else if o = 0x28 then allow idle (setCtx s c { x with cfrq := keep v 0x000F_FFFF_FFFF_F00F })
  else if o = 0x30 then some (drainCtx (setCtx s c { x with cons := BitVec.ofNat 31 (fieldOf v 0 31) }) c x.held.length)
  else if o = 0x38 then writeCresume s c v
  else if 0x40 ≤ o && o < 0xC0 && o % 16 = 8 then
    some (if bitAt v.toNat 16 then onQueue s c ((o - 0x40) / 16) (fun y => { y with ovf := 0 }) else s)
  else if o = 0xC0 then
    allow (!x.tlbiBusy && fieldOf v 61 2 < 2)
      (setCtx s c { x with tlbiBusy := true, tlbiScope := BitVec.ofNat 2 (fieldOf v 61 2), tlbiAddr := BitVec.ofNat 44 (fieldOf v 12 44) })
  else if o = 0xC8 then writeCvac s c v
  else if o = 0xD0 then some (setCtx s c { x with cvgrace := BitVec.ofNat 32 (fieldOf v 0 32) })
  else some s

/-! ### Core blocks (R69, R212, R415) -/

/-- Core reset (R415): by master 64, of a core with no owner and no placed team. -/
def writeCrst (s : State) (master k : Nat) (v : Word) : Option State :=
  if !bitAt v.toNat 0 then some s
  else
    allow (master == 64 && (ownerOf s k).isNone && (coreOf s k).teams.isEmpty)
      (onCore s k (fun c => { c with
        ccyc := 0
        refillAt := 0
        suba := 0
        fenceReq := none
        banks := []
        l1 := []
        icache := []
        latches := []
        pmcfg := 0
        pmfilt := 0
        pmc := [] }))

def writeCore (s : State) (master k o : Nat) (v : Word) : Option State :=
  if o = 0x000 then writeCclk s k v
  else if o = 0x010 then writeCrst s master k v
  else if o = 0x100 then some (onCore s k (fun c => { c with pmcfg := v }))
  else if o = 0x108 then some (onCore s k (fun c => { c with pmfilt := keep v 0x8000_0000_0000_003F }))
  else if 0x110 ≤ o && o < 0x150 then some (onCore s k (fun c => { c with pmc := put c.pmc ((o - 0x110) / 8) (BitVec.ofNat 48 (fieldOf v 0 48)) }))
  else if 0x800 ≤ o && o % 0x20 = 0 then
    let slot := (o - 0x800) / 0x20
    allow ((slotCtx s k slot).isSome && !hwConverts s k) (setBound s k slot v.toNat)
  else some s

/-! ### The access (R61, R181) -/

/-- What a granted write does. -/
def writeRegion (s : State) (master : Nat) (v : Word) : Region → Option State
  | .device o => writeDevice s master o v
  | .baseDie d o => writeBaseDie s master d o v
  | .polder p o => writePolder s p o v
  | .entry n o => writeEntry s n o v
  | .ctx c o => writeCtx s c o v
  | .core k o => writeCore s master k o v
  | .heat _ _ => some s
  | .reserved => some s

/-- Whether a write is granted, with the tables' own masters. -/
def writeGrants (s : State) (w : CtlWrite) (r : Region) : Bool :=
  windowGrants s w.master.toNat w.viaEntry0 true r &&
    match r with
    | .device o => !(0x400 ≤ o && o < 0x680) || w.master == 64
    | .entry n o => entryGrants s w.master.toNat n o w.data
    | _ => true

/-- A control-window write: the state, and whether the response is ACCESS. -/
def ctlWrite (s : State) (w : CtlWrite) : State × Bool :=
  let r := regionOf w.off.toNat
  if w.size != 8 || w.off.toNat % 8 != 0 || !writeGrants s w r then (s, true)
  else ((writeRegion s w.master.toNat w.data r).getD (refuseWrite s w.off.toNat), false)

/-- A write as its event: it is one of the registers that the event names. -/
def writeAt (s : State) (w : CtlWrite) (mine : Region → Bool) : Out :=
  .next (if mine (regionOf w.off.toNat) then (ctlWrite s w).1 else s)

/-- REGISTER_WRITE (R61). -/
def execRegisterWrite (w : CtlWrite) (s : State) : Out := writeAt s w (fun _ => true)

/-- DCFG_LOCK (R62). -/
def execDcfgLock (w : CtlWrite) (s : State) : Out := writeAt s w (fun r => r == .device 0x020 && bitAt w.data.toNat 0)

/-- CORE_RESET (R415). -/
def execCoreReset (w : CtlWrite) (s : State) : Out :=
  writeAt s w (fun r => match r with | .core _ o => o == 0x010 | _ => false)

/-- A PCFG write that names a STATE while the polder is in another. -/
def pcfgMove (s : State) (w : CtlWrite) (from' to' : Nat) : Out :=
  writeAt s w (fun r => match r with
    | .polder p o => o == 0 && (polderOf s p).state == from' && fieldOf w.data 0 2 == to'
    | _ => false)

/-- POLDER_ACTIVATE, POLDER_TEARDOWN, POLDER_RELEASE (R64, R153). -/
def execPolderActivate (w : CtlWrite) (s : State) : Out := pcfgMove s w 0 1
def execPolderTeardown (w : CtlWrite) (s : State) : Out := pcfgMove s w 1 2
def execPolderRelease (w : CtlWrite) (s : State) : Out := pcfgMove s w 3 0

/-- A write to an offset of a context descriptor. -/
def ctxWrite (s : State) (w : CtlWrite) (at' : Nat) (p : Bool) : Out :=
  writeAt s w (fun r => match r with | .ctx _ o => o == at' && p | _ => false)

/-- CTXCFG_WRITE (R68), CBOUND_WRITE (R70), CTLBI_WRITE (R168). -/
def execCtxcfgWrite (w : CtlWrite) (s : State) : Out := ctxWrite s w 0x00 true
def execCboundWrite (w : CtlWrite) (s : State) : Out := ctxWrite s w 0x10 true
def execCtlbiWrite (w : CtlWrite) (s : State) : Out := ctxWrite s w 0xC0 true

/-- RESUME_RETRY and RESUME_FAIL (R132). -/
def execResumeRetry (w : CtlWrite) (s : State) : Out := ctxWrite s w 0x38 (!bitAt w.data.toNat 0)
def execResumeFail (w : CtlWrite) (s : State) : Out := ctxWrite s w 0x38 (bitAt w.data.toNat 0)

/-- VACATE_GO, CONTEXT_KILL and VACATE_RESUME (R197, R203). -/
def execVacateGo (w : CtlWrite) (s : State) : Out := ctxWrite s w 0xC8 (bitAt w.data.toNat 63)
def execContextKill (w : CtlWrite) (s : State) : Out := ctxWrite s w 0xC8 (bitAt w.data.toNat 62)
def execVacateResume (w : CtlWrite) (s : State) : Out := ctxWrite s w 0xC8 (bitAt w.data.toNat 61)

/-- VBND_WRITE (R70). -/
def execVbndWrite (w : CtlWrite) (s : State) : Out :=
  writeAt s w (fun r => match r with | .core _ o => decide (0x800 ≤ o) && o % 0x20 == 0 | _ => false)

/-- CCLK_WRITE (R71). -/
def execCclkWrite (w : CtlWrite) (s : State) : Out :=
  writeAt s w (fun r => match r with | .core _ o => o == 0 | _ => false)

/-- TAT_WRITE (R180), VCT_WRITE (R182), FPLANE_WRITE (R140). -/
def execTatWrite (w : CtlWrite) (s : State) : Out :=
  writeAt s w (fun r => match r with | .device o => decide (0x400 ≤ o && o < 0x680) | _ => false)
def execVctWrite (w : CtlWrite) (s : State) : Out :=
  writeAt s w (fun r => match r with | .device o => decide (0x200 ≤ o && o < 0x300) | _ => false)
def execFplaneWrite (w : CtlWrite) (s : State) : Out := writeAt s w (fun r => r == .device 0x100)

/-- EXPORT_WRITE (R183). -/
def execExportWrite (w : CtlWrite) (s : State) : Out := writeAt s w (fun r => match r with | .entry _ _ => true | _ => false)

/-- PTLBI_WRITE (R168). -/
def execPtlbiWrite (w : CtlWrite) (s : State) : Out := writeAt s w (fun r => match r with | .polder _ o => o == 0x070 | _ => false)

/-- FAULT_QUEUE_CONSUME (R130). -/
def execFaultQueueConsume (w : CtlWrite) (s : State) : Out :=
  writeAt s w (fun r => match r with | .ctx _ o => o == 0x30 | .polder _ o => o == 0x058 | _ => false)

/-- ATTEST_GO (R420). -/
def execAttestGo (w : CtlWrite) (s : State) : Out :=
  writeAt s w (fun r => match r with | .baseDie _ o => o == 0x9A0 && bitAt w.data.toNat 63 | _ => false)

end Sys2Proof.Machine
end

