-- ==== Sys2Proof/Machine/FabricTarget.lean ====
section
/-! DEFINITION. The target side of the fabric: exports, windows, gaps, holds, refills, rejects and releases (R61, R90, R91, R110, R116,
R142 to R152, R157, R183, R184, R421). -/

namespace Sys2Proof.Machine

/-! ### Answers -/

/-- An ACK or NACK of a packet. -/
def ackWith (s : State) (p : Packet) (st : BitVec 8) : State := sendAnswer s p (answerOf p kAck st)
def nackWith (s : State) (p : Packet) (st : BitVec 8) : State := sendAnswer s p (answerOf p kNack st)

/-- A response of class 3, on the plane of the line under this node's map (R140, R143). -/
def respondWith (s : State) (p : Packet) (kind st : BitVec 8) (fl : List (BitVec 512)) : State :=
  submitAt s p.inDie.toNat (planeOf s p.off.toNat)
    { kind := kind, cls := 3, len := BitVec.ofNat 3 fl.length, polder := p.polder, dst := p.src, status := st, ctx := p.ctx,
      cont := p.cont, gen := p.gen, cm := p.cm, off := p.off, rcore := p.rcore, notrim := p.notrim || kind == kAtomrsp,
      payload := fl } 0 0

/-! ### Access through a KIND 0 export (R184) -/

/-- The master that a packet acts as. -/
def fabricMaster (s : State) (p : Packet) : Nat := if s.device.hostV && p.src == s.device.hostNode then 66 else 67

/-- The right that a kind of packet needs: 0 read, 1 write, 2 atomic, 3 merge. -/
def rightOf (k : BitVec 8) : Nat :=
  if k == kRdreq || k == kGetreq then 0 else if k == kAtomreq then 2 else if k == kMstage || k == kMclose then 3 else 1

def accOfRight (r : Nat) : Acc := if r = 0 then accRead else if r = 1 then accWrite else accAtomic

/-- A stage-2 fault of a remote access: a KIND 5 record with TOKEN 0, and NACK XLATE. -/
def remoteFault (s : State) (p : Packet) (polder : Nat) (f : XFault) (acc : Acc) : State :=
  nackWith (reportPolder s { cause := f.cause, sub := f.sub, kind := 5, level := f.level, polder := polder, acc := acc.code, ipa := f.ipa }) p stXlate

/-- The bytes of the line that a packet touches: those it writes, or the sectors of the line that a read is for (log 49). -/
def touchedMask (p : Packet) : Nat :=
  if p.kind == kWr || p.kind == kPuts || p.kind == kMstage then (payloadWrite p.masked p.payload).1
  else if p.kind == kAtomreq then (2 ^ atomicBytes (Ty.ofCode p.tyField.toNat) - 1) * 2 ^ (p.off.toNat % 256)
  else (List.range 4).foldl (fun a i => if bitAt p.sectors.toNat i then a + (2 ^ 64 - 1) * 2 ^ (64 * i) else a) 0

/-- The tag of a touched sector differs from the packet's (R91, R143). -/
def tagMiss (s : State) (p : Packet) (line : Nat) : Bool :=
  p.tck && isHbm line && (maskSectors (touchedMask p)).any (fun i => memTag s (line + 64 * i) != p.tag)

/-- Sectors of a line that the memory controllers serve to the polder of an export (R206). -/
def serveLine (s : State) (polder line n : Nat) : State := if isHbm line then servePolder s polder (homeDie line) n else s

/-- What memory does with a packet at its physical address; `none` when a stage waits for its slot. -/
def memoryServe (s : State) (p : Packet) (polder pa : Nat) : Option State :=
  let line := pa / 256 * 256
  let miss := tagMiss s p line
  let ok := if miss then stAppliedTag else stApplied
  let rst := if miss then stTag else 0
  let h := homeDie pa
  if miss && p.tref then some (nackWith s p stTag)
  else if p.kind == kRdreq || p.kind == kGetreq then
    some (respondWith (serveLine s polder line 4) p (if p.kind == kRdreq then kRdrsp else kGetrsp) rst
      ((List.range 4).map (fun i => BitVec.ofNat 512 (homeRead s (line + 64 * i) 64))))
  else if p.kind == kAtomreq then
    let t := Ty.ofCode p.tyField.toNat
    let b := (p.payload.headD 0).toNat
    let a : LaneAcc := { lane := 0, space := .hbm, va := 0, pa := pa, n := atomicBytes t, data := BitVec.ofNat 64 (bitsAt b 0 64),
                         data2 := BitVec.ofNat 64 (bitsAt b 64 64) }
    let (s, vs) := atomicAt (serveLine s polder line 1) h p.op.toNat t [a]
    some (respondWith (ackWith s p ok) p kAtomrsp rst [BitVec.ofNat 512 ((vs.head?.map (fun e => e.2.toNat)).getD 0)])
  else if p.kind == kMstage then
    let hd := p.handle
    let id := p.cid.toNat
    let (mask, data) := payloadWrite p.masked p.payload
    let es := ((List.range 64).filter (fun i => bitsAt mask (4 * i) 4 != 0)).map (fun i => (line + 4 * i, BitVec.ofNat 32 (bitsAt data (32 * i) 32)))
    let key := setIdKey (handleSet hd)
    match stageRule s key (handleGen hd) (some polder) id (es.map (·.1)) with
    | some sub => some (nackWith s p (BitVec.ofNat 8 (0x10 + sub)))
    | none =>
      match openSet s key (handleGen hd) with
      | none => some (nackWith s p 0x11)
      | some m =>
        let m := claimSlot m id none
        if !holds m id then none else some (ackWith (setSet s key (acceptStage m id es)) p ok)
  else
    let (mask, data) := payloadWrite p.masked p.payload
    let s := (maskSectors mask).foldl (fun s i => dieWrite (serveLine s polder line 1) h (line + 64 * i) 64 (bitsAt mask (64 * i) 64) (bitsAt data (512 * i) 512) none) s
    some (ackWith s p ok)

/-- Bytes that a packet of the requester of a report writes to its place before DONE (R420). -/
def spoilReport (s : State) (p : Packet) (pa : Nat) : State :=
  if rightOf p.kind = 0 || (dieOf s (windowDie pa)).attBy != fabricMaster s p then s else noteReport s (pa / 256 * 256) 256 (touchedMask p)

/-- The bytes that a packet writes at its physical line (R14). -/
def packetSpans (p : Packet) (pa : Nat) : List (Nat × Nat) :=
  if rightOf p.kind = 1 || rightOf p.kind = 2 then
    ((List.range 256).filter (bitAt (touchedMask p))).map (fun i => (pa / 256 * 256 + i, 1))
  else []

/-- A page that a migration holds: a write to it waits (R179). -/
def onMovingPage (s : State) (polder ipa : Nat) : Bool := (leafOf s polder ipa).any (fun l => peMig l.e)

/-- A packet through a KIND 0 export; `none` when it must still wait. A write to a page on the move waits with no record: DESIGN CHOICE, log
26. A stage, or an atomic that the host bus has not, that meets the host window is answered DENIED: R90 and R103 say ACCESS, R143 gives
that NACK status to launch and control windows only, and no other for this case: DESIGN CHOICE, log 50. -/
def exportServe (s : State) (p : Packet) (e : ExportEntry) : Option State :=
  let r := rightOf p.kind
  let acc := accOfRight r
  if (polderOf s e.polder).state != 1 then some (nackWith s p stNoexport)
  else
    let ipa := fieldOf e.ipa 12 40 * 4096 + (p.off.toNat - e.start)
    match stage2 s e.polder ipa acc p.inDie.toNat with
    | (s', .inr f) => if f.sub = subRdupw && f.cause = causeXlate2 && onMovingPage s e.polder ipa then none else some (remoteFault s' p e.polder f acc)
    | (s, .inl o) =>
      if !memGrants s (fabricMaster s p) o.pa (min r 2) then some (nackWith s p stDenied)
      else if isHostWindow o.pa && (p.kind == kMstage || (p.kind == kAtomreq && !atomicAtHost (Ty.ofCode p.tyField.toNat))) then
        some (nackWith s p stDenied)
      else memoryServe (noteArgs (spoilReport s p o.pa) (packetSpans p o.pa)) p e.polder o.pa

/-! ### The launch window (R116) -/

/-- A write to a launch port: the status, APPLIED when the record is enqueued. A write of a wrong size or alignment before LOCK is
answered ACCESS: R116 gives it both ACCESS and NOTREADY; DESIGN CHOICE, log 39. -/
def launchPort (s : State) (off size : Nat) (data : BitVec 1024) : State × BitVec 8 :=
  if size != 128 || off % 128 != 0 then (s, stAccess)
  else if !s.device.lock then (s, stNotready)
  else
    match enqueueRecord s (off / 0x400) (off % 0x400 / 0x80) data with
    | (s, some _) => (s, stApplied)
    | (s, none) => (s, stFull)

/-- LAUNCH_PORT_WRITE (R116). -/
def execLaunchPortWrite (off : BitVec 20) (size : Nat) (data : BitVec 1024) (s : State) : Out := .next (launchPort s off.toNat size data).1

/-- The aligned bytes that a WR packet writes, when its mask is one aligned run of `n` bytes: their place in the line. -/
def alignedRun (mask n : Nat) : Option Nat := ((List.range (256 / n)).map (· * n)).find? (fun i => mask == (2 ^ n - 1) * 2 ^ i)

/-- A packet at the launch window; a port of another polder's context is refused (DEDUCED, log 36). A write of a wrong size is answered
ACCESS, then one before LOCK NOTREADY (R62, R116), then one at an export of a polder that is not active NOEXPORT (R153); that order, and
that a right the entry lacks is answered DENIED before all of them, is a DESIGN CHOICE, log 39. -/
def launchServe (s : State) (p : Packet) (e : ExportEntry) : State :=
  let (mask, data) := payloadWrite p.masked p.payload
  let off (i : Nat) : Nat := p.off.toNat / 256 * 256 - e.start + i
  match if p.kind == kWr then alignedRun mask 128 else none with
  | none => nackWith s p stAccess
  | some i =>
    if !s.device.lock then nackWith s p stNotready
    else if (polderOf s e.polder).state != 1 then nackWith s p stNoexport
    else if (ctxOf s (off i / 0x400)).polder != e.polder then nackWith s p stAccess
    else
      let (s, st) := launchPort s (off i) 128 (BitVec.ofNat 1024 (bitsAt data (8 * i) 1024))
      if st == stApplied then ackWith s p st else nackWith s p st

/-! ### The control window (R61, R421) -/

/-- A packet at the control window, through export entry `n`. -/
def controlServe (s : State) (p : Packet) (n : Nat) (e : ExportEntry) : State :=
  let m := fabricMaster s p
  let base := p.off.toNat / 256 * 256 - e.start
  let boot (o : Nat) : Bool := n == 0 && bootRegister (regionOf o)
  let early := bitsAt (dieOf s 0).bstat.toNat 0 4 != 3 && bitsAt (dieOf s 0).bstat.toNat 0 4 != 4
  if p.kind == kWr || p.kind == kPuts then
    let (mask, data) := payloadWrite p.masked p.payload
    match alignedRun mask 8 with
    | none => nackWith s p (if early then stDenied else stAccess)
    | some i =>
      if early && !boot (base + i) then nackWith s p stDenied
      else
        let w : CtlWrite := { master := BitVec.ofNat 7 m, viaEntry0 := n == 0, off := BitVec.ofNat 26 (base + i), size := 8, data := BitVec.ofNat 64 (bitsAt data (8 * i) 64) }
        let (s, bad) := ctlWrite s w
        if bad then nackWith s p stAccess else ackWith s p stApplied
  else
    let o := p.off.toNat - e.start
    if early && !(p.kind == kRdreq && boot o) then nackWith s p stDenied
    else
      match if p.kind == kRdreq then windowReadAs s m (n == 0) o 8 else none with
      | none => nackWith s p stAccess
      | some v => respondWith s p kRdrsp 0 ((List.range 4).map (lineFlit (v.toNat * 2 ^ (8 * (p.off.toNat % 256)))))

/-! ### A packet that may perform -/

/-- A set's polder admits a node for merges. -/
def mergeAdmits (s : State) (polder : Nat) (src : BitVec 14) : Bool :=
  (List.range 256).any (fun n => let e := exportEntry s n; e.valid && e.kind == 0 && e.polder == polder && e.right 3 && e.admits src)

/-- A remote close goes on to the coordinator (R105, R110). -/
def closeServe (s : State) (p : Packet) : State :=
  let b := (p.payload.headD 0).toNat
  let hd := BitVec.ofNat 64 (bitsAt b 0 64)
  let id := bitsAt b 64 16
  let key := setIdKey (handleSet hd)
  let polder := ((openSet s key (handleGen hd)).map (fun m => m.polder.toNat)).getD 0
  match closeRule s key (handleGen hd) (some (if mergeAdmits s polder p.src then polder else 64)) id with
  | some sub => nackWith s p (BitVec.ofNat 8 (0x10 + sub))
  | none =>
    match openSet s key (handleGen hd) with
    | some m => ackWith (setSet s key (closeContrib m id)) p stApplied
    | none => s

/-- A packet meets the export that it matched on arrival (R184); `none` when it must still wait. -/
def servePacket (s : State) (p : Packet) (entry : Option (Nat × ExportEntry)) : Option State :=
  if p.kind == kMclose then some (closeServe s p)
  else
    match entry with
    | none => some (nackWith s p stNoexport)
    | some (n, e) =>
      if !e.right (rightOf p.kind) then some (nackWith s p stDenied)
      else if e.kind = 0 then exportServe s p e
      else if e.kind = 1 then some (launchServe s p e)
      else if e.kind = 2 then some (controlServe s p n e)
      else some (nackWith s p stNoexport)

/-! ### Holding (R102, R147, R148) -/

def sameLine (g : Gap) (p : Packet) : Bool := g.line.toNat == p.off.toNat / 256

/-- A gap that a class-2 packet is behind: of its source and line, with a lower tag. -/
def behindGap (s : State) (p : Packet) : Bool :=
  s.fabric.gaps.any (fun e => e.2.src == p.src && e.2.plane == p.plane && sameLine e.2 p && tagBefore e.2.stag p.stag)

/-- A read or an atomic waits for every open gap of its line (R147). -/
def lineGap (s : State) (p : Packet) : Bool :=
  (p.kind == kRdreq || p.kind == kGetreq || p.kind == kAtomreq) && s.fabric.gaps.any (fun e => sameLine e.2 p)

/-- A release waits for the gaps of its source recorded before it. -/
def gapBefore (s : State) (p : Packet) (n : Nat) : Bool := s.fabric.gaps.any (fun e => e.2.src == p.src && e.2.seq < n)

def isRelease (p : Packet) : Bool := p.rel || p.kind == kPuts || p.kind == kMclose
def isFabricRead (p : Packet) : Bool := p.kind == kRdreq || p.kind == kGetreq

/-- An access to a line: a class-2 packet or a read. -/
def isLineAccess (p : Packet) : Bool := p.cls == 2 || isFabricRead p

/-- A held packet must go on waiting behind `seen`, the ones held before it: an access behind those of its source and line (R147, R229), a
release behind those that arrived behind a gap of its source (R148), a close behind the stages of its source (R110). A refill waits for
none of the reads and gaps of other sources, which wait for it (R147; DEDUCED, log 26). -/
def mustHold (s : State) (seen : List Held) (h : Held) : Bool :=
  let p := h.pkt
  let fills := h.gap.isSome
  let earlier := seen.filter (fun e => e.pkt.src == p.src)
  let sameAccess (e : Held) : Bool := e.pkt.off.toNat / 256 == p.off.toNat / 256 && (e.pkt.cls == 2 || (!fills && isFabricRead e.pkt && p.cls == 2))
  (p.cls == 2 && behindGap s p) || (isLineAccess p && earlier.any sameAccess) || (!fills && lineGap s p) ||
    (isRelease p && (gapBefore s p h.seq || earlier.any (·.behind))) || (p.kind == kMclose && earlier.any (·.pkt.kind == kMstage))

/-- A packet is no longer held; a refill that performs frees its gap (R147). -/
def unhold (s : State) (h : Held) : State :=
  onFabric s (fun f => { f with held := f.held.erase h, gaps := h.gap.elim f.gaps (del f.gaps) })

/-- The first held packet that can perform, and the state after it; class-2 packets before reads. -/
def releaseOne (s : State) (data : Bool) : List Held → List Held → Option State
  | _, [] => none
  | seen, h :: r =>
    let next := if (h.pkt.cls == 2) != data || mustHold s seen h then none
      else servePacket (unhold s h) h.pkt h.entry
    match next with
    | some t => some t
    | none => releaseOne s data (seen ++ [h]) r

/-- Held packets perform as far as they can, and waiting invalidations of the host begin. -/
def pumpHeld : Nat → State → State
  | 0, s => s
  | n + 1, s =>
    match (releaseOne s true [] s.fabric.held).or (releaseOne s false [] s.fabric.held) with
    | some t => pumpHeld n t
    | none => s

def pumpFabric (s : State) : State :=
  let s := pumpHeld s.fabric.held.length s
  let w := s.fabric.waiting
  if w.isEmpty then s else w.foldl beginXlinv (onFabric s (fun f => { f with waiting := [] }))

/-- A packet is held at the end of the list, then whatever can perform does. One of class 2 that has not performed is acknowledged
HELD. -/
def holdPacket (s : State) (p : Packet) : State :=
  let h : Held := { pkt := p, seq := s.fabric.gapSeq, behind := behindGap s p, entry := exportMatch s p.src p.off.toNat }
  let s := pumpFabric (onFabric s (fun f => { f with held := f.held ++ [h] }))
  if p.cls == 2 && s.fabric.held.contains h then ackWith s p stHeld else s

/-! ### Rejects (R150) -/

/-- A packet or skim is not taken. -/
def rejectPacket (s : State) (p : Packet) : State := bumpCounter (ackWith s p stReject) 5 1

/-- A window that blocks a packet: every later one but the resend that clears BLOCK. -/
def blocked (w : RxWindow) (p : Packet) : Bool := w.block && !tagBefore p.stag w.btag && !(p.resend && p.stag == w.btag)

/-- The resend of BTAG clears BLOCK. -/
def unblock (s : State) (p : Packet) : State :=
  let w := rxOf s p
  if w.block && p.resend && p.stag == w.btag then setRx s p { w with block := false } else s

/-- A refill takes the place of its gap among the held packets: behind those that arrived before the gap was recorded. -/
def insertRefill (h : Held) (l : List Held) : List Held :=
  l.takeWhile (fun e => decide (e.seq ≤ h.seq)) ++ h :: l.dropWhile (fun e => decide (e.seq ≤ h.seq))

/-- A refill is applied once NEXT has passed its tag, and performs; while its page or its slot makes it wait, its gap stays, and what waits
behind the gap with it (R147). -/
def applyRefill (s : State) (i : Nat) (g : Gap) (p : Packet) (entry : Option (Nat × ExportEntry)) : State :=
  let h : Held := { pkt := p, seq := g.seq, behind := behindGap s p, entry := entry, gap := some i }
  pumpFabric (bumpCounter (onFabric s (fun f => { f with gaps := put f.gaps i { g with filled := true, refill := none }, held := insertRefill h f.held })) 3 1)

/-- Refills that have been waiting for lower tags; a gap that has expired takes its refill with it (R149, R152). -/
def pumpRefills (s : State) : State :=
  s.fabric.gaps.foldl (fun s e => match e.2.refill with
    | some (p, entry) => if e.2.age < e.2.limit && tagBefore p.stag (rxOf s p).next then applyRefill s e.1 e.2 p entry else s
    | none => s) s

/-- A class-2 packet arrives. One that its export or the memory refuses counts as received, and advances NEXT like one that is applied; one
that is absorbed under a tombstone or fails its seal is discarded before, and does not (R141 names only applied, held and recorded packets):
DESIGN CHOICE, log 26. -/
def arriveData (s : State) (p : Packet) : State :=
  if blocked (rxOf s p) p then rejectPacket s p
  else if wasReceived (rxOf s p) p.stag then s
  else pumpRefills (holdPacket (receive (unblock s p) p) p)

/-- An arrival of a class-2 kind that is neither a skim nor a refill. -/
def dataEvent (p : Packet) (kind : BitVec 8) (s : State) : Out :=
  .next (if p.trim || p.refill then s else arrivePacket s p kind arriveData)

/-- WR_PACKET, PUTS_PACKET, ATOMREQ, MSTAGE (R143, R147, R148, R110). -/
def execWrPacket (p : Packet) (s : State) : Out := dataEvent p kWr s
def execPutsPacket (p : Packet) (s : State) : Out := dataEvent p kPuts s
def execAtomreq (p : Packet) (s : State) : Out := dataEvent p kAtomreq s
def execMstage (p : Packet) (s : State) : Out := dataEvent p kMstage s

/-- RDREQ, GETREQ (R143, R147), MCLOSE_PACKET (R110). -/
def execRdreq (p : Packet) (s : State) : Out := .next (arrivePacket s p kRdreq holdPacket)
def execGetreq (p : Packet) (s : State) : Out := .next (arrivePacket s p kGetreq holdPacket)
def execMclosePacket (p : Packet) (s : State) : Out := .next (arrivePacket s p kMclose holdPacket)

/-! ### Gaps and refills (R145 to R149) -/

/-- A skim of a class-2 packet: recorded as a gap, or rejected when the list is full. -/
def recordSkim (s : State) (p : Packet) : State :=
  if blocked (rxOf s p) p then rejectPacket s p
  else if wasReceived (rxOf s p) p.stag then s
  else
    match freeKey s.fabric.gaps 512 with
    | none => rejectPacket (setRx s p { rxOf s p with block := true, btag := p.stag }) p
    | some i =>
      let g : Gap := { src := p.src, plane := p.plane, stag := p.stag, polder := p.polder, kind := p.kind, len := p.len,
                       limit := s.fabric.ftimeout.toNat, line := BitVec.ofNat 34 (p.off.toNat / 256), seq := s.fabric.gapSeq, die := p.inDie }
      let s := receive (unblock s p) p
      let s := onFabric s (fun f => { f with gaps := put f.gaps i g, gapSeq := f.gapSeq + 1 })
      pumpRefills (bumpCounter (ackWith s { p with cls := 2 } stGap) 1 1)

/-- SKIM (R145, R150, R151): of a data packet, or of a response. -/
def execSkim (p : Packet) (s : State) : Out :=
  .next (
    if !p.trim then s
    else if p.kind == kRdrsp || p.kind == kGetrsp then arrivePacket s p p.kind takeResponse
    else if p.kind == kWr || p.kind == kAtomreq || p.kind == kPuts || p.kind == kMstage then arrivePacket s p p.kind recordSkim
    else if badFrame s p then discard s
    else s)

/-- A refill meets its gap, if none has filled it yet; one that matches none is discarded without an answer (R147, R149). One that no export covers any more is
answered NACK NOEXPORT, and its gap runs out (R186). -/
def meetRefill (s : State) (p : Packet) : State :=
  match s.fabric.gaps.find? (fun e => e.2.src == p.src && e.2.plane == p.plane && e.2.stag == p.stag && e.2.kind == p.kind && !e.2.filled) with
  | none => s
  | some (i, g) =>
    let entry := exportMatch s p.src p.off.toNat
    if g.limit ≤ g.age then s
    else if entry.isNone then nackWith s p stNoexport
    else if tagBefore p.stag (rxOf s p).next then applyRefill s i g p entry
    else onFabric s (fun f => { f with gaps := put f.gaps i { g with refill := some (p, entry) } })

/-- REFILL (R147). -/
def execRefill (p : Packet) (s : State) : Out :=
  .next (if p.refill && !p.trim then arrivePacket s p p.kind meetRefill else s)

/-- GAP_EXPIRE (R149): NACK GAPTO, and what waited behind the gap performs. A gap whose refill has been applied does not expire (DEDUCED,
log 26). -/
def execGapExpire (i : BitVec 9) (s : State) : Out :=
  .next (match look s.fabric.gaps i.toNat with
    | some g => if g.limit ≤ g.age && !g.filled then pumpFabric (bumpCounter (nackGap s i.toNat g stGapto) 4 1) else s
    | none => s)

/-- Outstanding refill requests and reissued reads of the node (R146, R151). -/
def refillsOut (s : State) : Nat :=
  (s.fabric.gaps.filter (fun e => e.2.requested && !e.2.filled)).length +
    s.cores.foldl (fun a c => a + (c.2.conts.filter (fun e => e.2.used && e.2.reissued)).length) 0

/-- The gap of a source to be asked for next: the first recorded. -/
def nextGap (s : State) (src : BitVec 14) : Option (Nat × Gap) :=
  (s.fabric.gaps.filter (fun e => e.2.src == src && !e.2.requested && !e.2.filled)).foldl (fun b e => match b with
    | some c => if e.2.seq < c.2.seq then some e else b
    | none => some e) none

/-- A trimmed response of a target that is to be asked for again. -/
def skimmedCont (s : State) (src : BitVec 14) : Option (Nat × Nat × Continuation) :=
  (s.cores.flatMap (fun c => c.2.conts.map (fun e => (c.1, e.1, e.2)))).find? (fun e => e.2.2.used && e.2.2.skimmed && e.2.2.dst == src)

/-- The REFILLREQ of a gap. -/
def refillRequest (g : Gap) : Packet :=
  { kind := kRefillreq, cls := 0, polder := g.polder, dst := g.src, stag := g.stag, off := BitVec.ofNat 42 (g.line.toNat * 256) }

/-- The read request of a continuation goes out again, NOTRIM (R151). -/
def reissue (s : State) (k e : Nat) (x : Continuation) : State :=
  match s.fabric.retained.find? (fun r => isRequest r.pkt && r.core == k && r.pkt.cont.toNat == e && r.pkt.gen == x.gen && r.op == x.op) with
  | none => s
  | some r =>
    let s := onCore s k (fun c => { c with conts := put c.conts e { x with skimmed := false, reissued := true } })
    let s := onFabric s (fun f => { f with retained := f.retained.erase r })
    submitAt s (dieOfCore k) r.pkt.plane.toNat { r.pkt with notrim := true } k r.op

/-- The pace of RGAP lets a request go to a source (R146), as its last request found it (R139). -/
def paceFree (s : State) (src : BitVec 14) : Bool := ((look s.fabric.paced src.toNat).map (fun e => decide (e.2 ≤ e.1))).getD true

/-- REFILL_REQUEST_SEND (R146, R151): RGAP between requests to one source, RMAX outstanding. With a gap and a trimmed response of one node the
gap goes first: DESIGN CHOICE, log 26. -/
def execRefillRequestSend (src : BitVec 14) (s : State) : Out :=
  let f := s.fabric
  .next (
    if !paceFree s src || fieldOf f.ftrim 24 6 ≤ refillsOut s then s
    else
      let s' := onFabric s (fun f => { f with paced := put f.paced src.toNat (0, ftrimField s 16) })
      match nextGap s src with
      | some (i, g) =>
        let s' := onFabric s' (fun f => { f with gaps := put f.gaps i { g with requested := true } })
        submitAt s' g.die.toNat g.plane.toNat (refillRequest g) 0 0
      | none =>
        match skimmedCont s src with
        | some (k, e, x) => reissue s' k e x
        | none => s)

end Sys2Proof.Machine
end

