-- ==== Sys2Proof/Machine/Dispatcher.lean ====
section
/-! DEFINITION. The dispatcher: the checks of a record, the placement of clusters, resumes, drains and border moves (R9 to R17, R34 to
R36, R74, R88, R89, R118 to R122, R197). -/

namespace Sys2Proof.Machine

/-! ### The head of a queue (R13, R118) -/

/-- The head record of a queue: sequence number, record, order of acceptance. -/
def headOf (s : State) (c q : Nat) : Option (Nat × BitVec 1024 × Nat) := (queueOf (ctxOf s c) q).records.head?

/-- The launch that a queue's head has become. -/
def launchOf (s : State) (c q seq : Nat) : Option (Nat × Launch) :=
  s.launches.find? (fun e => e.2.ctx.toNat == c && e.2.queue == q && e.2.seq == seq)

/-- Records and saved or flushed teams of the context are dispatched: it is valid, not held, and its polder is active (R68, R153,
R197). -/
def dispatches (s : State) (c : Nat) : Bool :=
  let x := ctxOf s c
  x.valid && !x.hold && (polderOf s x.polder).state == 1

/-- The status with which a record is retired unrun: the first check that fails (R118). -/
def headStatus (s : State) (c q seq : Nat) (r : BitVec 1024) : Option Nat :=
  let x := ctxOf s c
  if lrReserved r then some 1
  else if lrOutside r then some 2
  else if (shapeRect (lrW r) (lrH r)).isNone then some 3
  else if 2048 < lrGroups r * lrFootprint r then some 4
  else if lrStamp r != devHash s then some 5
  else if lrWaitValid r && lrWaitq r == q && seq < lrWaitval r then some 6
  else if !ownsRect s x.polder (lrW r) (lrH r) then some 7
  else
    let need := x.q.toNat + ceilDiv (placementBytes (lrGroups r) (lrScrb r) (lrFifob r)) 64
    if (coresOf s x.polder).all (fun k => vbnd s k (BitVec.ofNat 10 c) < need) then some 8 else none

/-- A record leaves the front of its queue. -/
def popHead (s : State) (c q : Nat) : State := onQueue s c q (fun x => { x with records := x.records.drop 1 })

/-- RECORD_HEAD_CHECK (R118): retired unrun with its status, or accepted for dispatch. -/
def execRecordHeadCheck (c : BitVec 10) (q : BitVec 3) (s : State) : Out :=
  let cc := c.toNat
  let qq := q.toNat
  .next (match headOf s cc qq with
    | none => s
    | some (seq, r, acc) =>
      if !dispatches s cc || (launchOf s cc qq seq).isSome then s
      else
        match headStatus s cc qq seq r with
        | some st =>
          let s := if st = 5 then
              reportCtx s { cause := causeStamp, kind := 6, ctx := cc, polder := (ctxOf s cc).polder, seq := seq } else s
          retireRecord (popHead s cc qq) cc qq seq st
        | none =>
          { s with
            launches := put s.launches s.nextLaunch { ctx := c, queue := qq, seq := seq, record := r, accepted := acc }
            nextLaunch := s.nextLaunch + 1 })

/-! ### What may be placed on a core (R15, R69, R88) -/

/-- Group slots of a scheduler that are free, lowest first. -/
def freeSlots (c : CoreState) (q : Nat) : List Nat := ((List.range 8).map (8 * q + ·)).filter (fun n => (groupAt c n).isNone)

/-- Vector registers reserved on a core. -/
def reservedRegs (c : CoreState) : Nat := c.teams.foldl (fun a t => a + t.2.groups * t.2.footprint) 0

/-- Banks of the core itself in the order in which they are given out (R74). -/
def freeBanks (c : CoreState) : List Nat :=
  let own (m : BankMode) : List Nat := (List.range 40).filter (fun b => (bankOf c b).owner == 63 && (bankOf c b).mode == m)
  own .scratch ++ own .off ++ (own .cache).reverse

/-- R15 on one core for one team of a record, a vacate stage there apart. -/
def roomOn (s : State) (ctx : Nat) (r : BitVec 1024) (k : Nat) : Bool :=
  let c := coreOf s k
  let x := ctxOf s ctx
  let g := lrGroups r
  let b := vbnd s k (BitVec.ofNat 10 ctx)
  (polderOf s x.polder).owns k && slotCtx s k x.slot == some ctx && b != 0 &&
    (List.range 4).all (fun q => ceilDiv (g - q) 4 ≤ (freeSlots c q).length) && c.teams.length < 32 &&
    reservedRegs c + g * lrFootprint r ≤ 2048 && lrScrb r + lrFifob r ≤ (freeBanks c).length &&
    x.q.toNat + ceilDiv (saveBytes c (BitVec.ofNat 10 ctx) + placementBytes g (lrScrb r) (lrFifob r)) 64 ≤ b

/-- R15 on one core for one team of a record. -/
def fitsCore (s : State) (ctx : Nat) (r : BitVec 1024) (k : Nat) : Bool :=
  roomOn s ctx r k && (vacateOf (coreOf s k) ctx).isNone

/-- Chunks of a die's spillway in use: reservations of placed teams, and images that are still held there, those of a resuming
cluster apart (R88). -/
def chunksUsed (s : State) (d : Nat) (gone : SavedTeam → Bool) : Nat :=
  s.cores.foldl (fun a c => if dieOfCore c.1 = d then a + c.2.teams.foldl (fun a t => a + teamChunks t.2.groups t.2.footprint t.2.scrb t.2.fifob) 0 else a) 0 +
    s.saved.foldl (fun a t => if t.inSpillway && t.die.toNat = d && !gone t then a + t.chunks else a) 0

/-- Chunks of a die's spillway. -/
def spillChunks (s : State) : Nat := s.device.dspill.toNat * 4

/-! ### What waits to be placed (R119) -/

/-- A cluster that waits for a rectangle: its place in the order (0 for saved ones), PRIO, acceptance or save order, its launch, its
index, and the teams of it that are to be placed. -/
structure Cand where
  rank : Nat
  prio : Nat
  order : Nat
  launch : Nat
  ctx : Nat
  record : BitVec 1024
  cluster : Nat
  members : List (Nat × Nat)
  fresh : Bool := false
  deriving DecidableEq, Repr

/-- The candidate that goes before another. -/
def candBefore (a b : Cand) : Bool :=
  a.rank < b.rank || (a.rank == b.rank && (b.prio < a.prio || (a.prio == b.prio && a.order < b.order)))

/-- The saved teams of a cluster. -/
def savedOf (s : State) (launch cluster : Nat) : List SavedTeam :=
  s.saved.filter (fun t => t.team.launch == launch && t.team.cluster == cluster)

/-- The flushed positions of a cluster. -/
def flushedOf (s : State) (launch cluster : Nat) : List (Nat × Nat) :=
  (((look s.launches launch).map (·.flushed)).getD []).filter (fun e => e.1 == cluster) |>.map (·.2)

/-- A handed-off operation of a team is still under way on some core (R128). -/
def stillHanded (s : State) (uid : Nat) : Bool := s.cores.any (fun c => c.2.ops.any (fun o => o.2.uid == uid))

/-- Vacated clusters: all of a cluster's teams that have not completed are off their cores, and their handed-off operations over. -/
def vacatedCands (s : State) : List Cand :=
  let ids := (s.saved.map (fun t => (t.team.launch, t.team.cluster)) ++
    s.launches.flatMap (fun l => l.2.flushed.map (fun e => (l.1, e.1)))).eraseDups
  ids.filterMap (fun id =>
    match look s.launches id.1 with
    | none => none
    | some l =>
      let sv := savedOf s id.1 id.2
      if !dispatches s l.ctx.toNat || !(clusterTeams s id.1 id.2).isEmpty || sv.any (fun t => stillHanded s t.team.uid) then none
      else
        let ms := sv.map (fun t => (t.team.px, t.team.py)) ++ flushedOf s id.1 id.2
        let first := sv.foldl (fun a t => min a t.order) s.nextSave
        some (if sv.isEmpty then { rank := 1, prio := lrPrio l.record, order := l.accepted, launch := id.1, ctx := l.ctx.toNat, record := l.record, cluster := id.2, members := ms }
          else { rank := 0, prio := 0, order := first, launch := id.1, ctx := l.ctx.toNat, record := l.record, cluster := id.2, members := ms }))

/-- The next cluster of a queue's head. -/
def headCand (s : State) (c q : Nat) : Option Cand :=
  match headOf s c q with
  | none => none
  | some (seq, r, acc) =>
    match launchOf s c q seq with
    | none => none
    | some (id, l) =>
      if !dispatches s c || (lrWaitValid r && (queueOf (ctxOf s c) (lrWaitq r)).qdone.toNat < lrWaitval r) then none
      else some { rank := 1, prio := lrPrio r, order := acc, launch := id, ctx := c, record := r, cluster := l.nextCluster,
                  members := shapeTeams (lrW r) (lrH r), fresh := true }

/-- Every candidate of a polder. -/
def allCands (s : State) (p : Nat) : List Cand :=
  (vacatedCands s).filter (fun x => (ctxOf s x.ctx).polder == p) ++
    ((keysOf s.ctxs).filter (fun c => (ctxOf s c).polder == p)).flatMap (fun c => (List.range 8).filterMap (fun q => headCand s c q))

/-- The rectangle has the record's shape, and every core of it meets R15 and R16, as well those on which no team is to be placed
(R36); the spillway has room for the teams (R88). -/
def canPlace (s : State) (x : Cand) (r : Rect) : Bool :=
  match shapeRect (lrW x.record) (lrH x.record) with
  | none => false
  | some (pw, ph) =>
    let each := teamChunks (lrGroups x.record) (lrFootprint x.record) (lrScrb x.record) (lrFifob x.record)
    let gone (t : SavedTeam) : Bool := t.team.launch == x.launch && t.team.cluster == x.cluster
    rectFits r pw ph && (shapeTeams (lrW x.record) (lrH x.record)).all (fun e => fitsCore s x.ctx x.record (rectCore r (lrW x.record) (lrH x.record) e.1 e.2)) &&
      chunksUsed s r.die.toNat gone + each * x.members.length ≤ spillChunks s

/-- The rectangles on which a candidate can be placed. -/
def placesOf (s : State) (x : Cand) : List Rect :=
  match shapeRect (lrW x.record) (lrH x.record) with
  | none => []
  | some (pw, ph) => (allRects pw ph).filter (canPlace s x)

/-- No candidate of the polder that goes before this one can be placed (R119). -/
def isFirst (s : State) (x : Cand) : Bool :=
  (allCands s (ctxOf s x.ctx).polder).all (fun y => !candBefore y x || (placesOf s y).isEmpty)

/-! ### Placing a team (R14, R74) -/

/-- A bank is given to a team in SCRATCH or FIFO mode, empty; a cache way is emptied first, with its dirty bytes written back. -/
def giveBank (s : State) (k t slot b : Nat) (mode : BankMode) : State :=
  let s := if (bankOf (coreOf s k) b).mode = .cache then emptyWay s k b else s
  onCore s k (fun c => setBank c b { mode := mode, owner := t, slot := slot, home := (bankOf c b).home })

/-- A new group (R14, R68). -/
def newGroup (s : State) (ctx : Nat) (r : BitVec 1024) (uid gid t : Nat) : Group :=
  let x := ctxOf s ctx
  { uid := uid, gid := gid, team := t, ctx := BitVec.ofNat 10 ctx, entries := [{ mask := BitVec.allOnes 32, pc := lrCode r }],
    s := putD (putD [] 0 0 (lrArgptr r)) 1 0 (BitVec.ofNat 64 (lrArgsize r)), vmode := BitVec.ofNat 1 x.vmode, trapen := BitVec.ofNat 2 x.trapen }

/-- A group takes the lowest free slot of its scheduler (R15). -/
def seatGroup (s : State) (k : Nat) (g : Group) : State :=
  match (freeSlots (coreOf s k) (g.gid % 4)).head? with
  | some n => onCore s k (fun c => setGroup c n g)
  | none => s

/-- The banks of a team are taken in order: slots 0 to SCRB − 1 for scratch, the rest for FIFOs. -/
def takeBanks (s : State) (k t scrb fifob : Nat) : State :=
  (((freeBanks (coreOf s k)).take (scrb + fifob)).zip (List.range (scrb + fifob))).foldl (fun s e =>
    giveBank s k t e.2 e.1 (if e.2 < scrb then .scratch else .fifo)) s

/-- The lowest free local number. -/
def freeTeam (c : CoreState) : Nat := (freeKey c.teams 32).getD 0

/-- A new team on a core, with the acquire at .dev (R120). -/
def placeTeam (s : State) (x : Cand) (k px py : Nat) : State :=
  let r := x.record
  let t := freeTeam (coreOf s k)
  let uid := s.nextUid
  let tm : Team :=
    { uid := uid, ctx := BitVec.ofNat 10 x.ctx, launch := x.launch, cluster := x.cluster, px := px, py := py, groups := lrGroups r, scrb := lrScrb r,
      fifob := lrFifob r, footprint := lrFootprint r, since := (coreOf s k).ccyc, mfence := (coreOf s k).suba != 0 }
  let s := takeBanks { s with nextUid := uid + 1 } k t (lrScrb r) (lrFifob r)
  let s := onCore s k (fun c => setTeam c t tm)
  let s := (List.range (lrGroups r)).foldl (fun s g => seatGroup s k (newGroup s x.ctx r uid g t)) s
  acquireOn s k (BitVec.ofNat 10 x.ctx) 4

/-! ### Resuming a team (R36, R128, R200) -/

/-- A saved bank comes back under a slot; a lent way comes back empty. -/
def restoreBank (s : State) (k t : Nat) (e : (Nat × Bank) × Nat) : State :=
  let s := giveBank s k t e.1.1 e.2 e.1.2.mode
  onCore s k (fun c => setBank c e.2 { e.1.2 with owner := t, slot := e.1.1, home := (bankOf c e.2).home })

/-- An access that faults on the new core. -/
abbrev AccFault := LaneAcc × XFault

/-- The accesses of a kept load, translated again on the new core: those that can go on, those that fault, and whether the host has
answered every request. -/
def translateKept (s : State) (k : Nat) (o : Op) : State × (Op × List AccFault) × Bool :=
  match o.kind with
  | .load path accs w =>
    let r := accs.foldl (fun (r : State × List LaneAcc × List AccFault × Bool) a =>
      if a.space = .scratch || a.space = .fabric then (r.1, r.2.1 ++ [a], r.2.2)
      else
        match translate r.1 k o.ctx a.va accRead with
        | (s, .ok pa ipa) => (s, r.2.1 ++ [{ a with pa := pa, ipa := ipa }], r.2.2)
        | (s, .fault f) => (s, r.2.1, r.2.2.1 ++ [(a, f)], r.2.2.2)
        | (s, .wait _) => (s, r.2.1 ++ [a], r.2.2.1, false)) (s, [], [], true)
    (r.1, ({ o with kind := .load path r.2.1 w }, r.2.2.1), r.2.2.2)
  | _ => (s, (o, []), true)

/-- The kept operations of an image on a core. -/
def translateImage (s : State) (k : Nat) (im : SavedTeam) : State × List (Op × List AccFault) × Bool :=
  im.ops.foldl (fun r o => let (s, x, ok) := translateKept r.1 k o; (s, r.2.1 ++ [x], r.2.2 && ok)) (s, [], true)

/-- An operation number in a group changes. -/
def renumber (old new : Nat) (g : Group) : Group :=
  { g with
    pend := g.pend.map (fun p => if p.op = old then { p with op := new } else p)
    entries := g.entries.map (fun e => { e with hold := match e.hold with
      | .fence n => .fence (if n = old then new else n)
      | .accept ns => .accept (ns.map (fun n => if n = old then new else n))
      | .watch ns a low => .watch (ns.map (fun n => if n = old then new else n)) a low
      | h => h }) }

/-- A scratch access of an image, by slot, at the bank that now has the slot. -/
def toBank (c : CoreState) (t : Nat) (a : LaneAcc) : LaneAcc :=
  if a.space = .scratch then { a with pa := (bankOfSlot c t (a.pa / 32768)).getD 40 * 32768 + a.pa % 32768 } else a

/-- A kept operation is issued again on the new core under a new number, and counts on its flag again (R50, R200). -/
def resumeOp (s : State) (k t : Nat) (x : Op × List AccFault) : State :=
  let c := coreOf s k
  let o := x.1
  let kind := match o.kind with
    | .load path accs w => .load path (accs.map (toBank c t)) w
    | .fence w l _ _ tok a => .fence w l [] true tok a
    | other => other
  let again := match o.kind with | .load .. => true | _ => false
  let (s, n) := addOp s k { o with kind := kind, seq := c.nextOp, start := c.ccyc, reissued := again, team := t }
  let s := onGroup s o.uid o.gid (fun g => countFlag (renumber o.seq n g) o.flag)
  x.2.foldl (fun s e => trapLater s k ((opOf s k n).getD o)
    { cause := e.2.cause, sub := e.2.sub, level := e.2.level, ipa := e.2.ipa, addr := e.1.va, lanes := maskOfLanes [e.1.lane], acc := accRead.code }) s

/-- The refused write-backs of an image on the new core, with the numbers that they and the fences have there. -/
def seatWbs (s : State) (k : Nat) (im : SavedTeam) (ops : List (Op × List AccFault)) : State :=
  let fences := (ops.map (·.1.seq)).zip ((List.range ops.length).map ((coreOf s k).nextOp + ·))
  let fence (n : Nat) : Nat := (fences.find? (fun e => e.1 == n)).elim n (·.2)
  im.wbs.foldl (fun s e => onCore s k (fun c => { c with
    nextWb := c.nextWb + 1
    wbs := put c.wbs c.nextWb { e.2 with waiters := e.2.waiters.map fence, tokens := e.2.tokens.map (fun x => (fence x.1, x.2)) } })) s

/-- A kept operation with the numbers that its write-backs take on the new core. -/
def renumberWbs (base : Nat) (im : SavedTeam) (o : Op) : Op :=
  match o.kind with
  | .fence w l ops b tok a =>
    { o with kind := .fence w ((im.wbs.zip (List.range im.wbs.length)).filterMap (fun e => if l.contains e.1.1 then some (base + e.2) else none)) ops b tok a }
  | _ => o

/-- A saved team comes back on a core, with the acquire at .dev (R36, R120). -/
def restoreTeam (s : State) (k : Nat) (im : SavedTeam) (ops : List (Op × List AccFault)) : State :=
  let t := freeTeam (coreOf s k)
  let s := ((im.banks.zip (freeBanks (coreOf s k)))).foldl (fun s e => restoreBank s k t e) s
  let tm := { im.team with st := .running, resumed := 1, since := (coreOf s k).ccyc, mfence := (coreOf s k).suba != 0 }
  let s := onCore s k (fun c => setTeam c t tm)
  let s := im.groups.foldl (fun s g => seatGroup s k { g.2 with team := t }) s
  let s := acquireOn s k im.team.ctx 4
  let base := (coreOf s k).nextWb
  let s := seatWbs s k im ops
  ops.foldl (fun s o => resumeOp s k t (renumberWbs base im o.1, o.2)) s

/-! ### Placing a cluster (R16, R17, R36, R119) -/

/-- The image of a team at a logical position of a cluster. -/
def imageAt (s : State) (x : Cand) (e : Nat × Nat) : Option SavedTeam :=
  (savedOf s x.launch x.cluster).find? (fun t => t.team.px == e.1 && t.team.py == e.2)

/-- The core of a candidate's team on a rectangle. -/
def candCore (x : Cand) (r : Rect) (e : Nat × Nat) : Nat := rectCore r (lrW x.record) (lrH x.record) e.1 e.2

/-- The launch counts the teams that start, and the cores that run it; the last cluster of a record's grid lets the next record
become head. -/
def countPlaced (s : State) (x : Cand) (r : Rect) : State :=
  let fresh := (x.members.filter (fun e => (imageAt s x e).isNone)).length
  let ks := x.members.map (candCore x r)
  let s := { s with
    saved := s.saved.filter (fun t => !(t.team.launch == x.launch && t.team.cluster == x.cluster))
    launches := alter s.launches x.launch (fun l => { l with
      outstanding := l.outstanding + fresh
      cores := (l.cores ++ ks).eraseDups
      flushed := l.flushed.filter (fun e => e.1 != x.cluster)
      nextCluster := if x.fresh then l.nextCluster + 1 else l.nextCluster }) }
  match look s.launches x.launch with
  | some l => if x.fresh && lrClusters l.record ≤ l.nextCluster then popHead s x.ctx l.queue else s
  | none => s

/-- Every team of a cluster is placed, or restored from its image. -/
def placeCluster (s : State) (x : Cand) (r : Rect) (ops : List ((Nat × Nat) × List (Op × List AccFault))) : State :=
  let s' := x.members.foldl (fun t e =>
    match imageAt s x e with
    | some im => restoreTeam t (candCore x r e) im (((ops.find? (fun o => o.1 == e)).map (·.2)).getD [])
    | none => placeTeam t x (candCore x r e) e.1 e.2) s
  clusterCheck (countPlaced s' x r) x.launch x.cluster

/-- CLUSTER_PLACE (R16): the next cluster of a queue, flushed ones first, on a rectangle that meets the rules, when nothing that
goes before it can be placed. -/
def execClusterPlace (c : BitVec 10) (q : BitVec 3) (r : Rect) (s : State) : Out :=
  let mine := ((vacatedCands s).filter (fun x => x.rank == 1 && x.ctx == c.toNat && (look s.launches x.launch).any (fun l => l.queue == q.toNat))) ++
    (headCand s c.toNat q.toNat).toList
  .next (match mine.find? (fun x => canPlace s x r && isFirst s x) with
    | some x => placeCluster s x r []
    | none => s)

/-- TEAM_RESUME (R36, R119): a vacated cluster with saved teams; translations that the host must answer first are asked for. -/
def execTeamResume (launch cluster : Nat) (r : Rect) (s : State) : Out :=
  .next (match (vacatedCands s).find? (fun x => x.rank == 0 && x.launch == launch && x.cluster == cluster) with
    | none => s
    | some x =>
      if !canPlace s x r || !isFirst s x then s
      else
        let t := x.members.foldl (fun (a : State × List ((Nat × Nat) × List (Op × List AccFault)) × Bool) e =>
          match imageAt s x e with
          | some im =>
            let (s, os, ok) := translateImage a.1 (candCore x r e) im
            (s, a.2.1 ++ [(e, os)], a.2.2 && ok)
          | none => a) (s, [], true)
        if t.2.2 then placeCluster t.1 x r t.2.1 else t.1)

/-! ### Drains (R34) -/

/-- TEAM_DRAIN_DONE (R34): nothing of the team is in flight; its slots, registers and banks are released, and it is DONE. -/
def execTeamDrainDone (k : BitVec 9) (team : BitVec 5) (s : State) : Out :=
  let kk := k.toNat
  .next (match teamOf (coreOf s kk) team.toNat with
    | none => s
    | some tm =>
      if tm.st = .draining && !stillHanded s tm.uid then teamCompleted (endTeam s kk team.toNat tm.uid) tm.launch else s)

/-! ### Border moves (R122) -/

def minCores (x : Polder) : Nat := fieldOf x.psvc 0 9
def maxCores (x : Polder) : Nat := fieldOf x.psvc 9 9
def lends (x : Polder) : Bool := bitAt x.psvc.toNat 24
def heldCores (x : Polder) : Nat := popCount 320 x.cores.toNat

/-- A polder has a record queued. -/
def hasQueued (s : State) (p : Nat) : Bool :=
  s.ctxs.any (fun e => e.2.polder == p && e.2.queues.any (fun q => !q.2.records.isEmpty))

/-- No rectangle of the polder's cores has room for a head: it lacks cores. A full spillway or a vacate stage is no lack of them. -/
def lacksCores (s : State) (x : Cand) : Bool :=
  match shapeRect (lrW x.record) (lrH x.record) with
  | none => false
  | some (pw, ph) => !(allRects pw ph).any (fun r => rectFits r pw ph &&
      (shapeTeams (lrW x.record) (lrH x.record)).all (fun e => roomOn s x.ctx x.record (rectCore r (lrW x.record) (lrH x.record) e.1 e.2)))

/-- A polder that may receive a core: active, below MAXC, with an eligible head that cannot be placed for lack of cores. Saved teams
are no heads (R119, R122). -/
def wantsCore (s : State) (p : Nat) : Bool :=
  let x := polderOf s p
  x.state == 1 && heldCores x < maxCores x && (allCands s p).any (fun y => y.rank != 0 && lacksCores s y)

/-- The polder that receives a core: the largest MINC − held cores, ties to the lower number. -/
def receiver (s : State) (a : Nat) : Option Nat :=
  let need (p : Nat) : Int := (minCores (polderOf s p) : Int) - heldCores (polderOf s p)
  ((List.range 64).filter (fun p => p != a && wantsCore s p)).foldl (fun b p => match b with
    | some q => if need q < need p then some p else b
    | none => some p) none

/-- Steps 2 to 4: dirty bytes go home under the old polder's rights, and the core is as after reset. -/
def scrubCore (s : State) (k : Nat) : State :=
  let c0 := coreOf s k
  let s := (keysOf c0.l1).foldl (fun s key => writeBackLine s k key) s
  -- the scrub takes no tokens (R205)
  let s := (coreOf s k).wbs.foldl (fun s e => landWb s k e.1 true) s
  onCore s k (fun c => { c with tok := c0.tok, owed := c0.owed, took := c0.took, dry := c0.dry, l1 := [], icache := [], banks := [], latches := [], pmcfg := 0, pmfilt := 0, pmc := [] })

/-- A core's bit in a polder. -/
def setOwner (s : State) (p k : Nat) (b : Bool) : State :=
  onPolder s p (fun x => { x with cores := if b then x.cores ||| BitVec.ofNat 320 (2 ^ k) else x.cores &&& ~~~ BitVec.ofNat 320 (2 ^ k) })

/-- The border controller has looked at a core. -/
def lookedAt (s : State) (k : Nat) : State := onCore s k (fun c => { c with idled := false })

/-- A core moves to the polder that receives it, if any. -/
def moveCore (s : State) (k a : Nat) : State :=
  match receiver s a with
  | none => s
  | some b =>
    let s' := setOwner (setOwner (scrubCore s k) a k false) b k true
    (List.range 64).foldl (fun t slot => slotUpdate s slot t k) s'

/-- BORDER_MOVE (R122): it acts once, after a completion has left the core with no team. -/
def execBorderMove (k : BitVec 9) (s : State) : Out :=
  let kk := k.toNat
  .next (
    if !(coreOf s kk).idled then s
    else
      let s := lookedAt s kk
      match ownerOf s kk with
      | none => s
      | some a =>
        let x := polderOf s a
        if !(coreOf s kk).teams.isEmpty || !lends x || (heldCores x ≤ minCores x && hasQueued s a) then s else moveCore s kk a)

/-! ### Images (R89) -/

/-- The base dies move images from the spillway to the save frame area while it has room: 65,536 chunks a die. -/
def moveImages (s : State) : State :=
  let area (d : BitVec 2) : Nat := s.saved.foldl (fun a t => if t.die = d && !t.inSpillway then a + t.chunks else a) 0
  match s.saved.find? (fun t => t.inSpillway && area t.die + t.chunks ≤ 65536) with
  | none => s
  | some x => { s with saved := s.saved.map (fun t => if t = x then { t with inSpillway := false } else t) }

end Sys2Proof.Machine
end

