-- ==== Sys2Proof/Machine/Boot.lean ====
section
/-! DEFINITION. Resets, rails, heat and power, the boot of the base dies, attestation, self-test fences, and writes of the control
cores (R94, R192, R405, R412 to R422). -/

namespace Sys2Proof.Machine

/-! ### Reset and power (R412 to R415) -/

/-- PACKAGE_RESET (R415): every register at its reset value, caches empty, HBM contents lost. A rail out of its range stays out, and the
reset asserted with it (R413). The model's own fields go on. -/
def execPackageReset (s : State) : Out :=
  .next { State.reset with agenda := s.agenda, fresh := s.fresh, rails := s.rails, resetAsserted := !s.rails.isEmpty }

/-- The order in which the rails come up (R413). -/
def railOrder : List Rail := [.vddB, .vddS, .vddq, .vddC, .vddX]

/-- A rail comes into its range: the rails before it are in theirs (R413). -/
def railIn (r : Rail) (s : State) : State :=
  if (railOrder.takeWhile (· != r)).any (fun q => s.rails.contains q) then s else { s with rails := s.rails.erase r }

/-- RAIL_OUT_OF_RANGE (R413): package reset is asserted, and held until every rail is in range. -/
def execRailOutOfRange (r : Rail) (s : State) : Out := .next { s with rails := r :: s.rails.erase r, resetAsserted := true }

/-- THERMAL_TRIP (R412, R414): package reset at once. -/
def execThermalTrip (_ : BitVec 2) (s : State) : Out := .next { s with resetAsserted := true }

/-- THROTTLE_REQUEST (R412): a request to firmware; the device lowers no clock on its own (R414). -/
def execThrottleRequest (d : BitVec 2) (s : State) : Out := .next { s with throttle := s.throttle ||| BitVec.ofNat 4 (2 ^ d.toNat) }

/-- POWER_SAMPLE (R414): a die at 105 °C asks firmware to throttle, and one at 115 °C asserts package reset (R412). PPOWER does not name
the hottest die: the sample leaves it open. -/
def execPowerSample (tmax : BitVec 16) (watts : BitVec 13) (s : State) : Out :=
  let s := onDevice s (fun d => { d with ppower := BitVec.ofNat 64 (tmax.toNat * 2 ^ 48 + watts.toNat) })
  .next (
    if 115 ≤ tmax.toNat then { s with resetAsserted := true }
    else if 105 ≤ tmax.toNat then
      { s with throttle := s.throttle ||| BitVec.ofNat 4 (2 ^ ((Config.freeValue s.fresh).toNat % 4)), fresh := s.fresh + 1 }
    else s)

/-! ### Boot (R416 to R418, R421, R422) -/

/-- MEAS i is extended with data (R418). -/
def extendMeas (s : State) (d i : Nat) (x : List Byte) : State :=
  onDie s d (fun y =>
    let m := shake256 (toBytes 64 (lookD y.meas i 0).toNat ++ shake256 x 64) 64
    { y with meas := put y.meas i (BitVec.ofNat 512 (ofBytes m)) })

/-- The ERR code of an image that the ROM does not accept (R417). -/
def imageError (i : SignedImage) : Option Nat :=
  if shake256 i.key 32 != Config.rootKeyHash then some 1
  else if i.secver.toNat < Config.minSecurityVersion.toNat then some 2
  else if !Config.ed448Verify i.key (shake256 i.body 64) i.sig then some 3
  else none

def stageOf (s : State) (d : Nat) : Nat := bitsAt (dieOf s d).bstat.toNat 0 4
def setStage (s : State) (d stage err : Nat) : State := onDie s d (fun y => { y with bstat := BitVec.ofNat 64 (stage + err * 256) })

/-- The target access tables of architecture version 1.0.0 (R422); masters 64 and 65 hold every right whatever is written. -/
def bootTat : AMap (BitVec 8) :=
  [(0 * 128 + 66, 0x0F), (0 * 128 + 67, 0x07), (1 * 128 + 66, 0x0F), (1 * 128 + 67, 0x07), (2 * 128 + 66, 0x0F), (2 * 128 + 67, 0x07),
   (3 * 128 + 66, 0x0F), (4 * 128 + 66, 0x0F)]

/-- The links of a die's ports are trained, under a first hop key (R154, R416). -/
def trainLinks (s : State) (d : Nat) : State :=
  [0, 1, 2, 3].foldl (fun s i => onPort s (4 * d + i) (fun x => { x with down := false, halt := false, nextKey := false, counter := 0, control := 0 })) s

/-- What die 0's firmware writes at stage 3 (R421): HOSTNODE, the ADMIT of export entry 0, and the tables. -/
def openWindow (s : State) (node : BitVec 14) : State :=
  let e := exportEntry s 0
  let e := { e with attrs := BitVec.ofNat 64 (bitsAt e.attrs.toNat 0 32 + node.toNat * 2 ^ 32 + 0x3FFF * 2 ^ 46) }
  onDevice s (fun d => { d with hostV := true, hostNode := node, expo := put d.expo 0 e, tat := bootTat })

/-- The bytes that extend MEAS3: DSPILL, DOPTIONS and HOSTNODE (R416). -/
def measuredBytes (s : State) : List Byte :=
  toBytes 8 (windowRead s 0x018).toNat ++ toBytes 8 (windowRead s 0x010).toNat ++ toBytes 8 (windowRead s 0x120).toNat

/-- The load of extension set `x`: XSET, and a raised minor number of the version when the set defines opcodes (R1, R266). The raise
is 1 or more; how far is the set's (DESIGN CHOICE, log 35). A set loaded by a second die never lowers it. -/
def loadExtension (y : Device) (x : BitVec 8) : Device :=
  let minor := max (bitsAt y.version.toNat 16 8) (1 + Config.extensionMinor x % 255)
  { y with
    xset := x
    version := if x = 0 then y.version else BitVec.ofNat 32 (2 ^ 24 * bitsAt y.version.toNat 24 8 + 2 ^ 16 * minor + bitsAt y.version.toNat 0 16) }

/-- Stage 3 of a die (R416): its HBM is trained and has passed its test, and its links are trained. Die 0's firmware sets FPLANE and opens the
control window (R421). -/
def trainDie (s : State) (n : Nat) (b : BootPlan) : State :=
  let s := trainLinks s n
  if n = 0 then
    let s := openWindow (onFabric s (fun f => { f with node := b.node })) b.hostNode
    (writePlanes s (BitVec.ofNat 64 b.map.toNat)).getD (refuseWrite s 0x100)
  else s

/-- BOOT (R416): a base die takes its next step, or halts at 0xF with the reason of the check that failed. Die 0's firmware makes the
writes of the device block. -/
def execBoot (d : BitVec 2) (b : BootPlan) (s : State) : Out :=
  let n := d.toNat
  .next (
    if stageOf s n = 0 then
      let s := extendMeas s n 0 Config.romBytes
      match imageError b.firmware with
      | some e => setStage s n 0xF e
      | none => setStage (extendMeas s n 1 b.firmware.body) n 1 0
    else if stageOf s n = 1 then
      match b.microcode with
      | none => setStage s n 2 0
      | some (i, x) =>
        match imageError i with
        | some e => setStage s n 0xF e
        | none => setStage (onDevice (extendMeas s n 2 i.body) (fun y => loadExtension y x)) n 2 0
    else if stageOf s n = 2 then
      match b.hbm with
      | some e => setStage s n 0xF e.toNat
      | none => setStage (trainDie s n b) n 3 0
    else if stageOf s n = 3 then
      if n = 0 then
        let s := if s.device.spilled then s else (writeDevice s 64 0x018 b.spillMib).getD (refuseWrite s 0x018)
        setStage (extendMeas s n 3 (measuredBytes s)) n 4 0
      else if stageOf s 0 = 4 then setStage (extendMeas s n 3 (measuredBytes s)) n 4 0
      else s
    else s)

/-! ### Attestation (R420) -/

/-- A list of bytes of exactly a length. -/
def padBytes (n : Nat) (l : List Byte) : List Byte := (List.range n).map (fun i => l.getD i 0)

/-- The signed part of a report, bytes 0x000 to 0x18F. -/
def reportBody (s : State) (d : Nat) : List Byte :=
  let x := dieOf s d
  toBytes 4 0x54415A42 ++ toBytes 4 s.device.version.toNat ++ toBytes 8 (devHash s).toNat ++ toBytes 8 s.device.xset.toNat ++
    toBytes 8 Config.serial.toNat ++ toBytes 32 x.attGo.1.toNat ++ (List.range 4).flatMap (fun i => toBytes 64 (x.attGo.2.getD i 0).toNat) ++
    padBytes 57 Config.identityKey ++ padBytes 7 [] ++ toBytes 8 x.bstat.toNat ++ padBytes 8 []

/-- The bytes of a report that lie in the die's host window are written. -/
def writeReport (s : State) (d off : Nat) (bs : List Byte) : State :=
  (bs.zip (List.range bs.length)).foldl (fun s e =>
    if off + e.2 < 0x10_0000 then homeWrite s (0x0200_0000_0000 + d * 0x10_0000 + off + e.2) 1 e.1.toNat else s) s

/-- The 528 bytes of a report whose place was written before DONE: undefined (R420). -/
def freeReport (fresh : Nat) : List Byte := (List.range 528).map (fun i => BitVec.ofNat 8 (byteAt (Config.freeValue (fresh + i / 8)) (i % 8)))

/-- ATTEST_DONE (R420). -/
def execAttestDone (d : BitVec 2) (s : State) : Out :=
  let n := d.toNat
  let x := dieOf s n
  .next (
    if x.attBusy then
      let body := reportBody s n
      let s :=
        if x.attSpoiled then { writeReport s n (x.attGoOff.toNat * 64) (freeReport s.fresh) with fresh := s.fresh + 66 }
        else writeReport s n (x.attGoOff.toNat * 64) (body ++ padBytes 114 (Config.ed448Sign body) ++ padBytes 14 [])
      onDie s n (fun y => { y with attBusy := false, attDone := true, attSpoiled := false })
    else s)

/-! ### Self-test fences (R192, R204) -/

/-- SELF_TEST_FENCE_REQUEST (R192): classes 6 and 7 are no longer eligible on the core. -/
def execSelfTestFenceRequest (k : BitVec 9) (sub : BitVec 2) (s : State) : Out :=
  .next (onCore s k.toNat (fun c => if c.fenceReq.isNone then { c with fenceReq := some sub } else c))

/-- The contexts with teams on a core. -/
def ctxsOn (c : CoreState) : List (BitVec 10) := (c.teams.map (fun t => t.2.ctx)).eraseDups

/-- SUBARRAY_FENCE (R192): once the doubled VEST of every context is within its VBND, and no vacate is in progress on the core. A
later fence doubles D_M and the charges in flight again, as every fence does; an issue takes twice the VCT value. -/
def execSubarrayFence (k : BitVec 9) (s : State) : Out :=
  let kk := k.toNat
  let c := coreOf s kk
  .next (match c.fenceReq with
    | none => s
    | some b =>
      let fits (x : BitVec 10) : Bool := vestDoubled s kk x ≤ vbnd s kk x
      if !c.vacates.isEmpty || !(ctxsOn c).all fits then s
      else
        onCore s kk (fun c => { c with
          fenceReq := none
          suba := c.suba ||| BitVec.ofNat 4 (2 ^ b.toNat)
          teams := c.teams.map (fun t => (t.1, { t.2 with mfence := true }))
          ops := c.ops.map (fun o => (o.1, if o.2.eng = 2 then { o.2 with charge := 2 * o.2.charge } else o.2)) }))

/-! ### Control cores (R405) -/

/-- CONTROL_CORE_WRITE (R405): firmware's bytes perform at their homes; unpopulated addresses hold nothing. Firmware that asked for a report
may spoil it (R420). -/
def execControlCoreWrite (pa : BitVec 42) (bytes : List Byte) (s : State) : Out :=
  .next ((bytes.zip (List.range bytes.length)).foldl (fun s e =>
    let a := pa.toNat + e.2
    let s := noteArgs s [(a, 1)]
    if isHbm a then deviceWrite s a 1 e.1.toNat
    else if isHostWindow a then
      let s := deviceWrite s a 1 e.1.toNat
      if (dieOf s (windowDie a)).attBy = 64 then noteReport s a 1 1 else s
    else s) s)

end Sys2Proof.Machine
end

