-- ==== Sys2Proof/Machine/Schedule.lean ====
section
/-! DEFINITION. What happens next: the agenda of the agents beside the lanes (log 1), the schedulers' offers and the issue of one entry
(R20 to R22, R278), the device's own events when nothing issues, and the passing of time. -/

namespace Sys2Proof.Machine

/-! ### Time -/

/-- `n` cycles in which the sluice refuses entries of a core: counted for their contexts (R212). -/
def countRefused (s : State) (k n : Nat) : State :=
  (coreOf s k).groups.foldl (fun s g => countEvent s k (some g.2.ctx) 3 (n * (g.2.entries.filter (fun e => e.stall.isSome)).length)) s

/-- Contexts of the packets of a core that wait for RATE, one for each packet (R208). -/
def rateWaiters (s : State) (k : Nat) : List (BitVec 10) :=
  s.fabric.ports.flatMap (fun e => (e.2.waiting.filter (fun w => w.2.1 == k && ownRequest w.1 && !inRate s e.1 w.1)).map (·.1.ctx))

/-- `n` cycles in which packets of a core wait for RATE: counted for their contexts (R212). -/
def countPaced (s : State) (k n : Nat) : State := (rateWaiters s k).foldl (fun s ctx => countEvent s k (some ctx) 14 n) s

/-- What the performance counters see of `n` cycles of a core (R212): cycles, those in which a request waits for a token, those with a
full port tracker, and those in which a packet waits for RATE. -/
def countCycles (s : State) (k n : Nat) : State :=
  let s := countPaced (countEvent s k none 1 n) k n
  let q := portQueue s k
  let s := if q.isEmpty then s else countFor s k (q.map (·.1)) 7 n
  if trackerFree (coreOf s k) = 0 then countEvent s k none 10 n else s

/-- `n` cycles of a core pass. -/
def passCore (s : State) (k n : Nat) : State :=
  onCore (countRefused (countCycles s k n) k n) k (fun c => { c with ccyc := c.ccyc + BitVec.ofNat 64 n })

/-- Traffic waits at a port (R140). -/
def portWaits (x : Port) : Bool := !x.waiting.isEmpty || !x.queue.isEmpty

/-- `n` fabric cycles of a port: its silence while traffic waits, and the time since HALT. -/
def passPort (deadt n : Nat) (x : Port) : Port :=
  let x := if portWaits x then { x with idle := x.idle + n, idleLimit := if x.idle = 0 then deadt else x.idleLimit } else x
  if x.halt then { x with haltFor := x.haltFor + n } else x

/-- `n` fabric cycles pass: the age of gaps, pacing, silence of ports, and tombstones (R140, R146, R149, R153, R155). -/
def passFabric (s : State) (n : Nat) : State :=
  let s := onFabric s (fun f => { f with
    cyc := f.cyc + BitVec.ofNat 64 n
    gaps := f.gaps.map (fun g => (g.1, { g.2 with age := min g.2.limit (g.2.age + n) }))
    paced := f.paced.map (fun e => (e.1, (e.2.1 + n, e.2.2)))
    ports := f.ports.map (fun e => (e.1, passPort f.deadt.toNat n e.2)) })
  { s with polders := s.polders.map (fun e => (e.1, { e.2 with tomb := e.2.tomb.map (fun t => t - n) })) }

/-- Time passes on one clock. -/
def passTime (s : State) (c : Clock) (n : Nat) : State :=
  match c with
  | .core k => if k < coreCount then passCore s k n else s
  | .die d => if d < 4 then onDie s d (fun x => { x with cyc := x.cyc + BitVec.ofNat 64 n }) else s
  | .fabric => passFabric s n

/-! ### The schedulers' offers (R20) -/

/-- The soft stage of a context on a core is at its end: nothing of it issues any more (R198, R202). -/
def stageEnds (s : State) (k : Nat) (ctx : BitVec 10) : Bool :=
  (vacateOf (coreOf s k) ctx.toNat).any (fun v => v.begun && v.te.isNone && softStageOver s k ctx.toNat v)

/-- Whether a group may issue: its team is placed or running and not leaving, its context's grace has not ended, and nothing that goes
before its issue is under way (R35, R198). -/
def mayIssue (s : State) (k : Nat) (g : Group) : Bool :=
  let c := coreOf s k
  (teamOf c g.team).any (fun t => (t.st == .placed || t.st == .running) && t.leaving.isNone) && !pastGrace c g.ctx.toNat && !groupHeld c g &&
    !stageEnds s k g.ctx

/-- The ready entries of a slot's group in the order in which they are tried (R21, R22). -/
def candidates (s : State) (k slot : Nat) : List Entry :=
  let c := coreOf s k
  match groupAt c slot with
  | some g => if mayIssue s k g then (tryOrder g.entries).filter (fun e => e.hold == .none) else []
  | none => []

/-- An attempt that was held: the cursor is gone, and a refusal that did not go on starts anew (R194). -/
def afterHeld (t : State) (k slot : Nat) (e : Entry) : State :=
  let t := { t with cur := none }
  match entryNow t k slot e.mask with
  | some x => if x.stall.isNone then t
    else onSlot t k slot (fun g => { g with entries := g.entries.map (fun y =>
      if y.mask = e.mask then { y with again := false, stall := if y.again then y.stall else none } else y) })
  | none => t

/-- An attempt that was not held: the state before it, the entry, the state after it, and the candidates behind it. -/
structure Taken where
  before : State
  slot : Nat
  e : Entry
  after : State
  rest : List Entry

/-- Candidates are tried in order until one is not held. -/
def tryEntries (run : Instr → State → Out) (s : State) (k slot : Nat) (ctx : BitVec 10) : List Entry → State ⊕ Taken
  | [] => .inl s
  | e :: r =>
    let t := attempt run s k slot ctx e
    if t.cur.isNone then .inr { before := s, slot := slot, e := e, after := t, rest := r }
    else tryEntries run (afterHeld t k slot e) k slot ctx r

/-- The offer passes a slot: entries of the scheduler's other slots that have yielded count it (R278). -/
def passSlot (s : State) (k slot : Nat) : State :=
  let wake (e : Entry) : Entry := match e.hold with
    | .yielded l => if (l.filter (· != slot)).isEmpty then { e with hold := .none, age := 0 } else { e with hold := .yielded (l.filter (· != slot)) }
    | _ => e
  onCore s k (fun c => { c with groups := c.groups.map (fun g =>
    if g.1 / 8 = slot / 8 && g.1 != slot then (g.1, { g.2 with entries := g.2.entries.map wake }) else g) })

/-- The slots of a scheduler in the order of its offer. -/
def offerOrder (c : CoreState) (q : Nat) : List Nat := (List.range 8).map (fun i => 8 * q + (lookD c.last q 7 + 1 + i) % 8)

/-- A slot is offered the issue. -/
def offerSlot (run : Instr → State → Out) (s : State) (k slot : Nat) : State ⊕ Taken :=
  let s := peekHeaders (passSlot s k slot) k slot
  tryEntries run s k slot (slotGroupCtx s k slot) (candidates s k slot)

/-- A scheduler's offer goes round its slots. -/
def offerAll (run : Instr → State → Out) (s : State) (k : Nat) : List Nat → State ⊕ Taken
  | [] => .inl s
  | slot :: r =>
    match offerSlot run s k slot with
    | .inr t => .inr t
    | .inl s => offerAll run s k r

/-- A scheduler has a candidate. -/
def hasCandidate (s : State) (k q : Nat) : Bool := (List.range 8).any (fun i => !(candidates s k (8 * q + i)).isEmpty)

/-! ### After the issue -/

/-- The candidates behind the one that issued which were eligible with it (R22). -/
def eligibleBehind (run : Instr → State → Out) (t : Taken) (k : Nat) : List Mask :=
  (t.rest.filter (fun e => (attempt run t.before k t.slot (slotGroupCtx t.before k t.slot) e).cur.isNone)).map (·.mask)

/-- Entries of a group that had yielded, by their masks. -/
def yieldedMasks (s : State) (k slot : Nat) : List Mask :=
  match groupAt (coreOf s k) slot with
  | some g => (g.entries.filter (fun e => match e.hold with | .yielded _ => true | _ => false)).map (·.mask)
  | none => []

/-- The group has issued: eligible entries age, and entries that had yielded are eligible again (R22, R278). -/
def groupIssued (g : Group) (passed yielded : List Mask) : Group :=
  { g with entries := (passOver (compactPlaces g.entries) passed).map (fun e =>
      if yielded.any (fun m => m &&& ~~~ e.mask == 0) then
        match e.hold with
        | .yielded _ => { e with hold := .none, age := 0 }
        | _ => e
      else e) }

/-- The frontier entries over which some lanes of a slot are spread. -/
def frontierParts (s : State) (k slot : Nat) (m : Mask) : Nat :=
  ((groupAt (coreOf s k) slot).map (fun g => ((normalise g.entries).filter (fun e => e.mask &&& m != 0)).length)).getD 0

/-- What the performance counters see of an issue (R212): issues, splits, aged issues. -/
def countIssue (s : State) (k : Nat) (t : Taken) : State :=
  let x := some (slotGroupCtx t.before k t.slot)
  let s := countEvent s k x 2 1
  -- each part but one that the entry's lanes fall into, whether or not another part merges elsewhere
  let s := countEvent s k x 11 (frontierParts s k t.slot t.e.mask - 1)
  if t.e.aged.isSome then countEvent s k x 12 1 else s

/-- The issue, or the trap, of an entry ends the offer; lanes that it took to a header take its priority there (R18, R19). -/
def endOffer (run : Instr → State → Out) (t : Taken) (k q : Nat) : State :=
  let passed := eligibleBehind run t k
  let yielded := yieldedMasks t.before k t.slot
  let s := onSlot t.after k t.slot (fun g => groupIssued g passed yielded)
  let s := if t.after.issued then countIssue s k t else s
  let s := peekHeaders s k t.slot
  { passCore (onCore s k (fun c => { c with last := put c.last q (t.slot % 8) })) k 1 with turn := 4 * k + q + 1 }

/-- The schedulers, from the one whose turn it is. -/
def schedulers (s : State) : List (Nat × Nat) :=
  let all := (keysOf s.cores).flatMap (fun k => (List.range 4).map (fun q => (k, q)))
  all.filter (fun x => s.turn ≤ 4 * x.1 + x.2) ++ all.filter (fun x => 4 * x.1 + x.2 < s.turn)

/-- The schedulers are offered in turn until an entry issues; a scheduler with candidates that are all held spends a cycle. -/
def issueNext (run : Instr → State → Out) (s : State) : List (Nat × Nat) → State × Bool
  | [] => (s, false)
  | (k, q) :: r =>
    match offerAll run s k (offerOrder (coreOf s k) q) with
    | .inr t => (endOffer run t k q, true)
    | .inl s' => issueNext run (if hasCandidate s k q then passCore s' k 1 else s') r

/-! ### The device's own events -/

/-- An event that changes nothing has not happened. -/
def happened (s : State) (o : Out) : Option State :=
  match o with
  | .next t => if t = s then none else some t
  | _ => none

/-- The first of a list of events that happens. -/
def firstEvent (s : State) (fs : List (State → Out)) : Option State := fs.findSome? (fun f => happened s (f s))

/-- The events of an operation in flight. -/
def opEvents (k : BitVec 9) (n : Nat) (o : Op) : List (State → Out) :=
  match o.kind with
  | .load .. => [execLoadReturn k n]
  | .store .. => [execStorePerform k n]
  | .vec .. => [execVectorResultWrite k n]
  | .mma .. => [execMmaComplete k n]
  | .copy .. => [execCopyBeat k n, execCopyComplete k n]
  | .bank .. => [execBankTransitionComplete k n]
  | .push .. | .pop .. => [execFifoOpAccept k n, execFifoTimeout k n]
  | .homeStore .. | .remoteWrite .. => [execPortTrackerComplete k n]
  | .atomic .. => [execAtomicPerform k n]
  | .fence .. | .launch .. => [execFenceComplete k n]
  | .stage .. => [execStageAccept k n]
  | .close .. => [execCloseAccept k n]
  | .mopen .. | .mabort .. | .mstat .. => [execCoordinatorAnswer k n]
  | .remoteRead .. | .remoteAtomic .. | .remoteClose .. => []

/-- Operations oldest first, those of the context with the first service before all others, and write-backs likewise (R196). -/
def servedOps (c : CoreState) : List (Nat × Op) := servedFirst c (·.2.ctx.toNat) c.ops
def servedWbs (c : CoreState) : List (Nat × WriteBack) := servedFirst c (·.2.ctx.toNat) c.wbs

/-- The events of a core: operations and write-backs, then vacates and drains. -/
def coreEvents (k : Nat) (c : CoreState) : List (State → Out) :=
  let kk := BitVec.ofNat 9 k
  (servedOps c).flatMap (fun e => opEvents kk e.1 e.2) ++ (servedWbs c).map (fun e => execWritebackAck kk e.1) ++
    c.vacates.flatMap (fun v =>
      let x := BitVec.ofNat 10 v.1
      [execVacateStart kk x, execSoftStageEnd kk x, execSaveBegin kk x, execSaveComplete kk x, execKillTimerExpire kk x]) ++
    c.teams.map (fun t => execTeamDrainDone kk (BitVec.ofNat 5 t.1))

/-- The SetId of a set key. -/
def keySet (key : Nat) : SetId :=
  { die := BitVec.ofNat 2 (key / 1280), slice := BitVec.ofNat 8 (key / 8 % 160), record := BitVec.ofNat 3 (key % 8) }

/-- The events of a merge set. -/
def setEvents (key : Nat) (m : MergeSet) : List (State → Out) :=
  if m.st != .opened then []
  else
    let set := keySet key
    m.contribs.flatMap (fun e =>
      e.2.asked.map (fun i => execMeasureRequest set (BitVec.ofNat 8 i) (BitVec.ofNat 16 e.1)) ++ [execMeasureComplete set (BitVec.ofNat 16 e.1)]) ++
      [execCommitIssue set] ++ (slicesOf m).map (fun i => execCommitApply set (BitVec.ofNat 8 i)) ++ [execSignalUpdate set]

/-- The events of the links between the dies (R209). -/
def linkEvents : List (State → Out) :=
  [0, 1, 2, 3].flatMap (fun a => [0, 1, 2, 3].flatMap (fun b =>
    let x := BitVec.ofNat 2 a
    let y := BitVec.ofNat 2 b
    [execCrossDieWrite x y, execClockNotice x y, execSettle x y, execHeldWriteApply x y]))

/-- Invalidations and launch ports of a context. -/
def ctxEvents (c : Nat) (x : Ctx) : List (State → Out) :=
  let cc := BitVec.ofNat 10 c
  [execInvalidationComplete false cc] ++ x.queues.map (fun q => execRecordHeadCheck cc (BitVec.ofNat 3 q.1))

/-- Invalidation, teardown and tombstone of a polder. -/
def polderEvents (p : Nat) : List (State → Out) :=
  [execInvalidationComplete true (BitVec.ofNat 10 p), execTeardownComplete (BitVec.ofNat 6 p), execTombstoneExpire (BitVec.ofNat 6 p)]

/-- The fabric's own events: links change or halt at the end of a key, packets leave ports, gaps expire, refills are asked for. -/
def fabricEvents (f : Fabric) : List (State → Out) :=
  (f.ports.filter (fun e => keyRunsOut e.2)).map (fun e => if e.2.nextKey then execKeyswitch (BitVec.ofNat 4 e.1) else execKeyhalt (BitVec.ofNat 4 e.1)) ++
    f.ports.map (fun e => execFabricSend (BitVec.ofNat 4 e.1)) ++ f.gaps.flatMap (fun g => [execGapExpire (BitVec.ofNat 9 g.1), execRefillRequestSend g.2.src])

/-- The collapse of a piece for a writer of a context on a core (R175). -/
def collapseFor (k : Nat) (ctx : BitVec 10) (ipa : Nat) (s : State) : Out :=
  execPieceCollapse (BitVec.ofNat 2 (dieOfCore k)) (BitVec.ofNat 6 (ctxOf s ctx.toNat).polder) (BitVec.ofNat 36 (ipa / 65536)) s

/-- The pages that a core's entries and operations wait for. -/
def collapseEvents (k : Nat) (c : CoreState) : List (State → Out) :=
  c.groups.flatMap (fun g => g.2.entries.flatMap (fun e => e.hold.pages.map (collapseFor k g.2.ctx))) ++ c.ops.filterMap (fun e => e.2.page.map (collapseFor k e.2.ctx))

/-- Pages on the move: copies that are complete, pieces that a write waits for, frames that the device scrubs (R93, R175, R179). -/
def pageMoves (s : State) : List (State → Out) :=
  (s.migrating.filter (fun e => !e.2.2.2.isEmpty)).map (fun e => execMigrationCopyDone (BitVec.ofNat 6 (e.1 / 2 ^ 36)) (BitVec.ofNat 36 e.1)) ++
    s.cores.flatMap (fun e => collapseEvents e.1 e.2) ++ (s.quar.filter (fun e => !e.2)).map (fun e => execQuarantineClear (BitVec.ofNat 40 e.1))

/-- Times that have run out, and what a wait of the device's own ends in (R71, R140, R143, R172, R420). -/
def endedWaits (s : State) : List (State → Out) :=
  s.cores.flatMap (fun e =>
      (e.2.conts.filter (fun x => x.2.used)).map (fun x => execContinuationTimeout (BitVec.ofNat 9 e.1) (BitVec.ofNat 10 x.1))) ++
    s.xlreqs.map (fun e => execXlreqTimeout (BitVec.ofNat 32 e.1)) ++ [0, 1, 2, 3].map execPlaneDead ++ [0, 1, 2, 3].map execPlaneRemap ++
    [0, 1, 2, 3].map execAttestDone

/-- The clusters that wait are placed or resumed on the first rectangle that meets the rules (R16, R36, R119). -/
def placeEvents (s : State) : List (State → Out) :=
  let go (x : Cand) (r : Rect) : State → Out :=
    if x.rank = 0 then execTeamResume x.launch x.cluster r
    else
      match look s.launches x.launch with
      | some l => execClusterPlace (BitVec.ofNat 10 x.ctx) (BitVec.ofNat 3 l.queue) r
      | none => fun s => .next s
  (keysOf s.polders).flatMap (fun p => (allCands s p).flatMap (fun x => ((placesOf s x).head?.map (go x)).toList))

/-- Every event that the device makes on its own, in the order in which the model looks for one that can happen. -/
def ownEvents (s : State) : List (State → Out) :=
  s.cores.flatMap (fun e => coreEvents e.1 e.2) ++ linkEvents ++ s.sets.flatMap (fun e => setEvents e.1 e.2) ++
    s.ctxs.flatMap (fun e => ctxEvents e.1 e.2) ++ s.polders.flatMap (fun e => polderEvents e.1) ++ fabricEvents s.fabric ++
    s.cores.flatMap (fun e => (e.2.conts.filter (fun x => x.2.used && x.2.skimmed)).map (fun x => execRefillRequestSend x.2.dst)) ++
    pageMoves s ++ endedWaits s ++ placeEvents s

/-- Cycles after which an operation in flight goes before the next issue, so that a group that never stops issuing holds none
up: a latency that the spec does not give (log 1). -/
def patience : Nat := 1024

/-- The events of operations that have been in flight for long. -/
def overdueEvents (s : State) : List (State → Out) :=
  s.cores.flatMap (fun k => ((servedOps k.2).filter (fun e => patience ≤ (k.2.ccyc - e.2.start).toNat)).flatMap (fun e => opEvents (BitVec.ofNat 9 k.1) e.1 e.2))

/-! ### One step -/

/-- A check finds an error that it cannot correct (R94): the data is poisoned, and counted. -/
def poisonAt (s : State) (w : Where) : State :=
  let s := bumpCounter s 12 1
  match w with
  | .home pa => if isHbm pa then setPoison s pa true else s
  | .copy d pa => onDie s d (fun x => { x with copies := alter x.copies (lineOf pa) (fun o => { o with poison := o.poison ||| BitVec.ofNat 4 (2 ^ (pa / 64 % 4)) }) })
  | .l1 k key i => onCore s k (fun c => { c with l1 := alter c.l1 key (fun l => setSector l i { l1Sector l i with poison := true }) })
  | .word k b i => onCore s k (fun c => setBank c b { bankOf c b with bad := i :: (bankOf c b).bad })
  | .vreg uid gid n l => onGroup s uid gid (fun g => { g with badV := putD g.badV n 0 (lookD g.badV n 0 ||| maskOfLanes (match look g.v n with
      | some (.uni _) => laneNums
      | some (.full _) => [l]
      | none => [])) })
  | .sreg uid gid n => onGroup s uid gid (fun g => { g with badS := n :: g.badS })
  | .berm key j =>
    match look s.sets key with
    | some m => if (look m.slots j).isSome then setSet s key { m with badSlots := j :: m.badSlots } else s
    | none => s

/-- An entry of the agenda takes place. One that names no event does nothing. -/
def runDue (run : Instr → State → Out) (s : State) (d : Due) : State :=
  match d with
  | .ev i => { (run i { s with cur := none }).stateOr s with cur := none }
  | .pass c n => passTime s c n
  | .corrected => bumpCounter s 11 1
  | .poison w => poisonAt s w
  | .release p frames => quarantine s p (frames.filter (fun f => isHbm (f * 4096)))
  | .railUp r => railIn r s

/-- While package reset is held (R413): rails come into their range and leave it, and nothing else happens. The reset ends with the step
that finds every rail in range. -/
def heldReset (s : State) : State :=
  match s.agenda with
  | d :: r =>
    let s := { s with agenda := r }
    match d with
    | .railUp x => railIn x s
    | .ev (.railOutOfRange x) => (execRailOutOfRange x s).stateOr s
    | _ => s
  | [] => s

/-- Cores that a completion has left with no team are looked at by the border controller (R122). -/
def borderEvents (s : State) : List (State → Out) := (keysOf s.cores).map (fun k => execBorderMove (BitVec.ofNat 9 k))

/-- What the passing of time brings before anything else of its cycle: refills, token intervals, epochs, rate intervals (R178, R205, R206,
R208). -/
def dueEvents (s : State) : List (State → Out) :=
  (s.dies.filter (fun d => intervalDue d.2)).map (fun d => execTokenInterval (BitVec.ofNat 2 d.1)) ++
    (s.cores.filter (fun e => refillDue e.2)).map (fun e => execTokenRefill (BitVec.ofNat 9 e.1)) ++
    (s.dies.filter (fun d => epochOver s d.1)).map (fun d => execEpochEnd (BitVec.ofNat 2 d.1)) ++
    ((List.range 16).filter (rateDue s)).map (fun n => execRateInterval (BitVec.ofNat 4 n))

/-- The launches whose teams have all completed, and whose last write-back may have landed (R120). -/
def launchEvents (s : State) : List (State → Out) :=
  (s.launches.filter (fun e => launchDone e.2)).map (fun e s => .next (checkLaunch s e.1))

/-- What is due; then what happens in the first cycle in which it can: QDONE rises, the stages of a vacate start, the soft stage ends, a
pending lowering of the clock and the fence of a sub-array take effect (R71, R120, R192, R196, R198). -/
def promptEvents (s : State) : List (State → Out) :=
  dueEvents s ++ launchEvents s ++
  s.cores.flatMap (fun e =>
    let kk := BitVec.ofNat 9 e.1
    e.2.vacates.flatMap (fun v => [execVacateStart kk (BitVec.ofNat 10 v.1), execSoftStageEnd kk (BitVec.ofNat 10 v.1)]) ++
      (if e.2.lowering.isSome then [execClockLowerApply kk] else []) ++ (if e.2.fenceReq.isSome then [execSubarrayFence kk] else []))

/-- With nothing due: what a core does at once; else the border controller acts on a completion; else an operation that is overdue goes on; else an entry issues; else one of the device's own events happens; else
images move (R89). -/
def runOwn (run : Instr → State → Out) (s : State) : State :=
  match firstEvent s (promptEvents s ++ borderEvents s ++ overdueEvents s) with
  | some t => t
  | none =>
    match issueNext run s (schedulers s) with
    | (s, true) => s
    | (s, false) => (firstEvent s (ownEvents s)).getD (moveImages s)

/-- What a step does before the frontiers settle: package reset while it is asserted (R413), else what is due, else what the
machine does on its own. -/
def act (run : Instr → State → Out) (s : State) : State :=
  if s.resetAsserted then
    let s := if s.rails.isEmpty then s else heldReset s
    (execPackageReset s).stateOr s
  else
    match s.agenda with
    | d :: r => runDue run { s with agenda := r } d
    | [] => runOwn run { s with cur := none }

/-- ONE STEP: it always answers a next state. -/
def advance (run : Instr → State → Out) (s : State) : Out := .next (settle (pumpFabric (act run s)))

end Sys2Proof.Machine
end

