-- ==== Sys2Proof/Machine/Dispatch.lean ====
section
/-! DEFINITION. The meaning of each constructor of `Instr`: one direct call per arm. The arms of the agents' events and of the lanes'
instructions stand in the order of `Instr`. -/

namespace Sys2Proof.Machine

def exec (i : Instr) (s : State) : Host.Outcome State Fault Refusal :=
  match i with
  | .reservedOpcode r => Sys2Proof.Machine.execReservedOpcode r s
  | .clause h => Sys2Proof.Machine.execClause h s
  | .nop f => Sys2Proof.Machine.execNop f s
  | .bra f => Sys2Proof.Machine.execBra f s
  | .brx f => Sys2Proof.Machine.execBrx f s
  | .call f => Sys2Proof.Machine.execCall f s
  | .callx f => Sys2Proof.Machine.execCallx f s
  | .ret f => Sys2Proof.Machine.execRet f s
  | .join f => Sys2Proof.Machine.execJoin f s
  | .exit f => Sys2Proof.Machine.execExit f s
  | .yield f => Sys2Proof.Machine.execYield f s
  | .waitf f => Sys2Proof.Machine.execWaitf f s
  | .barSync f => Sys2Proof.Machine.execBarSync f s
  | .barArv f => Sys2Proof.Machine.execBarArv f s
  | .barWait f => Sys2Proof.Machine.execBarWait f s
  | .cbar f => Sys2Proof.Machine.execCbar f s
  | .voteAny f => Sys2Proof.Machine.execVoteAny f s
  | .voteAll f => Sys2Proof.Machine.execVoteAll f s
  | .voteBal f => Sys2Proof.Machine.execVoteBal f s
  | .plop f => Sys2Proof.Machine.execPlop f s
  | .pmov f => Sys2Proof.Machine.execPmov f s
  | .launch f => Sys2Proof.Machine.execLaunch f s
  | .trap f => Sys2Proof.Machine.execTrap f s
  | .bkpt f => Sys2Proof.Machine.execBkpt f s
  | .iadd f => Sys2Proof.Machine.execIadd f s
  | .isub f => Sys2Proof.Machine.execIsub f s
  | .iaddc f => Sys2Proof.Machine.execIaddc f s
  | .imul f => Sys2Proof.Machine.execImul f s
  | .imulh f => Sys2Proof.Machine.execImulh f s
  | .imad f => Sys2Proof.Machine.execImad f s
  | .imadw f => Sys2Proof.Machine.execImadw f s
  | .idiv f => Sys2Proof.Machine.execIdiv f s
  | .irem f => Sys2Proof.Machine.execIrem f s
  | .imin f => Sys2Proof.Machine.execImin f s
  | .imax f => Sys2Proof.Machine.execImax f s
  | .iabs f => Sys2Proof.Machine.execIabs f s
  | .ineg f => Sys2Proof.Machine.execIneg f s
  | .isad f => Sys2Proof.Machine.execIsad f s
  | .icmp f => Sys2Proof.Machine.execIcmp f s
  | .ipick f => Sys2Proof.Machine.execIpick f s
  | .shl f => Sys2Proof.Machine.execShl f s
  | .shr f => Sys2Proof.Machine.execShr f s
  | .sar f => Sys2Proof.Machine.execSar f s
  | .rot f => Sys2Proof.Machine.execRot f s
  | .fshf f => Sys2Proof.Machine.execFshf f s
  | .andBits f => Sys2Proof.Machine.execAndBits f s
  | .orBits f => Sys2Proof.Machine.execOrBits f s
  | .xorBits f => Sys2Proof.Machine.execXorBits f s
  | .notBits f => Sys2Proof.Machine.execNotBits f s
  | .blut f => Sys2Proof.Machine.execBlut f s
  | .popc f => Sys2Proof.Machine.execPopc f s
  | .clz f => Sys2Proof.Machine.execClz f s
  | .ctz f => Sys2Proof.Machine.execCtz f s
  | .brev f => Sys2Proof.Machine.execBrev f s
  | .bfx f => Sys2Proof.Machine.execBfx f s
  | .bfi f => Sys2Proof.Machine.execBfi f s
  | .idot f => Sys2Proof.Machine.execIdot f s
  | .mov f => Sys2Proof.Machine.execMov f s
  | .cvti f => Sys2Proof.Machine.execCvti f s
  | .lea f => Sys2Proof.Machine.execLea f s
  | .tags f => Sys2Proof.Machine.execTags f s
  | .tagg f => Sys2Proof.Machine.execTagg f s
  | .pack f => Sys2Proof.Machine.execPack f s
  | .unpk f => Sys2Proof.Machine.execUnpk f s
  | .fadd f => Sys2Proof.Machine.execFadd f s
  | .fsub f => Sys2Proof.Machine.execFsub f s
  | .fmul f => Sys2Proof.Machine.execFmul f s
  | .ffma f => Sys2Proof.Machine.execFfma f s
  | .fmin f => Sys2Proof.Machine.execFmin f s
  | .fmax f => Sys2Proof.Machine.execFmax f s
  | .fsetp f => Sys2Proof.Machine.execFsetp f s
  | .fcls f => Sys2Proof.Machine.execFcls f s
  | .frnd f => Sys2Proof.Machine.execFrnd f s
  | .frcp f => Sys2Proof.Machine.execFrcp f s
  | .frsq f => Sys2Proof.Machine.execFrsq f s
  | .fsqrt f => Sys2Proof.Machine.execFsqrt f s
  | .fdiv f => Sys2Proof.Machine.execFdiv f s
  | .fex2 f => Sys2Proof.Machine.execFex2 f s
  | .flg2 f => Sys2Proof.Machine.execFlg2 f s
  | .fsin f => Sys2Proof.Machine.execFsin f s
  | .fcos f => Sys2Proof.Machine.execFcos f s
  | .ftanh f => Sys2Proof.Machine.execFtanh f s
  | .fsig f => Sys2Proof.Machine.execFsig f s
  | .cvtf f => Sys2Proof.Machine.execCvtf f s
  | .f2i f => Sys2Proof.Machine.execF2i f s
  | .i2f f => Sys2Proof.Machine.execI2f f s
  | .bxenc f => Sys2Proof.Machine.execBxenc f s
  | .bxdec f => Sys2Proof.Machine.execBxdec f s
  | .lxch f => Sys2Proof.Machine.execLxch f s
  | .prm f => Sys2Proof.Machine.execPrm f s
  | .lbc f => Sys2Proof.Machine.execLbc f s
  | .redc f => Sys2Proof.Machine.execRedc f s
  | .scan f => Sys2Proof.Machine.execScan f s
  | .matchLanes f => Sys2Proof.Machine.execMatchLanes f s
  | .csamp f => Sys2Proof.Machine.execCsamp f s
  | .rng f => Sys2Proof.Machine.execRng f s
  | .ld f => Sys2Proof.Machine.execLd f s
  | .st f => Sys2Proof.Machine.execSt f s
  | .lds f => Sys2Proof.Machine.execLds f s
  | .sts f => Sys2Proof.Machine.execSts f s
  | .ldu f => Sys2Proof.Machine.execLdu f s
  | .stu f => Sys2Proof.Machine.execStu f s
  | .ldbxs f => Sys2Proof.Machine.execLdbxs f s
  | .atom f => Sys2Proof.Machine.execAtom f s
  | .red f => Sys2Proof.Machine.execRed f s
  | .copy f => Sys2Proof.Machine.execCopy f s
  | .copyf f => Sys2Proof.Machine.execCopyf f s
  | .wptr f => Sys2Proof.Machine.execWptr f s
  | .pushf f => Sys2Proof.Machine.execPushf f s
  | .popf f => Sys2Proof.Machine.execPopf f s
  | .bankcfg f => Sys2Proof.Machine.execBankcfg f s
  | .fenceAcq f => Sys2Proof.Machine.execFenceAcq f s
  | .fenceRel f => Sys2Proof.Machine.execFenceRel f s
  | .fenceAr f => Sys2Proof.Machine.execFenceAr f s
  | .cwb f => Sys2Proof.Machine.execCwb f s
  | .cinv f => Sys2Proof.Machine.execCinv f s
  | .flush f => Sys2Proof.Machine.execFlush f s
  | .pref f => Sys2Proof.Machine.execPref f s
  | .ldtag f => Sys2Proof.Machine.execLdtag f s
  | .sttag f => Sys2Proof.Machine.execSttag f s
  | .watch f => Sys2Proof.Machine.execWatch f s
  | .oprf f => Sys2Proof.Machine.execOprf f s
  | .mma f => Sys2Proof.Machine.execMma f s
  | .mmaw f => Sys2Proof.Machine.execMmaw f s
  | .mopen f => Sys2Proof.Machine.execMopen f s
  | .mstg f => Sys2Proof.Machine.execMstg f s
  | .mclose f => Sys2Proof.Machine.execMclose f s
  | .mabort f => Sys2Proof.Machine.execMabort f s
  | .mstat f => Sys2Proof.Machine.execMstat f s
  | .rld f => Sys2Proof.Machine.execRld f s
  | .rst f => Sys2Proof.Machine.execRst f s
  | .ratom f => Sys2Proof.Machine.execRatom f s
  | .puts f => Sys2Proof.Machine.execPuts f s
  | .getf f => Sys2Proof.Machine.execGetf f s
  | .fstatc f => Sys2Proof.Machine.execFstatc f s
  | .vcost f => Sys2Proof.Machine.execVcost f s
  | .vchk f => Sys2Proof.Machine.execVchk f s
  | .vckpt f => Sys2Proof.Machine.execVckpt f s
  | .vckptPoll f => Sys2Proof.Machine.execVckptPoll f s
  | .getsr f => Sys2Proof.Machine.execGetsr f s
  | .setsr f => Sys2Proof.Machine.execSetsr f s
  | .icinv f => Sys2Proof.Machine.execIcinv f s
  | .sysc f => Sys2Proof.Machine.execSysc f s
  | .tret f => Sys2Proof.Machine.execTret f s
  | .iaddI32C c => Sys2Proof.Machine.execIaddI32C c s
  | .isubI32C c => Sys2Proof.Machine.execIsubI32C c s
  | .imulI32C c => Sys2Proof.Machine.execImulI32C c s
  | .iminI32C c => Sys2Proof.Machine.execIminI32C c s
  | .imaxI32C c => Sys2Proof.Machine.execImaxI32C c s
  | .iaddI64C c => Sys2Proof.Machine.execIaddI64C c s
  | .isubI64C c => Sys2Proof.Machine.execIsubI64C c s
  | .andB64C c => Sys2Proof.Machine.execAndB64C c s
  | .orB64C c => Sys2Proof.Machine.execOrB64C c s
  | .xorB64C c => Sys2Proof.Machine.execXorB64C c s
  | .shlB32C c => Sys2Proof.Machine.execShlB32C c s
  | .shrN32C c => Sys2Proof.Machine.execShrN32C c s
  | .sarI32C c => Sys2Proof.Machine.execSarI32C c s
  | .shlB64C c => Sys2Proof.Machine.execShlB64C c s
  | .shrN64C c => Sys2Proof.Machine.execShrN64C c s
  | .iminN32C c => Sys2Proof.Machine.execIminN32C c s
  | .imaxN32C c => Sys2Proof.Machine.execImaxN32C c s
  | .faddF32C c => Sys2Proof.Machine.execFaddF32C c s
  | .fsubF32C c => Sys2Proof.Machine.execFsubF32C c s
  | .fmulF32C c => Sys2Proof.Machine.execFmulF32C c s
  | .fminF32C c => Sys2Proof.Machine.execFminF32C c s
  | .fmaxF32C c => Sys2Proof.Machine.execFmaxF32C c s
  | .faddF16C c => Sys2Proof.Machine.execFaddF16C c s
  | .fmulF16C c => Sys2Proof.Machine.execFmulF16C c s
  | .faddBf16C c => Sys2Proof.Machine.execFaddBf16C c s
  | .fmulBf16C c => Sys2Proof.Machine.execFmulBf16C c s
  | .faddF64C c => Sys2Proof.Machine.execFaddF64C c s
  | .fmulF64C c => Sys2Proof.Machine.execFmulF64C c s
  | .movB64C c => Sys2Proof.Machine.execMovB64C c s
  | .fminF64C c => Sys2Proof.Machine.execFminF64C c s
  | .fmaxF64C c => Sys2Proof.Machine.execFmaxF64C c s
  | .iaddI32I j => Sys2Proof.Machine.execIaddI32I j s
  | .iaddI64I j => Sys2Proof.Machine.execIaddI64I j s
  | .andB32I j => Sys2Proof.Machine.execAndB32I j s
  | .orB32I j => Sys2Proof.Machine.execOrB32I j s
  | .xorB32I j => Sys2Proof.Machine.execXorB32I j s
  | .shlB32I j => Sys2Proof.Machine.execShlB32I j s
  | .shrN32I j => Sys2Proof.Machine.execShrN32I j s
  | .sarI32I j => Sys2Proof.Machine.execSarI32I j s
  | .shlB64I j => Sys2Proof.Machine.execShlB64I j s
  | .shrN64I j => Sys2Proof.Machine.execShrN64I j s
  | .movI32I j => Sys2Proof.Machine.execMovI32I j s
  | .movI64I j => Sys2Proof.Machine.execMovI64I j s
  | .imulI32I j => Sys2Proof.Machine.execImulI32I j s
  | .iminI32I j => Sys2Proof.Machine.execIminI32I j s
  | .imaxI32I j => Sys2Proof.Machine.execImaxI32I j s
  | .iaddI32P h0 op1 h1 => Sys2Proof.Machine.execIaddI32P h0 op1 h1 s
  | .isubI32P h0 op1 h1 => Sys2Proof.Machine.execIsubI32P h0 op1 h1 s
  | .iaddI64P h0 op1 h1 => Sys2Proof.Machine.execIaddI64P h0 op1 h1 s
  | .andB64P h0 op1 h1 => Sys2Proof.Machine.execAndB64P h0 op1 h1 s
  | .orB64P h0 op1 h1 => Sys2Proof.Machine.execOrB64P h0 op1 h1 s
  | .xorB64P h0 op1 h1 => Sys2Proof.Machine.execXorB64P h0 op1 h1 s
  | .iminI32P h0 op1 h1 => Sys2Proof.Machine.execIminI32P h0 op1 h1 s
  | .imaxI32P h0 op1 h1 => Sys2Proof.Machine.execImaxI32P h0 op1 h1 s
  | .faddF32P h0 op1 h1 => Sys2Proof.Machine.execFaddF32P h0 op1 h1 s
  | .fmulF32P h0 op1 h1 => Sys2Proof.Machine.execFmulF32P h0 op1 h1 s
  | .fminF32P h0 op1 h1 => Sys2Proof.Machine.execFminF32P h0 op1 h1 s
  | .fmaxF32P h0 op1 h1 => Sys2Proof.Machine.execFmaxF32P h0 op1 h1 s
  | .faddBf16P h0 op1 h1 => Sys2Proof.Machine.execFaddBf16P h0 op1 h1 s
  | .fmulBf16P h0 op1 h1 => Sys2Proof.Machine.execFmulBf16P h0 op1 h1 s
  | .faddF16P h0 op1 h1 => Sys2Proof.Machine.execFaddF16P h0 op1 h1 s
  | .fmulF16P h0 op1 h1 => Sys2Proof.Machine.execFmulF16P h0 op1 h1 s
  | .movB64P h0 op1 h1 => Sys2Proof.Machine.execMovB64P h0 op1 h1 s
  | .faddF64P h0 op1 h1 => Sys2Proof.Machine.execFaddF64P h0 op1 h1 s
  | .fmulF64P h0 op1 h1 => Sys2Proof.Machine.execFmulF64P h0 op1 h1 s
  | .packageReset => Sys2Proof.Machine.execPackageReset s
  | .railOutOfRange r => Sys2Proof.Machine.execRailOutOfRange r s
  | .thermalTrip d => Sys2Proof.Machine.execThermalTrip d s
  | .throttleRequest d => Sys2Proof.Machine.execThrottleRequest d s
  | .powerSample tmax watts => Sys2Proof.Machine.execPowerSample tmax watts s
  | .boot d b => Sys2Proof.Machine.execBoot d b s
  | .dcfgLock w => Sys2Proof.Machine.execDcfgLock w s
  | .coreReset w => Sys2Proof.Machine.execCoreReset w s
  | .registerWrite w => Sys2Proof.Machine.execRegisterWrite w s
  | .polderActivate w => Sys2Proof.Machine.execPolderActivate w s
  | .polderTeardown w => Sys2Proof.Machine.execPolderTeardown w s
  | .teardownComplete p => Sys2Proof.Machine.execTeardownComplete p s
  | .polderRelease w => Sys2Proof.Machine.execPolderRelease w s
  | .ctxcfgWrite w => Sys2Proof.Machine.execCtxcfgWrite w s
  | .cboundWrite w => Sys2Proof.Machine.execCboundWrite w s
  | .vbndWrite w => Sys2Proof.Machine.execVbndWrite w s
  | .cclkWrite w => Sys2Proof.Machine.execCclkWrite w s
  | .clockLowerApply k => Sys2Proof.Machine.execClockLowerApply k s
  | .tatWrite w => Sys2Proof.Machine.execTatWrite w s
  | .vctWrite w => Sys2Proof.Machine.execVctWrite w s
  | .exportWrite w => Sys2Proof.Machine.execExportWrite w s
  | .fplaneWrite w => Sys2Proof.Machine.execFplaneWrite w s
  | .ctlbiWrite w => Sys2Proof.Machine.execCtlbiWrite w s
  | .ptlbiWrite w => Sys2Proof.Machine.execPtlbiWrite w s
  | .invalidationComplete polder n => Sys2Proof.Machine.execInvalidationComplete polder n s
  | .faultQueueConsume w => Sys2Proof.Machine.execFaultQueueConsume w s
  | .resumeRetry w => Sys2Proof.Machine.execResumeRetry w s
  | .resumeFail w => Sys2Proof.Machine.execResumeFail w s
  | .vacateGo w => Sys2Proof.Machine.execVacateGo w s
  | .contextKill w => Sys2Proof.Machine.execContextKill w s
  | .vacateResume w => Sys2Proof.Machine.execVacateResume w s
  | .attestGo w => Sys2Proof.Machine.execAttestGo w s
  | .attestDone d => Sys2Proof.Machine.execAttestDone d s
  | .selfTestFenceRequest k sub => Sys2Proof.Machine.execSelfTestFenceRequest k sub s
  | .subarrayFence k => Sys2Proof.Machine.execSubarrayFence k s
  | .launchPortWrite off size data => Sys2Proof.Machine.execLaunchPortWrite off size data s
  | .recordHeadCheck c q => Sys2Proof.Machine.execRecordHeadCheck c q s
  | .clusterPlace c q r => Sys2Proof.Machine.execClusterPlace c q r s
  | .teamResume launch cluster r => Sys2Proof.Machine.execTeamResume launch cluster r s
  | .teamDrainDone k team => Sys2Proof.Machine.execTeamDrainDone k team s
  | .borderMove k => Sys2Proof.Machine.execBorderMove k s
  | .vacateStart k c => Sys2Proof.Machine.execVacateStart k c s
  | .softStageEnd k c => Sys2Proof.Machine.execSoftStageEnd k c s
  | .saveBegin k c => Sys2Proof.Machine.execSaveBegin k c s
  | .saveComplete k c => Sys2Proof.Machine.execSaveComplete k c s
  | .killTimerExpire k c => Sys2Proof.Machine.execKillTimerExpire k c s
  | .vbtStallTimeout k slot lanes => Sys2Proof.Machine.execVbtStallTimeout k slot lanes s
  | .loadReturn k op => Sys2Proof.Machine.execLoadReturn k op s
  | .storePerform k op => Sys2Proof.Machine.execStorePerform k op s
  | .vectorResultWrite k op => Sys2Proof.Machine.execVectorResultWrite k op s
  | .mmaComplete k op => Sys2Proof.Machine.execMmaComplete k op s
  | .copyBeat k op => Sys2Proof.Machine.execCopyBeat k op s
  | .copyComplete k op => Sys2Proof.Machine.execCopyComplete k op s
  | .bankTransitionComplete k op => Sys2Proof.Machine.execBankTransitionComplete k op s
  | .fifoOpAccept k op => Sys2Proof.Machine.execFifoOpAccept k op s
  | .fifoTimeout k op => Sys2Proof.Machine.execFifoTimeout k op s
  | .portTrackerComplete k op => Sys2Proof.Machine.execPortTrackerComplete k op s
  | .fenceComplete k op => Sys2Proof.Machine.execFenceComplete k op s
  | .writebackAck k wb => Sys2Proof.Machine.execWritebackAck k wb s
  | .l1Eviction k way line => Sys2Proof.Machine.execL1Eviction k way line s
  | .atomicPerform k op => Sys2Proof.Machine.execAtomicPerform k op s
  | .stageAccept k op => Sys2Proof.Machine.execStageAccept k op s
  | .slotRequest set slice id => Sys2Proof.Machine.execSlotRequest set slice id s
  | .closeAccept k op => Sys2Proof.Machine.execCloseAccept k op s
  | .measureRequest set slice id => Sys2Proof.Machine.execMeasureRequest set slice id s
  | .measureComplete set id => Sys2Proof.Machine.execMeasureComplete set id s
  | .commitIssue set => Sys2Proof.Machine.execCommitIssue set s
  | .commitApply set slice => Sys2Proof.Machine.execCommitApply set slice s
  | .signalUpdate set => Sys2Proof.Machine.execSignalUpdate set s
  | .epochEnd d => Sys2Proof.Machine.execEpochEnd d s
  | .pageMigrate d e p page replicate frames => Sys2Proof.Machine.execPageMigrate d e p page replicate frames s
  | .migrationCopyDone p page => Sys2Proof.Machine.execMigrationCopyDone p page s
  | .pieceCollapse w p page => Sys2Proof.Machine.execPieceCollapse w p page s
  | .quarantineClear frame => Sys2Proof.Machine.execQuarantineClear frame s
  | .crossDieWrite src dst => Sys2Proof.Machine.execCrossDieWrite src dst s
  | .clockNotice src dst => Sys2Proof.Machine.execClockNotice src dst s
  | .heldWriteApply src dst => Sys2Proof.Machine.execHeldWriteApply src dst s
  | .settle src dst => Sys2Proof.Machine.execSettle src dst s
  | .tokenRefill k => Sys2Proof.Machine.execTokenRefill k s
  | .tokenInterval d => Sys2Proof.Machine.execTokenInterval d s
  | .rateInterval port => Sys2Proof.Machine.execRateInterval port s
  | .fabricSend port => Sys2Proof.Machine.execFabricSend port s
  | .switchEgressEnqueue port p => Sys2Proof.Machine.execSwitchEgressEnqueue port p s
  | .combinedResponse p => Sys2Proof.Machine.execCombinedResponse p s
  | .rdreq p => Sys2Proof.Machine.execRdreq p s
  | .rdrsp p => Sys2Proof.Machine.execRdrsp p s
  | .wrPacket p => Sys2Proof.Machine.execWrPacket p s
  | .atomreq p => Sys2Proof.Machine.execAtomreq p s
  | .atomrsp p => Sys2Proof.Machine.execAtomrsp p s
  | .putsPacket p => Sys2Proof.Machine.execPutsPacket p s
  | .getreq p => Sys2Proof.Machine.execGetreq p s
  | .getrsp p => Sys2Proof.Machine.execGetrsp p s
  | .mstage p => Sys2Proof.Machine.execMstage p s
  | .mclosePacket p => Sys2Proof.Machine.execMclosePacket p s
  | .skim p => Sys2Proof.Machine.execSkim p s
  | .refill p => Sys2Proof.Machine.execRefill p s
  | .refillreq p => Sys2Proof.Machine.execRefillreq p s
  | .refillRequestSend src => Sys2Proof.Machine.execRefillRequestSend src s
  | .ack p => Sys2Proof.Machine.execAck p s
  | .nack p => Sys2Proof.Machine.execNack p s
  | .xlrsp p => Sys2Proof.Machine.execXlrsp p s
  | .xlinv p => Sys2Proof.Machine.execXlinv p s
  | .xlreqTimeout req => Sys2Proof.Machine.execXlreqTimeout req s
  | .creditReturn port cls flits => Sys2Proof.Machine.execCreditReturn port cls flits s
  | .keyswitch port => Sys2Proof.Machine.execKeyswitch port s
  | .keyhalt port => Sys2Proof.Machine.execKeyhalt port s
  | .hopKeyInstall port => Sys2Proof.Machine.execHopKeyInstall port s
  | .hopAuthFail port => Sys2Proof.Machine.execHopAuthFail port s
  | .linkDown port => Sys2Proof.Machine.execLinkDown port s
  | .planeDead plane => Sys2Proof.Machine.execPlaneDead plane s
  | .planeRemap entry => Sys2Proof.Machine.execPlaneRemap entry s
  | .planeRevive plane => Sys2Proof.Machine.execPlaneRevive plane s
  | .gapExpire j => Sys2Proof.Machine.execGapExpire j s
  | .continuationTimeout k entry => Sys2Proof.Machine.execContinuationTimeout k entry s
  | .tombstoneExpire p => Sys2Proof.Machine.execTombstoneExpire p s
  | .malformedPacket p => Sys2Proof.Machine.execMalformedPacket p s
  | .coordinatorAnswer k op => Sys2Proof.Machine.execCoordinatorAnswer k op s
  | .flowKeyInstall host p key => Sys2Proof.Machine.execFlowKeyInstall host p key s
  | .controlCoreWrite pa bytes => Sys2Proof.Machine.execControlCoreWrite pa bytes s

end Sys2Proof.Machine
end

