-- ==== Sys2Proof/Machine/Step.lean ====
section
/-! DEFINITION. One step of the package, and the state in which its next issue runs a given word. -/

namespace Sys2Proof.Machine

/-- ONE STEP of the package: what is due next, with `exec` as the meaning of every event and every instruction (log 1). -/
def step (s : State) : Host.Outcome State Fault Refusal := advance exec s

/-- The code address of `withFetchWord`: the first byte of a line of the upper half. -/
def probeAddr : Word := 0x8000_0000_0001_0000

/-- The launch of the team that `withFetchWord` places: handler mode, the handler in the line's second half. -/
def probeLaunch : Launch :=
  { ctx := 0, queue := 0, seq := 0, accepted := 0, outstanding := 1, record := BitVec.ofNat 1024 (2 ^ (8 * 0x16 + 1) + (0x8000_0000_0001_0080) * 2 ^ (8 * 0x40)) }

/-- The group that issues: 32 lanes at the word, the last instruction of a clause body. -/
def probeGroup (uid : Nat) : Group :=
  { uid := uid, gid := 0, team := 0, ctx := 0, entries := [{ mask := BitVec.allOnes 32, pc := probeAddr, left := 1 }] }

/-- The team of that group, alone on core 0. -/
def probeTeam (uid launch : Nat) : Team :=
  { uid := uid, ctx := 0, launch := launch, cluster := 0, px := 0, py := 0, st := .running, groups := 1, scrb := 0, fifob := 0, footprint := 128 }

/-- Core 0 with that team and group, the word in its instruction cache, and a bound of 65,536 cycles for slot 0. -/
def probeCore (c : CoreState) (uid launch w : Nat) : CoreState :=
  { c with
    teams := [(0, probeTeam uid launch)]
    groups := [(0, probeGroup uid)]
    icache := [{ ctx := 0, va := probeAddr, data := BitVec.ofNat 2048 w }]
    vbnd := put c.vbnd 0 65536
    ops := []
    vacates := []
    last := [] }

/-- The state with a word of `nbits` bits (every bit above them 0) as what the next step issues. A program comes to run by firmware
and the host: a polder, a context, a launch record and a placement (log 40); this stands for them, on core 0, with polder 0 active
and owning the core, and context 0 valid in slot 0. -/
def State.withFetchWord (s : State) (nbits w : Nat) : State :=
  { s with
    agenda := []
    resetAsserted := false
    cur := none
    turn := 0
    polders := put s.polders 0 { polderOf s 0 with pcfg := 1, cores := (polderOf s 0).cores ||| 1 }
    ctxs := put s.ctxs 0 { ctxOf s 0 with ctxcfg := 1 }
    launches := put s.launches s.nextLaunch probeLaunch
    cores := put s.cores 0 (probeCore (coreOf s 0) s.nextUid s.nextLaunch (w % 2 ^ nbits))
    nextUid := s.nextUid + 1
    nextLaunch := s.nextLaunch + 1 }

end Sys2Proof.Machine
end

