-- ==== Sys2Proof/Laws/Decode.lean ====
section
/-! SUPPORT. Decoding gives back what was encoded, once for each format. -/

namespace Sys2Proof

/-! ### Fields of a packed number -/

/-- Fields packed from the low bits up: width and value. -/
def packed : List (Nat × Nat) → Nat
  | [] => 0
  | (n, x) :: r => x + 2 ^ n * packed r

def widthOf (l : List (Nat × Nat)) : Nat := (l.map (·.1)).sum

/-- Every value fits its width. -/
def Fits (l : List (Nat × Nat)) : Prop := ∀ e ∈ l, e.2 < 2 ^ e.1

theorem packed_lt {l : List (Nat × Nat)} (h : Fits l) : packed l < 2 ^ widthOf l := by
  induction l with
  | nil => simp [packed, widthOf]
  | cons e r ih =>
    have h1 : e.2 < 2 ^ e.1 := h e (by simp)
    have h2 := ih (fun x hx => h x (by simp [hx]))
    simp only [packed, widthOf, List.map_cons, List.sum_cons, Nat.pow_add] at *
    calc e.2 + 2 ^ e.1 * packed r < 2 ^ e.1 + 2 ^ e.1 * packed r := by omega
      _ = 2 ^ e.1 * (packed r + 1) := by ring
      _ ≤ _ := Nat.mul_le_mul_left _ h2

theorem bitsAt_skip {a b n lo len : Nat} (ha : a < 2 ^ n) (h : n ≤ lo) : bitsAt (a + 2 ^ n * b) lo len = bitsAt b (lo - n) len := by
  unfold bitsAt
  obtain ⟨k, rfl⟩ := Nat.exists_eq_add_of_le h
  rw [Nat.pow_add, ← Nat.div_div_eq_div_mul, Nat.add_mul_div_left _ _ (Nat.two_pow_pos n), Nat.div_eq_of_lt ha]
  simp

/-- The field that stands above `pre`. -/
theorem bitsAt_packed (pre : List (Nat × Nat)) (n x : Nat) (post : List (Nat × Nat)) (h : Fits (pre ++ (n, x) :: post)) :
    bitsAt (packed (pre ++ (n, x) :: post)) (widthOf pre) n = x := by
  induction pre with
  | nil =>
    have hx : x < 2 ^ n := h (n, x) (by simp)
    simp [bitsAt, packed, widthOf, Nat.add_mul_mod_self_left, Nat.mod_eq_of_lt hx]
  | cons e r ih =>
    have h1 : e.2 < 2 ^ e.1 := h e (by simp)
    have := ih (fun y hy => h y (by simp [List.mem_append] at hy ⊢; tauto))
    simp only [List.cons_append, packed]
    rw [bitsAt_skip h1 (by simp [widthOf])]
    have hw : widthOf (e :: r) - e.1 = widthOf r := by simp [widthOf]
    rw [hw, this]

/-- The same, of a number whose packing and offset are known. -/
theorem bits_of_packed {w lo n x : Nat} {l : List (Nat × Nat)} (hw : w = packed l) (h : Fits l) (pre post : List (Nat × Nat))
    (hl : l = pre ++ (n, x) :: post) (hlo : widthOf pre = lo) : bitsAt w lo n = x := by
  subst hw hl hlo
  exact bitsAt_packed pre n x post h

/-- The lowest field. -/
theorem packed_mod {w n x : Nat} {l : List (Nat × Nat)} (hw : w = packed ((n, x) :: l)) (h : Fits ((n, x) :: l)) : w % 2 ^ n = x := by
  have hx : x < 2 ^ n := h (n, x) (by simp)
  subst hw
  simp [packed, Nat.mod_eq_of_lt hx]

theorem lt_of_packed {w n : Nat} {l : List (Nat × Nat)} (hw : w = packed l) (h : Fits l) (hn : widthOf l = n) : w < 2 ^ n := by
  subst hw hn
  exact packed_lt h

theorem parcelCount_of {p k : Nat} (h : p % 4 = k) : parcelCount p = if k == 0 || k == 1 then 1 else if k == 2 then 2 else 3 := by
  unfold parcelCount
  rw [h]

theorem bool1_lt (b : Bool) : bool1 b < 2 ^ 1 := by cases b <;> decide
theorem bool1_eq (b : Bool) : (bool1 b == 1) = b := by cases b <;> rfl
theorem bitAt_of_bits {w i : Nat} {b : Bool} (h : bitsAt w i 1 = bool1 b) : bitAt w i = b := by
  have : bitAt w i = (bitsAt w i 1 == 1) := rfl
  rw [this, h, bool1_eq]

theorem ofNat_of_bits {w lo n : Nat} {x : BitVec n} (h : bitsAt w lo n = x.toNat) : BitVec.ofNat n (bitsAt w lo n) = x := by
  rw [h]; simp

/-! ### Codes -/

theorem ty_code_lt (t : Ty) : t.code < 2 ^ 4 := by cases t <;> decide
theorem ty_ofCode_code (t : Ty) : Ty.ofCode t.code = t := by cases t <;> rfl
theorem pairOp_code_lt (o : PairOp) : o.code < 2 ^ 6 := by cases o <;> decide
theorem pairOp_ofCode_code (o : PairOp) : PairOp.ofCode o.code = some o := by cases o <;> rfl

theorem opnd_code_lt (o : Opnd) : o.code < 2 ^ 8 := by
  cases o with
  | v n => have := n.isLt; simp only [Opnd.code]; omega
  | s n => have := n.isLt; simp only [Opnd.code]; omega
  | p n => have := n.isLt; simp only [Opnd.code]; omega
  | k c => cases c <;> decide
  | none => decide
  | reserved c => exact c.isLt

/-- A reserved code stands in no legal operand; every other operand has a code of its own. -/
theorem opnd_ofCode_code (o : Opnd) (h : ∀ c, o ≠ .reserved c) : Opnd.ofCode o.code = o := by
  cases o with
  | v n => have := n.isLt; simp [Opnd.code, Opnd.ofCode, this]
  | s n =>
    have := n.isLt
    have h1 : ¬ (0x80 + n.toNat < 0x80) := by omega
    have h2 : 0x80 + n.toNat < 0xC0 := by omega
    rw [Opnd.code, Opnd.ofCode, if_neg h1, if_pos h2, Nat.add_sub_cancel_left, BitVec.ofNat_toNat, BitVec.setWidth_eq]
  | p n =>
    have := n.isLt
    have h1 : ¬ (0xC0 + n.toNat < 0x80) := by omega
    have h2 : ¬ (0xC0 + n.toNat < 0xC0) := by omega
    have h3 : 0xC0 + n.toNat < 0xC8 := by omega
    rw [Opnd.code, Opnd.ofCode, if_neg h1, if_neg h2, if_pos h3, Nat.add_sub_cancel_left, BitVec.ofNat_toNat, BitVec.setWidth_eq]
  | k c => cases c <;> rfl
  | none => rfl
  | reserved c => exact absurd rfl (h c)

theorem okAs_notReserved {o : Opnd} {ks : List Kind} {d : Bool} {t : Ty} (h : o.okAs ks d t = true) : ∀ c, o ≠ .reserved c := by
  intro c hc
  subst hc
  simp [Opnd.okAs] at h

/-! ### Bytes and parcels -/

theorem parcelOf_bytes (p : Nat) (h : p < 2 ^ 32) :
    parcelOf (BitVec.ofNat 8 p) (BitVec.ofNat 8 (p / 2 ^ 8)) (BitVec.ofNat 8 (p / 2 ^ 16)) (BitVec.ofNat 8 (p / 2 ^ 24)) = p := by
  unfold parcelOf
  simp only [BitVec.toNat_ofNat]
  omega

/-- Decoding the bytes of an instruction's parcels, whatever follows them. -/
theorem decode_parcels {ps : List Nat} {i : Instr} {n p0 : Nat} {tl : List Nat} (hps : ps = p0 :: tl) (hlt : ∀ p ∈ ps, p < 2 ^ 32)
    (hlen : ps.length = n) (hc : parcelCount p0 = n) (hn : n ≤ 3) (rest : List Byte)
    (hd : ∀ r, (decodeParcels p0 ((tl ++ r).headD 0) (((tl ++ r).drop 1).headD 0)).1 = i) : decode (parcelBytes ps ++ rest) = .ok (i, rest) := by
  subst hps
  have key : ∃ r, parcelsOf 3 (parcelBytes (p0 :: tl) ++ rest) = p0 :: (tl ++ r) ∧ (parcelBytes (p0 :: tl) ++ rest).drop (4 * n) = rest := by
    subst hlen
    match tl, hn, hlt with
    | [], _, hlt =>
      refine ⟨parcelsOf 2 rest, ?_, rfl⟩
      simp only [parcelBytes, parcelsOf, List.cons_append, List.nil_append, parcelOf_bytes p0 (hlt _ (by simp))]
    | [p1], _, hlt =>
      refine ⟨parcelsOf 1 rest, ?_, rfl⟩
      simp only [parcelBytes, parcelsOf, List.cons_append, List.nil_append, parcelOf_bytes p0 (hlt _ (by simp)), parcelOf_bytes p1 (hlt _ (by simp))]
    | [p1, p2], _, hlt =>
      refine ⟨[], ?_, rfl⟩
      simp only [parcelBytes, parcelsOf, List.cons_append, List.nil_append, parcelOf_bytes p0 (hlt _ (by simp)), parcelOf_bytes p1 (hlt _ (by simp)), parcelOf_bytes p2 (hlt _ (by simp))]
    | p1 :: p2 :: p3 :: t, hn, _ => simp only [List.length_cons] at hn; omega
  obtain ⟨r, h1, h2⟩ := key
  unfold decode
  rw [h1]
  simp only [hc, h2, hd r]
  rw [if_neg]
  simp only [List.length_cons] at hlen
  simp only [List.length_append]
  omega

theorem fits_nil : Fits [] := nofun
theorem fits_cons {n x : Nat} {l : List (Nat × Nat)} (h : x < 2 ^ n) (hl : Fits l) : Fits ((n, x) :: l) := by
  intro e he
  rcases List.mem_cons.mp he with rfl | h'
  · exact h
  · exact hl e h'

/-! ### Formats C and I -/

def cPack (opc : Nat) (c : CForm) : List (Nat × Nat) :=
  [(2, 0), (6, opc), (7, c.vd.toNat), (7, c.va.toNat), (7, c.vb.toNat), (1, bool1 c.lua), (1, bool1 c.lub), (1, bool1 c.g)]

theorem cPack_fits {opc : Nat} (h : opc < 2 ^ 6) (c : CForm) : Fits (cPack opc c) :=
  fits_cons (by decide) (fits_cons h (fits_cons c.vd.isLt (fits_cons c.va.isLt (fits_cons c.vb.isLt (fits_cons (bool1_lt _) (fits_cons (bool1_lt _)
    (fits_cons (bool1_lt _) fits_nil)))))))

theorem cParcel_packed (opc : Nat) (c : CForm) : cParcel opc c = packed (cPack opc c) := by
  simp [cParcel, cPack, packed]

theorem c_fields {opc : Nat} (h : opc < 2 ^ 6) (c : CForm) :
    cParcel opc c < 2 ^ 32 ∧ cParcel opc c % 4 = 0 ∧ bitsAt (cParcel opc c) 2 6 = opc ∧ cFields (cParcel opc c) = c := by
  have hf := cPack_fits h c
  have hp := cParcel_packed opc c
  refine ⟨lt_of_packed hp hf rfl, packed_mod hp hf, bits_of_packed hp hf [_] _ rfl rfl, ?_⟩
  · obtain ⟨g, lub, lua, vb, va, vd⟩ := c
    unfold cFields
    congr 1
    · exact bitAt_of_bits (bits_of_packed hp hf [_, _, _, _, _, _, _] _ rfl rfl)
    · exact bitAt_of_bits (bits_of_packed hp hf [_, _, _, _, _, _] _ rfl rfl)
    · exact bitAt_of_bits (bits_of_packed hp hf [_, _, _, _, _] _ rfl rfl)
    · exact ofNat_of_bits (bits_of_packed hp hf [_, _, _, _] _ rfl rfl)
    · exact ofNat_of_bits (bits_of_packed hp hf [_, _, _] _ rfl rfl)
    · exact ofNat_of_bits (bits_of_packed hp hf [_, _] _ rfl rfl)

/-- A format C instruction. -/
theorem decode_c {opc : Nat} {c : CForm} {i : Instr} (h : opc < 2 ^ 6) (hi : cInstr opc c = some i) (hw : cOk opc c = true) (rest : List Byte) :
    decode (parcelBytes [cParcel opc c] ++ rest) = .ok (i, rest) := by
  obtain ⟨h1, h2, h3, h4⟩ := c_fields h c
  refine decode_parcels (n := 1) rfl (by simpa using h1) rfl ?_ (by decide) rest ?_
  · exact parcelCount_of h2
  · intro r
    simp [decodeParcels, h2, h3, h4, hi, hw]

def iPack (opi : Nat) (i : IForm) : List (Nat × Nat) := [(2, 1), (6, opi), (7, i.vd.toNat), (7, i.va.toNat), (1, bool1 i.lua), (9, i.imm.toNat)]

theorem iPack_fits {opi : Nat} (h : opi < 2 ^ 6) (i : IForm) : Fits (iPack opi i) :=
  fits_cons (by decide) (fits_cons h (fits_cons i.vd.isLt (fits_cons i.va.isLt (fits_cons (bool1_lt _) (fits_cons i.imm.isLt fits_nil)))))

theorem iParcel_packed (opi : Nat) (i : IForm) : iParcel opi i = packed (iPack opi i) := by
  simp [iParcel, iPack, packed]

theorem i_fields {opi : Nat} (h : opi < 2 ^ 6) (i : IForm) :
    iParcel opi i < 2 ^ 32 ∧ iParcel opi i % 4 = 1 ∧ bitsAt (iParcel opi i) 2 6 = opi ∧ iFields (iParcel opi i) = i := by
  have hf := iPack_fits h i
  have hp := iParcel_packed opi i
  refine ⟨lt_of_packed hp hf rfl, packed_mod hp hf, bits_of_packed hp hf [_] _ rfl rfl, ?_⟩
  · obtain ⟨imm, lua, va, vd⟩ := i
    unfold iFields
    congr 1
    · exact ofNat_of_bits (bits_of_packed hp hf [_, _, _, _, _] _ rfl rfl)
    · exact bitAt_of_bits (bits_of_packed hp hf [_, _, _, _] _ rfl rfl)
    · exact ofNat_of_bits (bits_of_packed hp hf [_, _, _] _ rfl rfl)
    · exact ofNat_of_bits (bits_of_packed hp hf [_, _] _ rfl rfl)

/-- A format I instruction. -/
theorem decode_i {opi : Nat} {f : IForm} {i : Instr} (h : opi < 2 ^ 6) (hi : iInstr opi f = some i) (hw : iOk opi f = true) (rest : List Byte) :
    decode (parcelBytes [iParcel opi f] ++ rest) = .ok (i, rest) := by
  obtain ⟨h1, h2, h3, h4⟩ := i_fields h f
  refine decode_parcels (n := 1) rfl (by simpa using h1) rfl ?_ (by decide) rest ?_
  · exact parcelCount_of h2
  · intro r
    simp [decodeParcels, h2, h3, h4, hi, hw]

/-! ### Formats F and X -/

def fxPack (low op8 : Nat) (f : Fx) : List (Nat × Nat) :=
  [(3, low), (8, op8), (4, f.ty.code), (8, f.d.code), (8, f.a.code), (8, f.b.code), (8, f.c.code), (1, bool1 f.lua), (1, bool1 f.lub), (1, bool1 f.luc),
    (3, f.guard.toNat), (1, bool1 f.gneg), (1, bool1 f.fen), (1, bool1 f.fsel), (1, bool1 f.reuse), (7, f.md.toNat)]

theorem fxPack_fits {low op8 : Nat} (hl : low < 2 ^ 3) (h : op8 < 2 ^ 8) (f : Fx) : Fits (fxPack low op8 f) :=
  fits_cons hl (fits_cons h (fits_cons (ty_code_lt _) (fits_cons (opnd_code_lt _) (fits_cons (opnd_code_lt _) (fits_cons (opnd_code_lt _)
    (fits_cons (opnd_code_lt _) (fits_cons (bool1_lt _) (fits_cons (bool1_lt _) (fits_cons (bool1_lt _) (fits_cons f.guard.isLt (fits_cons (bool1_lt _)
    (fits_cons (bool1_lt _) (fits_cons (bool1_lt _) (fits_cons (bool1_lt _) (fits_cons f.md.isLt fits_nil)))))))))))))))

theorem encodeFx_packed (low op8 : Nat) (f : Fx) : encodeFx low op8 f = packed (fxPack low op8 f) := by
  unfold encodeFx fxPack
  simp only [packed, Nat.pow_one, Nat.mul_zero, Nat.add_zero]

/-- The fields of a packed F or X instruction. -/
theorem fx_operandBits {w low op8 : Nat} {f : Fx} (hp : w = packed (fxPack low op8 f)) (hf : Fits (fxPack low op8 f)) :
    bitsAt w 11 4 = f.ty.code ∧ bitsAt w 15 8 = f.d.code ∧ bitsAt w 23 8 = f.a.code ∧ bitsAt w 31 8 = f.b.code ∧ bitsAt w 39 8 = f.c.code :=
  ⟨bits_of_packed hp hf [_, _] _ rfl rfl, bits_of_packed hp hf [_, _, _] _ rfl rfl, bits_of_packed hp hf [_, _, _, _] _ rfl rfl,
    bits_of_packed hp hf [_, _, _, _, _] _ rfl rfl, bits_of_packed hp hf [_, _, _, _, _, _] _ rfl rfl⟩

theorem fx_luBits {w low op8 : Nat} {f : Fx} (hp : w = packed (fxPack low op8 f)) (hf : Fits (fxPack low op8 f)) :
    bitAt w 47 = f.lua ∧ bitAt w 48 = f.lub ∧ bitAt w 49 = f.luc ∧ BitVec.ofNat 3 (bitsAt w 50 3) = f.guard ∧ bitAt w 53 = f.gneg :=
  ⟨bitAt_of_bits (bits_of_packed hp hf [_, _, _, _, _, _, _] _ rfl rfl), bitAt_of_bits (bits_of_packed hp hf [_, _, _, _, _, _, _, _] _ rfl rfl),
    bitAt_of_bits (bits_of_packed hp hf [_, _, _, _, _, _, _, _, _] _ rfl rfl), ofNat_of_bits (bits_of_packed hp hf [_, _, _, _, _, _, _, _, _, _] _ rfl rfl),
    bitAt_of_bits (bits_of_packed hp hf [_, _, _, _, _, _, _, _, _, _, _] _ rfl rfl)⟩

theorem fx_flagBits {w low op8 : Nat} {f : Fx} (hp : w = packed (fxPack low op8 f)) (hf : Fits (fxPack low op8 f)) :
    bitAt w 54 = f.fen ∧ bitAt w 55 = f.fsel ∧ bitAt w 56 = f.reuse ∧ BitVec.ofNat 7 (bitsAt w 57 7) = f.md :=
  ⟨bitAt_of_bits (bits_of_packed hp hf [_, _, _, _, _, _, _, _, _, _, _, _] _ rfl rfl), bitAt_of_bits (bits_of_packed hp hf [_, _, _, _, _, _, _, _, _, _, _, _, _] _ rfl rfl),
    bitAt_of_bits (bits_of_packed hp hf [_, _, _, _, _, _, _, _, _, _, _, _, _, _] _ rfl rfl),
    ofNat_of_bits (bits_of_packed hp hf [_, _, _, _, _, _, _, _, _, _, _, _, _, _, _] _ rfl rfl)⟩

theorem fxPack_width (low op8 : Nat) (f : Fx) : widthOf (fxPack low op8 f) = 64 := by
  simp only [widthOf, fxPack, List.map_cons, List.map_nil, List.sum_cons, List.sum_nil, Nat.reduceAdd]

theorem encodeFx_lt {low op8 : Nat} (hl : low < 2 ^ 3) (h : op8 < 2 ^ 8) (f : Fx) : encodeFx low op8 f < 2 ^ 64 := by
  have := packed_lt (fxPack_fits hl h f)
  rwa [fxPack_width, ← encodeFx_packed] at this

theorem fx_fields {low op8 : Nat} (hl : low < 2 ^ 3) (h : op8 < 2 ^ 8) (f : Fx) (hd : ∀ c, f.d ≠ .reserved c) (ha : ∀ c, f.a ≠ .reserved c)
    (hb : ∀ c, f.b ≠ .reserved c) (hc : ∀ c, f.c ≠ .reserved c) :
    encodeFx low op8 f < 2 ^ 64 ∧ encodeFx low op8 f % 8 = low ∧ bitsAt (encodeFx low op8 f) 3 8 = op8 ∧ fxFields (encodeFx low op8 f) f.ext = f := by
  have hf := fxPack_fits hl h f
  have hp := encodeFx_packed low op8 f
  obtain ⟨a1, a2, a3, a4, a5⟩ := fx_operandBits hp hf
  obtain ⟨b1, b2, b3, b4, b5⟩ := fx_luBits hp hf
  obtain ⟨c1, c2, c3, c4⟩ := fx_flagBits hp hf
  refine ⟨encodeFx_lt hl h f, packed_mod (n := 3) hp hf, bits_of_packed hp hf [_] _ rfl rfl, ?_⟩
  unfold fxFields
  rw [a1, a2, a3, a4, a5, b1, b2, b3, b4, b5, c1, c2, c3, c4, ty_ofCode_code, opnd_ofCode_code _ hd, opnd_ofCode_code _ ha, opnd_ofCode_code _ hb,
    opnd_ofCode_code _ hc]

/-- The operands of legal fields are no reserved codes. -/
theorem fxOk_operands {op8 : Nat} {f : Fx} (h : fxOk op8 f = true) :
    (∀ c, f.d ≠ .reserved c) ∧ (∀ c, f.a ≠ .reserved c) ∧ (∀ c, f.b ≠ .reserved c) ∧ (∀ c, f.c ≠ .reserved c) := by
  unfold fxOk at h
  split at h
  · rename_i e _
    have ho : okOpnd op8 e f = true := by
      have h0 : fxBreach op8 e f = 0 := by simpa using h
      unfold fxBreach at h0
      cases hr : okResv e f
      · simp [hr, subResv] at h0
      · cases ho : okOpnd op8 e f
        · simp [hr, ho, subOpnd] at h0
        · rfl
    unfold okOpnd at ho
    simp only [Bool.and_eq_true] at ho
    obtain ⟨⟨⟨⟨⟨⟨⟨hd, ha⟩, hc⟩, hb⟩, _⟩, _⟩, _⟩, _⟩ := ho
    refine ⟨okAs_notReserved hd, okAs_notReserved ha, ?_, okAs_notReserved hc⟩
    split at hb
    · exact okAs_notReserved hb
    · intro c hc
      simp [hc] at hb
  · simp at h

theorem decodeFx_ok {low op8 : Nat} {f : Fx} {i : Instr} (hl : low < 2 ^ 3) (h : op8 < 2 ^ 8) (hw : fxOk op8 f = true) (hi : fxInstr op8 f = some i) (all : Nat) :
    decodeFx (encodeFx low op8 f) all f.ext = i := by
  obtain ⟨hd, ha, hb, hc⟩ := fxOk_operands hw
  obtain ⟨_, _, h3, h4⟩ := fx_fields hl h f hd ha hb hc
  unfold decodeFx
  rw [h3, h4]
  unfold fxOk at hw
  split at hw
  · rename_i e he
    have : fxBreach op8 e f = 0 := by simpa using hw
    simp [he, this, hi]
  · simp at hw

theorem split64 (w : Nat) : w % 2 ^ 32 + 2 ^ 32 * (w / 2 ^ 32) = w := Nat.mod_add_div w (2 ^ 32)

/-- Source modifiers and the extended modifier in parcel 2. -/
theorem ext_sm (x : BitVec 8) (b a : BitVec 12) :
    a.toNat + 2 ^ 12 * (b.toNat + 2 ^ 12 * x.toNat) < 2 ^ 32 ∧ extOf false (a.toNat + 2 ^ 12 * (b.toNat + 2 ^ 12 * x.toNat)) = .sm x b a := by
  have hf : Fits [(12, a.toNat), (12, b.toNat), (8, x.toNat)] := fits_cons a.isLt (fits_cons b.isLt (fits_cons x.isLt fits_nil))
  have hp : a.toNat + 2 ^ 12 * (b.toNat + 2 ^ 12 * x.toNat) = packed [(12, a.toNat), (12, b.toNat), (8, x.toNat)] := by simp [packed]
  refine ⟨lt_of_packed hp hf rfl, ?_⟩
  unfold extOf
  have h1 := ofNat_of_bits (x := x) (lo := 24) (bits_of_packed hp hf [_, _] _ rfl rfl)
  have h2 := ofNat_of_bits (x := b) (lo := 12) (bits_of_packed hp hf [_] _ rfl rfl)
  have h3 := ofNat_of_bits (x := a) (lo := 0) (bits_of_packed hp hf [] _ rfl rfl)
  rw [if_neg (by decide), h1, h2, h3]

/-- A format F or X instruction. -/
theorem decode_fx {op8 : Nat} {f : Fx} {i : Instr} (h : op8 < 2 ^ 8) (h0 : op8 ≠ 0) (hw : fxOk op8 f = true) (hi : fxInstr op8 f = some i) (rest : List Byte) :
    decode (parcelBytes (fxParcels op8 f) ++ rest) = .ok (i, rest) := by
  obtain ⟨hd, ha, hb, hc⟩ := fxOk_operands hw
  unfold fxParcels
  split
  · rename_i he
    obtain ⟨h1, h2, h3, _⟩ := fx_fields (low := 2) (by decide) h f hd ha hb hc
    have hk := decodeFx_ok (low := 2) (by decide) h hw hi (encodeFx 2 op8 f)
    rw [he] at hk
    have h4 : encodeFx 2 op8 f % 2 ^ 32 % 4 = 2 := by omega
    have h5 : bitAt (encodeFx 2 op8 f % 2 ^ 32) 2 = false := by
      have : encodeFx 2 op8 f % 2 ^ 32 / 2 ^ 2 % 2 = 0 := by omega
      simp only [bitAt, this]
      rfl
    refine decode_parcels (n := 2) rfl (by intro p hp; simp only [List.mem_cons, List.not_mem_nil, or_false] at hp; omega) rfl (parcelCount_of h4) (by decide) rest ?_
    intro r
    unfold decodeParcels
    simp only [h4, h5, List.cons_append, List.headD_cons, split64, h3, hk]
    simp [h0]
  · rename_i v he
    obtain ⟨h1, h2, h3, _⟩ := fx_fields (low := 7) (by decide) h f hd ha hb hc
    have hk := decodeFx_ok (low := 7) (by decide) h hw hi (encodeFx 7 op8 f + 2 ^ 64 * v.toNat)
    rw [he] at hk
    have h4 : encodeFx 7 op8 f % 2 ^ 32 % 4 = 3 := by omega
    have h5 : bitAt (encodeFx 7 op8 f % 2 ^ 32) 2 = true := by
      have : encodeFx 7 op8 f % 2 ^ 32 / 2 ^ 2 % 2 = 1 := by omega
      simp only [bitAt, this]
      rfl
    have hv := v.isLt
    refine decode_parcels (n := 3) rfl (by intro p hp; simp only [List.mem_cons, List.not_mem_nil, or_false] at hp; omega) rfl (parcelCount_of h4) (by decide) rest ?_
    intro r
    unfold decodeParcels
    simp only [h4, h5, List.cons_append, List.headD_cons, List.drop_succ_cons, List.drop_zero, split64]
    simpa [extOf] using hk
  · rename_i x b a he
    obtain ⟨h1, h2, h3, _⟩ := fx_fields (low := 3) (by decide) h f hd ha hb hc
    have hk := decodeFx_ok (low := 3) (by decide) h hw hi (encodeFx 3 op8 f + 2 ^ 64 * (a.toNat + 2 ^ 12 * (b.toNat + 2 ^ 12 * x.toNat)))
    rw [he, ← (ext_sm x b a).2] at hk
    have h4 : encodeFx 3 op8 f % 2 ^ 32 % 4 = 3 := by omega
    have h5 : bitAt (encodeFx 3 op8 f % 2 ^ 32) 2 = false := by
      have : encodeFx 3 op8 f % 2 ^ 32 / 2 ^ 2 % 2 = 0 := by omega
      simp only [bitAt, this]
      rfl
    have hv := (ext_sm x b a).1
    refine decode_parcels (n := 3) rfl (by intro p hp; simp only [List.mem_cons, List.not_mem_nil, or_false] at hp; omega) rfl (parcelCount_of h4) (by decide) rest ?_
    intro r
    unfold decodeParcels
    simp only [h4, h5, List.cons_append, List.headD_cons, List.drop_succ_cons, List.drop_zero, split64]
    simpa using hk

/-! ### Pairs and headers -/

def halfPack (opp : Nat) (h : PHalf) : List (Nat × Nat) := [(6, opp), (7, h.vd.toNat), (7, h.vs.toNat), (1, bool1 h.lus), (3, h.guard.toNat), (1, bool1 h.gneg)]

theorem halfPack_fits {opp : Nat} (h : opp < 2 ^ 6) (x : PHalf) : Fits (halfPack opp x) :=
  fits_cons h (fits_cons x.vd.isLt (fits_cons x.vs.isLt (fits_cons (bool1_lt _) (fits_cons x.guard.isLt (fits_cons (bool1_lt _) fits_nil)))))

theorem half_fields {opp : Nat} (h : opp < 2 ^ 6) (x : PHalf) : halfBits opp x < 2 ^ 25 ∧ halfBits opp x % 64 = opp ∧ pFields (halfBits opp x) = x := by
  have hf := halfPack_fits h x
  have hp : halfBits opp x = packed (halfPack opp x) := by simp [halfBits, halfPack, packed]
  refine ⟨lt_of_packed hp hf rfl, packed_mod hp hf, ?_⟩
  · obtain ⟨gneg, guard, lus, vs, vd⟩ := x
    unfold pFields
    congr 1
    · exact bitAt_of_bits (bits_of_packed hp hf [_, _, _, _, _] _ rfl rfl)
    · exact ofNat_of_bits (bits_of_packed hp hf [_, _, _, _] _ rfl rfl)
    · exact bitAt_of_bits (bits_of_packed hp hf [_, _, _] _ rfl rfl)
    · exact ofNat_of_bits (bits_of_packed hp hf [_, _] _ rfl rfl)
    · exact ofNat_of_bits (bits_of_packed hp hf [_] _ rfl rfl)

/-- A pair. -/
theorem decode_pair {opp : Nat} {h0 h1 : PHalf} {o0 o1 : PairOp} {i : Instr} (h : opp < 2 ^ 6) (ho : PairOp.ofCode opp = some o0)
    (hi : pInstr opp h0 o1 h1 = some i) (hw : pairOk h0 h1 = true) (rest : List Byte) : decode (parcelBytes (pairParcels opp h0 o1 h1) ++ rest) = .ok (i, rest) := by
  obtain ⟨a1, a2, a3⟩ := half_fields h h0
  obtain ⟨b1, b2, b3⟩ := half_fields (pairOp_code_lt o1) h1
  unfold pairParcels
  generalize halfBits opp h0 = x at *
  generalize halfBits o1.code h1 = y at *
  have hx : bitsAt (6 + 2 ^ 3 * (x + 2 ^ 30 * y)) 3 30 = x := by unfold bitsAt; omega
  have hy : bitsAt (6 + 2 ^ 3 * (x + 2 ^ 30 * y)) 33 30 = y := by unfold bitsAt; omega
  have h63 : bitAt (6 + 2 ^ 3 * (x + 2 ^ 30 * y)) 63 = false := by
    have : (6 + 2 ^ 3 * (x + 2 ^ 30 * y)) / 2 ^ 63 % 2 = 0 := by omega
    simp only [bitAt, this]
    rfl
  have h4 : (6 + 2 ^ 3 * (x + 2 ^ 30 * y)) % 2 ^ 32 % 4 = 2 := by omega
  have h5 : bitAt ((6 + 2 ^ 3 * (x + 2 ^ 30 * y)) % 2 ^ 32) 2 = true := by
    have : (6 + 2 ^ 3 * (x + 2 ^ 30 * y)) % 2 ^ 32 / 2 ^ 2 % 2 = 1 := by omega
    simp only [bitAt, this]
    rfl
  have hd : decodePair (6 + 2 ^ 3 * (x + 2 ^ 30 * y)) = i := by
    unfold decodePair
    simp only [hx, hy, h63, a2, b2, a3, b3, ho, pairOp_ofCode_code, hi, hw, Nat.div_eq_of_lt a1, Nat.div_eq_of_lt b1]
    rfl
  refine decode_parcels (n := 2) rfl (by intro p hp; simp only [List.mem_cons, List.not_mem_nil, or_false] at hp; omega) rfl (parcelCount_of h4) (by decide) rest ?_
  intro r
  unfold decodeParcels
  simp only [h4, h5, List.cons_append, List.headD_cons, split64, hd]
  rfl

def headerPack (h : Header) : List (Nat × Nat) :=
  [(15, 2), (12, h.wait.toNat), (4, h.flagA.toNat), (1, bool1 h.av), (4, h.flagB.toNat), (1, bool1 h.bv), (8, h.pri.toNat), (5, h.len.toNat)]

theorem headerPack_fits (h : Header) : Fits (headerPack h) :=
  fits_cons (by decide) (fits_cons h.wait.isLt (fits_cons h.flagA.isLt (fits_cons (bool1_lt _) (fits_cons h.flagB.isLt (fits_cons (bool1_lt _)
    (fits_cons h.pri.isLt (fits_cons h.len.isLt fits_nil)))))))

/-- A clause header. -/
theorem decode_header {h : Header} (hw : headerOk h = true) (rest : List Byte) : decode (parcelBytes (headerParcels h) ++ rest) = .ok (.clause h, rest) := by
  have hf := headerPack_fits h
  have he : 2 + 2 ^ 15 * (h.wait.toNat + 2 ^ 12 * (h.flagA.toNat + 2 ^ 4 * (bool1 h.av + 2 * (h.flagB.toNat + 2 ^ 4 *
      (bool1 h.bv + 2 * (h.pri.toNat + 2 ^ 8 * h.len.toNat)))))) = packed (headerPack h) := by simp [headerPack, packed]
  unfold headerParcels
  obtain ⟨w, hp⟩ : ∃ w, w = packed (headerPack h) := ⟨_, rfl⟩
  rw [he, ← hp]
  have h1 : w < 2 ^ 50 := lt_of_packed hp hf rfl
  have h2 : w % 2 ^ 15 = 2 := packed_mod hp hf
  have hd : headerFields w = h := by
    obtain ⟨len, pri, bv, flagB, av, flagA, wait⟩ := h
    unfold headerFields
    congr 1
    · exact ofNat_of_bits (bits_of_packed hp hf [_, _, _, _, _, _, _] _ rfl rfl)
    · exact ofNat_of_bits (bits_of_packed hp hf [_, _, _, _, _, _] _ rfl rfl)
    · exact bitAt_of_bits (bits_of_packed hp hf [_, _, _, _, _] _ rfl rfl)
    · exact ofNat_of_bits (bits_of_packed hp hf [_, _, _, _] _ rfl rfl)
    · exact bitAt_of_bits (bits_of_packed hp hf [_, _, _] _ rfl rfl)
    · exact ofNat_of_bits (bits_of_packed hp hf [_, _] _ rfl rfl)
    · exact ofNat_of_bits (bits_of_packed hp hf [_] _ rfl rfl)
  have h4 : w % 2 ^ 32 % 4 = 2 := by omega
  have h5 : bitAt (w % 2 ^ 32) 2 = false := by
    have : w % 2 ^ 32 / 2 ^ 2 % 2 = 0 := by omega
    simp only [bitAt, this]
    rfl
  have h6 : bitsAt w 3 8 = 0 := by unfold bitsAt; omega
  have h7 : w / 2 ^ 50 % 2 ^ 14 = 0 := by omega
  refine decode_parcels (n := 2) rfl (by intro p hp; simp only [List.mem_cons, List.not_mem_nil, or_false] at hp; omega) rfl (parcelCount_of h4) (by decide) rest ?_
  intro r
  unfold decodeParcels
  simp only [h4, h5, List.cons_append, List.headD_cons, split64, h6]
  show (decodeHeader w) = _
  unfold decodeHeader
  simp only [h2, h7, hd, hw]
  rfl

end Sys2Proof
end

