-- ==== Sys2Proof/Laws/PerInstr.lean ====
section
/-! SUPPORT. The round trip of the encoding, one lemma for each constructor of the instruction type. -/

namespace Sys2Proof.Laws.DecodeEncode

/-- A well-formed instruction that has words decodes to itself, whatever bytes follow it: no bit of its encoding is dropped. -/
def Statement (i : Instr) : Prop :=
  i.wf = true → i.hasWords = true → ∀ rest : List Byte, decode (parcelBytes (encode i) ++ rest) = .ok (i, rest)

/-! ### Once for each format -/

theorem of_event {i : Instr} (h : encode i = []) : Statement i := by
  intro _ hw
  simp [Instr.hasWords, h] at hw

theorem of_fx {i : Instr} {op8 : Nat} {f : Fx} (he : encode i = fxParcels op8 f) (hw : i.wf = (fxOk op8 f && decide (fxInstr op8 f = some i)))
    (h : op8 < 2 ^ 8) (h0 : op8 ≠ 0) : Statement i := by
  intro hwf _ rest
  rw [hw, Bool.and_eq_true, decide_eq_true_eq] at hwf
  rw [he]
  exact decode_fx h h0 hwf.1 hwf.2 rest

theorem of_c {i : Instr} {opc : Nat} {c : CForm} (he : encode i = [cParcel opc c]) (hw : i.wf = cOk opc c) (hi : cInstr opc c = some i) (h : opc < 2 ^ 6) :
    Statement i := by
  intro hwf _ rest
  rw [he]
  exact decode_c h hi (hw ▸ hwf) rest

theorem of_i {i : Instr} {opi : Nat} {j : IForm} (he : encode i = [iParcel opi j]) (hw : i.wf = iOk opi j) (hi : iInstr opi j = some i) (h : opi < 2 ^ 6) :
    Statement i := by
  intro hwf _ rest
  rw [he]
  exact decode_i h hi (hw ▸ hwf) rest

theorem of_p {i : Instr} {opp : Nat} {h0 h1 : PHalf} {o0 o1 : PairOp} (he : encode i = pairParcels opp h0 o1 h1) (hw : i.wf = pairOk h0 h1)
    (hi : pInstr opp h0 o1 h1 = some i) (ho : PairOp.ofCode opp = some o0) (h : opp < 2 ^ 6) : Statement i := by
  intro hwf _ rest
  rw [he]
  exact decode_pair h ho hi (hw ▸ hwf) rest

theorem of_illegal (r : Illegal) : Statement (.reservedOpcode r) := by
  intro hwf _ rest
  have hw : decodeParcels (r.parcels.toNat % 2 ^ 32) (r.parcels.toNat / 2 ^ 32 % 2 ^ 32) (r.parcels.toNat / 2 ^ 64) =
      (.reservedOpcode r, parcelCount (r.parcels.toNat % 2 ^ 32)) ∧ r.parcels.toNat / 2 ^ (32 * parcelCount (r.parcels.toNat % 2 ^ 32)) = 0 := by
    simpa [Instr.wf] using hwf
  have he : encode (.reservedOpcode r) = illegalParcels r := rfl
  rw [he]
  unfold illegalParcels
  have hlt := r.parcels.isLt
  generalize r.parcels.toNat = w at *
  obtain ⟨hd, hz⟩ := hw
  have hl : ∀ p ∈ [w % 2 ^ 32, w / 2 ^ 32 % 2 ^ 32, w / 2 ^ 64], p < 2 ^ 32 := by
    intro p hp
    simp only [List.mem_cons, List.not_mem_nil, or_false] at hp
    omega
  rcases (by omega : w % 2 ^ 32 % 4 = 0 ∨ w % 2 ^ 32 % 4 = 1 ∨ w % 2 ^ 32 % 4 = 2 ∨ w % 2 ^ 32 % 4 = 3) with h | h | h | h
  · rw [parcelCount_of h] at hd hz ⊢
    refine decode_parcels (n := 1) rfl (fun p hp => hl p (List.mem_of_mem_take (i := 1) hp)) rfl (parcelCount_of h) (by decide) rest ?_
    intro t
    have h0 : (decodeParcels (w % 2 ^ 32) (w / 2 ^ 32 % 2 ^ 32) (w / 2 ^ 64)).1 = .reservedOpcode r := by rw [hd]
    rw [← h0]
    unfold decodeParcels
    rw [h]
    rfl
  · rw [parcelCount_of h] at hd hz ⊢
    refine decode_parcels (n := 1) rfl (fun p hp => hl p (List.mem_of_mem_take (i := 1) hp)) rfl (parcelCount_of h) (by decide) rest ?_
    intro t
    have h0 : (decodeParcels (w % 2 ^ 32) (w / 2 ^ 32 % 2 ^ 32) (w / 2 ^ 64)).1 = .reservedOpcode r := by rw [hd]
    rw [← h0]
    unfold decodeParcels
    rw [h]
    rfl
  · rw [parcelCount_of h] at hd hz ⊢
    refine decode_parcels (n := 2) rfl (fun p hp => hl p (List.mem_of_mem_take (i := 2) hp)) rfl (parcelCount_of h) (by decide) rest ?_
    intro t
    have h0 : (decodeParcels (w % 2 ^ 32) (w / 2 ^ 32 % 2 ^ 32) (w / 2 ^ 64)).1 = .reservedOpcode r := by rw [hd]
    rw [← h0]
    unfold decodeParcels
    rw [h]
    rfl
  · rw [parcelCount_of h] at hd hz ⊢
    refine decode_parcels (n := 3) rfl (fun p hp => hl p (List.mem_of_mem_take (i := 3) hp)) rfl (parcelCount_of h) (by decide) rest ?_
    intro t
    have h0 : (decodeParcels (w % 2 ^ 32) (w / 2 ^ 32 % 2 ^ 32) (w / 2 ^ 64)).1 = .reservedOpcode r := by rw [hd]
    exact h0

/-! ### One lemma for each constructor -/

theorem reservedOpcode (r : Illegal) : Statement (.reservedOpcode r) := of_illegal r
theorem clause (h : Header) : Statement (.clause h) := fun hw _ rest => decode_header hw rest
theorem nop (f : Fx) : Statement (.nop f) := of_fx rfl rfl (by decide) (by decide)
theorem bra (f : Fx) : Statement (.bra f) := of_fx rfl rfl (by decide) (by decide)
theorem brx (f : Fx) : Statement (.brx f) := of_fx rfl rfl (by decide) (by decide)
theorem call (f : Fx) : Statement (.call f) := of_fx rfl rfl (by decide) (by decide)
theorem callx (f : Fx) : Statement (.callx f) := of_fx rfl rfl (by decide) (by decide)
theorem ret (f : Fx) : Statement (.ret f) := of_fx rfl rfl (by decide) (by decide)
theorem join (f : Fx) : Statement (.join f) := of_fx rfl rfl (by decide) (by decide)
theorem exit (f : Fx) : Statement (.exit f) := of_fx rfl rfl (by decide) (by decide)
theorem yield (f : Fx) : Statement (.yield f) := of_fx rfl rfl (by decide) (by decide)
theorem waitf (f : Fx) : Statement (.waitf f) := of_fx rfl rfl (by decide) (by decide)
theorem barSync (f : Fx) : Statement (.barSync f) := of_fx rfl rfl (by decide) (by decide)
theorem barArv (f : Fx) : Statement (.barArv f) := of_fx rfl rfl (by decide) (by decide)
theorem barWait (f : Fx) : Statement (.barWait f) := of_fx rfl rfl (by decide) (by decide)
theorem cbar (f : Fx) : Statement (.cbar f) := of_fx rfl rfl (by decide) (by decide)
theorem voteAny (f : Fx) : Statement (.voteAny f) := of_fx rfl rfl (by decide) (by decide)
theorem voteAll (f : Fx) : Statement (.voteAll f) := of_fx rfl rfl (by decide) (by decide)
theorem voteBal (f : Fx) : Statement (.voteBal f) := of_fx rfl rfl (by decide) (by decide)
theorem plop (f : Fx) : Statement (.plop f) := of_fx rfl rfl (by decide) (by decide)
theorem pmov (f : Fx) : Statement (.pmov f) := of_fx rfl rfl (by decide) (by decide)
theorem launch (f : Fx) : Statement (.launch f) := of_fx rfl rfl (by decide) (by decide)
theorem trap (f : Fx) : Statement (.trap f) := of_fx rfl rfl (by decide) (by decide)
theorem bkpt (f : Fx) : Statement (.bkpt f) := of_fx rfl rfl (by decide) (by decide)
theorem iadd (f : Fx) : Statement (.iadd f) := of_fx rfl rfl (by decide) (by decide)
theorem isub (f : Fx) : Statement (.isub f) := of_fx rfl rfl (by decide) (by decide)
theorem iaddc (f : Fx) : Statement (.iaddc f) := of_fx rfl rfl (by decide) (by decide)
theorem imul (f : Fx) : Statement (.imul f) := of_fx rfl rfl (by decide) (by decide)
theorem imulh (f : Fx) : Statement (.imulh f) := of_fx rfl rfl (by decide) (by decide)
theorem imad (f : Fx) : Statement (.imad f) := of_fx rfl rfl (by decide) (by decide)
theorem imadw (f : Fx) : Statement (.imadw f) := of_fx rfl rfl (by decide) (by decide)
theorem idiv (f : Fx) : Statement (.idiv f) := of_fx rfl rfl (by decide) (by decide)
theorem irem (f : Fx) : Statement (.irem f) := of_fx rfl rfl (by decide) (by decide)
theorem imin (f : Fx) : Statement (.imin f) := of_fx rfl rfl (by decide) (by decide)
theorem imax (f : Fx) : Statement (.imax f) := of_fx rfl rfl (by decide) (by decide)
theorem iabs (f : Fx) : Statement (.iabs f) := of_fx rfl rfl (by decide) (by decide)
theorem ineg (f : Fx) : Statement (.ineg f) := of_fx rfl rfl (by decide) (by decide)
theorem isad (f : Fx) : Statement (.isad f) := of_fx rfl rfl (by decide) (by decide)
theorem icmp (f : Fx) : Statement (.icmp f) := of_fx rfl rfl (by decide) (by decide)
theorem ipick (f : Fx) : Statement (.ipick f) := of_fx rfl rfl (by decide) (by decide)
theorem shl (f : Fx) : Statement (.shl f) := of_fx rfl rfl (by decide) (by decide)
theorem shr (f : Fx) : Statement (.shr f) := of_fx rfl rfl (by decide) (by decide)
theorem sar (f : Fx) : Statement (.sar f) := of_fx rfl rfl (by decide) (by decide)
theorem rot (f : Fx) : Statement (.rot f) := of_fx rfl rfl (by decide) (by decide)
theorem fshf (f : Fx) : Statement (.fshf f) := of_fx rfl rfl (by decide) (by decide)
theorem andBits (f : Fx) : Statement (.andBits f) := of_fx rfl rfl (by decide) (by decide)
theorem orBits (f : Fx) : Statement (.orBits f) := of_fx rfl rfl (by decide) (by decide)
theorem xorBits (f : Fx) : Statement (.xorBits f) := of_fx rfl rfl (by decide) (by decide)
theorem notBits (f : Fx) : Statement (.notBits f) := of_fx rfl rfl (by decide) (by decide)
theorem blut (f : Fx) : Statement (.blut f) := of_fx rfl rfl (by decide) (by decide)
theorem popc (f : Fx) : Statement (.popc f) := of_fx rfl rfl (by decide) (by decide)
theorem clz (f : Fx) : Statement (.clz f) := of_fx rfl rfl (by decide) (by decide)
theorem ctz (f : Fx) : Statement (.ctz f) := of_fx rfl rfl (by decide) (by decide)
theorem brev (f : Fx) : Statement (.brev f) := of_fx rfl rfl (by decide) (by decide)
theorem bfx (f : Fx) : Statement (.bfx f) := of_fx rfl rfl (by decide) (by decide)
theorem bfi (f : Fx) : Statement (.bfi f) := of_fx rfl rfl (by decide) (by decide)
theorem idot (f : Fx) : Statement (.idot f) := of_fx rfl rfl (by decide) (by decide)
theorem mov (f : Fx) : Statement (.mov f) := of_fx rfl rfl (by decide) (by decide)
theorem cvti (f : Fx) : Statement (.cvti f) := of_fx rfl rfl (by decide) (by decide)
theorem lea (f : Fx) : Statement (.lea f) := of_fx rfl rfl (by decide) (by decide)
theorem tags (f : Fx) : Statement (.tags f) := of_fx rfl rfl (by decide) (by decide)
theorem tagg (f : Fx) : Statement (.tagg f) := of_fx rfl rfl (by decide) (by decide)
theorem pack (f : Fx) : Statement (.pack f) := of_fx rfl rfl (by decide) (by decide)
theorem unpk (f : Fx) : Statement (.unpk f) := of_fx rfl rfl (by decide) (by decide)
theorem fadd (f : Fx) : Statement (.fadd f) := of_fx rfl rfl (by decide) (by decide)
theorem fsub (f : Fx) : Statement (.fsub f) := of_fx rfl rfl (by decide) (by decide)
theorem fmul (f : Fx) : Statement (.fmul f) := of_fx rfl rfl (by decide) (by decide)
theorem ffma (f : Fx) : Statement (.ffma f) := of_fx rfl rfl (by decide) (by decide)
theorem fmin (f : Fx) : Statement (.fmin f) := of_fx rfl rfl (by decide) (by decide)
theorem fmax (f : Fx) : Statement (.fmax f) := of_fx rfl rfl (by decide) (by decide)
theorem fsetp (f : Fx) : Statement (.fsetp f) := of_fx rfl rfl (by decide) (by decide)
theorem fcls (f : Fx) : Statement (.fcls f) := of_fx rfl rfl (by decide) (by decide)
theorem frnd (f : Fx) : Statement (.frnd f) := of_fx rfl rfl (by decide) (by decide)
theorem frcp (f : Fx) : Statement (.frcp f) := of_fx rfl rfl (by decide) (by decide)
theorem frsq (f : Fx) : Statement (.frsq f) := of_fx rfl rfl (by decide) (by decide)
theorem fsqrt (f : Fx) : Statement (.fsqrt f) := of_fx rfl rfl (by decide) (by decide)
theorem fdiv (f : Fx) : Statement (.fdiv f) := of_fx rfl rfl (by decide) (by decide)
theorem fex2 (f : Fx) : Statement (.fex2 f) := of_fx rfl rfl (by decide) (by decide)
theorem flg2 (f : Fx) : Statement (.flg2 f) := of_fx rfl rfl (by decide) (by decide)
theorem fsin (f : Fx) : Statement (.fsin f) := of_fx rfl rfl (by decide) (by decide)
theorem fcos (f : Fx) : Statement (.fcos f) := of_fx rfl rfl (by decide) (by decide)
theorem ftanh (f : Fx) : Statement (.ftanh f) := of_fx rfl rfl (by decide) (by decide)
theorem fsig (f : Fx) : Statement (.fsig f) := of_fx rfl rfl (by decide) (by decide)
theorem cvtf (f : Fx) : Statement (.cvtf f) := of_fx rfl rfl (by decide) (by decide)
theorem f2i (f : Fx) : Statement (.f2i f) := of_fx rfl rfl (by decide) (by decide)
theorem i2f (f : Fx) : Statement (.i2f f) := of_fx rfl rfl (by decide) (by decide)
theorem bxenc (f : Fx) : Statement (.bxenc f) := of_fx rfl rfl (by decide) (by decide)
theorem bxdec (f : Fx) : Statement (.bxdec f) := of_fx rfl rfl (by decide) (by decide)
theorem lxch (f : Fx) : Statement (.lxch f) := of_fx rfl rfl (by decide) (by decide)
theorem prm (f : Fx) : Statement (.prm f) := of_fx rfl rfl (by decide) (by decide)
theorem lbc (f : Fx) : Statement (.lbc f) := of_fx rfl rfl (by decide) (by decide)
theorem redc (f : Fx) : Statement (.redc f) := of_fx rfl rfl (by decide) (by decide)
theorem scan (f : Fx) : Statement (.scan f) := of_fx rfl rfl (by decide) (by decide)
theorem matchLanes (f : Fx) : Statement (.matchLanes f) := of_fx rfl rfl (by decide) (by decide)
theorem csamp (f : Fx) : Statement (.csamp f) := of_fx rfl rfl (by decide) (by decide)
theorem rng (f : Fx) : Statement (.rng f) := of_fx rfl rfl (by decide) (by decide)
theorem ld (f : Fx) : Statement (.ld f) := of_fx rfl rfl (by decide) (by decide)
theorem st (f : Fx) : Statement (.st f) := of_fx rfl rfl (by decide) (by decide)
theorem lds (f : Fx) : Statement (.lds f) := of_fx rfl rfl (by decide) (by decide)
theorem sts (f : Fx) : Statement (.sts f) := of_fx rfl rfl (by decide) (by decide)
theorem ldu (f : Fx) : Statement (.ldu f) := of_fx rfl rfl (by decide) (by decide)
theorem stu (f : Fx) : Statement (.stu f) := of_fx rfl rfl (by decide) (by decide)
theorem ldbxs (f : Fx) : Statement (.ldbxs f) := of_fx rfl rfl (by decide) (by decide)
theorem atom (f : Fx) : Statement (.atom f) := of_fx rfl rfl (by decide) (by decide)
theorem red (f : Fx) : Statement (.red f) := of_fx rfl rfl (by decide) (by decide)
theorem copy (f : Fx) : Statement (.copy f) := of_fx rfl rfl (by decide) (by decide)
theorem copyf (f : Fx) : Statement (.copyf f) := of_fx rfl rfl (by decide) (by decide)
theorem wptr (f : Fx) : Statement (.wptr f) := of_fx rfl rfl (by decide) (by decide)
theorem pushf (f : Fx) : Statement (.pushf f) := of_fx rfl rfl (by decide) (by decide)
theorem popf (f : Fx) : Statement (.popf f) := of_fx rfl rfl (by decide) (by decide)
theorem bankcfg (f : Fx) : Statement (.bankcfg f) := of_fx rfl rfl (by decide) (by decide)
theorem fenceAcq (f : Fx) : Statement (.fenceAcq f) := of_fx rfl rfl (by decide) (by decide)
theorem fenceRel (f : Fx) : Statement (.fenceRel f) := of_fx rfl rfl (by decide) (by decide)
theorem fenceAr (f : Fx) : Statement (.fenceAr f) := of_fx rfl rfl (by decide) (by decide)
theorem cwb (f : Fx) : Statement (.cwb f) := of_fx rfl rfl (by decide) (by decide)
theorem cinv (f : Fx) : Statement (.cinv f) := of_fx rfl rfl (by decide) (by decide)
theorem flush (f : Fx) : Statement (.flush f) := of_fx rfl rfl (by decide) (by decide)
theorem pref (f : Fx) : Statement (.pref f) := of_fx rfl rfl (by decide) (by decide)
theorem ldtag (f : Fx) : Statement (.ldtag f) := of_fx rfl rfl (by decide) (by decide)
theorem sttag (f : Fx) : Statement (.sttag f) := of_fx rfl rfl (by decide) (by decide)
theorem watch (f : Fx) : Statement (.watch f) := of_fx rfl rfl (by decide) (by decide)
theorem oprf (f : Fx) : Statement (.oprf f) := of_fx rfl rfl (by decide) (by decide)
theorem mma (f : Fx) : Statement (.mma f) := of_fx rfl rfl (by decide) (by decide)
theorem mmaw (f : Fx) : Statement (.mmaw f) := of_fx rfl rfl (by decide) (by decide)
theorem mopen (f : Fx) : Statement (.mopen f) := of_fx rfl rfl (by decide) (by decide)
theorem mstg (f : Fx) : Statement (.mstg f) := of_fx rfl rfl (by decide) (by decide)
theorem mclose (f : Fx) : Statement (.mclose f) := of_fx rfl rfl (by decide) (by decide)
theorem mabort (f : Fx) : Statement (.mabort f) := of_fx rfl rfl (by decide) (by decide)
theorem mstat (f : Fx) : Statement (.mstat f) := of_fx rfl rfl (by decide) (by decide)
theorem rld (f : Fx) : Statement (.rld f) := of_fx rfl rfl (by decide) (by decide)
theorem rst (f : Fx) : Statement (.rst f) := of_fx rfl rfl (by decide) (by decide)
theorem ratom (f : Fx) : Statement (.ratom f) := of_fx rfl rfl (by decide) (by decide)
theorem puts (f : Fx) : Statement (.puts f) := of_fx rfl rfl (by decide) (by decide)
theorem getf (f : Fx) : Statement (.getf f) := of_fx rfl rfl (by decide) (by decide)
theorem fstatc (f : Fx) : Statement (.fstatc f) := of_fx rfl rfl (by decide) (by decide)
theorem vcost (f : Fx) : Statement (.vcost f) := of_fx rfl rfl (by decide) (by decide)
theorem vchk (f : Fx) : Statement (.vchk f) := of_fx rfl rfl (by decide) (by decide)
theorem vckpt (f : Fx) : Statement (.vckpt f) := of_fx rfl rfl (by decide) (by decide)
theorem vckptPoll (f : Fx) : Statement (.vckptPoll f) := of_fx rfl rfl (by decide) (by decide)
theorem getsr (f : Fx) : Statement (.getsr f) := of_fx rfl rfl (by decide) (by decide)
theorem setsr (f : Fx) : Statement (.setsr f) := of_fx rfl rfl (by decide) (by decide)
theorem icinv (f : Fx) : Statement (.icinv f) := of_fx rfl rfl (by decide) (by decide)
theorem sysc (f : Fx) : Statement (.sysc f) := of_fx rfl rfl (by decide) (by decide)
theorem tret (f : Fx) : Statement (.tret f) := of_fx rfl rfl (by decide) (by decide)
theorem iaddI32C (c : CForm) : Statement (.iaddI32C c) := of_c rfl rfl rfl (by decide)
theorem isubI32C (c : CForm) : Statement (.isubI32C c) := of_c rfl rfl rfl (by decide)
theorem imulI32C (c : CForm) : Statement (.imulI32C c) := of_c rfl rfl rfl (by decide)
theorem iminI32C (c : CForm) : Statement (.iminI32C c) := of_c rfl rfl rfl (by decide)
theorem imaxI32C (c : CForm) : Statement (.imaxI32C c) := of_c rfl rfl rfl (by decide)
theorem iaddI64C (c : CForm) : Statement (.iaddI64C c) := of_c rfl rfl rfl (by decide)
theorem isubI64C (c : CForm) : Statement (.isubI64C c) := of_c rfl rfl rfl (by decide)
theorem andB64C (c : CForm) : Statement (.andB64C c) := of_c rfl rfl rfl (by decide)
theorem orB64C (c : CForm) : Statement (.orB64C c) := of_c rfl rfl rfl (by decide)
theorem xorB64C (c : CForm) : Statement (.xorB64C c) := of_c rfl rfl rfl (by decide)
theorem shlB32C (c : CForm) : Statement (.shlB32C c) := of_c rfl rfl rfl (by decide)
theorem shrN32C (c : CForm) : Statement (.shrN32C c) := of_c rfl rfl rfl (by decide)
theorem sarI32C (c : CForm) : Statement (.sarI32C c) := of_c rfl rfl rfl (by decide)
theorem shlB64C (c : CForm) : Statement (.shlB64C c) := of_c rfl rfl rfl (by decide)
theorem shrN64C (c : CForm) : Statement (.shrN64C c) := of_c rfl rfl rfl (by decide)
theorem iminN32C (c : CForm) : Statement (.iminN32C c) := of_c rfl rfl rfl (by decide)
theorem imaxN32C (c : CForm) : Statement (.imaxN32C c) := of_c rfl rfl rfl (by decide)
theorem faddF32C (c : CForm) : Statement (.faddF32C c) := of_c rfl rfl rfl (by decide)
theorem fsubF32C (c : CForm) : Statement (.fsubF32C c) := of_c rfl rfl rfl (by decide)
theorem fmulF32C (c : CForm) : Statement (.fmulF32C c) := of_c rfl rfl rfl (by decide)
theorem fminF32C (c : CForm) : Statement (.fminF32C c) := of_c rfl rfl rfl (by decide)
theorem fmaxF32C (c : CForm) : Statement (.fmaxF32C c) := of_c rfl rfl rfl (by decide)
theorem faddF16C (c : CForm) : Statement (.faddF16C c) := of_c rfl rfl rfl (by decide)
theorem fmulF16C (c : CForm) : Statement (.fmulF16C c) := of_c rfl rfl rfl (by decide)
theorem faddBf16C (c : CForm) : Statement (.faddBf16C c) := of_c rfl rfl rfl (by decide)
theorem fmulBf16C (c : CForm) : Statement (.fmulBf16C c) := of_c rfl rfl rfl (by decide)
theorem faddF64C (c : CForm) : Statement (.faddF64C c) := of_c rfl rfl rfl (by decide)
theorem fmulF64C (c : CForm) : Statement (.fmulF64C c) := of_c rfl rfl rfl (by decide)
theorem movB64C (c : CForm) : Statement (.movB64C c) := of_c rfl rfl rfl (by decide)
theorem fminF64C (c : CForm) : Statement (.fminF64C c) := of_c rfl rfl rfl (by decide)
theorem fmaxF64C (c : CForm) : Statement (.fmaxF64C c) := of_c rfl rfl rfl (by decide)
theorem iaddI32I (i : IForm) : Statement (.iaddI32I i) := of_i rfl rfl rfl (by decide)
theorem iaddI64I (i : IForm) : Statement (.iaddI64I i) := of_i rfl rfl rfl (by decide)
theorem andB32I (i : IForm) : Statement (.andB32I i) := of_i rfl rfl rfl (by decide)
theorem orB32I (i : IForm) : Statement (.orB32I i) := of_i rfl rfl rfl (by decide)
theorem xorB32I (i : IForm) : Statement (.xorB32I i) := of_i rfl rfl rfl (by decide)
theorem shlB32I (i : IForm) : Statement (.shlB32I i) := of_i rfl rfl rfl (by decide)
theorem shrN32I (i : IForm) : Statement (.shrN32I i) := of_i rfl rfl rfl (by decide)
theorem sarI32I (i : IForm) : Statement (.sarI32I i) := of_i rfl rfl rfl (by decide)
theorem shlB64I (i : IForm) : Statement (.shlB64I i) := of_i rfl rfl rfl (by decide)
theorem shrN64I (i : IForm) : Statement (.shrN64I i) := of_i rfl rfl rfl (by decide)
theorem movI32I (i : IForm) : Statement (.movI32I i) := of_i rfl rfl rfl (by decide)
theorem movI64I (i : IForm) : Statement (.movI64I i) := of_i rfl rfl rfl (by decide)
theorem imulI32I (i : IForm) : Statement (.imulI32I i) := of_i rfl rfl rfl (by decide)
theorem iminI32I (i : IForm) : Statement (.iminI32I i) := of_i rfl rfl rfl (by decide)
theorem imaxI32I (i : IForm) : Statement (.imaxI32I i) := of_i rfl rfl rfl (by decide)
theorem iaddI32P (h0 : PHalf) (op1 : PairOp) (h1 : PHalf) : Statement (.iaddI32P h0 op1 h1) := of_p rfl rfl rfl rfl (by decide)
theorem isubI32P (h0 : PHalf) (op1 : PairOp) (h1 : PHalf) : Statement (.isubI32P h0 op1 h1) := of_p rfl rfl rfl rfl (by decide)
theorem iaddI64P (h0 : PHalf) (op1 : PairOp) (h1 : PHalf) : Statement (.iaddI64P h0 op1 h1) := of_p rfl rfl rfl rfl (by decide)
theorem andB64P (h0 : PHalf) (op1 : PairOp) (h1 : PHalf) : Statement (.andB64P h0 op1 h1) := of_p rfl rfl rfl rfl (by decide)
theorem orB64P (h0 : PHalf) (op1 : PairOp) (h1 : PHalf) : Statement (.orB64P h0 op1 h1) := of_p rfl rfl rfl rfl (by decide)
theorem xorB64P (h0 : PHalf) (op1 : PairOp) (h1 : PHalf) : Statement (.xorB64P h0 op1 h1) := of_p rfl rfl rfl rfl (by decide)
theorem iminI32P (h0 : PHalf) (op1 : PairOp) (h1 : PHalf) : Statement (.iminI32P h0 op1 h1) := of_p rfl rfl rfl rfl (by decide)
theorem imaxI32P (h0 : PHalf) (op1 : PairOp) (h1 : PHalf) : Statement (.imaxI32P h0 op1 h1) := of_p rfl rfl rfl rfl (by decide)
theorem faddF32P (h0 : PHalf) (op1 : PairOp) (h1 : PHalf) : Statement (.faddF32P h0 op1 h1) := of_p rfl rfl rfl rfl (by decide)
theorem fmulF32P (h0 : PHalf) (op1 : PairOp) (h1 : PHalf) : Statement (.fmulF32P h0 op1 h1) := of_p rfl rfl rfl rfl (by decide)
theorem fminF32P (h0 : PHalf) (op1 : PairOp) (h1 : PHalf) : Statement (.fminF32P h0 op1 h1) := of_p rfl rfl rfl rfl (by decide)
theorem fmaxF32P (h0 : PHalf) (op1 : PairOp) (h1 : PHalf) : Statement (.fmaxF32P h0 op1 h1) := of_p rfl rfl rfl rfl (by decide)
theorem faddBf16P (h0 : PHalf) (op1 : PairOp) (h1 : PHalf) : Statement (.faddBf16P h0 op1 h1) := of_p rfl rfl rfl rfl (by decide)
theorem fmulBf16P (h0 : PHalf) (op1 : PairOp) (h1 : PHalf) : Statement (.fmulBf16P h0 op1 h1) := of_p rfl rfl rfl rfl (by decide)
theorem faddF16P (h0 : PHalf) (op1 : PairOp) (h1 : PHalf) : Statement (.faddF16P h0 op1 h1) := of_p rfl rfl rfl rfl (by decide)
theorem fmulF16P (h0 : PHalf) (op1 : PairOp) (h1 : PHalf) : Statement (.fmulF16P h0 op1 h1) := of_p rfl rfl rfl rfl (by decide)
theorem movB64P (h0 : PHalf) (op1 : PairOp) (h1 : PHalf) : Statement (.movB64P h0 op1 h1) := of_p rfl rfl rfl rfl (by decide)
theorem faddF64P (h0 : PHalf) (op1 : PairOp) (h1 : PHalf) : Statement (.faddF64P h0 op1 h1) := of_p rfl rfl rfl rfl (by decide)
theorem fmulF64P (h0 : PHalf) (op1 : PairOp) (h1 : PHalf) : Statement (.fmulF64P h0 op1 h1) := of_p rfl rfl rfl rfl (by decide)
theorem packageReset : Statement .packageReset := of_event rfl
theorem railOutOfRange (r : Rail) : Statement (.railOutOfRange r) := of_event rfl
theorem thermalTrip (d : BitVec 2) : Statement (.thermalTrip d) := of_event rfl
theorem throttleRequest (d : BitVec 2) : Statement (.throttleRequest d) := of_event rfl
theorem powerSample (tmax : BitVec 16) (watts : BitVec 13) : Statement (.powerSample tmax watts) := of_event rfl
theorem boot (d : BitVec 2) (b : BootPlan) : Statement (.boot d b) := of_event rfl
theorem dcfgLock (w : CtlWrite) : Statement (.dcfgLock w) := of_event rfl
theorem coreReset (w : CtlWrite) : Statement (.coreReset w) := of_event rfl
theorem registerWrite (w : CtlWrite) : Statement (.registerWrite w) := of_event rfl
theorem polderActivate (w : CtlWrite) : Statement (.polderActivate w) := of_event rfl
theorem polderTeardown (w : CtlWrite) : Statement (.polderTeardown w) := of_event rfl
theorem teardownComplete (p : BitVec 6) : Statement (.teardownComplete p) := of_event rfl
theorem polderRelease (w : CtlWrite) : Statement (.polderRelease w) := of_event rfl
theorem ctxcfgWrite (w : CtlWrite) : Statement (.ctxcfgWrite w) := of_event rfl
theorem cboundWrite (w : CtlWrite) : Statement (.cboundWrite w) := of_event rfl
theorem vbndWrite (w : CtlWrite) : Statement (.vbndWrite w) := of_event rfl
theorem cclkWrite (w : CtlWrite) : Statement (.cclkWrite w) := of_event rfl
theorem clockLowerApply (k : BitVec 9) : Statement (.clockLowerApply k) := of_event rfl
theorem tatWrite (w : CtlWrite) : Statement (.tatWrite w) := of_event rfl
theorem vctWrite (w : CtlWrite) : Statement (.vctWrite w) := of_event rfl
theorem exportWrite (w : CtlWrite) : Statement (.exportWrite w) := of_event rfl
theorem fplaneWrite (w : CtlWrite) : Statement (.fplaneWrite w) := of_event rfl
theorem ctlbiWrite (w : CtlWrite) : Statement (.ctlbiWrite w) := of_event rfl
theorem ptlbiWrite (w : CtlWrite) : Statement (.ptlbiWrite w) := of_event rfl
theorem invalidationComplete (polder : Bool) (n : BitVec 10) : Statement (.invalidationComplete polder n) := of_event rfl
theorem faultQueueConsume (w : CtlWrite) : Statement (.faultQueueConsume w) := of_event rfl
theorem resumeRetry (w : CtlWrite) : Statement (.resumeRetry w) := of_event rfl
theorem resumeFail (w : CtlWrite) : Statement (.resumeFail w) := of_event rfl
theorem vacateGo (w : CtlWrite) : Statement (.vacateGo w) := of_event rfl
theorem contextKill (w : CtlWrite) : Statement (.contextKill w) := of_event rfl
theorem vacateResume (w : CtlWrite) : Statement (.vacateResume w) := of_event rfl
theorem attestGo (w : CtlWrite) : Statement (.attestGo w) := of_event rfl
theorem attestDone (d : BitVec 2) : Statement (.attestDone d) := of_event rfl
theorem selfTestFenceRequest (k : BitVec 9) (sub : BitVec 2) : Statement (.selfTestFenceRequest k sub) := of_event rfl
theorem subarrayFence (k : BitVec 9) : Statement (.subarrayFence k) := of_event rfl
theorem launchPortWrite (off : BitVec 20) (size : Nat) (data : BitVec 1024) : Statement (.launchPortWrite off size data) := of_event rfl
theorem recordHeadCheck (c : BitVec 10) (q : BitVec 3) : Statement (.recordHeadCheck c q) := of_event rfl
theorem clusterPlace (c : BitVec 10) (q : BitVec 3) (r : Rect) : Statement (.clusterPlace c q r) := of_event rfl
theorem teamResume (launch cluster : Nat) (r : Rect) : Statement (.teamResume launch cluster r) := of_event rfl
theorem teamDrainDone (k : BitVec 9) (team : BitVec 5) : Statement (.teamDrainDone k team) := of_event rfl
theorem borderMove (k : BitVec 9) : Statement (.borderMove k) := of_event rfl
theorem vacateStart (k : BitVec 9) (c : BitVec 10) : Statement (.vacateStart k c) := of_event rfl
theorem softStageEnd (k : BitVec 9) (c : BitVec 10) : Statement (.softStageEnd k c) := of_event rfl
theorem saveBegin (k : BitVec 9) (c : BitVec 10) : Statement (.saveBegin k c) := of_event rfl
theorem saveComplete (k : BitVec 9) (c : BitVec 10) : Statement (.saveComplete k c) := of_event rfl
theorem killTimerExpire (k : BitVec 9) (c : BitVec 10) : Statement (.killTimerExpire k c) := of_event rfl
theorem vbtStallTimeout (k : BitVec 9) (slot : BitVec 5) (lanes : BitVec 32) : Statement (.vbtStallTimeout k slot lanes) := of_event rfl
theorem loadReturn (k : BitVec 9) (op : Nat) : Statement (.loadReturn k op) := of_event rfl
theorem storePerform (k : BitVec 9) (op : Nat) : Statement (.storePerform k op) := of_event rfl
theorem vectorResultWrite (k : BitVec 9) (op : Nat) : Statement (.vectorResultWrite k op) := of_event rfl
theorem mmaComplete (k : BitVec 9) (op : Nat) : Statement (.mmaComplete k op) := of_event rfl
theorem copyBeat (k : BitVec 9) (op : Nat) : Statement (.copyBeat k op) := of_event rfl
theorem copyComplete (k : BitVec 9) (op : Nat) : Statement (.copyComplete k op) := of_event rfl
theorem bankTransitionComplete (k : BitVec 9) (op : Nat) : Statement (.bankTransitionComplete k op) := of_event rfl
theorem fifoOpAccept (k : BitVec 9) (op : Nat) : Statement (.fifoOpAccept k op) := of_event rfl
theorem fifoTimeout (k : BitVec 9) (op : Nat) : Statement (.fifoTimeout k op) := of_event rfl
theorem portTrackerComplete (k : BitVec 9) (op : Nat) : Statement (.portTrackerComplete k op) := of_event rfl
theorem fenceComplete (k : BitVec 9) (op : Nat) : Statement (.fenceComplete k op) := of_event rfl
theorem writebackAck (k : BitVec 9) (wb : Nat) : Statement (.writebackAck k wb) := of_event rfl
theorem l1Eviction (k : BitVec 9) (way : BitVec 6) (line : BitVec 7) : Statement (.l1Eviction k way line) := of_event rfl
theorem atomicPerform (k : BitVec 9) (op : Nat) : Statement (.atomicPerform k op) := of_event rfl
theorem stageAccept (k : BitVec 9) (op : Nat) : Statement (.stageAccept k op) := of_event rfl
theorem slotRequest (set : SetId) (slice : BitVec 8) (id : BitVec 16) : Statement (.slotRequest set slice id) := of_event rfl
theorem closeAccept (k : BitVec 9) (op : Nat) : Statement (.closeAccept k op) := of_event rfl
theorem measureRequest (set : SetId) (slice : BitVec 8) (id : BitVec 16) : Statement (.measureRequest set slice id) := of_event rfl
theorem measureComplete (set : SetId) (id : BitVec 16) : Statement (.measureComplete set id) := of_event rfl
theorem commitIssue (set : SetId) : Statement (.commitIssue set) := of_event rfl
theorem commitApply (set : SetId) (slice : BitVec 8) : Statement (.commitApply set slice) := of_event rfl
theorem signalUpdate (set : SetId) : Statement (.signalUpdate set) := of_event rfl
theorem epochEnd (d : BitVec 2) : Statement (.epochEnd d) := of_event rfl
theorem pageMigrate (d e : BitVec 2) (p : BitVec 6) (page : BitVec 36) (replicate : Bool) (frames : List (BitVec 40)) : Statement (.pageMigrate d e p page replicate frames) := of_event rfl
theorem migrationCopyDone (p : BitVec 6) (page : BitVec 36) : Statement (.migrationCopyDone p page) := of_event rfl
theorem pieceCollapse (w : BitVec 2) (p : BitVec 6) (page : BitVec 36) : Statement (.pieceCollapse w p page) := of_event rfl
theorem quarantineClear (frame : BitVec 40) : Statement (.quarantineClear frame) := of_event rfl
theorem crossDieWrite (src dst : BitVec 2) : Statement (.crossDieWrite src dst) := of_event rfl
theorem clockNotice (src dst : BitVec 2) : Statement (.clockNotice src dst) := of_event rfl
theorem heldWriteApply (src dst : BitVec 2) : Statement (.heldWriteApply src dst) := of_event rfl
theorem settle (src dst : BitVec 2) : Statement (.settle src dst) := of_event rfl
theorem tokenRefill (k : BitVec 9) : Statement (.tokenRefill k) := of_event rfl
theorem tokenInterval (d : BitVec 2) : Statement (.tokenInterval d) := of_event rfl
theorem rateInterval (port : BitVec 4) : Statement (.rateInterval port) := of_event rfl
theorem fabricSend (port : BitVec 4) : Statement (.fabricSend port) := of_event rfl
theorem switchEgressEnqueue (port : BitVec 4) (p : Packet) : Statement (.switchEgressEnqueue port p) := of_event rfl
theorem combinedResponse (p : Packet) : Statement (.combinedResponse p) := of_event rfl
theorem rdreq (p : Packet) : Statement (.rdreq p) := of_event rfl
theorem rdrsp (p : Packet) : Statement (.rdrsp p) := of_event rfl
theorem wrPacket (p : Packet) : Statement (.wrPacket p) := of_event rfl
theorem atomreq (p : Packet) : Statement (.atomreq p) := of_event rfl
theorem atomrsp (p : Packet) : Statement (.atomrsp p) := of_event rfl
theorem putsPacket (p : Packet) : Statement (.putsPacket p) := of_event rfl
theorem getreq (p : Packet) : Statement (.getreq p) := of_event rfl
theorem getrsp (p : Packet) : Statement (.getrsp p) := of_event rfl
theorem mstage (p : Packet) : Statement (.mstage p) := of_event rfl
theorem mclosePacket (p : Packet) : Statement (.mclosePacket p) := of_event rfl
theorem skim (p : Packet) : Statement (.skim p) := of_event rfl
theorem refill (p : Packet) : Statement (.refill p) := of_event rfl
theorem refillreq (p : Packet) : Statement (.refillreq p) := of_event rfl
theorem refillRequestSend (src : BitVec 14) : Statement (.refillRequestSend src) := of_event rfl
theorem ack (p : Packet) : Statement (.ack p) := of_event rfl
theorem nack (p : Packet) : Statement (.nack p) := of_event rfl
theorem xlrsp (p : Packet) : Statement (.xlrsp p) := of_event rfl
theorem xlinv (p : Packet) : Statement (.xlinv p) := of_event rfl
theorem xlreqTimeout (req : BitVec 32) : Statement (.xlreqTimeout req) := of_event rfl
theorem creditReturn (port : BitVec 4) (cls : BitVec 2) (flits : Nat) : Statement (.creditReturn port cls flits) := of_event rfl
theorem keyswitch (port : BitVec 4) : Statement (.keyswitch port) := of_event rfl
theorem keyhalt (port : BitVec 4) : Statement (.keyhalt port) := of_event rfl
theorem hopKeyInstall (port : BitVec 4) : Statement (.hopKeyInstall port) := of_event rfl
theorem hopAuthFail (port : BitVec 4) : Statement (.hopAuthFail port) := of_event rfl
theorem linkDown (port : BitVec 4) : Statement (.linkDown port) := of_event rfl
theorem planeDead (plane : BitVec 2) : Statement (.planeDead plane) := of_event rfl
theorem planeRemap (entry : BitVec 2) : Statement (.planeRemap entry) := of_event rfl
theorem planeRevive (plane : BitVec 2) : Statement (.planeRevive plane) := of_event rfl
theorem gapExpire (i : BitVec 9) : Statement (.gapExpire i) := of_event rfl
theorem continuationTimeout (k : BitVec 9) (entry : BitVec 10) : Statement (.continuationTimeout k entry) := of_event rfl
theorem tombstoneExpire (p : BitVec 6) : Statement (.tombstoneExpire p) := of_event rfl
theorem malformedPacket (p : Packet) : Statement (.malformedPacket p) := of_event rfl
theorem coordinatorAnswer (k : BitVec 9) (op : Nat) : Statement (.coordinatorAnswer k op) := of_event rfl
theorem flowKeyInstall (host : Bool) (p : BitVec 6) (key : Word) : Statement (.flowKeyInstall host p key) := of_event rfl
theorem controlCoreWrite (pa : BitVec 42) (bytes : List Byte) : Statement (.controlCoreWrite pa bytes) := of_event rfl

end Sys2Proof.Laws.DecodeEncode
end

