-- ==== Sys2Proof/Safety.lean ====
section
/-! DEFINITION. The terms in which claims are stated: when an instruction reaches its effect, what it leaves unchanged, and what a safe
state is. -/

namespace Sys2Proof.Machine

/-! ### Safe states -/

/-- The frontier of every group of every core has the form of R19: no empty entry, and no two entries that merge. -/
def FrontiersNormal (s : State) : Prop := ∀ c ∈ s.cores, ∀ g ∈ c.2.groups, isNormal g.2.entries = true

/-- Memory is in its canonical form. -/
def MemoryCanonical (s : State) : Prop := Memory.wf s.mem = true

/-! ### When an instruction reaches its effect -/

/-- An F or X instruction of the issuing entry is legal in its clause, has an active lane, reads no poisoned s register (R94), and passes
the checks of its issue. -/
structure Issues (s : State) (i : Issuer) (f : Fx) (transfer : Bool) (p : Plan) : Prop where
  issuing : issuer s = some i
  legal : bodyBreach i.e f.fen f.fsel transfer = none
  active : i.active f ≠ 0
  clean : (sSrcNames f).any i.g.badS.contains = false
  passes : gate s i p = .pass

/-- The same for a pair, which counts no flag: it stands in a clause body, and a half has an active lane. -/
structure IssuesPair (s : State) (i : Issuer) (h0 h1 : Half) : Prop where
  issuing : issuer s = some i
  inBody : i.e.left ≠ 0
  active : h0.m ||| h1.m ≠ 0
  passes : gate s i (pairPlan i h0 h1) = .pass

/-! ### What the issue of a register instruction leaves unchanged -/

/-- Everything of a state but the cores, the cursor of the issue and the counter of free values. -/
def State.besides (t s : State) : State := { t with cores := s.cores, cur := s.cur, issued := s.issued, fresh := s.fresh }

/-- Everything of a core but its groups, teams, latches and operations. -/
def CoreState.besides (c d : CoreState) : CoreState := { c with groups := d.groups, teams := d.teams, latches := d.latches, ops := d.ops }

/-- Everything of a group but its registers v, s and p, their poison, its frontier, its pending names, BEGUN and ASTAT: the flags and
every other special register among it. -/
def Group.besides (g h : Group) : Group :=
  { g with v := h.v, badV := h.badV, s := h.s, badS := h.badS, p := h.p, entries := h.entries, pend := h.pend, begun := h.begun, astat := h.astat }

/-- The operations in flight, their kinds aside. -/
def opFrames (c : CoreState) : List (Nat × Op) := c.ops.map (fun e => (e.1, { e.2 with kind := .bank 0 .off }))

/-- An issue that only changes the issuing group, and no part of it but registers: memory and every part of the state outside the
cores, every other core, and on the core every other group, every other team, the issuing team but for its STATE, the caches, the
banks, the clocks and the operations in flight stand as they were. -/
structure OnlyGroup (s t : State) (i : Issuer) : Prop where
  memory : ∀ a, Memory.read t.mem a = Memory.read s.mem a
  rest : t.besides s = s
  cores : ∀ k, k ≠ i.k → look t.cores k = look s.cores k
  core : (coreOf t i.k).besides (coreOf s i.k) = coreOf s i.k
  groups : ∀ n, n ≠ i.slot → groupAt (coreOf t i.k) n = groupAt (coreOf s i.k) n
  teams : ∀ n, n ≠ i.t → teamOf (coreOf t i.k) n = teamOf (coreOf s i.k) n
  team : ∃ tm, teamOf (coreOf t i.k) i.t = some tm ∧ { tm with st := i.tm.st } = i.tm
  ops : opFrames (coreOf t i.k) = opFrames (coreOf s i.k)

/-- The names that an instruction releases and does not write. -/
def goneNames (f : Fx) : List Nat := released (relNames f) (opNames f.d)

/-- The vector registers of a group after an instruction that writes d in the lanes of a mask, in uniform form or not: `val` gives
the value of a lane. A vector d is written when no result to come is pending for it; the other names keep what they hold, but those
that a last-use bit releases are unmapped. -/
structure VectorResult (i : Issuer) (g : Group) (f : Fx) (uni : Bool) (m : Mask) (val : Nat → Word) : Prop where
  written : ∀ n, f.d = .v n → (∀ p ∈ i.g.pend, p.name ≠ n.toNat) → ∀ l, l < 32 → inMask m l → vLane g n.toNat l = val (if uni then lowestLane m else l)
  uniform : ∀ n, f.d = .v n → (∀ p ∈ i.g.pend, p.name ≠ n.toNat) → uni = true → look g.v n.toNat = some (.uni (val (lowestLane m)))
  inactive : ∀ n, f.d = .v n → (∀ p ∈ i.g.pend, p.name ≠ n.toNat) → uni = false → ∀ l, l < 32 → ¬ inMask m l → vLane g n.toNat l = vLane i.g n.toNat l
  others : ∀ n, n ∉ opNames f.d → look g.v n = if n ∈ goneNames f then none else look i.g.v n

/-- The s registers after it. -/
structure ScalarResult (i : Issuer) (g : Group) (f : Fx) (m : Mask) (val : Nat → Word) : Prop where
  written : ∀ n, f.d = .s n → sReg g n.toNat = val (lowestLane m)
  others : ∀ n, n ∉ opSNames f.d → sReg g n = sReg i.g n

/-- The end of an issue that completes. `base` is the state before it, with what the instruction does outside its group; the
frontier is the old one with the issuing entry replaced by the parts. -/
structure Issued (base t : State) (i : Issuer) (parts : List Entry) (g : Group) : Prop where
  issued : t.issued = true
  done : t.cur = none
  only : OnlyGroup base t i
  group : groupAt (coreOf t i.k) i.slot = some g
  frontier : g.entries = (replaceEntry i.g i.e parts).entries

/-- AN INSTRUCTION THAT WRITES ITS RESULT AT ISSUE: it answers a next state, in which it has issued and its lanes have gone on to the
next instruction; d holds the values; no other register, no predicate, no flag, no special register and no byte of memory has changed,
but the names that it releases. `val` is given the group as the instruction reads it (a pending source reads free values, R45), the
write mask and a lane. -/
def WritesResult (s : State) (i : Issuer) (f : Fx) (uni : Bool) (val : Group → Mask → Nat → Word) (o : Out) : Prop :=
  ∃ t g, o = .next t ∧ Issued s t i [i.onward i.e.mask] g ∧
    VectorResult i g f uni (i.active f) (val (readView s i.g (srcNames f)).2 (i.active f)) ∧
    ScalarResult i g f (i.active f) (val (readView s i.g (srcNames f)).2 (i.active f)) ∧
    g.p = i.g.p ∧ g.astat = i.g.astat ∧ g.besides i.g = i.g

/-- The same of an instruction that can saturate: ASTAT.SAT gains the bits of the lanes of which an element saturated, and the
context's count of them advances (R238). -/
def WritesSaturating (s : State) (i : Issuer) (f : Fx) (uni : Bool) (val : Group → Mask → Nat → Word) (sat : Group → Mask → Nat → Bool) (o : Out) : Prop :=
  let m := i.active f
  let v := (readView s i.g (srcNames f)).2
  let sm := maskWhere (fun l => inMask m l && sat v m l)
  ∃ t g, o = .next t ∧ Issued (countAstat s i.ctx sm 0) t i [i.onward i.e.mask] g ∧
    VectorResult i g f uni m (val v m) ∧ ScalarResult i g f m (val v m) ∧
    g.p = i.g.p ∧ g.astat = i.g.astat ||| BitVec.ofNat 64 (2 ^ 32 * sm.toNat) ∧ g.besides i.g = i.g

/-- AN INSTRUCTION THAT WRITES A PREDICATE: the bits of d in the write mask take the values, its other bits and every other register
stand; p7 cannot be written. -/
def WritesPredicate (s : State) (i : Issuer) (f : Fx) (bit : Group → Mask → Nat → Bool) (o : Out) : Prop :=
  ∃ t g, o = .next t ∧ Issued s t i [i.onward i.e.mask] g ∧
    (∀ n, n ≠ 7 → pReg g n = if n = f.d.num then (pReg i.g n &&& ~~~ i.active f) ||| (maskWhere (bit (readView s i.g (srcNames f)).2 (i.active f)) &&& i.active f)
      else pReg i.g n) ∧
    (∀ n, look g.v n = if n ∈ goneNames f then none else look i.g.v n) ∧ g.s = i.g.s ∧ g.astat = i.g.astat ∧ g.besides i.g = i.g

/-- The plan of an instruction of the vector registers in a state: what its issue checks. -/
abbrev lanePlan (i : Issuer) (f : Fx) (cls : Nat) (uni : Issuer → Mask → Bool) : Plan := fxPlan i f (i.active f) cls (uni i (i.active f))

/-- A result is in uniform form as R40 says. -/
def uniformly (f : Fx) (i : Issuer) (m : Mask) : Bool := uniformResult i.g f m

/-- It is in full form always. -/
def inFull (_ : Issuer) (_ : Mask) : Bool := false

/-- WHAT A CLASS 0 INSTRUCTION DOES WHEREVER IT ISSUES. -/
def LaneLaw (ins : Instr) (f : Fx) (uni : Issuer → Mask → Bool) (val : Group → Mask → Nat → Word) : Prop :=
  ∀ s i, Issues s i f false (lanePlan i f 0 uni) → WritesResult s i f (uni i (i.active f)) val (exec ins s)

/-- The same of one that can saturate. -/
def SatLaw (ins : Instr) (f : Fx) (uni : Issuer → Mask → Bool) (val : Group → Mask → Nat → Word) (sat : Group → Mask → Nat → Bool) : Prop :=
  ∀ s i, Issues s i f false (lanePlan i f 0 uni) → WritesSaturating s i f (uni i (i.active f)) val sat (exec ins s)

/-- The same of one that writes a predicate. -/
def PredLaw (ins : Instr) (f : Fx) (bit : Group → Mask → Nat → Bool) : Prop :=
  ∀ s i, Issues s i f false (lanePlan i f 0 inFull) → WritesPredicate s i f bit (exec ins s)

/-- A short form runs as the F instruction it names: wherever it issues, both complete, with one next state. -/
def RunsAs (ins fins : Instr) (f : Fx) : Prop :=
  ∀ s i, Issues s i f false (lanePlan i f 0 (uniformly f)) →
    ∃ t g, exec ins s = .next t ∧ exec fins s = .next t ∧ Issued s t i [i.onward i.e.mask] g

/-! ### Pairs -/

/-- The vector names of a half that is active, and those that the pair releases and does not write. -/
def halfDst (h : Half) : List Nat := if h.m == 0 then [] else opNames h.f.d
def pairGone (h0 h1 : Half) : List Nat := released (relNames h0.f ++ relNames h1.f) (halfDst h0 ++ halfDst h1)

/-- What an active half of a pair leaves in its destination, when no result to come is pending for it. -/
structure HalfResult (i : Issuer) (g : Group) (h : Half) (val : Nat → Word) : Prop where
  written : ∀ n, h.f.d = .v n → (∀ p ∈ i.g.pend, p.name ≠ n.toNat) → ∀ l, l < 32 → inMask h.m l →
    vLane g n.toNat l = val (if uniformResult i.g h.f h.m then lowestLane h.m else l)
  inactive : ∀ n, h.f.d = .v n → (∀ p ∈ i.g.pend, p.name ≠ n.toNat) → uniformResult i.g h.f h.m = false → ∀ l, l < 32 → ¬ inMask h.m l →
    vLane g n.toNat l = vLane i.g n.toNat l

/-- A PAIR: both halves read before either writes; each active half writes its destination; no other register changes but the names
released after both have read. -/
def PairLaw (ins : Instr) (f0 f1 : Fx) (v0 v1 : Group → Nat → Word) : Prop :=
  ∀ s i, let h0 : Half := { f := f0, m := i.active f0, val := v0 }
    let h1 : Half := { f := f1, m := i.active f1, val := v1 }
    IssuesPair s i h0 h1 → ∃ t g, exec ins s = .next t ∧ Issued s t i [i.onward i.e.mask] g ∧
      (h0.m ≠ 0 → HalfResult i g h0 (v0 (readView s i.g (pairPlan i h0 h1).srcs).2)) ∧
      (h1.m ≠ 0 → HalfResult i g h1 (v1 (readView s i.g (pairPlan i h0 h1).srcs).2)) ∧
      (∀ n, n ∉ halfDst h0 ++ halfDst h1 → look g.v n = if n ∈ pairGone h0 h1 then none else look i.g.v n) ∧
      g.s = i.g.s ∧ g.p = i.g.p ∧ g.astat = i.g.astat ∧ g.besides i.g = i.g

/-! ### Instructions that start an operation -/

/-- The operation that an issue starts has the next number of the core. -/
def nextOp (s : State) (i : Issuer) : Nat := (coreOf s i.k).nextOp

/-- A CLASS 1 INSTRUCTION: the vector engine has the values of the active lanes, which it writes to d later (R191, R269); until then a
vector d is pending, with no clause flag (R45). The lanes of a division corner set ASTAT.DIV and are counted (R233). Every other name
keeps what it holds, but those that a last-use bit releases; no s register, predicate, other special register or byte of memory has changed. -/
def StartsVector (s : State) (i : Issuer) (f : Fx) (val : Group → Nat → Word) (bad : Group → Nat → Bool) (o : Out) : Prop :=
  let m := i.active f
  let v := (readView s i.g (srcNames f)).2
  let div := maskWhere (fun l => inMask m l && bad v l)
  let fl := flagNumber i.e f.fen f.fsel
  ∃ t g op, o = .next t ∧ Issued (addOp (countAstat s i.ctx 0 div) i.k op).1 t i [i.onward i.e.mask] g ∧ opOf t i.k (nextOp s i) = some op ∧
    op.kind = .vec ((lanesIn m).map (fun l => (l, val v l))) (uniformResult i.g f m) ∧
    op.dest = (match f.d with | .v n => .v n.toNat | .s n => .s n.toNat | _ => .none) ∧
    (op.uid = i.g.uid ∧ op.gid = i.g.gid ∧ op.lanes = m ∧ op.flag = fl) ∧
    (∀ n, n ∉ opNames f.d → look g.v n = if n ∈ goneNames f then none else look i.g.v n) ∧
    (∀ n, f.d = .v n → g.pend.any (fun p => p.name == n.toNat && p.op == nextOp s i && p.flag.isNone) = true) ∧
    g.p = i.g.p ∧ g.s = i.g.s ∧ g.astat = i.g.astat ||| BitVec.ofNat 64 div.toNat ∧ g.besides (countFlag i.g fl) = countFlag i.g fl

/-- WHAT A CLASS 1 INSTRUCTION DOES WHEREVER IT ISSUES with no lane that traps (R233). -/
def VectorLaw (ins : Instr) (f : Fx) (val : Group → Nat → Word) (bad : Group → Nat → Bool) : Prop :=
  ∀ s i, f.d.isV || f.d.isS → Issues s i f false (lanePlan i f 1 (uniformly f)) →
    (i.g.trapen.getLsbD 0 = true → maskWhere (fun l => inMask (i.active f) l && bad (readView s i.g (srcNames f)).2 l) = 0) →
    StartsVector s i f val bad (exec ins s)

/-- AN INSTRUCTION THAT STARTS AN OPERATION: it answers a next state, in which it has issued and its lanes have gone on; the operation
is in flight under the core's next number; the clause flag that it counts has risen by one; predicates, s registers, every other
flag and special register, and every byte of memory stand. What it does to vector names is `P`. `base` is the state before, with what else
the issue counts outside the group. -/
def StartsOp (base : State) (i : Issuer) (flag : Option Nat) (op : Op) (P : Group → Prop) (o : Out) : Prop :=
  ∃ t g, o = .next t ∧ Issued (addOp base i.k op).1 t i [i.onward i.e.mask] g ∧ opOf t i.k (nextOp base i) = some op ∧
    g.besides (countFlag i.g flag) = countFlag i.g flag ∧ g.p = i.g.p ∧ g.s = i.g.s ∧ P g

/-! ### Instructions of control -/

/-- A legal instruction with an active lane, which passes no check of resources. -/
structure Reaches (s : State) (i : Issuer) (f : Fx) (transfer : Bool) : Prop where
  issuing : issuer s = some i
  legal : bodyBreach i.e f.fen f.fsel transfer = none
  active : i.active f ≠ 0
  clean : (sSrcNames f).any i.g.badS.contains = false

/-- A group of which nothing but the frontier has changed. -/
def OnlyFrontier (g h : Group) : Prop := { g with entries := h.entries, begun := h.begun } = h

/-- The same of a group whose registers, flags and special registers but those of the trap stand. -/
def OnlyTrap (g h : Group) : Prop :=
  { g with entries := h.entries, begun := h.begun, tcause := h.tcause, taddr := h.taddr, tpc := h.tpc, tlanes := h.tlanes, service := h.service } = h

/-- A TRANSFER: wherever it issues, its active lanes enter their targets, one entry for each, where a header is expected; the others go on;
d takes the address of the header that follows (R18, R273). -/
def TransferLaw (ins : Instr) (f : Fx) (target : Issuer → Group → Nat → Word) : Prop := ∀ s i,
  Issues s i f true (lanePlan i f 0 (fun i m => isFull i.g m)) →
  let m := i.active f
  ∃ t g, exec ins s = .next t ∧
    Issued s t i ((byTarget m (target i (readView s i.g (srcNames f)).2)).map (fun e => i.enter e.2 e.1) ++ [i.onward (i.others m)]) g ∧
    VectorResult i g f (isFull i.g m) m (fun _ => (followPlace i.e i.len).pc) ∧ ScalarResult i g f m (fun _ => (followPlace i.e i.len).pc) ∧
    g.p = i.g.p ∧ g.astat = i.g.astat ∧ g.besides i.g = i.g

/-- The parcels of an instruction lie at an address, in the instruction cache of a core. -/
def CodeAt (c : CoreState) (ctx : BitVec 10) (a : Word) (ws : List Nat) : Prop :=
  ∀ j, j < ws.length → isUpper (a + BitVec.ofNat 64 (4 * j)) = true ∧
    ∃ x, c.icache.find? (fun x => x.ctx == ctx && x.va == vLineOf (a + BitVec.ofNat 64 (4 * j))) = some x ∧
      lineParcel x (a + BitVec.ofNat 64 (4 * j)) = ws.getD j 0

/-! ### Instructions that access memory -/

/-- What the accesses of an instruction find, its sources read: the state after the translations, and the accesses of the lanes. -/
def found (s : State) (i : Issuer) (p : Plan) (q : Need) (m : Mask) (ea : Group → Nat → Word) : State × Probe :=
  probe (readView s i.g p.srcs).1 i (readView s i.g p.srcs).2 q m (ea (readView s i.g p.srcs).2)

/-- Every access of an instruction goes through: no lane faults, waits for the host, differs in its tag or meets a watchpoint. -/
structure Clear (s : State) (i : Issuer) (p : Plan) (q : Need) (m : Mask) (ea : Group → Nat → Word) (watch : State → List LaneAcc → Option Trap) : Prop where
  faults : (found s i p q m ea).2.bad = []
  waits : (found s i p q m ea).2.wait = none
  tags : (found s i p q m ea).2.mism = []
  watched : watch (found s i p q m ea).1 (found s i p q m ea).2.byLane = none

/-- What an instruction with names to come leaves of the vector registers of its group: its destinations are pending, in full form, and
every other name stands, but those that it releases. -/
structure Pending (i : Issuer) (g : Group) (p : Plan) (names : List Nat) (op : Nat) : Prop where
  pend : ∀ n ∈ names, g.pend.any (fun x => x.name == n && x.op == op && x.flag == p.flag) = true
  others : ∀ n, n ∉ names → look g.v n = if n ∈ released p.rel (p.dst.map (·.1)) then none else look i.g.v n

/-- An instruction that starts an operation and whose lanes go elsewhere than on: the issuing entry is replaced by the parts given. -/
def StartsOpAt (base : State) (i : Issuer) (flag : Option Nat) (op : Op) (parts : List Entry) (P : Group → Prop) (o : Out) : Prop :=
  ∃ t g, o = .next t ∧ Issued (addOp base i.k op).1 t i parts g ∧ opOf t i.k (nextOp base i) = some op ∧
    g.besides (countFlag i.g flag) = countFlag i.g flag ∧ g.p = i.g.p ∧ g.s = i.g.s ∧ P g

/-- Whose operation it is: the issuing group's, for the lanes given, on the flag given, issued now. -/
def OpOf (s : State) (i : Issuer) (op : Op) (lanes : Mask) (flag : Option Nat) : Prop :=
  op.uid = i.g.uid ∧ op.gid = i.g.gid ∧ op.ctx = i.g.ctx ∧ op.lanes = lanes ∧ op.flag = flag ∧ op.pc = i.e.pc ∧ op.start = (coreOf s i.k).ccyc

/-- A LOAD of any kind: wherever it issues and every access goes through, its operation is in flight with the accesses given, and its
destinations are to come (R45, R335). -/
def LoadLaw (ins : Instr) (f : Fx) (p : State → Issuer → Plan) (q : Need) (once : Bool) (regs : Nat) (path : Path)
    (parts : Mask → List LaneAcc → List LaneAcc) : Prop := ∀ s i,
  let m := i.active f
  let lanes := if once then maskOfLanes [lowestLane m] else m
  let ea (g : Group) : Nat → Word := eaAt g f q.scratch
  let watch (s : State) (accs : List LaneAcc) : Option Trap := if !q.data then none else if once then onceWatch s i .read m accs else watchTrap s i .read accs
  let fd := found s i (p s i) q lanes ea
  Issues s i f false (p s i) → Clear s i (p s i) q lanes ea watch →
    ∃ op, StartsOp fd.1 i (p s i).flag op (fun g => Pending i g (p s i) (runNames f.d regs) (nextOp s i)) (exec ins s) ∧
      op.kind = .load path (parts m fd.2.byLane) false ∧ op.regs = regs ∧ OpOf s i op m (p s i).flag ∧
      op.dest = (match f.d with | .v n => .v n.toNat | .s n => .s n.toNat | _ => .none)

/-! ### Control-window writes -/

/-- A control-window write of 8 aligned bytes to a register of a region, which the tables grant (R61, R181). -/
def Granted (s : State) (w : CtlWrite) (r : Region) : Prop :=
  w.size = 8 ∧ w.off.toNat % 8 = 0 ∧ regionOf w.off.toNat = r ∧ writeGrants s w r = true

/-- A write that a rule refuses leaves its offset in DERR, and nothing else changes (R61). -/
def refused (s : State) (w : CtlWrite) : State :=
  { s with device := { s.device with derrV := true, derrOff := BitVec.ofNat 24 w.off.toNat } }

/-! ### Packets -/

/-- A well-formed packet of a kind that no tombstone absorbs, that is no replay, and whose seal opens to a well-formed `q` (R136, R137, R153, R156). -/
def Arrives (s : State) (p : Packet) (kind : BitVec 8) (q : Packet) : Prop :=
  p.kind = kind ∧ badFrame s p = false ∧ (polderOf s p.polder.toNat).tomb = none ∧ isReplay s p = false ∧ openSeal s p = some q ∧ maskBits q = false

/-- A packet that nothing holds back, and that memory, a window or a coordinator serves with a state (R147, R148, R184). -/
def Serves (s : State) (q : Packet) (t : State) : Prop :=
  s.fabric.held = [] ∧ mustHold s [] { pkt := q, seq := s.fabric.gapSeq } = false ∧
    servePacket s q (exportMatch s q.src q.off.toNat) = some t ∧ t.fabric.held = [] ∧ t.fabric.waiting = []

end Sys2Proof.Machine
end

