-- ==== Sys2Proof/Certificates/Slice0/Obligations.lean ====
section
/-! DEFINITION. The statements for the provers: what each instruction of the lanes and each step of an engine or outside agent does,
wherever it completes; what the checks of an issue, traps and the clauses do; and the two headline statements, that decoding gives back
what was encoded, and that every step keeps every frontier normal. -/

open Sys2Proof Sys2Proof.Machine

/-- Decoding an encoded well-formed instruction gives it back, for every instruction of the lanes, whatever bytes follow.
The model's own choices here, no rule of the spec: which words are well-formed where the encoding can be read two ways (log 41). -/
def Obligations.DecodeOfEncode : Prop := ∀ i : Instr, Sys2Proof.Laws.DecodeEncode.Statement i

/-! ### Instructions that write their result at issue -/

/-- R287. IADD, ISUB, IMUL, IMULH, IMAD, IMIN, IMAX, IABS, INEG and ISAD, sub-element by sub-element: exact integers in the type's
signedness, wrapped to the width, or clamped with `.sat` (MOD[0]), which leaves ASTAT. Wherever one issues, it completes, and nothing
else of the machine changes. -/
def Obligations.IntegerResults : Prop := ∀ f : Fx,
  let w := f.ty.width
  let num (x : Nat) : Int := asInt f.ty.signed w x
  let sat (v : Int) : Int := if f.modAt 0 1 == 1 then clampTo f.ty.signed w v else v
  let d1 (h : Int → Int) : Group → Mask → Nat → Word := fun g _ l => mapElems w (fun x => wrapTo w (h (num x))) (aAt g f l)
  let d2 (h : Int → Int → Int) : Group → Mask → Nat → Word := fun g _ l => zipElems w (fun x y => wrapTo w (h (num x) (num y))) (aAt g f l) (bAt g f l)
  let d3 (h : Int → Int → Int → Int) : Group → Mask → Nat → Word := fun g _ l =>
    zipElems3 w (fun x y z => wrapTo w (h (num x) (num y) (num z))) (aAt g f l) (bAt g f l) (cAt g f l)
  LaneLaw (.iadd f) f (uniformly f) (d2 fun x y => sat (x + y)) ∧
  LaneLaw (.isub f) f (uniformly f) (d2 fun x y => sat (x - y)) ∧
  LaneLaw (.imul f) f (uniformly f) (d2 fun x y => x * y) ∧
  LaneLaw (.imulh f) f (uniformly f) (d2 fun x y => x * y / 2 ^ w) ∧
  LaneLaw (.imad f) f (uniformly f) (d3 fun x y z => x * y + z) ∧
  LaneLaw (.imin f) f (uniformly f) (d2 fun x y => if x ≤ y then x else y) ∧
  LaneLaw (.imax f) f (uniformly f) (d2 fun x y => if x ≤ y then y else x) ∧
  LaneLaw (.iabs f) f (uniformly f) (d1 fun x => sat (x.natAbs : Int)) ∧
  LaneLaw (.ineg f) f (uniformly f) (d1 fun x => sat (-x)) ∧
  LaneLaw (.isad f) f (uniformly f) (d3 fun x y z => ((x - y).natAbs : Int) + z)

/-- R293. Shifts, rotates and funnel shifts, with the count of each sub-element read as unsigned: a count of the width or more gives 0,
or the sign in every bit under SAR. -/
def Obligations.ShiftResults : Prop := ∀ f : Fx,
  let w := f.ty.width
  let d2 (h : Nat → Nat → Nat) : Group → Mask → Nat → Word := fun g _ l => zipElems w h (aAt g f l) (bAt g f l)
  LaneLaw (.shl f) f (uniformly f) (d2 fun x s => if s < w then x * 2 ^ s else 0) ∧
  LaneLaw (.shr f) f (uniformly f) (d2 fun x s => if s < w then x / 2 ^ s else 0) ∧
  LaneLaw (.sar f) f (uniformly f) (d2 fun x s =>
    wrapTo w (if s < w then asSigned w x / 2 ^ s else if asSigned w x < 0 then -1 else 0)) ∧
  LaneLaw (.rot f) f (uniformly f) (d2 fun x s =>
    let n := if f.modAt 0 1 == 1 then (w - s % w) % w else s % w
    x * 2 ^ n % 2 ^ w + x / 2 ^ (w - n)) ∧
  LaneLaw (.fshf f) f (uniformly f) (fun g _ l => zipElems3 w (fun x y z =>
    if f.modAt 0 1 == 1 then (x * 2 ^ w + y) * 2 ^ (z % w) / 2 ^ w else (x * 2 ^ w + y) / 2 ^ (z % w)) (aAt g f l) (bAt g f l) (cAt g f l))

/-- R294, R292. The logic instructions on every bit of the lane, the lookup through XMOD, and the choice by a predicate bit. -/
def Obligations.LogicResults : Prop := ∀ f : Fx,
  LaneLaw (.andBits f) f (uniformly f) (fun g _ l => aAt g f l &&& bAt g f l) ∧
  LaneLaw (.orBits f) f (uniformly f) (fun g _ l => aAt g f l ||| bAt g f l) ∧
  LaneLaw (.xorBits f) f (uniformly f) (fun g _ l => aAt g f l ^^^ bAt g f l) ∧
  LaneLaw (.notBits f) f (uniformly f) (fun g _ l => ~~~ (aAt g f l)) ∧
  LaneLaw (.blut f) f (uniformly f) (fun g _ l => packElems 1 (fun i =>
    if f.xmod.getLsbD (4 * bool1 ((cAt g f l).getLsbD i) + 2 * bool1 ((bAt g f l).getLsbD i) + bool1 ((aAt g f l).getLsbD i)) then 1 else 0)) ∧
  LaneLaw (.ipick f) f (uniformly f) (fun g _ l => if (pReg g f.c.num).getLsbD l then aAt g f l else bAt g f l)

/-- R295, R296. Counts, bit reversal, and the extraction and insertion of a field whose position is in bits 7:0 of its control and whose
length in bits 15:8. -/
def Obligations.BitResults : Prop := ∀ f : Fx,
  let w := f.ty.width
  let d1 (h : Nat → Nat) : Group → Mask → Nat → Word := fun g _ l => mapElems w h (aAt g f l)
  let len (ctl : Nat) : Nat := min (ctl / 256 % 256) (w - ctl % 256)
  let empty (ctl : Nat) : Bool := w ≤ ctl % 256 || ctl / 256 % 256 == 0
  LaneLaw (.popc f) f (uniformly f) (d1 fun x => ((List.range w).filter (bitAt x)).length) ∧
  LaneLaw (.clz f) f (uniformly f) (d1 fun x => if x = 0 then w else w - 1 - Nat.log2 x) ∧
  LaneLaw (.ctz f) f (uniformly f) (d1 fun x => ((List.range w).find? (bitAt x)).getD w) ∧
  LaneLaw (.brev f) f (uniformly f) (d1 fun x => (List.range w).foldl (fun a i => 2 * a + x / 2 ^ i % 2) 0) ∧
  LaneLaw (.bfx f) f (uniformly f) (fun g _ l => zipElems w (fun x ctl =>
    if empty ctl then 0 else wrapTo w (asInt f.ty.signed (len ctl) (x / 2 ^ (ctl % 256) % 2 ^ len ctl))) (aAt g f l) (bAt g f l)) ∧
  LaneLaw (.bfi f) f (uniformly f) (fun g _ l => zipElems3 w (fun x y ctl =>
    if empty ctl then x else x - x / 2 ^ (ctl % 256) % 2 ^ len ctl * 2 ^ (ctl % 256) + y % 2 ^ len ctl * 2 ^ (ctl % 256))
    (aAt g f l) (bAt g f l) (cAt g f l))

/-- R289, R297, R298, R300, R301. IMADW, IDOT, MOV, LEA, TAGS, TAGG and UNPK. -/
def Obligations.WidthResults : Prop := ∀ f : Fx,
  let w := f.ty.width
  let num (x : Nat) : Int := asInt f.ty.signed w x
  LaneLaw (.imadw f) f (uniformly f) (fun g _ l => BitVec.ofNat 64 (packFrom (2 * w) (fun j => wrapTo (2 * w)
    (num (elemAt w (aAt g f l) j) * num (elemAt w (bAt g f l) j) + asInt f.ty.signed (2 * w) (elemAt (2 * w) (cAt g f l) j))) (32 / w) 0)) ∧
  LaneLaw (.idot f) f (uniformly f) (fun g _ l => BitVec.ofNat 64 (packFrom 32 (fun h => wrapTo 32 ((List.range (32 / w)).foldl (fun acc j =>
    acc + num (elemAt w (aAt g f l) (32 / w * h + j)) * num (elemAt w (bAt g f l) (32 / w * h + j)))
    (asInt f.ty.signed 32 (elemAt 32 (cAt g f l) h)))) 2 0)) ∧
  LaneLaw (.mov f) f (uniformly f) (fun g _ l => if f.a = .none then bAt g f l else aAt g f l) ∧
  LaneLaw (.lea f) f (uniformly f) (fun g _ l => BitVec.ofNat 64 ((aAt g f l).toNat / 2 ^ 56 * 2 ^ 56 +
    wrapTo 56 (((aAt g f l).toNat : Int) + asInt f.ty.signed 64 (bAt g f l).toNat * 2 ^ f.modAt 0 3))) ∧
  LaneLaw (.tags f) f (uniformly f) (fun g _ l => BitVec.ofNat 64
    ((aAt g f l).toNat - (aAt g f l).toNat / 2 ^ 56 % 2 ^ 4 * 2 ^ 56 + (bAt g f l).toNat % 2 ^ 4 * 2 ^ 56)) ∧
  LaneLaw (.tagg f) f (uniformly f) (fun g _ l => BitVec.ofNat 64 ((aAt g f l).toNat / 2 ^ 56 % 2 ^ 4)) ∧
  LaneLaw (.unpk f) f (uniformly f) (fun g _ l => packElems (2 * w) (fun j =>
    wrapTo (2 * w) (num (elemAt w (aAt g f l) (j + (if f.modAt 0 1 == 1 then 64 / w / 2 else 0))))))

/-- R299, R301, R312, R238, R313, R242. CVTI, PACK and F2I: the elements of the result, and ASTAT.SAT in the lanes of which an element
saturated. BXENC: each lane takes the bytes of its block's elements and the block's scale, and ASTAT.SAT rises in the lanes of which an
element of a block saturated. -/
def Obligations.SaturatingResults : Prop := ∀ f : Fx,
  let w := f.ty.width
  let sat := f.modAt 0 1 == 1
  let src := Ty.ofCode (f.modAt 0 4)
  let csat := f.modAt 4 1 == 1
  let cn := 64 / max src.width w
  let cv (g : Group) (l k : Nat) : Int := asInt src.signed src.width (elemAt src.width (aAt g f l) k)
  let pv (g : Group) (l j : Nat) : Int := asInt f.ty.signed (2 * w) (if j < 64 / w / 2 then elemAt (2 * w) (aAt g f l) j else elemAt (2 * w) (bAt g f l) (j - 64 / w / 2))
  let fs := floatSource (f.modAt 3 2)
  let fn := 64 / max fs.width w
  let fv (g : Group) (l k : Nat) : Nat × Bool :=
    toIntF (fmtOf fs) (modeOf f) f.ty.signed w (elemAt fs.width (aAt g f l) (k + (if f.modAt 5 1 == 1 then fn else 0)))
  let bxs (g : Group) (m : Mask) := (List.range (64 / fs.width)).map (bxBlock (f.ty == .bx8) fs (f.modAt 0 3 + 1) (aAt g f) m)
  SatLaw (.cvti f) f (uniformly f)
    (fun g _ l => BitVec.ofNat 64 (packFrom w (fun k => wrapTo w (if csat then clampTo f.ty.signed w (cv g l k) else cv g l k)) cn 0))
    (fun g _ l => csat && (List.range cn).any (fun k => clampTo f.ty.signed w (cv g l k) != cv g l k)) ∧
  SatLaw (.pack f) f (uniformly f)
    (fun g _ l => packElems w (fun j => wrapTo w (if sat then clampTo f.ty.signed w (pv g l j) else pv g l j)))
    (fun g _ l => sat && (List.range (64 / w)).any (fun j => clampTo f.ty.signed w (pv g l j) != pv g l j)) ∧
  SatLaw (.f2i f) f (uniformly f)
    (fun g _ l => BitVec.ofNat 64 (packFrom w (fun k => (fv g l k).1) fn 0))
    (fun g _ l => (List.range fn).any (fun k => (fv g l k).2)) ∧
  SatLaw (.bxenc f) f inFull
    (fun g m l => bxLane (f.ty == .bx8) (bxs g m) l)
    (fun g m l => (bxs g m).any (fun b => (b.2.getD l (0, false)).2))

/-- R234, R236, R237, R305, R308, R311, R312. The float arithmetic of class 0, sub-element by sub-element under the rounding mode of MOD[2:0].
The canonical NaN of each type is R234's, and whatever meets a NaN gives it. A magnitude that rounds past the largest finite value becomes, for
each mode and sign, what the table of R236 names. An exact zero sum of unlike signs is +0, and -0 under RDN; zeros multiply and divide to the
exclusive-or of their signs; the invalid operations give the canonical NaN, and the root of -0 is -0. FMIN and FMAX take the smaller and the
larger, -0 below +0, and the other operand of a NaN. Comparisons take the zeros for equal and a NaN for unordered. -/
def Obligations.FloatResults : Prop := ∀ f : Fx,
  let w := f.ty.width
  let fm := fmtOf f.ty
  let d2 (h : Nat → Nat → Nat) : Group → Mask → Nat → Word := fun g _ l => zipElems w h (aAt g f l) (bAt g f l)
  let fs := floatSource (f.modAt 3 2)
  let is := Ty.ofCode (f.modAt 3 3)
  let cvt (x : Nat) : Nat := packF fm (modeOf f) (unpackF (fmtOf fs) x)
  let cn := 64 / max fs.width w
  let iN := 64 / max is.width w
  LaneLaw (.fadd f) f (uniformly f) (d2 (addF fm (modeOf f))) ∧
  LaneLaw (.fsub f) f (uniformly f) (d2 (subF fm (modeOf f))) ∧
  LaneLaw (.fmul f) f (uniformly f) (d2 (mulF fm (modeOf f))) ∧
  LaneLaw (.ffma f) f (uniformly f) (fun g _ l => zipElems3 w (fmaF fm (modeOf f)) (aAt g f l) (bAt g f l) (cAt g f l)) ∧
  LaneLaw (.fmin f) f (uniformly f) (d2 (minF fm)) ∧
  LaneLaw (.fmax f) f (uniformly f) (d2 (maxF fm)) ∧
  LaneLaw (.frnd f) f (uniformly f) (fun g _ l => mapElems w (frndF fm (modeOf f)) (aAt g f l)) ∧
  LaneLaw (.cvtf f) f (uniformly f) (fun g _ l =>
    if w < fs.width then BitVec.ofNat 64 (packFrom w (fun k => if k < cn then cvt (elemAt fs.width (aAt g f l) k)
      else if f.hasB then cvt (elemAt fs.width (bAt g f l) (k - cn)) else 0) (2 * cn) 0)
    else BitVec.ofNat 64 (packFrom w (fun k => cvt (elemAt fs.width (aAt g f l) (k + (if f.modAt 5 1 == 1 then cn else 0)))) cn 0)) ∧
  LaneLaw (.i2f f) f (uniformly f) (fun g _ l => BitVec.ofNat 64 (packFrom w (fun k => ofIntF fm (modeOf f)
    (asInt is.signed is.width (elemAt is.width (aAt g f l) (k + (if f.modAt 6 1 == 1 then iN else 0))))) iN 0)) ∧
  (fmtF16.nanBits = 0x7E00 ∧ fmtBf16.nanBits = 0x7FC0 ∧ fmtF32.nanBits = 0x7FC0_0000 ∧ fmtF64.nanBits = 0x7FF8_0000_0000_0000) ∧
  (∀ fm ∈ [fmtF16, fmtBf16, fmtF32, fmtF64], ∀ r : RMode,
    let zero (s : Bool) : Nat := if s then fm.signBit else 0
    let val (s : Bool) (m : Nat) (e : Int) : ℚ := (if s then -1 else 1) * (m : ℚ) * 2 ^ e
    let largest : ℚ := (2 ^ (fm.fb + 1) - 1) * 2 ^ (fm.bias - (fm.fb : Int))
    let half : ℚ := 2 ^ (fm.bias - (fm.fb : Int) - 1)
    (∀ m e, let v := val false m e
      (r = .rne ∨ r = .rna → largest + half ≤ v → ∀ s, packF fm r (.fin s m e) = zero s + fm.infBits) ∧
      (r = .rtz → largest ≤ v → ∀ s, packF fm r (.fin s m e) = zero s + fm.maxBits) ∧
      (r = .rup → (largest < v → packF fm r (.fin false m e) = fm.infBits) ∧ (largest ≤ v → packF fm r (.fin true m e) = fm.signBit + fm.maxBits)) ∧
      (r = .rdn → (largest < v → packF fm r (.fin true m e) = fm.signBit + fm.infBits) ∧ (largest ≤ v → packF fm r (.fin false m e) = fm.maxBits))) ∧
    (∀ a b c, isNan (unpackF fm a) = true ∨ isNan (unpackF fm b) = true →
      addF fm r a b = fm.nanBits ∧ subF fm r a b = fm.nanBits ∧ mulF fm r a b = fm.nanBits ∧ divF fm r (unpackF fm a) (unpackF fm b) = fm.nanBits ∧
      fmaF fm r a b c = fm.nanBits ∧ fmaF fm r c a b = fm.nanBits) ∧
    (∀ a, isNan (unpackF fm a) = true → frndF fm r a = fm.nanBits ∧ sqrtF fm r (unpackF fm a) = fm.nanBits) ∧
    (∀ a b s t m n e d, unpackF fm a = .fin s m e → unpackF fm b = .fin t n d →
      (val false m e = val false n d → (s ≠ t → addF fm r a b = zero (r == .rdn)) ∧ (s = t → subF fm r a b = zero (r == .rdn))) ∧
      (m = 0 → n = 0 → (s = t → addF fm r a b = zero s) ∧ (s ≠ t → subF fm r a b = zero s)) ∧
      (m = 0 ∨ n = 0 → mulF fm r a b = zero (s != t)) ∧
      (m = 0 → n ≠ 0 → divF fm r (.fin s m e) (.fin t n d) = zero (s != t)) ∧
      (m = 0 → n = 0 → divF fm r (.fin s m e) (.fin t n d) = fm.nanBits) ∧
      (val s m e < val t n d → minF fm a b = a ∧ maxF fm a b = b) ∧
      (val t n d < val s m e → minF fm a b = b ∧ maxF fm a b = a) ∧
      (m = 0 → n = 0 → s ≠ t → minF fm a b = (if s then a else b) ∧ maxF fm a b = if s then b else a) ∧
      (m ≠ 0 → sqrtF fm r (.fin true m e) = fm.nanBits) ∧ (m = 0 → sqrtF fm r (.fin true m e) = fm.signBit)) ∧
    (∀ a b s t, unpackF fm a = .inf s → unpackF fm b = .inf t →
      divF fm r (.inf s) (.inf t) = fm.nanBits ∧ (s ≠ t → addF fm r a b = fm.nanBits) ∧ (s = t → subF fm r a b = fm.nanBits)) ∧
    (∀ a b s t n d, unpackF fm a = .inf s → unpackF fm b = .fin t n d →
      (n = 0 → mulF fm r a b = fm.nanBits ∧ mulF fm r b a = fm.nanBits) ∧
      minF fm a b = (if s then a else b) ∧ minF fm b a = (if s then a else b) ∧ maxF fm a b = (if s then b else a) ∧ maxF fm b a = if s then b else a) ∧
    (∀ a b, let x := isNan (unpackF fm a)
      let y := isNan (unpackF fm b)
      (x = true → y = true → minF fm a b = fm.nanBits ∧ maxF fm a b = fm.nanBits) ∧
      (x = true → y = false → minF fm a b = b ∧ maxF fm a b = b) ∧
      (x = false → y = true → minF fm a b = a ∧ maxF fm a b = a))) ∧
  (∀ c, c ≤ 13 →
    (∀ x y, isNan x = true ∨ isNan y = true → floatCond c x y = decide (7 ≤ c)) ∧
    (∀ s t e d, floatCond c (.fin s 0 e) (.fin t 0 d) = [0, 3, 5, 6, 8, 11, 13].contains c))

/-- R315 to R322, R281, R314. The instructions that read other lanes write full form, but for PRM and LBC.
The model's own choices here, no rule of the spec: the form of LBC's result (log 37). -/
def Obligations.CrossLaneResults : Prop := ∀ f : Fx,
  let w := f.ty.width
  let sz := 2 ^ f.modAt 2 3
  LaneLaw (.lxch f) f inFull (fun g _ l =>
    let base := l / sz * sz
    let i := (bAt g f l).toNat % 2 ^ 32
    match f.modAt 0 2 with
    | 0 => aAt g f (base + i % sz)
    | 1 => if base + i ≤ l then aAt g f (l - i) else cAt g f l
    | 2 => if l + i < base + sz then aAt g f (l + i) else cAt g f l
    | _ => aAt g f (base + ((l - base) ^^^ (i % sz)))) ∧
  LaneLaw (.prm f) f (uniformly f) (fun g _ l => packElems 8 (fun i =>
    if elemAt 4 (bAt g f l) i < 8 then byteAt (aAt g f l) (elemAt 4 (bAt g f l) i) else byteAt (cAt g f l) (elemAt 4 (bAt g f l) i - 8))) ∧
  LaneLaw (.lbc f) f (fun i m => isFull i.g m && f.b != .k .lane) (fun g _ l => aAt g f ((bAt g f l).toNat % 32)) ∧
  (f.modAt 0 3 < 6 → LaneLaw (.redc f) f inFull (fun g m _ => packElems w (fun k => treeReduce (reduceOp f.ty (f.modAt 0 3)) (laneNums.map (fun l =>
    if inMask m l then elemAt w (aAt g f l) k else reduceUnit f.ty (f.modAt 0 3)))))) ∧
  (6 ≤ f.modAt 0 3 → LaneLaw (.redc f) f inFull (fun g m _ =>
    let x := pickIndex f.ty (f.modAt 0 3 == 7) ((lanesIn m).map (fun l => (l, elemAt w (aAt g f l) 0)))
    BitVec.ofNat 64 (x.2 + 2 ^ 32 * x.1))) ∧
  LaneLaw (.scan f) f inFull (fun g m l =>
    let s := 2 ^ f.modAt 4 3
    let first := l / s * s
    packElems w (fun k => (List.range (l - first + (if f.modAt 3 1 == 1 then 0 else 1))).foldl (fun acc j => reduceOp f.ty (f.modAt 0 3) acc
      (if inMask m (first + j) then elemAt w (aAt g f (first + j)) k else reduceUnit f.ty (f.modAt 0 3))) (reduceUnit f.ty (f.modAt 0 3)))) ∧
  (f.modAt 0 1 = 0 → LaneLaw (.matchLanes f) f inFull (fun g m l => BitVec.ofNat 64 (maskWhere (fun j =>
    inMask m j && (aAt g f j).toNat % 2 ^ w == (aAt g f l).toNat % 2 ^ w)).toNat)) ∧
  LaneLaw (.voteBal f) f inFull (fun g m _ => BitVec.ofNat 64 (voteMask g f &&& m).toNat) ∧
  LaneLaw (.bxdec f) f inFull (fun g _ l => packElems w (fun j =>
    packF (fmtOf f.ty) (modeOf f) (bxValue (f.modAt 3 1 == 0) (bxElement (f.modAt 3 1 == 0) g f j l) (bxPair g f j % 256) (bxPair g f j / 256))))

/-- R281, R291, R306, R307, R322. The instructions that write a predicate. -/
def Obligations.PredicateResults : Prop := ∀ f : Fx,
  let w := f.ty.width
  let n := 64 / w
  let num (x : Word) (k : Nat) : Int := asInt f.ty.signed w (elemAt w x k)
  PredLaw (.icmp f) f (fun g _ l =>
    let hit (k : Nat) : Bool :=
      match f.modAt 0 3 with
      | 0 => num (aAt g f l) k == num (bAt g f l) k
      | 1 => num (aAt g f l) k != num (bAt g f l) k
      | 2 => num (aAt g f l) k < num (bAt g f l) k
      | 3 => num (aAt g f l) k ≤ num (bAt g f l) k
      | 4 => num (aAt g f l) k > num (bAt g f l) k
      | _ => num (aAt g f l) k ≥ num (bAt g f l) k
    (if f.modAt 3 1 == 1 then (List.range n).any hit else (List.range n).all hit) &&
      (match f.c with | .p q => inMask (pReg g q.toNat) l | _ => true)) ∧
  PredLaw (.fsetp f) f (fun g _ l =>
    let hit (k : Nat) : Bool := floatCond (f.modAt 0 4) (unpackF (fmtOf f.ty) (elemAt w (aAt g f l) k)) (unpackF (fmtOf f.ty) (elemAt w (bAt g f l) k))
    (if f.modAt 4 1 == 1 then (List.range n).any hit else (List.range n).all hit) &&
      (match f.c with | .p q => inMask (pReg g q.toNat) l | _ => true)) ∧
  PredLaw (.fcls f) f (fun g _ l =>
    let hit (k : Nat) : Bool := bitAt (uniformB g f % 1024) (classBit (fmtOf f.ty) (elemAt w (aAt g f l) k))
    if f.modAt 0 1 == 1 then (List.range n).all hit else (List.range n).any hit) ∧
  PredLaw (.voteAny f) f (fun g m _ => (voteMask g f &&& m) != 0) ∧
  PredLaw (.voteAll f) f (fun g m _ => (voteMask g f &&& m) == m) ∧
  PredLaw (.plop f) f (fun g _ l => f.xmod.getLsbD (bool1 (predBit g f f.a l) + 2 * bool1 (predBit g f f.b l) + 4 * bool1 (predBit g f f.c l))) ∧
  PredLaw (.pmov f) f (fun g _ l => if f.a.isV then aAt g f l != 0 else (aAt g f l).getLsbD l) ∧
  (f.modAt 0 1 = 1 → PredLaw (.matchLanes f) f (fun g m _ => (lanesIn m).all (fun l =>
    (aAt g f l).toNat % 2 ^ w == (aAt g f (lowestLane m)).toNat % 2 ^ w)))

/-- R233, R290, R309, R310. The class 1 instructions: the values that the vector engine will write, and the lanes of a division corner.
Quotient and remainder of a corner are those of R233.
The model's own choices here, no rule of the spec: the special functions' evaluation (log 7), and that values are taken at issue (log 37). -/
def Obligations.VectorResults : Prop := ∀ f : Fx,
  let w := f.ty.width
  let fm := fmtOf f.ty
  let num (x : Nat) : Int := asInt f.ty.signed w x
  let most (x y : Int) : Bool := f.ty.signed && x == -(2 ^ (w - 1) : Int) && y == -1
  let bad (g : Group) (l : Nat) : Bool := (List.range (64 / w)).any (fun k =>
    num (elemAt w (bAt g f l) k) == 0 || most (num (elemAt w (aAt g f l) k)) (num (elemAt w (bAt g f l) k)))
  let d2 (h : Int → Int → Int) : Group → Nat → Word := fun g l => zipElems w (fun x y => wrapTo w (h (num x) (num y))) (aAt g f l) (bAt g f l)
  let f1 (h : FVal → Nat) : Group → Nat → Word := fun g l => mapElems w (fun x => h (unpackF fm x)) (aAt g f l)
  let never : Group → Nat → Bool := fun _ _ => false
  VectorLaw (.idiv f) f (d2 fun x y => if y = 0 then -1 else if most x y then -(2 ^ (w - 1) : Int) else x.tdiv y) bad ∧
  VectorLaw (.irem f) f (d2 fun x y => if y = 0 then x else if most x y then 0 else x - x.tdiv y * y) bad ∧
  VectorLaw (.frcp f) f (f1 (divF fm (modeOf f) (.fin false 1 0))) never ∧
  VectorLaw (.frsq f) f (f1 (rsqrtF fm (modeOf f))) never ∧
  VectorLaw (.fsqrt f) f (f1 (sqrtF fm (modeOf f))) never ∧
  VectorLaw (.fdiv f) f (fun g l => zipElems w (fun x y => divF fm (modeOf f) (unpackF fm x) (unpackF fm y)) (aAt g f l) (bAt g f l)) never ∧
  VectorLaw (.fex2 f) f (f1 (ex2F fm (modeOf f))) never ∧
  VectorLaw (.flg2 f) f (f1 (lg2F fm (modeOf f))) never ∧
  VectorLaw (.fsin f) f (f1 (sinF fm (modeOf f))) never ∧
  VectorLaw (.fcos f) f (f1 (cosF fm (modeOf f))) never ∧
  VectorLaw (.ftanh f) f (f1 (tanhF fm (modeOf f))) never ∧
  VectorLaw (.fsig f) f (f1 (sigF fm (modeOf f))) never

/-- R256. Each compact instruction runs as the F instruction that the table names: d = vd, a = va, b = vb (none for MOV), the guard p0 when
G is 1 and none when it is 0, the last-use bits of a and b, no modifier and no flag. Wherever it issues, it completes.
R257, R251. Each immediate instruction runs as the F instruction that the table names: d = vd, a = va (none for MOV), b the
sign-extended immediate, unguarded, no modifier and no flag. Wherever it issues, it completes. -/
def Obligations.ShortForms : Prop :=
  (∀ c : CForm,
    let form (t : Ty) : Fx :=
      { ty := t, d := .v c.vd, a := .v c.va, b := .v c.vb, c := .none, lua := c.lua, lub := c.lub, luc := false,
        guard := if c.g then 0 else 7, gneg := false, fen := false, fsel := false, reuse := false, md := 0, ext := .f }
    let mov : Fx := { form .b64 with b := .none, lub := false }
    RunsAs (.iaddI32C c) (.iadd (form .i32)) (form .i32) ∧
    RunsAs (.isubI32C c) (.isub (form .i32)) (form .i32) ∧
    RunsAs (.imulI32C c) (.imul (form .i32)) (form .i32) ∧
    RunsAs (.iminI32C c) (.imin (form .i32)) (form .i32) ∧
    RunsAs (.imaxI32C c) (.imax (form .i32)) (form .i32) ∧
    RunsAs (.iaddI64C c) (.iadd (form .i64)) (form .i64) ∧
    RunsAs (.isubI64C c) (.isub (form .i64)) (form .i64) ∧
    RunsAs (.andB64C c) (.andBits (form .b64)) (form .b64) ∧
    RunsAs (.orB64C c) (.orBits (form .b64)) (form .b64) ∧
    RunsAs (.xorB64C c) (.xorBits (form .b64)) (form .b64) ∧
    RunsAs (.shlB32C c) (.shl (form .b32)) (form .b32) ∧
    RunsAs (.shrN32C c) (.shr (form .n32)) (form .n32) ∧
    RunsAs (.sarI32C c) (.sar (form .i32)) (form .i32) ∧
    RunsAs (.shlB64C c) (.shl (form .b64)) (form .b64) ∧
    RunsAs (.shrN64C c) (.shr (form .n64)) (form .n64) ∧
    RunsAs (.iminN32C c) (.imin (form .n32)) (form .n32) ∧
    RunsAs (.imaxN32C c) (.imax (form .n32)) (form .n32) ∧
    RunsAs (.faddF32C c) (.fadd (form .f32)) (form .f32) ∧
    RunsAs (.fsubF32C c) (.fsub (form .f32)) (form .f32) ∧
    RunsAs (.fmulF32C c) (.fmul (form .f32)) (form .f32) ∧
    RunsAs (.fminF32C c) (.fmin (form .f32)) (form .f32) ∧
    RunsAs (.fmaxF32C c) (.fmax (form .f32)) (form .f32) ∧
    RunsAs (.faddF16C c) (.fadd (form .f16)) (form .f16) ∧
    RunsAs (.fmulF16C c) (.fmul (form .f16)) (form .f16) ∧
    RunsAs (.faddBf16C c) (.fadd (form .bf16)) (form .bf16) ∧
    RunsAs (.fmulBf16C c) (.fmul (form .bf16)) (form .bf16) ∧
    RunsAs (.faddF64C c) (.fadd (form .f64)) (form .f64) ∧
    RunsAs (.fmulF64C c) (.fmul (form .f64)) (form .f64) ∧
    RunsAs (.fminF64C c) (.fmin (form .f64)) (form .f64) ∧
    RunsAs (.fmaxF64C c) (.fmax (form .f64)) (form .f64) ∧
    RunsAs (.movB64C c) (.mov mov) mov) ∧
  (∀ j : IForm,
    let form (t : Ty) : Fx :=
      { ty := t, d := .v j.vd, a := .v j.va, b := .none, c := .none, lua := j.lua, lub := false, luc := false,
        guard := 7, gneg := false, fen := false, fsel := false, reuse := false, md := 0, ext := .lit (j.imm.signExtend 32) }
    let mov (t : Ty) : Fx := { form t with a := .none, lua := false }
    RunsAs (.iaddI32I j) (.iadd (form .i32)) (form .i32) ∧
    RunsAs (.iaddI64I j) (.iadd (form .i64)) (form .i64) ∧
    RunsAs (.andB32I j) (.andBits (form .b32)) (form .b32) ∧
    RunsAs (.orB32I j) (.orBits (form .b32)) (form .b32) ∧
    RunsAs (.xorB32I j) (.xorBits (form .b32)) (form .b32) ∧
    RunsAs (.shlB32I j) (.shl (form .b32)) (form .b32) ∧
    RunsAs (.shrN32I j) (.shr (form .n32)) (form .n32) ∧
    RunsAs (.sarI32I j) (.sar (form .i32)) (form .i32) ∧
    RunsAs (.shlB64I j) (.shl (form .b64)) (form .b64) ∧
    RunsAs (.shrN64I j) (.shr (form .n64)) (form .n64) ∧
    RunsAs (.imulI32I j) (.imul (form .i32)) (form .i32) ∧
    RunsAs (.iminI32I j) (.imin (form .i32)) (form .i32) ∧
    RunsAs (.imaxI32I j) (.imax (form .i32)) (form .i32) ∧
    RunsAs (.movI32I j) (.mov (mov .i32)) (mov .i32) ∧
    RunsAs (.movI64I j) (.mov (mov .i64)) (mov .i64))

/-- R258, R259, R41. A pair whose halves are legal together: half 0 under its guard writes its operation's value to its vd, half 1 under its
own guard to its own vd, each of the values that the registers hold before either writes; a half is d = vd, a = vd, b = vs (MOV: a = vs).
Each row names half 0; half 1 has any of the operations. -/
def Obligations.PairResults : Prop := ∀ (h0 : PHalf) (o1 : PairOp) (h1 : PHalf), pairOk h0 h1 = true →
  let form (t : Ty) (h : PHalf) : Fx :=
    { ty := t, d := .v h.vd, a := .v h.vd, b := .v h.vs, c := .none, lua := false, lub := h.lus, luc := false,
      guard := h.guard, gneg := h.gneg, fen := false, fsel := false, reuse := false, md := 0, ext := .f }
  let mov (h : PHalf) : Fx := { form .b64 h with a := .v h.vs, b := .none, lua := h.lus, lub := false }
  let one : Fx × (Group → Nat → Word) := match o1 with
    | .iaddI32 => (form .i32 h1, valAdd (form .i32 h1))
    | .isubI32 => (form .i32 h1, valSub (form .i32 h1))
    | .iaddI64 => (form .i64 h1, valAdd (form .i64 h1))
    | .andB64 => (form .b64 h1, valAnd (form .b64 h1))
    | .orB64 => (form .b64 h1, valOr (form .b64 h1))
    | .xorB64 => (form .b64 h1, valXor (form .b64 h1))
    | .iminI32 => (form .i32 h1, valMin (form .i32 h1))
    | .imaxI32 => (form .i32 h1, valMax (form .i32 h1))
    | .faddF32 => (form .f32 h1, valFadd (form .f32 h1))
    | .fmulF32 => (form .f32 h1, valFmul (form .f32 h1))
    | .fminF32 => (form .f32 h1, valFmin (form .f32 h1))
    | .fmaxF32 => (form .f32 h1, valFmax (form .f32 h1))
    | .faddBf16 => (form .bf16 h1, valFadd (form .bf16 h1))
    | .fmulBf16 => (form .bf16 h1, valFmul (form .bf16 h1))
    | .faddF16 => (form .f16 h1, valFadd (form .f16 h1))
    | .fmulF16 => (form .f16 h1, valFmul (form .f16 h1))
    | .movB64 => (mov h1, valMov (mov h1))
    | .faddF64 => (form .f64 h1, valFadd (form .f64 h1))
    | .fmulF64 => (form .f64 h1, valFmul (form .f64 h1))
  PairLaw (.iaddI32P h0 o1 h1) (form .i32 h0) one.1 (valAdd (form .i32 h0)) one.2 ∧
  PairLaw (.isubI32P h0 o1 h1) (form .i32 h0) one.1 (valSub (form .i32 h0)) one.2 ∧
  PairLaw (.iaddI64P h0 o1 h1) (form .i64 h0) one.1 (valAdd (form .i64 h0)) one.2 ∧
  PairLaw (.andB64P h0 o1 h1) (form .b64 h0) one.1 (valAnd (form .b64 h0)) one.2 ∧
  PairLaw (.orB64P h0 o1 h1) (form .b64 h0) one.1 (valOr (form .b64 h0)) one.2 ∧
  PairLaw (.xorB64P h0 o1 h1) (form .b64 h0) one.1 (valXor (form .b64 h0)) one.2 ∧
  PairLaw (.iminI32P h0 o1 h1) (form .i32 h0) one.1 (valMin (form .i32 h0)) one.2 ∧
  PairLaw (.imaxI32P h0 o1 h1) (form .i32 h0) one.1 (valMax (form .i32 h0)) one.2 ∧
  PairLaw (.faddF32P h0 o1 h1) (form .f32 h0) one.1 (valFadd (form .f32 h0)) one.2 ∧
  PairLaw (.fmulF32P h0 o1 h1) (form .f32 h0) one.1 (valFmul (form .f32 h0)) one.2 ∧
  PairLaw (.fminF32P h0 o1 h1) (form .f32 h0) one.1 (valFmin (form .f32 h0)) one.2 ∧
  PairLaw (.fmaxF32P h0 o1 h1) (form .f32 h0) one.1 (valFmax (form .f32 h0)) one.2 ∧
  PairLaw (.faddBf16P h0 o1 h1) (form .bf16 h0) one.1 (valFadd (form .bf16 h0)) one.2 ∧
  PairLaw (.fmulBf16P h0 o1 h1) (form .bf16 h0) one.1 (valFmul (form .bf16 h0)) one.2 ∧
  PairLaw (.faddF16P h0 o1 h1) (form .f16 h0) one.1 (valFadd (form .f16 h0)) one.2 ∧
  PairLaw (.fmulF16P h0 o1 h1) (form .f16 h0) one.1 (valFmul (form .f16 h0)) one.2 ∧
  PairLaw (.movB64P h0 o1 h1) (mov h0) one.1 (valMov (mov h0)) one.2 ∧
  PairLaw (.faddF64P h0 o1 h1) (form .f64 h0) one.1 (valFadd (form .f64 h0)) one.2 ∧
  PairLaw (.fmulF64P h0 o1 h1) (form .f64 h0) one.1 (valFmul (form .f64 h0)) one.2

/-! ### Decoding -/

/-- Words that the spec writes out decode to the instructions that they stand for: BRA of R274, BAR.sync of R280, ICMP of R291, FSETP of R306,
LD and FENCE of R327, GETSR of R353, MMA of R359. -/
def Obligations.DecodedWords : Prop :=
  let plain : Fx := { ty := .b64, d := .none, a := .none, b := .none, c := .none, lua := false, lub := false, luc := false, guard := 7, gneg := false,
                      fen := false, fsel := false, reuse := false, md := 0, ext := .f }
  decode (parcelBytes [0xFFFFB817, 0x00047FFF, 0x000000D0]) = .ok (.bra { plain with ty := .i64, guard := 1, ext := .lit 0xD0 }, []) ∧
  decode (parcelBytes [0xFFFFA05A, 0x181C7FFF]) = .ok (.barSync { plain with ty := .n32, md := 0b0001100 }, []) ∧
  decode (parcelBytes [0x82612972, 0x041C7F82]) = .ok (.icmp { plain with ty := .i32, d := .p 2, a := .v 4, b := .v 5, md := 2 }, []) ∧
  decode (parcelBytes [0x8160D2B2, 0x041C7F81]) = .ok (.fsetp { plain with ty := .f32, d := .p 1, a := .v 2, b := .v 3, md := 2 }, []) ∧
  decode (parcelBytes [0x42047C02, 0x005D7F82]) = .ok (.ld { plain with d := .v 8, a := .s 4, b := .v 4, lub := true, fen := true }, []) ∧
  decode (parcelBytes [0xFFFF847A, 0x221C7FFF]) = .ok (.fenceRel { plain with ty := .n8, md := 0b0010001 }, []) ∧
  decode (parcelBytes [0xFFC2869F, 0x001C7FFF, 0x00000021]) = .ok (.getsr { plain with ty := .n8, d := .s 5, ext := .lit 0x21 }, []) ∧
  decode (parcelBytes [0x0410058A, 0x025C7F88]) = .ok (.mma { plain with ty := .n8, d := .v 32, a := .v 8, b := .v 16, fen := true, md := 1 }, [])

/-! ### The step -/

/-- A STEP RUNS THE DECODED INSTRUCTION. When no event is due, prompt or overdue, the entry that the first scheduler in turn tries first stands in a
clause body, and the bytes at its PC decode to an instruction, the step is `exec` of that instruction with the cursor on the entry, when that
does not hold the entry; around it the step counts the issue, ages the entries passed over, advances the core's clock and the turn, and
settles the frontiers. When an event is due, the step is `exec` of it.
The model's own choices here, no rule of the spec: the agenda and the turn of the schedulers (log 1), what counts as an issue (log 14), and when entries take a header's priority (log 11). -/
def Obligations.StepRunsDecoded : Prop :=
  (∀ (s t : State) (k q slot : Nat) (e : Entry) (ws : List Nat) (i : Instr) (rest : List Entry) (slots : List Nat) (later : List (Nat × Nat)),
    let s0 : State := { s with cur := none }
    let s1 := peekHeaders (passSlot s0 k slot) k slot
    let at_ := pointAt s1 k slot e.mask (4 * ws.length)
    s.resetAsserted = false → s.agenda = [] → firstEvent s0 (promptEvents s0 ++ borderEvents s0 ++ overdueEvents s0) = none → schedulers s0 = (k, q) :: later →
    offerOrder (coreOf s0 k) q = slot :: slots → candidates s1 k slot = e :: rest → e.left ≠ 0 →
    CodeAt (coreOf s1 k) (slotGroupCtx s1 k slot) e.pc ws → decode (parcelBytes ws) = .ok (i, []) → exec i at_ = .next t → t.cur = none →
    step s = .next (settle (pumpFabric (endOffer exec { before := s1, slot := slot, e := e, after := t, rest := rest } k q))) ∧
      (endOffer exec { before := s1, slot := slot, e := e, after := t, rest := rest } k q).turn = 4 * k + q + 1) ∧
  (∀ (s t : State) (i : Instr) (r : List Due), s.resetAsserted = false → s.agenda = .ev i :: r → exec i { s with agenda := r, cur := none } = .next t →
    step s = .next (settle (pumpFabric { t with cur := none })))

/-- R19. AN INVARIANT OF EVERY STEP: the frontier of every group of every core is in the form of R19 (no empty entry, no two entries that
merge), whatever the step does; and a step always answers a next state.
The model's own choices here, no rule of the spec: which entries merge (log 11). -/
def Obligations.FrontiersKept : Prop := ∀ s : State, FrontiersNormal s → ∃ t, step s = .next t ∧ FrontiersNormal t

/-- R1, R62, R67, R69, R72, R131, R180, R183, R209, R415. What package reset leaves: the values that the spec states. Reset stands asserted
while a rail is out of its range. -/
def Obligations.ResetState : Prop :=
  let s := State.reset
  s.device.version = 0x0100_0000 ∧ s.device.dspill = 640 ∧ s.device.lock = false ∧ s.device.pcap = 4600 ∧ s.nextToken = 2 ∧
  s.fabric.deadt = 65536 ∧ s.fabric.fplane = 0x00E4 ∧ s.fabric.gaps = [] ∧ s.quar = [] ∧ s.cores = [] ∧ s.saved = [] ∧ s.launches = [] ∧
  (∀ k, (coreOf s k).ccyc = 0 ∧ (coreOf s k).mhz = 1500 ∧ (coreOf s k).suba = 0 ∧ (coreOf s k).l1 = [] ∧ (coreOf s k).icache = [] ∧
    (coreOf s k).teams = [] ∧ (coreOf s k).groups = [] ∧ (coreOf s k).ops = [] ∧
    (∀ b, b < 20 → (bankOf (coreOf s k) b).mode = .cache) ∧ (∀ b, 20 ≤ b → b < 40 → (bankOf (coreOf s k) b).mode = .scratch) ∧
    (∀ b, b < 40 → (bankOf (coreOf s k) b).owner = 63 ∧ (bankOf (coreOf s k) b).slot = 0 ∧ (bankOf (coreOf s k) b).lent = false)) ∧
  (∀ c, ctxOf s c = { ctxcfg := 0, kmargin := 4096, vstallmax := 65536, q := 256 }) ∧
  (∀ p, (polderOf s p).pcfg = 0 ∧ (polderOf s p).cores = 0 ∧ (polderOf s p).tomb = none) ∧
  (∀ d, (dieOf s d).vc = [0, 0, 0, 0] ∧ (dieOf s d).bstat = 0 ∧ (dieOf s d).meas = []) ∧
  (∀ kind m, tatByte s kind m = if m = 64 ∨ m = 65 then 0x0F else 0) ∧
  (exportEntry s 0).len = 0x0400_0000 ∧ MemoryCanonical s ∧ FrontiersNormal s ∧
  ∀ u : State, exec .packageReset u = .next { State.reset with
    agenda := u.agenda, fresh := u.fresh, rails := u.rails, resetAsserted := !u.rails.isEmpty }

/-! ### Carry, sampling, random numbers -/

/-- R288, R247, R323, R248, R324. IADDC takes its carry from the predicate c and leaves the carry out of bit 63 there; CSAMP writes the
lane that it picks, and to the predicate that MOD names whether there is one; RNG writes a function of RNGKEY, RNGCTR and the lane, and
RNGCTR advances by one. Wherever one issues, it completes. -/
def Obligations.CarrySampleRandom : Prop := ∀ (f : Fx) (s : State) (i : Issuer),
  let m := i.active f
  let v := (readView s i.g (srcNames f)).2
  let cin (l : Nat) : Nat := match f.c with | .p n => bool1 (inMask (pReg v n.toNat) l) | _ => 0
  let sum (l : Nat) : Nat := (aAt v f l).toNat + (bAt v f l).toNat + cin l
  let r : Nat := match f.lit? with | some x => x.toNat | none => (bAt v f (lowestLane m)).toNat % 2 ^ 32
  let pick := csampPick (laneNums.map (fun l => if inMask m l then elemAt 32 (aAt v f l) 0 else 0)) r
  let rnd (l : Nat) : Word := rngForm f.ty (rngOut i.g.rngkey i.g.rngctr l)
  (Issues s i f false (lanePlan i f 0 (uniformly f)) → ∃ t g, exec (.iaddc f) s = .next t ∧ Issued s t i [i.onward i.e.mask] g ∧
    VectorResult i g f (uniformResult i.g f m) m (fun l => BitVec.ofNat 64 (sum l)) ∧ ScalarResult i g f m (fun l => BitVec.ofNat 64 (sum l)) ∧
    (∀ n, n ≠ 7 → pReg g n = match f.c with
      | .p q => if n = q.toNat then (pReg i.g n &&& ~~~ m) ||| (maskWhere (fun l => sum l / 2 ^ 64 == 1) &&& m) else pReg i.g n
      | _ => pReg i.g n) ∧
    g.astat = i.g.astat ∧ { g with p := i.g.p }.besides i.g = i.g) ∧
  (Issues s i f false (lanePlan i f 0 inFull) → ∃ t g, exec (.csamp f) s = .next t ∧ Issued s t i [i.onward i.e.mask] g ∧
    VectorResult i g f false m (fun _ => BitVec.ofNat 64 pick.1) ∧ ScalarResult i g f m (fun _ => BitVec.ofNat 64 pick.1) ∧
    (∀ n, n ≠ 7 → pReg g n = if n = f.modAt 0 3 then (pReg i.g n &&& ~~~ m) ||| (if pick.2 then m else 0) else pReg i.g n) ∧
    g.astat = i.g.astat ∧ { g with p := i.g.p }.besides i.g = i.g) ∧
  (Issues s i f false (lanePlan i f 0 inFull) → ∃ t g, exec (.rng f) s = .next t ∧ Issued s t i [i.onward i.e.mask] g ∧
    VectorResult i g f false m rnd ∧ ScalarResult i g f m rnd ∧ g.p = i.g.p ∧ g.astat = i.g.astat ∧
    g.rngctr = i.g.rngctr + 1 ∧ { g with rngctr := i.g.rngctr }.besides i.g = i.g)

/-! ### Control -/

/-- R273, R274. The transfers: BRA and CALL to this instruction's address plus b, BRX, CALLX and RET to a; and every active lane is in
the part of its own target. -/
def Obligations.Transfers : Prop := ∀ f : Fx,
  TransferLaw (.bra f) f (fun i g l => i.e.pc + bAt g f l) ∧
  TransferLaw (.brx f) f (fun _ g l => aAt g f l) ∧
  TransferLaw (.call f) f (fun i g l => i.e.pc + bAt g f l) ∧
  TransferLaw (.callx f) f (fun _ g l => aAt g f l) ∧
  TransferLaw (.ret f) f (fun _ g l => aAt g f l) ∧
  (∀ (m : Mask) (t : Nat → Word) (l : Nat), l < 32 → inMask m l → ∃ e ∈ byTarget m t, e.1 = t l ∧ inMask e.2 l) ∧
  (∀ (m : Mask) (t : Nat → Word), ∀ e ∈ byTarget m t, ∀ l, l < 32 → inMask e.2 l → inMask m l ∧ t l = e.1)

/-- R275, R278, R279. NOP goes on; YIELD goes on and waits for the offer to pass the other seven slots of its scheduler; WAITF goes on when
the flags of its mask are 0, and is held while one is not. Nothing but the frontier changes.
The model's own choices here, no rule of the spec: that YIELD counts real issues (log 14). -/
def Obligations.WaitingInstructions : Prop := ∀ (f : Fx) (s : State) (i : Issuer), Reaches s i f false →
  (∃ t g, exec (.nop f) s = .next t ∧ Issued s t i [i.onward i.e.mask] g ∧ OnlyFrontier g i.g) ∧
  (∃ t g, exec (.yield f) s = .next t ∧
    Issued s t i [{ i.onward i.e.mask with hold := .yielded (((List.range 8).map (i.slot / 8 * 8 + ·)).filter (· != i.slot)) }] g ∧ OnlyFrontier g i.g) ∧
  (mustWait (coreOf s i.k) i.g (lanePlan i f 0 inFull) = false →
    (∀ n, n < 12 → (uniformB i.g f).testBit n = true → flagOf i.g n = 0) →
    ∃ t g, exec (.waitf f) s = .next t ∧ Issued s t i [i.onward i.e.mask] g ∧ OnlyFrontier g i.g) ∧
  ((∃ n, n < 12 ∧ (uniformB i.g f).testBit n = true ∧ flagOf i.g n ≠ 0) → exec (.waitf f) s = .next s)

/-- R27, R276. The active lanes of a JOIN wait at it, the others go on; when every lane that has not exited waits at a JOIN (while a trap is
in service, every lane of TLANES that has not exited), those lanes go on past their JOINs, and no others.
R34, R277. The active lanes exit: they stand in no entry, EXITED holds them, and a group of which every lane has exited holds no
register. Memory stands.
The model's own choices here, no rule of the spec: where waiting lanes stand (log 14). -/
def Obligations.JoinsAndExits : Prop :=
  (∀ (f : Fx) (s : State) (i : Issuer), Reaches s i f false →
    let m := i.active f
    let h : Group := { replaceEntry i.g i.e
      [issuedAge { i.e with mask := m, st := .waitingJoin, skip := i.len }, i.onward (i.others m)] with begun := true }
    let awaited : Mask := if i.g.service.isSome then i.g.tlanes &&& liveLanes h else liveLanes h
    ∃ t g, exec (.join f) s = .next t ∧ t.issued = true ∧ t.cur = none ∧ OnlyGroup s t i ∧ groupAt (coreOf t i.k) i.slot = some g ∧
      OnlyFrontier g i.g ∧
      (awaited = 0 ∨ awaited &&& ~~~ joinLanes h ≠ 0 → g.entries = h.entries) ∧
      (awaited ≠ 0 → awaited &&& ~~~ joinLanes h = 0 → g.entries =
        (splitAt h.entries awaited).map (fun e => if e.st = .waitingJoin ∧ e.mask &&& awaited ≠ 0 then e.pass else e))) ∧
  (∀ (f : Fx) (s : State) (i : Issuer), Reaches s i f false →
    let m := i.active f
    ∃ t g, exec (.exit f) s = .next t ∧ t.issued = true ∧ t.cur = none ∧ t.mem = s.mem ∧ groupAt (coreOf t i.k) i.slot = some g ∧
      g.exited = i.g.exited ||| m ∧ (∀ e ∈ g.entries, e.mask &&& m = 0) ∧
      (g.ended = true → g.v = [] ∧ g.s = [] ∧ g.p = [] ∧ g.entries = []) ∧ (g.ended = false → g.v = i.g.v ∧ g.s = i.g.s ∧ g.p = i.g.p))

/-- R28, R29, R280. BAR.sync arrives and waits, BAR.arv arrives and goes on, BAR.wait waits for the running generation; a waiting entry
stands at the next instruction. CBAR arrives at the barrier of its cluster and waits.
R28. Arrivals at a barrier of a team: the first of a generation sets its count, the number of the team's lanes that have not exited
unless the BAR names one; a generation that falls short of its count goes on waiting; one that reaches it completes, the next begins with
no arrival, and the entries that wait for it, and no others, are ready.
The model's own choices here, no rule of the spec: where waiting lanes stand (log 14). -/
def Obligations.Barriers : Prop :=
  (∀ (f : Fx) (s : State) (i : Issuer),
    let m := i.active f
    let b := f.modAt 2 4
    let n := barCount i.g f
    let issue (parts : List Entry) : State := endIssue s i true parts []
    let waiting (b gen : Nat) : Entry := { i.onward m with st := .waitingBarrier, hold := .barrier b gen }
    (Issues s i f false (lanePlan i f 0 inFull) →
      exec (.barSync f) s = .next (onCore (issue (barEntries i m b (arrivalGen (coreOf s i.k) i.tm b n) ++ [i.onward (i.others m)])) i.k
        (fun c => arrive c i.t b (countMask m) n)) ∧
      exec (.barArv f) s = .next (onCore (issue [i.onward i.e.mask]) i.k (fun c => arrive c i.t b (countMask m) n)) ∧
      ∃ t g, exec (.barWait f) s = .next t ∧ Issued s t i [waiting b (barrierOf i.tm b).gen, i.onward (i.others m)] g ∧ OnlyFrontier g i.g) ∧
    (Reaches s i f false →
      let x := barrierOf i.tm 16
      exec (.cbar f) s = .next (clusterCheck (onCore (issue [waiting 16 x.gen, i.onward (i.others m)]) i.k
        (fun c => { c with teams := alter c.teams i.t (fun t => { t with bars := put t.bars 16 { x with arrived := x.arrived + countMask m, open_ := true } }) }))
        i.tm.launch i.tm.cluster))) ∧
  (∀ (c : CoreState) (t : Nat) (tm : Team) (b n : Nat) (named : Option Nat),
    teamOf c t = some tm → n ≠ 0 →
    let x := barrierOf tm b
    let named' := if x.open_ then x.expect else named
    let count := named'.getD (teamLive c tm.uid)
    (x.arrived + n < count →
      (arrive c t b n named).groups = c.groups ∧
      ∃ tm', teamOf (arrive c t b n named) t = some tm' ∧ barrierOf tm' b = { x with arrived := x.arrived + n, expect := named', open_ := true }) ∧
    (x.arrived + n = count →
      (∃ tm', teamOf (arrive c t b n named) t = some tm' ∧ barrierOf tm' b = { gen := x.gen + 1 }) ∧
      (arrive c t b n named).groups = c.groups.map (fun g =>
        if g.2.uid = tm.uid then (g.1, { g.2 with entries := g.2.entries.map (fun e =>
          if e.st = .waitingBarrier && e.hold = .barrier b x.gen then { e with st := .ready, hold := .none } else e) })
        else g)))

/-! ### Traps -/

/-- R284, R380. TRAP, BKPT and SYSC trap their active lanes with the next instruction as the resume point; SYSC is reported to the polder's
queue in every mode, with its code in ADDR and its argument in IPA.
R31, R284. TRAP in handler mode, with no trap of the group in service: the trap registers hold the cause, the code, the next
instruction and the lanes; those lanes are at TRAPH; the guarded-off lanes go on; every other register, every flag, and every byte of
memory stands.
The model's own choices here, no rule of the spec: the places of the lanes that go on (log 14). -/
def Obligations.TrapInstructions : Prop :=
  (∀ (f : Fx) (s : State) (i : Issuer), Issues s i f false (lanePlan i f 14 inFull) →
    let m := i.active f
    exec (.trap f) s = .next (complete s i [{ cause := causeTrapi, addr := BitVec.ofNat 64 (uniformB i.g f), lanes := m, next := true }]) ∧
    exec (.bkpt f) s = .next (complete s i [{ cause := causeBkpt, lanes := m, next := true }]) ∧
    exec (.sysc f) s = .next (complete s i [{
      cause := causeTrapi, sub := 1, addr := BitVec.ofNat 64 (uniformB i.g f % 2 ^ 16), ipa := (uniformC i.g f).toNat, lanes := m, next := true,
      report := true, toPolder := true }])) ∧
  (∀ (f : Fx) (s : State) (i : Issuer), Issues s i f false (lanePlan i f 14 inFull) →
    handlerMode s i.tm = true → i.g.service = none →
    let m := i.active f
    let p := followPlace i.e i.len
    let h : Entry := { ((issuedAge i.e).at' { pc := trapHandler s i.tm, left := 0 }) with
      mask := m, st := .ready, token := 0, hold := .none, pri := 255, keep := true }
    ∃ t g, exec (.trap f) s = .next t ∧ Issued s t i [i.onward (i.others m), h] g ∧ OnlyTrap g i.g ∧
      g.tcause = BitVec.ofNat 16 causeTrapi ∧ g.taddr = BitVec.ofNat 64 (uniformB i.g f) ∧ g.tlanes = m ∧
      g.tpc = (p.pc &&& ~~~ 3) + (if p.left = 0 then 1 else 0) ∧ g.service.isSome = true)

/-- R25, R31, R33, R56, R165. TAKING A TRAP that is not a wait for a page. It is reported, in report mode, when it is a translation's, and in
lanes that run the handler (those of TLANES): the lanes park with the record's token. In handler mode, with no trap of the group in service, the trap
registers take cause, address, resume point and lanes, and the lanes enter the handler with priority 255. While another trap is in service
they park with no record, at their own instruction.
The model's own choices here, no rule of the spec: which traps are reported, and a trap during service (logs 14 and 19). -/
def Obligations.TrapTaken : Prop := ∀ (s : State) (i : Issuer) (tr : Trap), tr.hold = .none →
  let p := if tr.next then followPlace i.e i.len else placeOf i.e
  let e := issuedAge i.e
  let resume : Word := ((if tr.atPad then p.pc - 4 else p.pc) &&& ~~~ 3) + (if p.left = 0 then 1 else 0)
  let reported := tr.report = true ∨ handlerMode s i.tm = false ∨ tr.lanes &&& handlerLanes (groupNow s i) ≠ 0
  let back : Entry := { (e.at' (placeOf i.e)) with mask := tr.lanes, st := .parkedFault, token := 0, hold := .service }
  let record : Rec :=
    { cause := tr.cause, sub := tr.sub, kind := tr.kind, level := tr.level, ctx := i.ctx, polder := (ctxOf s i.ctx).polder,
      acc := tr.acc, pc := resume, addr := tr.addr, ipa := tr.ipa, lanes := tr.lanes, core := i.k, team := i.t, group := i.g.gid }
  let out : State × Word := if tr.resumable then writeResumable s tr.toPolder record
    else if tr.toPolder then (reportPolder s record, 0) else (reportCtx s record, 0)
  let service : Service := { pri := i.e.pri, fa := i.e.fa, fav := i.e.fav, fb := i.e.fb, fbv := i.e.fbv, left := p.left }
  (reported → takeTrap s i tr =
    (out.1, { (e.at' p) with mask := tr.lanes, st := .parkedFault, token := out.2, hold := .none })) ∧
  (¬ reported → (groupNow s i).service.isSome = true → takeTrap s i tr = (s, back)) ∧
  (¬ reported → (groupNow s i).service = none → takeTrap s i tr =
    (onIssuing s i (fun g => { g with
      tcause := BitVec.ofNat 16 (tr.cause % 256 + 256 * (tr.sub % 256)), taddr := tr.addr, tpc := resume, tlanes := tr.lanes,
      service := some service }),
      { (e.at' { pc := trapHandler s i.tm, left := 0 }) with
        mask := tr.lanes, st := .ready, token := 0, hold := .none, pri := 255, keep := true }))

/-- R381, R31. RETURNING FROM A TRAP. The active lanes of a TRET wait, marked as done, the others go on; when every lane of TLANES that has
not exited is done, the service ends and those lanes resume at TPC, in the mid-clause state of the trap or, with ENTRY, at a header.
The model's own choices here, no rule of the spec: lanes outside TLANES and the resume in mid-clause (log 19). -/
def Obligations.TrapReturn : Prop :=
  (∀ (f : Fx) (s : State) (i : Issuer), i.g.service.isSome = true → Issues s i f true { cls := 14, active := i.active f } →
    let m := i.active f
    ∃ t g, exec (.tret f) s = .next t ∧ t.issued = true ∧ t.cur = none ∧ OnlyGroup s t i ∧ groupAt (coreOf t i.k) i.slot = some g ∧
      OnlyTrap g i.g ∧ g.tpc = i.g.tpc ∧
      g = finishService { replaceEntry i.g i.e [issuedAge { i.e with mask := m, hold := .tret, skip := i.len }, i.onward (i.others m)] with
        begun := true, service := i.g.service.map (fun v => { v with done := v.done ||| (m &&& i.g.tlanes) }) }) ∧
  (∀ (g : Group) (sv : Service), g.service = some sv →
    let live := g.tlanes &&& liveLanes g
    (live &&& ~~~ sv.done ≠ 0 → finishService g = g) ∧
    (live ≠ 0 → live &&& ~~~ sv.done = 0 → (finishService g).service = none ∧
      ∃ r ∈ (finishService g).entries, r.mask = live ∧ r.pc = BitVec.ofNat 64 (g.tpc.toNat / 4 * 4) ∧ r.pri = sv.pri ∧ r.st = .ready ∧
        (g.tpc.getLsbD 0 = true → r.left = 0 ∧ r.fav = false ∧ r.fbv = false) ∧
        (g.tpc.getLsbD 0 = false → r.left = max 1 sv.left ∧ r.fa = sv.fa ∧ r.fav = sv.fav ∧ r.fb = sv.fb ∧ r.fbv = sv.fbv)))

/-! ### Clauses and the checks of an issue -/

/-- R18, R260. A clause header where one is expected, with the flags of its wait mask at 0: the entry stands in the body, with the
header's length, priority (255 kept in the handler) and flags; nothing else changes, and the first instruction of the body is to follow.
With a flag of its mask not 0 it is held. In a body a header breaches the clause: ILLENC. -/
def Obligations.ClauseEntered : Prop := ∀ (h : Header) (s : State) (i : Issuer), issuer s = some i →
  let body (e : Entry) : Entry := { e with
    pc := e.pc + 8, left := h.len.toNat + 1, pad := false, keep := false, pri := if e.keep then e.pri else h.pri, fa := h.flagA, fav := h.av, fb := h.flagB, fbv := h.bv }
  (i.e.left = 0 → (∀ n, n < 12 → h.wait.getLsbD n = true → flagOf i.g n = 0) →
    ∃ t g, exec (.clause h) s = .next t ∧ t.cur = s.cur ∧ OnlyGroup s t i ∧ groupAt (coreOf t i.k) i.slot = some g ∧
      g = { i.g with entries := i.g.entries.map (fun e => if e.mask = i.e.mask then body e else e) }) ∧
  (i.e.left = 0 → (∃ n, n < 12 ∧ h.wait.getLsbD n = true ∧ flagOf i.g n ≠ 0) → exec (.clause h) s = .next s) ∧
  (i.e.left ≠ 0 → exec (.clause h) s = .next (trapAtIssue s i { cause := Machine.causeIllenc, sub := subClause, lanes := i.e.mask }))

/-- R57, R264, R265. A pattern that is no instruction traps every lane of its entry: in a body with its own cause and subcode, where a
header is expected with ILLENC and the subcode of R265. A body instruction that breaches its clause (a flag that the header does not make
valid, a transfer that is not last, an instruction where a header is expected) traps them all too, before its guard is looked at.
The model's own choices here, no rule of the spec: the order of the checks (log 41). -/
def Obligations.EncodingFaults : Prop := ∀ (s : State) (i : Issuer), issuer s = some i →
  (∀ r : Illegal, i.e.left ≠ 0 → exec (.reservedOpcode r) s = .next (trapAtIssue s i { cause := r.cause.toNat, sub := r.sub.toNat, lanes := i.e.mask })) ∧
  (∀ r : Illegal, i.e.left = 0 → exec (.reservedOpcode r) s = .next (trapAtIssue s i { cause := Machine.causeIllenc, sub := r.hdrSub.toNat, lanes := i.e.mask })) ∧
  (∀ (f : Fx) (transfer : Bool) (effect : Issuer → Mask → State) (sub : Nat), bodyBreach i.e f.fen f.fsel transfer = some sub →
    onIssue s f transfer effect = .next (trapAtIssue s i { cause := Machine.causeIllenc, sub := sub, lanes := i.e.mask })) ∧
  (∀ fen fsel transfer, i.e.left = 0 → bodyBreach i.e fen fsel transfer = some subClause) ∧
  (∀ fsel transfer, i.e.left ≠ 0 → (if fsel then i.e.fbv else i.e.fav) = false → bodyBreach i.e true fsel transfer = some subFlag) ∧
  (1 < i.e.left → ∀ fsel, bodyBreach i.e false fsel true = some subClause)

/-- R39. An instruction with an empty write mask goes on: it releases the names of its last-use bits (`rel`: for an operand that spans
names, the whole span), and changes nothing else. -/
def Obligations.EmptyMask : Prop := ∀ (f : Fx) (transfer : Bool) (effect : Issuer → Mask → State) (rel : List Nat) (s : State) (i : Issuer),
  issuer s = some i → bodyBreach i.e f.fen f.fsel transfer = none → i.active f = 0 →
  ∃ t g, onIssue s f transfer effect rel = .next t ∧ Issued s t i [i.onward i.e.mask] g ∧
    (∀ n, look g.v n = if n ∈ rel then none else look i.g.v n) ∧ g.s = i.g.s ∧ g.p = i.g.p ∧ g.astat = i.g.astat ∧ g.besides i.g = i.g

/-- R21, R43, R94, R193, R194, R269, R270. The checks of an issue in their order: it is held while a resource or a result is awaited or its
flag stands at 63; then UREG, ECC of the lanes that read a poisoned register, REGFP, the matrix hazards, VNEVER, and last the bound of the
sluice. What none of them stops passes.
The model's own choices here, no rule of the spec: when VNEVER is raised (log 8) and which register MHAZ names (log 24). -/
def Obligations.IssueChecks : Prop := ∀ (s : State) (i : Issuer) (p : Plan),
  let c := coreOf s i.k
  let x := ctxOf s i.ctx
  let waits := p.ready = false ∨ flagAtLimit i.g p.flag = true ∨ mustWait c i.g p = true
  let ch := p.charge s i.k
  let ds := p.delta i.g
  let never := neverFits s i.k i.g.ctx (teamBytes c i.t i.tm) p.engine ch ds = true
  let admitted := admits s i.k i.g.ctx p.engine ch ds (sluiceBound s i.k i.g.ctx) = true
  (waits → gate s i p = .stop s) ∧
  (¬ waits → ∀ n m, x.ureg = true → unmapped i.g p = some (n, m) →
    gate s i p = .stop (trapAtIssue s i { cause := causeUreg, addr := BitVec.ofNat 64 n, lanes := m })) ∧
  (¬ waits → (x.ureg = true → unmapped i.g p = none) → poisonedLanes i.g p ≠ 0 →
    gate s i p = .stop (trapAtIssue s i { cause := causeEcc, lanes := poisonedLanes i.g p })) ∧
  (¬ waits → (x.ureg = true → unmapped i.g p = none) → poisonedLanes i.g p = 0 →
    (overFootprint i p = true → gate s i p = .stop (trapAtIssue s i { cause := causeRegfp, lanes := p.active })) ∧
    (overFootprint i p = false → ∀ tr, (hazardTrap c i.g p).or p.early = some tr → gate s i p = .stop (trapAtIssue s i tr)) ∧
    (overFootprint i p = false → hazardTrap c i.g p = none → p.early = none →
      (never → gate s i p = .stop (trapAtIssue (countVnever s i.ctx p.active) i { cause := causeVnever, lanes := p.active, resumable := false })) ∧
      (¬ never → ¬ admitted → gate s i p = .stop (refuse s i p)) ∧
      (¬ never → admitted → gate s i p = .pass)))

/-! ### Special registers -/

/-- R53, R54, R377. GETSR: every active lane of d takes the register as it stands, its own number for LANEID; the gauge registers 0x20 to
0x22 as they stand with d allocated. Nothing else changes.
R52, R54, R58, R378. SETSR of a register with a writable field, SCLWIN with V = 1 apart: its writable bits take the value of a, or
clear where it holds ones (ASTAT, VSTAT.RESUMED, FSTAT); every other register of the group and of the team stands. SCLWIN with V = 1
goes on to load the descriptor. A register without a writable field: PRIV.
The model's own choices here, no rule of the spec: the waits for ASTAT and the scale window (log 20). -/
def Obligations.SpecialRegisters : Prop :=
  (∀ (f : Fx) (s : State) (i : Issuer),
    let m := i.active f
    let x := specialIndex i.g f
    let uni := x != 0 && isFull i.g m
    let p := specialPlan s f i m uni
    let w := specialRead (writeDest (applyReleases s i p) i f.d uni m (fun _ => 0)) i x
    ¬ (x = 0 ∧ f.d.isS = true) → Issues s i f false p →
    ∃ t g, exec (.getsr f) s = .next t ∧ Issued s t i [i.onward i.e.mask] g ∧
      VectorResult i g f uni m (fun l => if x = 0 then BitVec.ofNat 64 l else w) ∧ ScalarResult i g f m (fun l => if x = 0 then BitVec.ofNat 64 l else w) ∧
      (¬ (0x20 ≤ x ∧ x ≤ 0x22) → w = specialRead s i x) ∧ g.p = i.g.p ∧ g.astat = i.g.astat ∧ g.besides i.g = i.g) ∧
  (∀ (f : Fx) (s : State) (i : Issuer),
    let m := i.active f
    let x := specialIndex i.g f
    let v := uniformA i.g f
    let load := x = 0x50 ∧ v.getLsbD 0 = true
    let plan : Plan := { specialPlan s f i m true with
      ready := (specialPlan s f i m true).ready && !(x == 0x50 && (windowOpen (coreOf s i.k) i.g || (bitAt v.toNat 0 && fenceOpen (coreOf s i.k) i.g))) }
    let writable := x ∈ [0x23, 0x25, 0x30, 0x31, 0x32, 0x3A, 0x50, 0x51, 0x60, 0x61, 0x80, 0x81, 0x82, 0x83, 0x84, 0x85, 0x86, 0x87, 0x88]
    (writable → ¬ load → Issues s i f false plan →
      ∃ t g tm, exec (.setsr f) s = .next t ∧ t.issued = true ∧ t.cur = none ∧ (∀ a, Memory.read t.mem a = Memory.read s.mem a) ∧
        groupAt (coreOf t i.k) i.slot = some g ∧ g.entries = (replaceEntry (writeGroupReg i.g x v) i.e [i.onward i.e.mask]).entries ∧
        g = { writeGroupReg i.g x v with entries := g.entries, begun := true } ∧
        teamOf (coreOf t i.k) i.t = some tm ∧ { tm with st := i.tm.st } = writeTeamReg i.tm x v) ∧
    (load → Issues s i f false { plan with cls := 2 } → exec (.setsr f) s = .next (setWindow s i { plan with cls := 2 } m v)) ∧
    (¬ writable → ∀ tr : Trap, tr = { cause := causePriv, lanes := m } → Reaches s i f false →
      gate s i { plan with early := some tr } = .stop (trapAtIssue s i tr) → exec (.setsr f) s = .next (trapAtIssue s i tr)))

/-! ### The gauge -/

/-- R193, R198, R374 to R376. VCOST writes the charge of its class and bytes with its engine, VCHK the outcome of the admission test of its
engine, charge and change in S, VCKPT.poll whether a soft stage is on. VCKPT outside a soft stage goes on; in one its active lanes wait at
the next instruction, and the team may leave. -/
def Obligations.GaugeInstructions : Prop := ∀ (f : Fx) (s : State) (i : Issuer),
  let m := i.active f
  let soft := inSoftStage (coreOf s i.k) i.ctx
  (Issues s i f false (lanePlan i f 14 (fun i m => isFull i.g m)) →
    let w := costWord s (coreOf s i.k) (uniformB i.g f % 32) ((uniformC i.g f).toNat % 2 ^ 25)
    ∃ t g, exec (.vcost f) s = .next t ∧ Issued s t i [i.onward i.e.mask] g ∧ VectorResult i g f (isFull i.g m) m (fun _ => w) ∧
      ScalarResult i g f m (fun _ => w) ∧ g.p = i.g.p ∧ g.astat = i.g.astat ∧ g.besides i.g = i.g) ∧
  (Issues s i f false (lanePlan i f 0 inFull) →
    WritesPredicate s i f (fun _ _ _ => admits s i.k i.g.ctx (f.modAt 0 3) (uniformB i.g f % 2 ^ 32) (wordInt (uniformC i.g f)) (sluiceBound s i.k i.g.ctx))
      (exec (.vchk f) s) ∧
    WritesPredicate s i f (fun _ _ _ => soft) (exec (.vckptPoll f) s)) ∧
  (Issues s i f false { cls := 14, active := m } →
    (soft = false → ∃ t g, exec (.vckpt f) s = .next t ∧ Issued s t i [i.onward i.e.mask] g ∧ OnlyFrontier g i.g) ∧
    (soft = true → exec (.vckpt f) s = .next (leaveCheck
      (endIssue s i true [{ i.onward m with hold := .checkpoint }, i.onward (i.others m)] []) i.k i.g.uid)))

/-! ### Loads, stores, atomics -/

/-- R328, R332, R334 to R337, R348. The loads: LD of 1, 2 or 4 registers by its cache path, LDS, LDU by the lowest lane for the group, LDBXS
of a scale pair alone, LDTAG of a tag (an access of size 0). Each register is 8 bytes further than the one before, the signed narrow types
extend.
R347. PREF goes on at its issue: it counts no flag, writes no register and raises nothing, whatever its lanes find.
The model's own choices here, no rule of the spec: the order of faults (log 15). -/
def Obligations.LoadsIssue : Prop :=
  (∀ f : Fx,
    let k := memCount f
    let whole (m : Mask) (accs : List LaneAcc) : List LaneAcc := (ofLanes m accs).flatMap (loadParts f)
    let bxs : Need := { acc := accRead, n := 8, scratch := f.modAt 0 1 == 1, hostOk := false, bx := bxShift f.ty, pair := true, elem := false }
    let tag : Need := { acc := accRead, n := 1, tagged := false, data := false, hostOk := false }
    LoadLaw (.ld f) f (fun s i => loadPlan s f false k i (i.active f)) (loadNeed f false k) false k (memPath f) whole ∧
    LoadLaw (.lds f) f (fun s i => loadPlan s f true k i (i.active f)) (loadNeed f true k) false k .keep whole ∧
    LoadLaw (.ldu f) f (fun s i => loadPlan s f false 1 i (i.active f)) (loadNeed f false 1) true 1 (memPath f) (fun _ accs => accs.flatMap (loadParts f)) ∧
    LoadLaw (.ldbxs f) f (fun s i => loadPlan s f (f.modAt 0 1 == 1) 1 i (i.active f)) bxs false 1 .keep
      (fun m accs => (ofLanes m accs).map (fun a => { a with reg := 0 })) ∧
    LoadLaw (.ldtag f) f (fun s i => loadPlan s f false 1 i (i.active f)) tag false 1 .keep (fun m accs => (ofLanes m accs).map (fun a => { a with n := 0 }))) ∧
  (∀ (f : Fx) (s : State) (i : Issuer),
    let p : Plan := { loadPlan s f false 1 i (i.active f) with dst := [] }
    Issues s i f false p →
    ∃ t g, exec (.pref f) s = .next t ∧ t.issued = true ∧ t.cur = none ∧ groupAt (coreOf t i.k) i.slot = some g ∧
      g.entries = (replaceEntry i.g i.e [i.onward i.e.mask]).entries ∧ g.f = i.g.f ∧ g.p = i.g.p ∧ g.s = i.g.s ∧
      (∀ n, look g.v n = if n ∈ released (relNames f) [] then none else look i.g.v n))

/-- R333, R334, R336, R337, R348. The stores, when every access goes through: what `startStore` starts is in flight with the bytes of each
lane, and the lanes go on. R21. An ST whose accesses all leave the core is held while the port tracker has fewer entries free than it has
active lanes.
R48, R128, R334, R335. What a store's accesses start: those of the L1 and of scratch one operation on the instruction's flag, with the
sectors that they may dirty charged; those at homes one with a port tracker entry for each sector, whose flag has retired at handoff, but
for STTAG, whose flag counts until it performs. The registers, the flags of the other kinds and memory stand.
The model's own choices here, no rule of the spec: handoff and port tracker entries (log 16). -/
def Obligations.StoresIssue : Prop :=
  (∀ (f : Fx) (s : State) (i : Issuer),
    let m := i.active f
    let k := memCount f
    let go (ins : Instr) (p : Plan) (q : Need) (lanes : Mask) (watch : State → List LaneAcc → Option Trap) (path : Path) (tag : Option Bool)
        (parts : Group → List LaneAcc → List LaneAcc) : Prop :=
      let ea (g : Group) : Nat → Word := eaAt g f q.scratch
      let fd := found s i p q lanes ea
      Issues s i f false p → Clear s i p q lanes ea watch →
      exec ins s = .next (complete (startStore i p path tag (parts (readView s i.g p.srcs).2 fd.2.byLane) m (applyReleases fd.1 i p)) i [])
    let whole (g : Group) (accs : List LaneAcc) : List LaneAcc := (ofLanes m accs).flatMap (storeParts g f)
    let tag : Need := { acc := accWrite, n := 64, tagged := false, hostOk := false }
    go (.st f) (storePlan s f (storeNeed f false k) k false i m) (storeNeed f false k) m (fun s a => watchTrap s i .write a) (memPath f) none whole ∧
    go (.sts f) (storePlan s f (storeNeed f true k) k false i m) (storeNeed f true k) m (fun s a => watchTrap s i .write a) .keep none whole ∧
    go (.stu f) (storePlan s f (storeNeed f false 1) 1 true i m) (storeNeed f false 1) (maskOfLanes [lowestLane m]) (fun s a => onceWatch s i .write m a)
      (memPath f) none (fun g accs => accs.flatMap (storeParts g f)) ∧
    go (.sttag f) (storePlan s f tag 0 false i m) tag m (fun s a => watchTrap s i .write a) .keep (some (f.modAt 0 1 == 1)) (fun _ accs => ofLanes m accs) ∧
    (Reaches s i f false → isBx f.ty = false → (∀ l ∈ lanesIn m, intoL1 (coreOf s i.k) (memPath f) (eaAt i.g f false l) = false) →
      trackerFree (coreOf s i.k) < countMask m → exec (.st f) s = .next s)) ∧
  (∀ (s : State) (i : Issuer) (p : Plan) (path : Path) (tag : Option Bool) (accs : List LaneAcc) (ok : Mask),
    groupAt (coreOf s i.k) i.slot = some i.g → accs ≠ [] →
    let c := coreOf s i.k
    let n := c.nextOp
    let homes := (accs.map (fun a => a.pa / 64)).eraseDups.length
    ((∀ a ∈ accs, inL1 c path a = true) → ∃ t op, startStore i p path tag accs ok s = t ∧ opOf t i.k n = some op ∧
      op.kind = .store path accs tag ((accs.filter (·.space != .scratch)).map (fun a => sectorKey a.va)).eraseDups.length ∧
      op.flag = p.flag ∧ op.lanes = ok ∧ groupAt (coreOf t i.k) i.slot = some (countFlag i.g p.flag) ∧ t.mem = s.mem) ∧
    ((∀ a ∈ accs, inL1 c path a = false ∧ a.space ≠ .fabric) → ∃ t op, startStore i p path tag accs ok s = t ∧
      opOf t i.k n = some op ∧ op.kind = .homeStore accs tag ∧ op.flag = (if tag.isSome then p.flag else none) ∧ op.tracker = homes ∧ op.lanes = ok ∧
      groupAt (coreOf t i.k) i.slot = some (countFlag i.g (if tag.isSome then p.flag else none)) ∧ t.mem = s.mem))

/-- R338 to R340. ATOM and RED, when every access goes through: one operation is in flight with a lane's operand at each location, and a
tracker entry for each, packed adds two of 16 bits with one entry; ATOM's destination is to come, RED's flag has retired at handoff. R21. Either is held while the port tracker has
fewer entries free than it has active lanes.
The model's own choices here, no rule of the spec: port tracker entries, and RED's handoff (log 16). -/
def Obligations.Atomics : Prop := ∀ (f : Fx) (s : State) (i : Issuer),
  let m := i.active f
  let ea (g : Group) : Nat → Word := eaAt g f false
  let watch (s : State) (accs : List LaneAcc) : Option Trap := watchTrap s i .atomic accs
  let go (ins : Instr) (ret : Bool) : Prop :=
    let p := atomicPlan s f ret i m
    let q := atomicNeed f ret
    let fd := found s i p q m ea
    let words := (ofLanes m fd.2.byLane).map (atomicPart (readView s i.g p.srcs).2 f)
    let accs := words.flatMap (atomicHalves f.ty)
    let locations := (words.map (·.pa)).eraseDups.length
    let flag := if ret then p.flag else none
    (Reaches s i f false → trackerFree (coreOf s i.k) < countMask m → exec ins s = .next s) ∧
    (Issues s i f false p → Clear s i p q m ea watch →
      ∃ op, StartsOp fd.1 i flag op (fun g => Pending i g p (if ret then opNames f.d else []) (nextOp s i)) (exec ins s) ∧
        op.kind = .atomic (f.modAt 0 3) f.ty accs ∧ op.tracker = locations ∧ OpOf s i op m flag ∧ op.dest = if ret then .v f.d.num else .none)
  go (.atom f) true ∧ go (.red f) false

/-! ### Copies, FIFOs, banks, watchpoints -/

/-- R123, R126, R341, R342. COPY that passes its checks is queued on its channel, and d takes the position that the channel reaches at its
last byte; COPYF queues what the sluice passes, and d takes the number of its bytes; with a check failed either traps with cause, subcode
and address, and queues nothing. WPTR reads the channel.
R123, R127. A copy queued on its channel: its operation is in flight with source, destination and length, nothing copied yet; the
channel's STOP is clear, its position stands; a FIFO keeps its words free.
The model's own choices here, no rule of the spec: the reservation of a FIFO's words (log 18). -/
def Obligations.CopiesIssue : Prop :=
  (∀ (f : Fx) (s : State) (i : Issuer),
    let m := i.active f
    let a := copyArgs i.g f
    let c := coreOf s i.k
    let trap (x : Nat × Nat × Word) : Trap := { cause := x.1, sub := x.2.1, addr := x.2.2, lanes := m }
    (copyFault c i.t i.tm a = none →
      let p := copyPlan s f i m 5 a.len (copyRise s i a a.len)
      Issues s i f false p → exec (.copy f) s = .next (complete (writeDest (queueCopy s i p a a.len m) i f.d true m
        (fun _ => BitVec.ofNat 64 ((channelEnd c i.tm a.ch + a.len) % 2 ^ 63))) i [])) ∧
    (∀ x, copyFault c i.t i.tm a = some x → Issues s i f false (copyPlan s f i m 5 0 0) → exec (.copy f) s = .next (complete s i [trap x])) ∧
    (copyFault c i.t i.tm a = none →
      let n := copyPrefix s i a
      let p := copyPlan s f i m 5 n (copyRise s i a n)
      Issues s i f false (copyPlan s f i m 14 0 0) → exec (.copyf f) s = .next (complete (writeDest (if n = 0 then s else queueCopy s i p a n m) i f.d true m
        (fun _ => BitVec.ofNat 64 n)) i [])) ∧
    (∀ x, copyFault c i.t i.tm a = some x → Issues s i f false (copyPlan s f i m 14 0 0) → exec (.copyf f) s = .next (complete s i [trap x])) ∧
    (Issues s i f false { active := m, sNames := opSNames f.d } → ∃ t g, exec (.wptr f) s = .next t ∧ Issued s t i [i.onward i.e.mask] g ∧
      ScalarResult i g f m (fun _ => channelWord i.tm (f.modAt 0 3)) ∧ g.p = i.g.p ∧ g.astat = i.g.astat ∧ g.besides i.g = i.g)) ∧
  (∀ (s : State) (i : Issuer) (p : Plan) (a : CopyArgs) (n : Nat) (m : Mask),
    n ≠ 0 → groupAt (coreOf s i.k) i.slot = some i.g → teamOf (coreOf s i.k) i.t = some i.tm →
    ∃ op tm, opOf (queueCopy s i p a n m) i.k (coreOf s i.k).nextOp = some op ∧ op.kind = .copy a.ch a.fromScratch a.dst a.sa a.da n 0 none ∧
      op.flag = p.flag ∧ op.lanes = m ∧ teamOf (coreOf (queueCopy s i p a n m) i.k) i.t = some tm ∧
      channelOf tm a.ch = { channelOf i.tm a.ch with stop := false } ∧ (∀ ch, ch ≠ a.ch → channelOf tm ch = channelOf i.tm ch) ∧
      groupAt (coreOf (queueCopy s i p a n m) i.k) i.slot = some (countFlag i.g p.flag) ∧
      (a.dst = 2 → ∀ b, bankOfSlot (coreOf s i.k) i.t a.da.toNat = some b →
        bankOf (coreOf (queueCopy s i p a n m) i.k) b = { bankOf (coreOf s i.k) b with reserved := (bankOf (coreOf s i.k) b).reserved + n / 8 }) ∧
      (queueCopy s i p a n m).mem = s.mem)

/-- R59, R75 to R77, R127, R343, R344, R349. PUSHF and POPF on a slot in FIFO mode, or in transition, start an operation, and their lanes wait
for its acceptance; on any other slot they trap with BANK. BANKCFG starts its switch, or traps with BANK where it is refused. WATCH sets one watchpoint.
The model's own choices here, no rule of the spec: the wait of BANKCFG (log 18), and that lanes wait for the acceptance (log 14). -/
def Obligations.BanksAndWatch : Prop := ∀ (f : Fx) (s : State) (i : Issuer),
  let m := i.active f
  let c := coreOf s i.k
  let slot := uniformB i.g f % 64
  let flag := flagNumber i.e f.fen f.fsel
  let waiting (m : Mask) : List Entry :=
    [issuedAge { i.e with mask := m, hold := .accept [nextOp s i], skip := i.len }, i.onward (i.others m)]
  let isFifo : Prop := slotIn c i.t i.tm .fifo slot = true ∨ slotInTransition c i.t slot = true
  let push : Plan := { cls := 3, active := m, srcs := opNames f.c, rel := relNames f, sNames := sSrcNames f, flag := flag,
                       ds := fifoRise c i.t slot (countMask m), ready := !fenceOpen c i.g }
  let pop (dst : List (Nat × Bool)) : Plan := { cls := 2, active := m, dst := dst, sNames := sSrcNames f, flag := flag, ready := !fenceOpen c i.g }
  let target := BankMode.ofCode (f.modAt 0 3)
  let bank (ds : Int) : Plan := { cls := 11, active := m, sNames := sSrcNames f, flag := flag, ds := ds, ready := !slotInTransition c i.t slot }
  (isFifo → Issues s i f false push → ∃ op, StartsOpAt s i flag op (waiting m) (fun g => ∀ n, look g.v n = if n ∈ released (relNames f) [] then none else look i.g.v n)
      (exec (.pushf f) s) ∧
    op.kind = .push slot ((lanesIn m).map (dataAt (readView s i.g (opNames f.c)).2 f.ty f.c 0)) ∧ OpOf s i op m flag) ∧
  (isFifo → Issues s i f false (pop ((opNames f.d).map (fun n => (n, false)))) → ∃ op,
    StartsOpAt s i flag op (waiting m) (fun g => Pending i g (pop ((opNames f.d).map (fun n => (n, false)))) (opNames f.d) (nextOp s i)) (exec (.popf f) s) ∧
    op.kind = .pop slot ∧ op.dest = .v f.d.num ∧ OpOf s i op m flag) ∧
  (¬ isFifo → Issues s i f false push → exec (.pushf f) s =
    .next (complete (applyReleases (readView s i.g (opNames f.c)).1 i push) i [{ cause := causeBank, lanes := m }])) ∧
  (¬ isFifo → let p := pop ((opNames f.d).map (fun n => (n, false)))
    Issues s i f false p → exec (.popf f) s =
      .next (complete (allocOnly (applyReleases s i p) i (opNames f.d)) i [{ cause := causeBank, lanes := m }])) ∧
  (∀ b, bankRefused c i.t i.tm slot target = false → bankOfSlot c i.t slot = some b → Issues s i f false (bank (bankDelta c i.t slot target)) →
    ∃ op, StartsOp s i flag op (fun g => g.v = i.g.v) (exec (.bankcfg f) s) ∧ op.kind = .bank b target ∧ OpOf s i op m flag) ∧
  (bankRefused c i.t i.tm slot target = true → Issues s i f false (bank 0) →
    exec (.bankcfg f) s = .next (complete s i [{ cause := causeBank, lanes := m }])) ∧
  (Issues s i f false { cls := 14, active := m, sNames := sSrcNames f } →
    let n := f.modAt 0 2
    let v := watchField (uniformB i.g f)
    ∃ t g, exec (.watch f) s = .next t ∧ Issued s t i [i.onward i.e.mask] g ∧ lookD g.watch n 0 =
        BitVec.ofNat 64 ((uniformA i.g f).toNat / 2 ^ bitsAt v 5 6 * 2 ^ bitsAt v 5 6) ∧
      (∀ k, k ≠ n → lookD g.watch k 0 = lookD i.g.watch k 0 ∧ lookD g.wmask k 0 = lookD i.g.wmask k 0) ∧ lookD g.wmask n 0 = m ∧
      g.watchcfg = setField i.g.watchcfg (16 * n) 16 v ∧
      { g with watch := i.g.watch, wmask := i.g.wmask, watchcfg := i.g.watchcfg, entries := i.g.entries, begun := i.g.begun } = i.g)

/-! ### Fences -/

/-- R214, R215, R282, R345, R346, R379. The instructions that act as a fence: FENCE of each kind and scope, CWB and CINV of a range (nothing
to do for 0 bytes), FLUSH, ICINV of a line, a range or everything, and the release of LAUNCH. Each issues, and its lanes go on; those of LAUNCH wait for its completion.
R215, R219. A fence waits for the earlier operations of its group that it covers, and starts no write-back before they are over; later
accesses of the group wait for it. Its flag counts; memory, the L1 and every register stand at its issue.
The model's own choices here, no rule of the spec: what a fence covers (log 17). -/
def Obligations.FencesIssue : Prop :=
  (∀ (f : Fx) (s : State) (i : Issuer),
    let m := i.active f
    let p (cls : Nat) : Plan := fencePlan s f i m cls
    let fence (cls : Nat) (w : FenceWhat) : Out := .next (complete (startFence s i (p cls) m w .nothing).1 i [])
    let va := uniformA i.g f
    let n := uniformB i.g f % 2 ^ 40
    let scope := f.modAt 2 3
    let launch : Plan := { p 13 with sNames := sSrcNames f ++ opSNames f.d }
    (Issues s i f false (p 12) →
      exec (.fenceAcq f) s = fence 12 (.fence true false scope) ∧
      exec (.fenceRel f) s = fence 12 (.fence false true scope) ∧
      exec (.fenceAr f) s = fence 12 (.fence true true scope) ∧
      exec (.flush f) s = fence 12 .flush ∧
      (n ≠ 0 → exec (.cwb f) s = fence 12 (.cwb va n) ∧ exec (.cinv f) s = fence 12 (.cinv va n)) ∧
      (n = 0 → exec (.cwb f) s = .next (complete s i []) ∧ exec (.cinv f) s = .next (complete s i []))) ∧
    (Issues s i f false (p 14) →
      (f.modAt 0 2 = 0 → exec (.icinv f) s = fence 14 (.icinv 0 (BitVec.ofNat 64 (va.toNat / 256 * 256)) 256)) ∧
      (f.modAt 0 2 = 1 → exec (.icinv f) s = fence 14 (.icinv 1 va n)) ∧
      (2 ≤ f.modAt 0 2 → exec (.icinv f) s = fence 14 (.icinv 2 0 0))) ∧
    (Issues s i f false launch → ∃ t u, startFence s i launch m (.fence false true 4) (.launch va (f.modAt 0 3)) = (t, u) ∧
      exec (.launch f) s = .next (completeWait (onOp t i.k u (fun o => { o with dest := .s f.d.num })) i m (.accept [u]) []))) ∧
  (∀ (s : State) (i : Issuer) (p : Plan) (m : Mask) (w : FenceWhat) (after : After),
    groupAt (coreOf s i.k) i.slot = some i.g → (∀ e ∈ (coreOf s i.k).ops, e.1 < (coreOf s i.k).nextOp) →
    let c := coreOf s i.k
    let ops := earlierOps c i.g.uid i.g.gid c.nextOp (fenceWaits w)
    ops ≠ [] → ∃ op, opOf (startFence s i p m w after).1 i.k c.nextOp = some op ∧ op.kind = .fence w [] ops false 0 after ∧
      op.flag = p.flag ∧ op.lanes = m ∧ op.uid = i.g.uid ∧ op.gid = i.g.gid ∧ groupAt (coreOf (startFence s i p m w after).1 i.k) i.slot = some (countFlag i.g p.flag) ∧
      fenceOpen (coreOf (startFence s i p m w after).1 i.k) i.g = true ∧ (startFence s i p m w after).1.mem = s.mem ∧
      (coreOf (startFence s i p m w after).1 i.k).l1 = c.l1 ∧ (coreOf (startFence s i p m w after).1 i.k).wbs = c.wbs)

/-! ### Matrix operations -/

/-- R355, R357, R359. OPRF sets MFMT to its word, with V, when it is a valid format that every active lane gives. MMA and MMAW take A, B, the scales
and MFMT as they stand at the issue, and D's 32 names are to come.
The model's own choices here, no rule of the spec: when D is read (log 37). -/
def Obligations.MatrixIssues : Prop := ∀ (f : Fx) (s : State) (i : Issuer),
  let m := i.active f
  let v := (readView s i.g (srcNames f)).2
  let w := formatWord v f m
  (formatOk w = true → (f.b.isV = true → ∀ l, l < 32 → inMask m l → opndAt v .b64 f.b f.smb l = w) → Issues s i f false (lanePlan i f 0 inFull) →
    ∃ t g, exec (.oprf f) s = .next t ∧ Issued s t i [i.onward i.e.mask] g ∧ g.mfmt = BitVec.ofNat 16 (2 ^ 15 + w.toNat) ∧
      g.p = i.g.p ∧ g.s = i.g.s ∧ { g with mfmt := i.g.mfmt }.besides i.g = i.g ∧
      (∀ n, look g.v n = if n ∈ released (relNames f) (opNames f.d) then none else look i.g.v n)) ∧
  (∀ wide : Bool, let p := matrixPlan s f wide i m
    let srcs := p.srcs.filter (fun n => !(accNames f.d.num).contains n)
    let g0 := (readView s i.g srcs).2
    Issues s i f false p → f.d.isV = true → ∃ op, StartsOp s i p.flag op (fun g => Pending i g p (accNames f.d.num) (nextOp s i))
        (exec (if wide then .mmaw f else .mma f) s) ∧
      op.kind = .mma wide (f.modAt 0 1 == 1) i.g.mfmt f.d.num ((latchedA (coreOf s i.k) i.slot f wide).getD (spanValues g0 f.a.num (aSpan wide)))
        (spanValues g0 f.b.num (bSpan wide)) (if f.c.isV then spanValues g0 f.c.num 4 else []) srcs false ∧
      OpOf s i op m p.flag)

/-! ### Merge instructions -/

/-- R26, R363 to R367. The merge instructions on a local handle: MOPEN, MABORT and MCLOSE start an operation and wait at their PC until it is
accepted or refused, MSTAT parks until it is answered. On a remote handle MABORT and MSTAT trap with MERGE REMOTE.
R103, R110, R365. MSTG whose accesses go through: one operation with the combined elements of its lanes in memory, lanes that name one
element summed in rising order, and a port tracker entry for each; its elements of the fabric window go as one packet a line; the
entry waits at the instruction until the operation is accepted or refused.
The model's own choices here, no rule of the spec: the order of checks (log 21) and the payloads of the packets (log 12). -/
def Obligations.MergeInstructions : Prop :=
  (∀ (f : Fx) (s : State) (i : Issuer),
    let m := i.active f
    let h := handleOf i.g f
    let q : Need := { acc := accRead, n := 64 }
    let l := lowestLane m
    let ea (g : Group) : Nat → Word := eaAt g f false
    let p := mergePlan s f 10 1 i m
    let close : Plan := { p with ready := p.ready && noStages (coreOf s i.k) i.g && (!h.remote || 1 ≤ contsFree (coreOf s i.k)) }
    let stat := mergePlan s f 8 0 i m
    let remote : Trap := { cause := causeMerge, sub := 6, lanes := m }
    (Issues s i f false p → Clear s i p q (maskOfLanes [l]) ea (fun _ _ => none) →
      let base := (found s i p q (maskOfLanes [l]) ea).1
      ∃ op, StartsOpAt base i p.flag op
          [issuedAge { i.e with mask := m, hold := .accept (startedOps (addOp base i.k op).1 i.k (nextOp base i)), skip := i.len }, i.onward (i.others m)]
          (fun g => ∀ n, look g.v n = if n ∈ released (relNames f) [] then none else look i.g.v n) (exec (.mopen f) s) ∧
        op.kind = .mopen (eaAt (readView s i.g p.srcs).2 f false l) l ∧ op.dest = .s f.d.num ∧ op.tracker = 1 ∧ OpOf s i op m p.flag) ∧
    (h.remote = false → Issues s i f false close → ∃ op,
      StartsOpAt s i p.flag op [issuedAge { i.e with hold := .accept [nextOp s i], skip := i.len }] (fun g => g.v = i.g.v) (exec (.mclose f) s) ∧
        op.kind = .close (handleSet h.word) (handleGen h.word) h.id ∧ op.tracker = 1 ∧ OpOf s i op m p.flag) ∧
    (h.remote = true → Issues s i f false close →
      let c := (freeConts (coreOf s i.k) 1).headD 0
      ∃ t n, startOp s i { newOp s i close m (.remoteClose c) with tracker := 1 } = (t, n) ∧
        exec (.mclose f) s = .next (awaitAccept (submit (takeCont t i.k c n [] (closePacket t i.g.ctx h)).1 i.k n
          (takeCont t i.k c n [] (closePacket t i.g.ctx h)).2) i n [])) ∧
    (h.remote = false → Issues s i f false p → ∃ op, StartsOpAt s i p.flag op
        [issuedAge { i.e with mask := m, hold := .accept [nextOp s i], skip := i.len }, i.onward (i.others m)] (fun g => g.v = i.g.v) (exec (.mabort f) s) ∧
      op.kind = .mabort (handleSet h.word) (handleGen h.word) h.id ∧ op.dest = .s f.d.num ∧ OpOf s i op m p.flag) ∧
    (h.remote = true → Issues s i f false p → exec (.mabort f) s = .next (complete s i [remote])) ∧
    (h.remote = false → Issues s i f false stat → ∃ op, StartsOpAt s i stat.flag op
        [issuedAge { i.e with mask := m, st := .parkedRemote, hold := .remote (nextOp s i), skip := i.len }, i.onward (i.others m)]
        (fun g => g.v = i.g.v) (exec (.mstat f) s) ∧
      op.kind = .mstat (handleSet h.word) (handleGen h.word) h.id ∧ op.dest = .s f.d.num ∧ OpOf s i op m stat.flag) ∧
    (h.remote = true → Issues s i f false stat → exec (.mstat f) s = .next (complete s i [remote]))) ∧
  (∀ (f : Fx) (s : State) (i : Issuer),
    let m := i.active f
    let h := handleOf i.g f
    let p0 := mergePlan s f 10 (stageEntries f m) i m
    let p : Plan := { p0 with ready := p0.ready && fabricReady (coreOf s i.k) i.g ((lanesIn m).map (stageAddr i.g f)) (stageEntries f m) }
    let g := (readView s i.g p.srcs).2
    let fd := found s i p (stageNeed f) m (fun g => stageAddr g f)
    let accs := ofLanes m fd.2.byLane
    let near := stageElems false ((ctxOf s i.g.ctx.toNat).tagmode != 0) g f (memCount f) (accs.filter (·.space != .fabric))
    let far := stageElems true ((ctxOf s i.g.ctx.toNat).tagmode != 0) g f (memCount f) (accs.filter (·.space == .fabric))
    let lines := (far.map (fun e => taggedLine e.2.1)).eraseDups
    let mine (w : Word) : List (Mask × Word × Nat × BitVec 32) := far.filter (fun e => taggedLine e.2.1 == w)
    let remote := lines.map (fun w => (w.toNat, (mine w).foldl (fun m e => m ||| e.1) 0))
    let kind : OpKind := .stage (handleSet h.word) (handleGen h.word) h.id near remote
    Issues s i f false p → Clear s i p (stageNeed f) m (fun g => stageAddr g f) (fun _ _ => none) →
      ((∀ a ∈ accs, a.space ≠ .fabric) →
        ∃ op, StartsOpAt fd.1 i p.flag op [issuedAge { i.e with hold := .accept [nextOp s i], skip := i.len }]
            (fun g => ∀ n, look g.v n = if n ∈ released (relNames f) [] then none else look i.g.v n) (exec (.mstg f) s) ∧
          op.kind = .stage (handleSet h.word) (handleGen h.word) h.id near [] ∧ op.tracker = near.length ∧ OpOf s i op m p.flag) ∧
      (∃ t n, startOp (fabricFirst (applyReleases fd.1 i p) i (accs.filter (·.space == .fabric))) i
          { newOp (fabricFirst (applyReleases fd.1 i p) i (accs.filter (·.space == .fabric))) i p m kind with tracker := near.length + remote.length } = (t, n) ∧
        exec (.mstg f) s = .next (awaitAccept
          (lines.foldl (fun u w => submit u i.k n (stagePacket u i.g.ctx h.word h.id w (mine w))) t) i n [])))

/-! ### Fabric instructions -/

/-- R368 to R372. RLD and GETF of the fabric window, aligned and permitted: the context's dirty bytes of the sectors leave the L1 first, one
operation is in flight, its destinations are to come, a read request goes to each line with a continuation, and the lanes park at the
instruction until the answers come.
R368, R371, R372. RST, PUTS and RATOM of the fabric window, aligned and permitted: they issue and their lanes go on. A form with a release
starts a fence of scope .sys and sends after it; one without sends at once. RATOM with a destination has it to come.
R368, R373. A fabric access is checked lane by lane: ALIGN first, then ACCESS SPACE outside the fabric window, then the access table of the
fabric ports. FSTATC writes FSTAT to d and clears the bits of FSTAT that its operand names.
The model's own choices here, no rule of the spec: the order of what leaves (log 25) and the checks at the source (log 38). -/
def Obligations.FabricInstructions : Prop :=
  (∀ (f : Fx) (s : State) (i : Issuer),
    let m := i.active f
    let go (ins : Instr) (getf : Bool) (k n conts : Nat) (lanes : Mask) (accsOf : List LaneAcc → List LaneAcc) : Prop :=
      let p : Plan := { fabricPlan s f 8 1 conts 0 getf i m with dst := (runNames f.d k).map (fun x => (x, false)) }
      let v := readView s i.g p.srcs
      let pr := fabricProbe v.1 i 0 lanes (eaAt v.2 f false) n
      let accs := accsOf pr.byLane
      let ready := fabricFirst (applyReleases v.1 i p) i accs
      let o : Op := { newOp ready i p m (.remoteRead getf accs) with dest := .v f.d.num, regs := k }
      let begun := startOp ready i o
      let sent := sendReads (allocFor begun.1 i (runNames f.d k) begun.2 p.flag) i begun.2 (if getf then kGetreq else kRdreq) accs
      Issues s i f false p → pr.bad = [] → exec ins s = .next (parkRemote sent i m begun.2 [])
    go (.rld f) false (memCount f) (memBytes f (memCount f)) (countMask m) m (fun accs => (ofLanes m accs).flatMap (loadParts f)) ∧
    go (.getf f) true 1 256 1 (maskOfLanes [lowestLane m]) (fun accs => (lanesIn m).flatMap (fun l => accs.map (fun a =>
      { a with lane := l, va := a.va + BitVec.ofNat 64 (8 * l), n := 8 })))) ∧
  (∀ (f : Fx) (s : State) (i : Issuer),
    let m := i.active f
    let rel := f.modAt 4 1 == 1
    let k := memCount f
    let st := fabricPlan s f 9 k 0 (countMask m) false i m
    let vs := readView s i.g st.srcs
    let ps := fabricProbe vs.1 i 1 m (eaAt vs.2 f false) (memBytes f k)
    let sa := (ofLanes m ps.byLane).flatMap (storeParts vs.2 f)
    let s1 := fabricFirst (applyReleases vs.1 i st) i sa
    let pu := fabricPlan s f 9 1 0 1 true i m
    let pp := fabricProbe s i 1 (maskOfLanes [lowestLane m]) (eaAt i.g f false) 8
    let ret := f.d.isV
    let at_ : Plan := { fabricPlan s f 9 (atomicRegs f) (if ret then countMask m else 0) (countMask m) false i m with
      dst := if ret then (opNames f.d).map (fun x => (x, false)) else [] }
    let va := readView s i.g at_.srcs
    let pa := fabricProbe va.1 i 2 m (eaAt va.2 f false) (atomicBytes f.ty)
    let aa := (ofLanes m pa.byLane).map (atomicPart va.2 f)
    let s2 := fabricFirst (applyReleases va.1 i at_) i aa
    let dest : Dest := if ret then .v f.d.num else .none
    let alloc (t : State) (n : Nat) : State := if ret then allocFor t i (opNames f.d) n at_.flag else t
    (Issues s i f false st → ps.bad = [] →
      (rel = true → exec (.rst f) s = .next (complete (startFence s1 i st m (.fence false true 5) (.rst sa)).1 i [])) ∧
      (rel = false → ∃ t n, startOp s1 i (newOp s1 i st m (.remoteWrite 0 [])) = (t, n) ∧
        exec (.rst f) s = .next (complete (sendStores t i.k n i.g.ctx false sa) i []))) ∧
    (∀ a, Issues s i f false pu → pp.bad = [] → pp.accs = [a] → exec (.puts f) s = .next (complete
      (startFence (fabricFirst s i [a]) i pu m (.fence false true 5) (.puts a.va (dataAt i.g f.ty f.c 0 (lowestLane m)))).1 i [])) ∧
    (Issues s i f false at_ → pa.bad = [] →
      (rel = true → ∃ t n, startFence s2 i at_ m (.fence false true 5) (.ratom (f.modAt 0 3) f.ty aa) = (t, n) ∧
        exec (.ratom f) s = .next (complete (alloc (onOp t i.k n (fun o => { o with dest := dest })) n) i [])) ∧
      (rel = false → ∃ t n, startOp s2 i { newOp s2 i at_ m (.remoteWrite 0 []) with dest := dest, tracker := aa.length } = (t, n) ∧
        exec (.ratom f) s = .next (complete (sendAtomics (alloc t n) i.k n i.g.ctx (f.modAt 0 3) f.ty false ret aa) i [])))) ∧
  ((∀ (grant : Bool) (n : Nat) (p : Probe) (l : Nat) (a : Word),
      (a.toNat % n ≠ 0 → fabricLane grant n p (l, a) = p.fail l a { cause := causeAlign }) ∧
      (a.toNat % n = 0 → isFabricVa a = false → fabricLane grant n p (l, a) = p.fail l a { cause := causeAccess, sub := 2 }) ∧
      (a.toNat % n = 0 → isFabricVa a = true → grant = false → fabricLane grant n p (l, a) = p.fail l a { cause := causeAccess }) ∧
      (a.toNat % n = 0 → isFabricVa a = true → grant = true → (fabricLane grant n p (l, a)).bad = p.bad ∧
        (fabricLane grant n p (l, a)).accs = p.accs ++ [{ lane := l, reg := 0, space := .fabric, va := a, pa := 0, ipa := 0, n := n }])) ∧
    (∀ (f : Fx) (s : State) (i : Issuer) (x : BitVec 6), f.d = .s x → Issues s i f false { cls := 14, active := i.active f, sNames := sSrcNames f ++ opSNames f.d } →
      ∃ t g tm, exec (.fstatc f) s = .next t ∧ t.issued = true ∧ t.cur = none ∧ t.mem = s.mem ∧ groupAt (coreOf t i.k) i.slot = some g ∧
        g.entries = (replaceEntry i.g i.e [i.onward i.e.mask]).entries ∧ sReg g x.toNat = BitVec.ofNat 64 i.tm.fstat.toNat ∧
        (∀ n, n ≠ x.toNat → sReg g n = sReg i.g n) ∧ g.v = i.g.v ∧ g.p = i.g.p ∧ g.besides i.g = i.g ∧
        teamOf (coreOf t i.k) i.t = some tm ∧ { tm with st := i.tm.st } = { i.tm with fstat := i.tm.fstat &&& ~~~ BitVec.ofNat 4 (uniformB i.g f) }))

/-! ### Writes of the control window -/

/-- R61, R181. A REGISTER_WRITE of 8 aligned bytes that the tables grant does what its register does; one that a rule refuses changes DERR
alone; a reserved or read-only register (the heat table, DVERSION) takes no write; any other size or alignment, and a write that the tables do not
grant, changes nothing (its response is ACCESS). A master without the configure right is granted nothing outside the boot registers that entry 0 of the
export table reaches; one with it reaches every block when it is 64 or 66, its own otherwise.
The model's own choices here, no rule of the spec: which writes are refused (log 27). -/
def Obligations.WindowWrites : Prop := ∀ (s : State) (w : CtlWrite),
  (∀ r t, Granted s w r → writeRegion s w.master.toNat w.data r = some t → exec (.registerWrite w) s = .next t) ∧
  (∀ r, Granted s w r → writeRegion s w.master.toNat w.data r = none → exec (.registerWrite w) s = .next (refused s w)) ∧
  (∀ d o, Granted s w .reserved ∨ Granted s w (.heat d o) ∨ Granted s w (.device 0) → exec (.registerWrite w) s = .next s) ∧
  (w.size ≠ 8 ∨ w.off.toNat % 8 ≠ 0 ∨ writeGrants s w (regionOf w.off.toNat) = false → exec (.registerWrite w) s = .next s) ∧
  (∀ r, w.viaEntry0 = false → tatGrants s 4 w.master.toNat 3 = false → writeGrants s w r = false) ∧
  (∀ r, w.viaEntry0 = false → w.master ≠ 64 → w.master ≠ 66 → ownBlock s w.master.toNat r = false → writeGrants s w r = false) ∧
  (∀ c, w.viaEntry0 = false → tatGrants s 4 w.master.toNat 3 = true → (w.master = 64 ∨ w.master = 66 ∨ (ctxOf s c).polder = w.master.toNat) →
    w.size = 8 → w.off.toNat = 0x10_00D0 + 0x100 * c → c < 1024 →
    ∃ t, exec (.registerWrite w) s = .next t ∧ windowRead t w.off.toNat = BitVec.ofNat 64 (fieldOf w.data 0 32) ∧
      t = { s with ctxs := put s.ctxs c { ctxOf s c with cvgrace := BitVec.ofNat 32 (fieldOf w.data 0 32) } })

/-- R62, R140, R180, R182, R183, R415, R420. Writes of the device block, the export table, a core's reset and an attestation, when they are
granted. A LOCK only sets, once every die has reported stage 4. A charge is raised, by master 64, no lower than its reset value, in a class that has an engine. Eight entries of a target access
table take their low four bits, those of masters 64 and 65 kept at 0x0F. A MAP entry that changes drains its old plane. A valid export range that
meets another valid one is refused. A core of no polder with no team comes to its reset state. A GO takes the nonce and the measurements as they are.
R70, R71. Writes of a core's bound and clock, when they are granted. VBND takes a value in host-assisted mode, in a valid slot, and is refused else. A
clock outside 500 to 1,500 MHz or off the 25 MHz grid, in a vacate's soft or save stage, or while a lowering is pending, is refused; a higher
clock is taken at once, with the bounds converted in hardware mode; a lower one in host-assisted mode needs every bound within the new floor and every VEST within its bound; in
hardware mode it waits, with the bounds converted, until every VEST is within its bound.
The model's own choices here, no rule of the spec: which writes are refused (log 27), and ATTCTL (log 35). -/
def Obligations.DeviceWrites : Prop :=
  (∀ (s : State) (w : CtlWrite),
    (Granted s w (.device 0x020) → bitAt w.data.toNat 0 = true →
      (w.master = 64 → allBooted s = true → exec (.dcfgLock w) s = .next { s with device := { s.device with lock := true } }) ∧
      (w.master ≠ 64 ∨ allBooted s = false → exec (.dcfgLock w) s = .next (refused s w))) ∧
    (∀ cls, cls < 32 → Granted s w (.device (0x200 + 8 * cls)) →
      ((w.master = 64 ∧ cls < 15 ∧ vctEngine cls ≠ 0 ∧ vctReset cls ≤ fieldOf w.data 0 16) →
        exec (.vctWrite w) s = .next { s with device := { s.device with vct := put s.device.vct cls (BitVec.ofNat 16 (fieldOf w.data 0 16)) } }) ∧
      (¬ (w.master = 64 ∧ cls < 15 ∧ vctEngine cls ≠ 0 ∧ vctReset cls ≤ fieldOf w.data 0 16) → exec (.vctWrite w) s = .next (refused s w))) ∧
    (∀ kind first, kind < 5 → first < 128 → first % 8 = 0 → Granted s w (.device (0x400 + 128 * kind + first)) → w.master = 64 →
      (first ≠ 64 → exec (.tatWrite w) s = .next { s with device := { s.device with
        tat := ((List.range 8).map (fun j => (first + j, byteAt w.data j % 16))).foldl (fun t e =>
          if 68 ≤ e.1 then t else putD t (kind * 128 + e.1) 0 (BitVec.ofNat 8 e.2)) s.device.tat } }) ∧
      (first = 64 → byteAt w.data 0 % 16 ≠ 15 ∨ byteAt w.data 1 % 16 ≠ 15 → exec (.tatWrite w) s = .next (refused s w))) ∧
    (∀ o, 0x400 ≤ o → o < 0x680 → w.off.toNat = o → w.master ≠ 64 → w.viaEntry0 = false → exec (.tatWrite w) s = .next s) ∧
    (Granted s w (.device 0x100) →
      (∀ t, writePlanes s w.data = some t → exec (.fplaneWrite w) s = .next t) ∧
      ((∃ e, e < 4 ∧ deadBit s (fieldOf w.data (2 * e) 2) = true) → exec (.fplaneWrite w) s = .next (refused s w)) ∧
      ((∀ e, e < 4 → deadBit s (fieldOf w.data (2 * e) 2) = false ∧ mapOf s e = fieldOf w.data (2 * e) 2 ∧ entryPending s e = false) →
        exec (.fplaneWrite w) s = .next s)) ∧
    (∀ n o, Granted s w (.entry n o) →
      (overlaps s n (entryAfter s n o w.data) = false →
        exec (.exportWrite w) s = .next { s with device := { s.device with expo := put s.device.expo n (entryAfter s n o w.data) } }) ∧
      (overlaps s n (entryAfter s n o w.data) = true → exec (.exportWrite w) s = .next (refused s w))) ∧
    (∀ k, Granted s w (.core k 0x010) → bitAt w.data.toNat 0 = true →
      (w.master = 64 → ownerOf s k = none → (coreOf s k).teams = [] →
        exec (.coreReset w) s = .next { s with cores := put s.cores k { coreOf s k with
          ccyc := 0, refillAt := 0, suba := 0, fenceReq := none, banks := [], l1 := [], icache := [], latches := [], pmcfg := 0, pmfilt := 0, pmc := [] } }) ∧
      (w.master ≠ 64 ∨ ownerOf s k ≠ none ∨ (coreOf s k).teams ≠ [] → exec (.coreReset w) s = .next (refused s w))) ∧
    (∀ d, Granted s w (.baseDie d 0x9A0) → bitAt w.data.toNat 63 = true →
      (∀ x, dieOf s d = x → x.attBusy = false → 2 ≤ bitsAt x.bstat.toNat 0 4 →
        exec (.attestGo w) s = .next (setDie s d { x with
          attDone := x.attDone && !bitAt w.data.toNat 61, attOff := BitVec.ofNat 14 (fieldOf w.data 6 14), attBusy := true, attBy := w.master.toNat, attSpoiled := false,
          attGo := (x.attnonce, (List.range 4).map (fun j => lookD x.meas j 0)), attGoOff := BitVec.ofNat 14 (fieldOf w.data 6 14) })) ∧
      ((dieOf s d).attBusy = true ∨ bitsAt (dieOf s d).bstat.toNat 0 4 < 2 → exec (.attestGo w) s = .next (refused s w)))) ∧
  (∀ (s : State) (w : CtlWrite) (k : Nat),
    (∀ slot, slot < 64 → Granted s w (.core k (0x800 + 0x20 * slot)) →
      ((slotCtx s k slot).isSome = true → hwConverts s k = false →
        exec (.vbndWrite w) s = .next { s with cores := put s.cores k { coreOf s k with vbnd := putD (coreOf s k).vbnd slot 0 (BitVec.ofNat 64 w.data.toNat) } }) ∧
      ((slotCtx s k slot).isSome = false ∨ hwConverts s k = true → exec (.vbndWrite w) s = .next (refused s w))) ∧
    (Granted s w (.core k 0) →
      let mhz := fieldOf w.data 0 11
      let busy := ∃ e ∈ validSlots s k, (ctxOf s e.2).phase = 1 ∨ (ctxOf s e.2).phase = 2
      let fits := ∀ e ∈ validSlots s k, vbnd s k (BitVec.ofNat 10 e.2) ≤ boundFloor (ctxOf s e.2) mhz ∧
        vest s k (BitVec.ofNat 10 e.2) ≤ vbnd s k (BitVec.ofNat 10 e.2)
      let now := onCore s k (fun c => { c with mhz := BitVec.ofNat 11 mhz })
      (mhz < 500 ∨ 1500 < mhz ∨ mhz % 25 ≠ 0 ∨ busy ∨ (coreOf s k).lowering.isSome = true → exec (.cclkWrite w) s = .next (refused s w)) ∧
      (500 ≤ mhz → mhz ≤ 1500 → mhz % 25 = 0 → ¬ busy → (coreOf s k).lowering = none →
        ((coreOf s k).mhz.toNat ≤ mhz ∨ ownerOf s k = none → exec (.cclkWrite w) s = .next (if hwConverts s k then convertAll now k mhz else now)) ∧
        (mhz < (coreOf s k).mhz.toNat → ownerOf s k ≠ none →
          (hwConverts s k = true → exec (.cclkWrite w) s = .next (convertAll (onCore s k (fun c => { c with lowering := some (BitVec.ofNat 11 mhz) })) k mhz)) ∧
          (hwConverts s k = false → fits → exec (.cclkWrite w) s = .next now) ∧
          (hwConverts s k = false → ¬ fits → exec (.cclkWrite w) s = .next (refused s w))))) ∧
    (∀ (k9 : BitVec 9) (m : BitVec 11), k9.toNat = k → (coreOf s k).lowering = some m →
      ((∀ e ∈ validSlots s k, vest s k (BitVec.ofNat 10 e.2) ≤ vbnd s k (BitVec.ofNat 10 e.2)) →
        exec (.clockLowerApply k9) s = .next { s with cores := put s.cores k { coreOf s k with mhz := m, lowering := none } }) ∧
      ((∃ e ∈ validSlots s k, vbnd s k (BitVec.ofNat 10 e.2) < vest s k (BitVec.ofNat 10 e.2)) → exec (.clockLowerApply k9) s = .next s)))

/-- R64, R93, R153, R168, R422. The states of a polder. A free polder is activated, its master taking rights 0x07 in the tables of kinds 0 to 3; an
active one goes to teardown, in which its contexts are killed, its merge sets released, its gaps and held packets answered NACK NOEXPORT, and its
tombstone counts two FTIMEOUT; when that is done STATE is 3, with the frames it mapped in quarantine; a released one is free, its tombstone
gone. A write of PTLBI sets BUSY. A write that would break the sum of the shares, or release a polder whose tombstone is valid, is refused.
The model's own choices here, no rule of the spec: the order of a teardown (log 27). -/
def Obligations.PolderStates : Prop := ∀ (s : State) (w : CtlWrite) (p : Nat),
  let x := polderOf s p
  let y : Polder := { x with pcfg := keep w.data 0x1F_FF03 }
  let shares := sumPolders s p y (fun z => if z.state = 1 then z.share else 0)
  (Granted s w (.polder p 0) →
    (x.state = 0 → y.state = 1 → x.tomb = none → shares ≤ 256 →
      exec (.polderActivate w) s = .next { s with
        polders := put s.polders p y
        device := { s.device with tat := [0, 1, 2, 3].foldl (fun t k => put t (k * 128 + p) 7) s.device.tat } }) ∧
    (x.state = 1 → y.state = 2 → shares ≤ 256 →
      exec (.polderTeardown w) s = .next (beginTeardown (setPolder s p y) p) ∧
      (polderOf (beginTeardown (setPolder s p y) p) p).tomb = some (2 * (teardownAnswer (teardownKill (setPolder s p y) p) p).fabric.ftimeout.toNat)) ∧
    (x.state = 3 → y.state = 0 → x.tomb = none → shares ≤ 256 → exec (.polderRelease w) s = .next { s with polders := put s.polders p y }) ∧
    (x.state = 3 → y.state = 0 → x.tomb ≠ none → exec (.polderRelease w) s = .next (refused s w)) ∧
    (x.state = 0 → y.state = 1 → 256 < shares → exec (.polderActivate w) s = .next (refused s w)) ∧
    (x.state ≠ y.state → ¬ (x.state = 0 ∧ y.state = 1) → ¬ (x.state = 1 ∧ y.state = 2) → ¬ (x.state = 3 ∧ y.state = 0) →
      exec (.registerWrite w) s = .next (refused s w))) ∧
  (Granted s w (.polder p 0x070) →
    (x.tlbiBusy = false → fieldOf w.data 61 2 < 2 →
      exec (.ptlbiWrite w) s = .next { s with polders := put s.polders p { x with
        tlbiBusy := true, tlbiScope := BitVec.ofNat 2 (fieldOf w.data 61 2), tlbiAddr := BitVec.ofNat 44 (fieldOf w.data 12 44) } }) ∧
    (x.tlbiBusy = true ∨ 2 ≤ fieldOf w.data 61 2 → exec (.ptlbiWrite w) s = .next (refused s w))) ∧
  (∀ q : BitVec 6, q.toNat = p →
    (x.state = 2 → ∃ t, exec (.teardownComplete q) s = .next t ∧ (polderOf t p).state = 3 ∧
      (∀ kind, kind < 5 → tatByte t kind p = 0) ∧
      (bitAt x.ps2root.toNat 0 = true → ∀ fr ∈ tableFrames s 5 (fieldOf x.ps2root 12 40 * 4096) 0, isHbm (fr * 4096) = true →
        look t.quar fr = some x.hostScrub)) ∧
    (x.state ≠ 2 → exec (.teardownComplete q) s = .next s) ∧
    (x.tomb = some 0 → exec (.tombstoneExpire q) s = .next { s with polders := put s.polders p { x with tomb := none } }) ∧
    (x.tomb ≠ some 0 → exec (.tombstoneExpire q) s = .next s))

/-! ### Writes of a context's descriptor -/

/-- R68, R70, R130, R168. Writes of a descriptor, when they are granted. CTXCFG is stored whole, a slot that becomes valid or another context's
converted on every core of its polder; a change of POLDER or SLOT with a team placed, and TAGMODE 3, are refused. CBOUND is stored and converted. CTLBI sets BUSY. A
new CONS writes the held records in order while the ring has room.
R132. A write of CRESUME uses its token up. RETRY of an access or a copy returns the entries that wait on the token to ready, on every core and in
every saved image, and no other entry, and lets a paused copy go on; RETRY of a refused write-back (KIND 2) has that write-back tried again, and the
group stays parked. FAIL stops a copy, and kills the context else. A token of no record, or of another context, is refused.
The model's own choices here, no rule of the spec: which writes are refused (log 27) and the bound of an invalid slot (log 34). -/
def Obligations.ContextWrites : Prop :=
  (∀ (s : State) (w : CtlWrite) (c : Nat),
    let x := ctxOf s c
    (Granted s w (.ctx c 0) →
      let y : Ctx := { x with ctxcfg := keep w.data 0xFF_F07F }
      let z : Ctx := if y.valid && !x.valid then
        { y with tagTrapped := 0, tagReported := 0, watchHits := 0, satEv := 0, divEv := 0, vneverEv := 0, vbtEv := 0 } else y
      (y.tagmode ≠ 3 → x.polder = y.polder ∧ x.slot = y.slot ∨ placedTeams s c = 0 →
        exec (.ctxcfgWrite w) s = .next (((coresOf s x.polder ++ coresOf s z.polder).eraseDups).foldl
          (fun t k => slotUpdate s z.slot (slotUpdate s x.slot t k) k) { s with ctxs := put s.ctxs c z })) ∧
      (y.tagmode = 3 ∨ ((x.polder ≠ y.polder ∨ x.slot ≠ y.slot) ∧ 0 < placedTeams s c) → exec (.ctxcfgWrite w) s = .next (refused s w))) ∧
    (Granted s w (.ctx c 0x10) →
      let t : State := { s with ctxs := put s.ctxs c { x with cbound := BitVec.ofNat 32 (fieldOf w.data 0 32) } }
      exec (.cboundWrite w) s = .next ((coresOf t x.polder).foldl
        (fun s k => if slotCtx s k x.slot = some c then convertSlot s k x.slot else s) t)) ∧
    (Granted s w (.ctx c 0xC0) →
      (x.tlbiBusy = false → fieldOf w.data 61 2 < 2 →
        exec (.ctlbiWrite w) s = .next { s with ctxs := put s.ctxs c { x with
          tlbiBusy := true, tlbiScope := BitVec.ofNat 2 (fieldOf w.data 61 2), tlbiAddr := BitVec.ofNat 44 (fieldOf w.data 12 44) } }) ∧
      (x.tlbiBusy = true ∨ 2 ≤ fieldOf w.data 61 2 → exec (.ctlbiWrite w) s = .next (refused s w))) ∧
    (Granted s w (.ctx c 0x30) →
      let t : State := { s with ctxs := put s.ctxs c { x with cons := BitVec.ofNat 31 (fieldOf w.data 0 31) } }
      exec (.faultQueueConsume w) s = .next (drainCtx t c x.held.length) ∧
      (x.held = [] → exec (.faultQueueConsume w) s = .next t)) ∧
    (∀ r rest n, x.held = r :: rest → ringBase x.cfrq ≠ 0 →
      (ringUsed x.prod x.cons < ringSize x.cfrq →
        drainCtx s c (n + 1) = drainCtx (onCtx (putRecord s x.cfrq x.prod.toNat r) c (fun x => { x with prod := x.prod + 1, held := rest })) c n) ∧
      (ringSize x.cfrq ≤ ringUsed x.prod x.cons → drainCtx s c (n + 1) = s))) ∧
  (∀ (s : State) (w : CtlWrite) (c : Nat), Granted s w (.ctx c 0x38) →
    let t := w.data &&& ~~~ 1
    let used : State := { s with tokens := s.tokens.filter (fun e => e.1 != t) }
    let retry := bitAt w.data.toNat 0 = false
    (∀ kind, s.tokens.find? (fun e => e.1 == t) = some (t, kind, c) →
      (retry → kind ≠ 2 → exec (.resumeRetry w) s = .next { used with
          cores := s.cores.map (fun d => (d.1, { d.2 with
            groups := d.2.groups.map (fun g => (g.1, readyToken t g.2)), ops := d.2.ops.map (fun o => (o.1, unpause t o.2)) }))
          saved := s.saved.map (fun x => { x with
            groups := x.groups.map (fun g => (g.1, readyToken t g.2)), ops := x.ops.map (unpause t) }) }) ∧
      (retry → kind = 2 → ∃ u, exec (.resumeRetry w) s = .next u ∧ u.mem = s.mem ∧ u.tokens = used.tokens ∧
        (∀ k, (coreOf u k).groups = (coreOf s k).groups ∧ (coreOf u k).wbs = (coreOf s k).wbs.map (fun e => (e.1, e.2.retry t))) ∧
        u.saved.map (·.wbs) = s.saved.map (fun x => x.wbs.map (fun e => (e.1, e.2.retry t)))) ∧
      (¬ retry → kind = 1 → exec (.resumeFail w) s = .next (failCopy used t)) ∧
      (¬ retry → kind ≠ 1 → exec (.resumeFail w) s = .next (killContext used c))) ∧
    (∀ x : WriteBack, ((∃ e ∈ x.tokens, e.2 = t) → (x.retry t).refused = false) ∧ ((∀ e ∈ x.tokens, e.2 ≠ t) → x.retry t = x)) ∧
    (∀ g : Group, (readyToken t g).entries.map (·.mask) = g.entries.map (·.mask) ∧ { readyToken t g with entries := g.entries } = g ∧
      (∀ e ∈ (readyToken t g).entries, e.token = 0 ∧ e.st = .ready ∨ e ∈ g.entries ∧ e.token ≠ t)) ∧
    ((∀ e ∈ s.tokens, e.1 ≠ t) ∨ (∃ kind c', c' ≠ c ∧ s.tokens.find? (fun e => e.1 == t) = some (t, kind, c')) →
      (retry → exec (.resumeRetry w) s = .next (refused s w)) ∧ (¬ retry → exec (.resumeFail w) s = .next (refused s w))))

/-- R197, R203. A write of CVAC. GO for a context with no placed team sets the hold and PHASE 3 at once; with teams, the hold and PHASE 1, and the request
is with every core that has one. RESUME ends the hold, with PHASE 0. KILL kills the context: PHASE is 4. GO while BUSY and
RESUME in PHASE 1 or 2 are refused. A kill timer that runs out VBND + KMARGIN cycles after t_e does as KILL.
R194, R196, R198 to R202. THE LADDER on a core. The first context of the core's list starts its stages, timed from then. The soft stage ends when its
test holds: each team that has not left is flushed or is to be saved, its operations meet their fates, and t_e is taken. The saves begin
Q cycles after t_e. A save is complete when every team of the context has drained: dirty bytes go home, and when none is on its way each team leaves
to its image or to its launch, and the stages end. An entry refused for VSTALLMAX cycles, and refused still, traps with VBT, on the lanes it was refused for.
The model's own choices here, no rule of the spec: the fates of teams and operations (log 33). -/
def Obligations.VacateLadder : Prop :=
  (∀ (s : State) (w : CtlWrite) (c : Nat), Granted s w (.ctx c 0xC8) →
    let x := ctxOf s c
    let go := bitAt w.data.toNat 63
    let kill := bitAt w.data.toNat 62
    let resume := bitAt w.data.toNat 61
    let lns := fieldOf w.data 0 32
    (go = true → kill = false → resume = false → x.busy = false →
      exec (.vacateGo w) s = .next (requestVacate s c lns) ∧
      (coresWith s c = [] → exec (.vacateGo w) s = .next { s with ctxs := put s.ctxs c { x with hold := true, phase := 3, lns := BitVec.ofNat 32 lns } })) ∧
    (go = true → x.busy = true → exec (.vacateGo w) s = .next (refused s w)) ∧
    (go = false → kill = false → resume = true →
      (x.phase ≠ 1 → x.phase ≠ 2 → exec (.vacateResume w) s = .next { s with ctxs := put s.ctxs c { x with hold := false, phase := 0 } }) ∧
      (x.phase = 1 ∨ x.phase = 2 → exec (.vacateResume w) s = .next (refused s w))) ∧
    (go = false → kill = true → resume = false → exec (.contextKill w) s = .next (killContext s c)) ∧
    (∃ t, killContext s c = t ∧ (ctxOf t c).phase = 4 ∧ (ctxOf t c).busy = false ∧ (ctxOf t c).pending = []) ∧
    (∀ (k : BitVec 9) (c10 : BitVec 10) v te, c10.toNat = c → vacateOf (coreOf s k.toNat) c = some v → v.te = some te →
      (te.toNat + vbnd s k.toNat c10 + v.margin ≤ (coreOf s k.toNat).ccyc.toNat → exec (.killTimerExpire k c10) s = .next (killContext s c)) ∧
      ((coreOf s k.toNat).ccyc.toNat < te.toNat + vbnd s k.toNat c10 + v.margin → exec (.killTimerExpire k c10) s = .next s))) ∧
  (∀ (s : State) (k : BitVec 9) (c : BitVec 10),
    let y := coreOf s k.toNat
    let stage (f : VacateStage → VacateStage) : State :=
      { s with cores := put s.cores k.toNat { y with vacates := y.vacates.map (fun e => if e.1 = c.toNat then (e.1, f e.2) else e) } }
    (∀ v more, y.vacates = (c.toNat, v) :: more → v.begun = false →
      exec (.vacateStart k c) s = .next (stage (fun v => { v with begun := true, start := y.ccyc }))) ∧
    (∀ v, vacateOf y c.toNat = some v →
      (v.begun = true → v.te = none → softStageOver s k.toNat c.toNat v = true →
        exec (.softStageEnd k c) s = .next (phaseCheck (onStage ((laddered s k.toNat c.toNat).foldl (fun s e =>
          let fl := e.2.leaving.isNone && flushes s k.toNat e.1 e.2
          fateAll (onTeam s e.2.uid (fun t => { t with leaving := some (!fl) })) k.toNat e.2.uid fl) s)
            k.toNat c.toNat (fun v => { v with te := some y.ccyc })) c.toNat)) ∧
      (v.begun = true → v.te = none → softStageOver s k.toNat c.toNat v = false → exec (.softStageEnd k c) s = .next s) ∧
      (∀ te, v.te = some te → te.toNat + (ctxOf s c.toNat).q.toNat ≤ y.ccyc.toNat →
        exec (.saveBegin k c) s = .next (stage (fun v => { v with saving := true }))) ∧
      (∀ te, v.te = some te → v.saving = true →
        (∀ e ∈ ctxTeams y c, e.2.st ≠ .draining ∧ teamDrained y e.2.uid = true) →
        (wbsLeft (coreOf (writeBackCtx s k.toNat c) k.toNat) c = false →
          exec (.saveComplete k c) s = .next (endStage ((ctxTeams y c).foldl (fun s e =>
            let tm := (teamOf (coreOf s k.toNat) e.1).getD e.2
            if tm.leaving = some false then flushTeam s k.toNat e.1 tm else saveTeam s k.toNat e.1 tm (tm.leftAt.getD te))
            (writeBackCtx s k.toNat c)) k.toNat c.toNat v)) ∧
        (wbsLeft (coreOf (writeBackCtx s k.toNat c) k.toNat) c = true → exec (.saveComplete k c) s = .next (writeBackCtx s k.toNat c)))) ∧
    (∀ (slot : BitVec 5) (lanes : Mask) e g n f t x a, entryNow s k.toNat slot.toNat lanes = some e → e.stall = some x → e.limit ≤ (y.ccyc - x).toNat →
      groupAt y slot.toNat = some g → fetchInstr s k.toNat slot.toNat g.ctx e.pc = (t, .inl (f, n)) → e.asked = some a →
      ∀ i, issuer (pointAt t k.toNat slot.toNat lanes n) = some i →
        let p := a.plan e.refusedLanes
        (p.admitted t i (vbnd t k.toNat g.ctx) = true → exec (.vbtStallTimeout k slot lanes) s = .next t) ∧
        (p.admitted t i (vbnd t k.toNat g.ctx) = false →
          exec (.vbtStallTimeout k slot lanes) s = .next (trapAtIssue (countVbt (pointAt t k.toNat slot.toNat lanes n) i.ctx e.refusedLanes) i
            { cause := causeVbt, addr := BitVec.ofNat 64 (p.vestAfter t i), lanes := e.refusedLanes }))))

/-! ### Operations in flight -/

/-- R45, R191, R277. A RESULT THAT ARRIVES. A class 1 result is written when the engine has it, and the operation is over: a vector d takes it
in the operation's lanes, in the form of its issue, when its name still awaits it, an s register in any case. What arrives late for a full-form name is
written in the lanes that have not exited; every other name and lane stands; a name written or released since is left alone. The end of an
operation whose group has no lane that waits to trap with WATCH changes nothing else.
The model's own choices here, no rule of the spec: when class 1 results are computed (log 37). -/
def Obligations.ResultsArrive : Prop :=
  (∀ (s : State) (k : BitVec 9) (n : Nat) (o : Op) (ws : List (Nat × Word)) (uni : Bool), opOf s k.toNat n = some o → o.kind = .vec ws uni →
    let m := maskOfLanes (ws.map (·.1))
    (∀ d, o.dest = .v d → exec (.vectorResultWrite k n) s = .next (finishOp (onGroup s o.uid o.gid (fun g =>
      if awaited g d n then writeName g d uni (if uni then m else m &&& liveLanes g) (laneValue ws) else g)) k.toNat n)) ∧
    (∀ d, o.dest = .s d → exec (.vectorResultWrite k n) s = .next (finishOp (onGroup s o.uid o.gid (fun g =>
      setS g d (laneValue ws (lowestLane m)))) k.toNat n)) ∧
    (o.dest = .none → exec (.vectorResultWrite k n) s = .next (finishOp s k.toNat n))) ∧
  (∀ (g : Group) (n op : Nat) (m : Mask) (f : Nat → Word),
    (awaited g n op = true → ∀ l, l < 32 → vLane (lateWrite g n op m f) n l = if inMask m l ∧ ¬ inMask g.exited l then f l else vLane g n l) ∧
    (awaited g n op = false → lateWrite g n op m f = g) ∧
    (∀ d, d ≠ n → look (lateWrite g n op m f).v d = look g.v d) ∧
    { lateWrite g n op m f with v := g.v, badV := g.badV } = g) ∧
  (∀ (s : State) (k n : Nat) (o : Op), opOf s k n = some o →
    (∀ x g, findGroup (coreOf s k) o.uid o.gid = some (x, g) → ∀ e ∈ g.entries, ∀ ops a b, e.hold ≠ .watch ops a b) →
    let t := finishOp s k n
    opOf t k n = none ∧ t.mem = s.mem ∧ t.device = s.device ∧ t.dies = s.dies ∧ t.fabric = s.fabric ∧ t.ctxs = s.ctxs ∧ t.polders = s.polders ∧
    (∀ e, e ≠ n → opOf t k e = opOf s k e))

/-- R216, R335, R348. A LOAD RETURNS when no earlier access of its group to a byte of it, of which one writes, is still to perform, its team
is not being flushed, and the lines it needs can be had: its values are fixed then, in rising order of its accesses, its registers or its
window take them, poison with them, and the operation is over. A scratch byte is the bank's; a host byte is the home's; with no cache banks, or on the
.home path, the value is what the die sees when the context's dirty bytes have gone home: the home's bytes where the line is homed on the die and the core
holds nothing of it. A store into a line of the L1 leaves memory as it is, and a later load of the same bytes there has the stored value.
R216, R335, R339. STORES AND ATOMICS PERFORM when no earlier access of their group to a byte of theirs is still to perform. A store's accesses
perform in rising order; those that leave the core are charged and counted by sector first. A scratch store changes its bytes of the bank. An
atomic performs location by location, all lanes of a location together, packed words half by half; the port tracker's completion is the same step. What has no
such operation leaves the state.
R205. What asks something of the port while its core has no token waits.
The model's own choices here, no rule of the spec: what heat counts (log 16), owed tokens (log 23), the counts of stores (log 42), and the bytes of an
argument block changed early, which are free (log 43). -/
def Obligations.AccessesPerform : Prop :=
  (∀ (s : State) (k : BitVec 9) (n : Nat) (o : Op) (path : Path) (accs : List LaneAcc) (w : Bool),
    opOf s k.toNat n = some o → o.kind = .load path accs w →
    (opLeaves (coreOf s k.toNat) o.uid = false → mustFollow (coreOf s k.toNat) n o = false → loadAllowed s k.toNat o path accs = true →
      (loadNeedsPort s k.toNat o path accs = false ∨ portOpen s k.toNat o.ctx (.op n) = true →
        let u := accs.foldl (fun s a => loadFirst s k.toNat o path a) s
        let r := loadAll u k.toNat o path accs
        let v := loadFree r.1 k.toNat o r.2
        let bad := accs.filter (loadPoison v.1 k.toNat o path)
        (loadAllowed u k.toNat o path accs = true → exec (.loadReturn k n) s = .next (finishOp
          (if w then deliverWindow v.1 k.toNat o v.2 bad else spoilDest (deliver v.1 n o v.2) n o bad) k.toNat n)) ∧
        (loadAllowed u k.toNat o path accs = false → exec (.loadReturn k n) s = .next u)) ∧
      (loadNeedsPort s k.toNat o path accs = true → portOpen s k.toNat o.ctx (.op n) = false →
        exec (.loadReturn k n) s = .next (portWait s k.toNat o.ctx (.op n)))) ∧
    (mustFollow (coreOf s k.toNat) n o = true → exec (.loadReturn k n) s = .next s) ∧
    (∀ vs, (∀ e ∈ vs, argChanged s k.toNat o.uid e.1 = false) → loadFree s k.toNat o vs = (s, vs)) ∧
    (∀ a, a.space = .scratch → loadOne s k.toNat o path a = (s, loadValue a (scratchRead (coreOf s k.toNat) a.pa a.n))) ∧
    (∀ a, a.space = .host → loadOne s k.toNat o path a = (s, loadValue a (homeRead s a.pa a.n))) ∧
    (∀ a, a.space = .hbm → a.n ≠ 0 → loadsHome (coreOf s k.toNat) path = true →
      let d := dieOfCore k.toNat
      let t := fillCopy (homeFirst s k.toNat o.ctx (.phys (lineOf a.pa)) a.va) d a.pa
      loadOne s k.toNat o path a = (t, loadValue a (dieRead t d a.pa a.n)) ∧
      (homeDie a.pa = d → l1Holding (coreOf s k.toNat) o.ctx (.phys (lineOf a.pa)) a.va = none →
        leavesFirst (coreOf s k.toNat) o.ctx (.phys (lineOf a.pa)) a.va = [] →
        loadOne s k.toNat o path a = (s, loadValue a (homeRead s a.pa a.n)))) ∧
    (∀ a key l, a.space = .hbm → 0 < a.n → a.va.toNat % 64 + a.n ≤ 64 → l1Find (coreOf s k.toNat) o.ctx a.va = some key →
      look (coreOf s k.toNat).l1 key = some l → l.sectors.length = 4 →
      let t := storeOne s k.toNat n o .keep none a
      t.mem = s.mem ∧ (loadOne t k.toNat o .keep { a with sgn := false }).2 = BitVec.ofNat 64 (a.data.toNat % 2 ^ (8 * a.n))) ∧
    (∀ a v, loadValue a v = if a.sgn then sext (8 * a.n) v else BitVec.ofNat 64 v)) ∧
  (∀ (s : State) (k : BitVec 9) (n : Nat) (o : Op), opOf s k.toNat n = some o →
    let c := coreOf s k.toNat
    let d := dieOfCore k.toNat
    let free := mustFollow c n o = false
    let open_ := portOpen s k.toNat o.ctx (.op n) = true
    let wait := portWait s k.toNat o.ctx (.op n)
    (∀ path accs tag x, o.kind = .store path accs tag x →
      (free → (tag ≠ some false ∨ ∀ a ∈ accs, canFill s d a.pa = true) →
        (loadsHome c path = false ∨ ∀ a ∈ accs, a.space = .hbm → lineFree s d a.pa = true) →
        let t := finishOp (accs.foldl (fun s a => storeOne s k.toNat n o path tag a) (countStore s k.toNat o path tag accs)) k.toNat n
        exec (.storePerform k n) s = .next (noteArgs t (wroteSpans s t k.toNat n))) ∧
      (¬ free → exec (.storePerform k n) s = .next s)) ∧
    (∀ accs tag, o.kind = .homeStore accs tag → free → (tag ≠ some false ∨ ∀ a ∈ accs, canFill s d a.pa = true) → (∀ a ∈ accs, lineFree s d a.pa = true) →
      let t := finishOp (accs.foldl (fun s a => match a.space with
        | .host => homeWrite s a.pa a.n a.data.toNat
        | _ => storeHome s k.toNat n o tag a) ((perSector accs).foldl (fun s a => heatOne (takeSector s k.toNat o.ctx a.pa) k.toNat o.polder.toNat a) s)) k.toNat n
      let t' := noteArgs t (wroteSpans s t k.toNat n)
      (open_ → exec (.storePerform k n) s = .next t' ∧ exec (.portTrackerComplete k n) s = .next t') ∧
      (¬ open_ → exec (.storePerform k n) s = .next wait ∧ exec (.portTrackerComplete k n) s = .next wait)) ∧
    (∀ op ty accs, o.kind = .atomic op ty accs → free → (∃ a ∈ accs, a.reg = 0 ∧ lineFree s d a.pa = true) →
      let todo := atomicTodo accs
      let t := ((todo.map (·.pa)).eraseDups).foldl (fun s pa => atomicLocation s k.toNat n o op ty (todo.filter (fun a => a.pa == pa)))
        (portLeave s k.toNat (.op n))
      let t' := noteArgs t (wroteSpans s t k.toNat n)
      (open_ → exec (.atomicPerform k n) s = .next t' ∧ exec (.portTrackerComplete k n) s = .next t') ∧
      (¬ open_ → exec (.atomicPerform k n) s = .next wait ∧ exec (.portTrackerComplete k n) s = .next wait)) ∧
    ((∀ l ∈ s.launches, starting s l.1 l.2 = false) → ∀ spans, noteArgs s spans = s) ∧
    (∀ accs, o.kind = .remoteWrite 0 accs → exec (.portTrackerComplete k n) s = .next (finishOp s k.toNat n)) ∧
    (∀ path tag a, a.space = .scratch → storeOne s k.toNat n o path tag a =
      { s with cores := put s.cores k.toNat (scratchWrite c a.pa a.n a.data.toNat) }) ∧
    (∀ a m v, a % 8 + m ≤ 8 → scratchRead (scratchWrite c a m v) a m = v % 2 ^ (8 * m)))

/-- R209, R214, R219, R221, R230. WRITE-BACKS AND FENCES. The oldest write-back of a sector that the access tables grant performs its bytes and is gone,
unless its line waits for an atomic's reply or its context for a token, and one they do not is refused with ACCESS; one of a fabric line becomes a WR while the port tracker has
room. A younger one, one sent and one refused wait. A launch that waited for it may complete. A fence starts its write-backs when the operations it covers are over; when they are acknowledged it takes its effect, the entries parked at it are ready, and the operation ends or
what stands behind the release follows. An eviction writes its line back and drops it.
The model's own choices here, no rule of the spec: what a fence waits for (log 17) and where a refused write-back is reported (log 39). -/
def Obligations.FencesComplete : Prop := ∀ (s : State) (k : BitVec 9) (n : Nat),
  let kk := k.toNat
  (∀ w, look (coreOf s kk).wbs n = some w →
    let ack (t : State) : Prop := exec (.writebackAck k n) s = .next (checkLaunches t w.ctx)
    let oldest : Prop := (unsentOf (coreOf s kk) w).head?.map (·.1) = some n
    (w.sent = true ∨ w.refused = true → ack s) ∧
    (w.sent = false → w.refused = false →
      (wbGranted s w = false → ack (refuseWriteBack s kk n causeAccess 0)) ∧
      (wbGranted s w = true → ¬ oldest → ack s) ∧
      (wbGranted s w = true → oldest →
        (∀ l, w.home = .phys l →
          let pa := l * 256 + 64 * sectorIx w.va
          (lineFree s (dieOfCore kk) pa = true → portOpen s kk w.ctx (.wb n) = true →
            ack (onCore (performWriteBack s kk w pa) kk (fun c => { c with wbs := del c.wbs n }))) ∧
          (lineFree s (dieOfCore kk) pa = true → portOpen s kk w.ctx (.wb n) = false → ack (portWait s kk w.ctx (.wb n))) ∧
          (lineFree s (dieOfCore kk) pa = false → ack s)) ∧
        (w.home = .fabric →
          let still := (waitingFences (coreOf s kk) w).filter (fun e => match e.2.kind with | .fence what _ _ _ _ _ => needsApplied what | _ => false)
          (trackerFree (coreOf s kk) ≠ 0 → ack (onCore (sendWriteBack s kk (wbBase + n) w) kk (fun c => { c with wbs := alter c.wbs n (fun w =>
            { w with sent := true, refused := false, tokens := [], waiters := still.map (·.1) }) }))) ∧
          (trackerFree (coreOf s kk) = 0 → ack s)))) ∧
    (s.launches.filter (fun e => e.2.ctx == w.ctx) = [] → ∀ t, t.launches = s.launches → checkLaunches t w.ctx = t)) ∧
  (∀ (way : BitVec 6) (line : BitVec 7), exec (.l1Eviction k way line) s = .next (evictLine s kk (way.toNat * 128 + line.toNat))) ∧
  (∀ o, opOf s kk n = some o →
    (∀ w wbs ops tok a, o.kind = .fence w wbs ops false tok a → exec (.fenceComplete k n) s = .next (beginFence s kk n)) ∧
    (∀ w wbs ops tok a, o.kind = .fence w wbs ops true tok a →
      ((∀ b ∈ wbs, wbDone (coreOf s kk) n b = true) → homesDone s kk o.ctx w = true →
        exec (.fenceComplete k n) s = .next (afterFence (onGroup (fenceEffect s kk o.ctx w) o.uid o.gid (fun g => unparkGroup g n)) kk n o a)) ∧
      ((∃ b ∈ wbs, wbDone (coreOf s kk) n b = false) ∨ homesDone s kk o.ctx w = false → exec (.fenceComplete k n) s = .next s)) ∧
    (∀ addr q, o.kind = .launch addr q → exec (.fenceComplete k n) s = .next (performLaunch s kk n o addr q))) ∧
  (∀ ctx acq rel scope, fenceEffect s kk ctx (.fence acq rel scope) = if acq then acquireOn s kk ctx scope else s) ∧
  (∀ o, afterFence s kk n o .nothing = finishOp s kk n)

/-- R75, R76, R83, R127. BANKS AND FIFOS. A bank switch, when no earlier access to its bank or switch of it is in flight, empties the bank, writing a cache way's dirty
bytes back, and is over. A FIFO operation at the head of its slot is accepted when the bank is not in transition and has
room or words: a push appends its words in lane order, a pop gives the oldest words to its lanes in rising order, or traps with ECC when one is poisoned; on a
bank that has left FIFO mode it traps with BANK, and a switch leaves BANK for the copies that name its slot. After 2^20 cycles without acceptance it traps with FIFO, 1 for a push and 2 for a pop.
R92, R123, R124, R341, R359, R360. THE MATRIX AND COPY ENGINES. A matrix operation writes its accumulator when no earlier one of the group on it is in flight: lane
l of register d + r takes the element that A, B, C and D give, in every lane. A copy moves a beat when it is the first of its channel: 64 bytes, less at its end and at a page
boundary; a scratch to scratch beat copies the words of its range, and words that lie in both ranges of the copy take undefined values; a beat from memory,
behind the core's dirty bytes of its sectors, takes the home's bytes to scratch or to the end of a FIFO, one to memory writes the bytes of scratch there, and one
from scratch to a FIFO appends them; the position advances by whole granules. A side that fails, or poison in the source, ends or pauses the copy. At its last byte the
copy is over.
The model's own choices here, no rule of the spec: the order of FIFO operations and the sides of a beat (log 18), matrix operands (log 37) and the free values (log 4). -/
def Obligations.EnginesComplete : Prop :=
  (∀ (s : State) (k : BitVec 9) (n : Nat) (o : Op), opOf s k.toNat n = some o →
    let kk := k.toNat
    let c := coreOf s kk
    (∀ b tgt, o.kind = .bank b tgt →
      (canSwitch s kk n = true → exec (.bankTransitionComplete k n) s = .next (finishOp (switchBank s kk b tgt) kk n)) ∧
      (canSwitch s kk n = false → exec (.bankTransitionComplete k n) s = .next s) ∧
      ((bankOf c b).mode ≠ tgt → (bankOf c b).mode ≠ .cache → switchBank s kk b tgt = onCore s kk (fun c' => setBank (loseSlot c' (bankOf c b)) b
        { mode := tgt, owner := (bankOf c b).owner, slot := (bankOf c b).slot, lent := tgt == .cache, home := (bankOf c b).home })) ∧
      (∀ x e, e ∈ c.ops → ∃ e' ∈ (loseSlot c x).ops, e'.1 = e.1 ∧ { e'.2 with lost := e.2.lost } = e.2 ∧ e'.2.lost =
        if (teamOf c x.owner).any (fun t => t.uid == e.2.uid) && copyUses e.2 x.slot then x.slot :: e.2.lost else e.2.lost)) ∧
    (∀ slot b, fifoSlot o = some slot → fifoBank c o slot = some b →
      let x := bankOf c b
      (canAccept s kk n = false → exec (.fifoOpAccept k n) s = .next s) ∧
      (canAccept s kk n = true → x.mode ≠ .fifo → exec (.fifoOpAccept k n) s = .next (fifoTrap s kk n o causeBank 0)) ∧
      (canAccept s kk n = true → x.mode = .fifo → ∀ sl xs, o.kind = .push sl xs →
        exec (.fifoOpAccept k n) s = .next (finishOp (onCore s kk (fun c => setBank c b { x with queue := x.queue ++ xs })) kk n)) ∧
      (canAccept s kk n = true → x.mode = .fifo → ∀ sl d, o.kind = .pop sl → o.dest = .v d →
        let m := countMask o.lanes
        let poisoned := (List.range m).find? (fun j => x.bad.contains ((x.head + j) % 4096))
        (poisoned = none → exec (.fifoOpAccept k n) s = .next (finishOp (onGroup
          (onCore s kk (fun c => setBank c b { x with queue := x.queue.drop m, head := (x.head + m) % 4096 })) o.uid o.gid
          (fun g => lateWrite g d n o.lanes (laneValue ((lanesIn o.lanes).zip (x.queue.take m))))) kk n)) ∧
        (∀ j, poisoned = some j → exec (.fifoOpAccept k n) s = .next (fifoTrap
          (onCore s kk (fun c => setBank c b { x with bad := x.bad.filter (· != (x.head + j) % 4096) })) kk n o causeEcc 0)))) ∧
    (opLeaves c o.uid = false → 2 ^ 20 ≤ (c.ccyc - o.start).toNat →
      (∀ sl xs, o.kind = .push sl xs → exec (.fifoTimeout k n) s = .next (fifoTrap s kk n o causeFifo 1)) ∧
      (∀ sl, o.kind = .pop sl → exec (.fifoTimeout k n) s = .next (fifoTrap s kk n o causeFifo 2))) ∧
    ((c.ccyc - o.start).toNat < 2 ^ 20 → exec (.fifoTimeout k n) s = .next s)) ∧
  (∀ (s : State) (k : BitVec 9) (n : Nat) (o : Op), opOf s k.toNat n = some o →
    let kk := k.toNat
    (∀ wide z fmt d av bv cv x bad, o.kind = .mma wide z fmt d av bv cv x bad →
      (behindMatrix (coreOf s kk) n o d = true → exec (.mmaComplete k n) s = .next s) ∧
      (behindMatrix (coreOf s kk) n o d = false → ∀ t, bad = false → formatType fmt = some t →
        exec (.mmaComplete k n) s = .next (finishOp (onGroup { s with fresh := s.fresh + 1024 } o.uid o.gid (fun g =>
          (List.range 32).foldl (fun g' r => lateWrite g' (d + r) n (BitVec.allOnes 32) (fun l => matLane t wide z av bv cv (vLane g (d + r) l) r l)) g)) kk n))) ∧
    (∀ ch fs dst sa da len done p, o.kind = .copy ch fs dst sa da len done p →
      let s0 := portLeave s kk (.op n)
      let src := sa + BitVec.ofNat 64 done
      let dest := da + BitVec.ofNat 64 done
      let open_ := portOpen s kk o.ctx (.op n)
      let matched (u : State) (pa m : Nat) (va : Word) : Prop := o.tagmode = 0 ∨ tagDiffers u pa m va = false
      (done = len → exec (.copyComplete k n) s = .next (finishOp s kk n)) ∧
      (done ≠ len → exec (.copyComplete k n) s = .next s) ∧
      (p ≠ none → exec (.copyBeat k n) s = .next s) ∧
      (p = none → canBeat s kk n = true → fs = true → dst = 1 → ∀ a a' ia ia',
        let b := beatLen true 1 sa da len done
        scratchSide (coreOf s0 kk) o src b true = .at_ a ia →
        scratchSide (coreOf s0 kk) o dest b false = .at_ a' ia' →
        sideFollows (coreOf s0 kk) n o true false src a b = false → sideFollows (coreOf s0 kk) n o true true dest a' b = false →
        let v := scratchBytes (coreOf s0 kk) o a (b / 8)
        let shared (j : Nat) : Prop := sa.toNat ≤ (da + BitVec.ofNat 64 (done + 8 * j)).toNat ∧ (da + BitVec.ofNat 64 (done + 8 * j)).toNat < sa.toNat + len
        ((∀ j < b / 8, ¬ shared j) →
          exec (.copyBeat k n) s = .next (delivered (onCore s0 kk (fun c => putScratch c o a' (b / 8) v)) kk n o ch b)) ∧
        (b = 64 → (∀ j < 8, shared j) →
          exec (.copyBeat k n) s = .next (delivered (onCore { s0 with fresh := s.fresh + 8 } kk (fun c => putScratch c o a' 8
            ((List.range 8).foldl (fun w j => overlayBytes w 8 (8 * j) 0xFF (Config.freeValue (s.fresh + j)).toNat) v))) kk n o ch b))) ∧
      (p = none → canBeat s kk n = true → fs = false → dst = 1 ∨ dst = 2 → open_ = true → ∀ t a ia a' ia',
        let b := beatLen false dst sa da len done
        memSide s0 kk o src accRead = (t, .at_ a ia) →
        (if dst = 1 then scratchSide (coreOf t kk) o dest b false else fifoSide (coreOf t kk) o da.toNat) = .at_ a' ia' →
        sideFollows (coreOf t kk) n o false false src a b = false → (dst = 1 → sideFollows (coreOf t kk) n o true true dest a' b = false) →
        let u := rangeFirst t kk o.ctx a src b
        homeAnswers u kk a b = true →
        ((∃ x ∈ beatSectors a b, isPoisoned u x = true) →
          exec (.copyBeat k n) s = .next (copyFail u kk n o ch done { cause := causeEcc } src accRead)) ∧
        ((∀ x ∈ beatSectors a b, isPoisoned u x = false) → matched u a b src →
          let h := if isUpper src then beatHeat u kk o a ia b else u
          let g := (beatSectors a b).foldl (fun s x => takeSector s kk o.ctx x) h
          exec (.copyBeat k n) s = .next (delivered (onCore g kk (fun c =>
            if dst = 1 then putScratch c o a' (b / 8) (homeRead h a b) else appendFifo c o da.toNat b (homeRead h a b))) kk n o ch b))) ∧
      (p = none → canBeat s kk n = true → fs = true → dst = 0 → open_ = true → ∀ t a ia a' ia',
        let b := beatLen true 0 sa da len done
        scratchSide (coreOf s0 kk) o src b true = .at_ a ia → memSide s0 kk o dest accCopyDst = (t, .at_ a' ia') →
        sideFollows (coreOf t kk) n o true false src a b = false → sideFollows (coreOf t kk) n o false true dest a' b = false →
        let u := rangeFirst t kk o.ctx a' dest b
        homeAnswers u kk a' b = true → matched u a' b dest →
        let h := if isUpper dest then markWritten (beatHeat u kk o a' ia' b) (homeDie a') o.polder.toNat ia' else u
        let g := (beatSectors a' b).foldl (fun s x => takeSector s kk o.ctx x) h
        exec (.copyBeat k n) s = .next (delivered (noteArgs
          (beatWrite g kk o dest ia' a' b (scratchBytes (coreOf h kk) o a (b / 8))) [(a', b)]) kk n o ch b)) ∧
      (p = none → canBeat s kk n = true → fs = true → dst = 2 → ∀ a ia a' ia',
        let b := beatLen true 2 sa da len done
        scratchSide (coreOf s0 kk) o src b true = .at_ a ia → fifoSide (coreOf s0 kk) o da.toNat = .at_ a' ia' →
        sideFollows (coreOf s0 kk) n o true false src a b = false →
        exec (.copyBeat k n) s = .next (delivered (onCore s0 kk (fun c =>
          appendFifo c o da.toNat b (scratchBytes (coreOf s0 kk) o a (b / 8)))) kk n o ch b)) ∧
      (∀ c b m v, fifoBank c o da.toNat = some b → appendFifo c o da.toNat m v = setBank c b { bankOf c b with
        queue := (bankOf c b).queue ++ (List.range (m / 8)).map (fun i => BitVec.ofNat 64 (v / 2 ^ (64 * i) % 2 ^ 64))
        reserved := (bankOf c b).reserved - m / 8 }) ∧
      (p = none → canBeat s kk n = true → fs = false ∨ dst = 0 → open_ = false →
        exec (.copyBeat k n) s = .next (portWait s kk o.ctx (.op n))) ∧
      (p = none → canBeat s kk n = true → fs = true → dst ≠ 0 ∨ open_ = true → ∀ f,
        scratchSide (coreOf s0 kk) o src (beatLen true dst sa da len done) true = .bad f →
        exec (.copyBeat k n) s = .next (copyFail s0 kk n o ch done f src accRead)) ∧
      (p = none → canBeat s kk n = true → fs = false → open_ = true → ∀ t f,
        memSide s0 kk o src accRead = (t, .bad f) →
        exec (.copyBeat k n) s = .next (copyFail t kk n o ch done f src accRead))))

/-! ### Merge sets -/

/-- R102 to R105, R409. STAGES, SLOTS AND CLOSES. The next line of a stage, behind the group's earlier accesses to it and the core's dirty bytes of it, traps
its elements with TAG when their tags differ at the home in trap mode; one that breaks a rule of R104 traps its lanes with MERGE and the rule's subcode; one that
breaks none is accepted by the slot's holder, which its id becomes when the slot is free, and waits while another id holds it or an earlier stage of the group goes first. A slot
request gives a free slot to an id that waits there. A close waits for its group's earlier stages; it closes a contributor that is idle or staging, which asks every slice of the
set for its partial, and its lanes go on.
R106 to R109, R409. MEASURES, COMMITS AND SIGNALS. A slice that a closed contributor asked answers its partial once. When every partial is there the
contributor is measured with its scale, in arrival order, or rejected when the sum is not finite. The contributor in turn commits: it takes the next sequence
number and its scale joins the commits. A slice applies its next commit to the target; the last to do so frees the slot. The oldest retirement updates the signal: 1 for a
commit applied everywhere, 2^32 + 1 for a rejection, as an atomic add at the coordinator, once no reply for the word's line is due; with the last the set is COMPLETE or ABORTED.
R98, R111, R114, R364, R367. THE COORDINATOR'S ANSWERS. MSTAT of a handle that names no set gives 0, of a set or a contributor its word. MABORT of one that can be aborted gives 0, of
another 1; a stale handle, another polder, an id out of range are MERGE faults 1, 2, 3. The word goes to d; the lanes go on. A
MOPEN reads its descriptor: out of its limits it gives status 3; sound, on one die, within the quotas, it takes a free record of the coordinator's slice with
the next generation, and d holds the handle.
The model's own choices here, no rule of the spec: the checks' order, when slots free and sets end (log 21). -/
def Obligations.MergeSets : Prop :=
  (∀ (s : State) (k : BitVec 9) (n : Nat) (o : Op), opOf s k.toNat n = some o →
    let kk := k.toNat
    (∀ set gen id es r, o.kind = .stage set gen id es r → nextLine es ≠ [] →
      let now := nextLine es
      let key := setIdKey set
      let s1 := now.foldl (fun s e => homeFirst s kk o.ctx (.phys (lineOf e.2.2.1)) e.2.1) (portLeave s kk (.op n))
      let bad := if o.tagmode = 0 then [] else tagElems s1 now
      let rule := stageRule s1 key gen (some o.polder.toNat) id.toNat (now.map (·.2.2.1))
      let goes := mustFollow (coreOf s kk) n o = false ∧ portOpen s kk o.ctx (.op n) = true
      let tagged := o.tagmode = 2 ∧ bad ≠ []
      let claimed (m : MergeSet) : MergeSet := claimSlot m id.toNat (some o.ctx.toNat)
      (mustFollow (coreOf s kk) n o = true → exec (.stageAccept k n) s = .next s) ∧
      (mustFollow (coreOf s kk) n o = false → portOpen s kk o.ctx (.op n) = false →
        exec (.stageAccept k n) s = .next (portWait s kk o.ctx (.op n))) ∧
      (goes → tagged → exec (.stageAccept k n) s = .next (dropElems (failLater (countTagTrap s1 o.ctx.toNat (countMask (elemLanes bad))) kk n o
        { cause := causeTag, addr := elemLow bad, lanes := elemLanes bad, acc := 4 }) kk n bad)) ∧
      (∀ sub, goes → ¬ tagged → rule = some sub → exec (.stageAccept k n) s = .next (dropElems (failLater s1 kk n o
        { cause := causeMerge, sub := sub, addr := elemLow now, lanes := elemLanes now, acc := 4 }) kk n now)) ∧
      (∀ m, goes → ¬ tagged → rule = none → openSet s1 key gen = some m →
        (stageBehind s1 kk n o m id.toNat now = false → holds (claimed m) id.toNat = true → exec (.stageAccept k n) s = .next (dropElems
          (setSet (spendTok (reportElems s1 kk o bad) kk o.ctx (((now.map (fun e => sectorOf e.2.2.1)).eraseDups).length)) key
            (acceptStage (claimed m) id.toNat (now.map (fun e => (e.2.2.1, e.2.2.2))))) kk n now)) ∧
        (stageBehind s1 kk n o m id.toNat now = true ∨ holds (claimed m) id.toNat = false → exec (.stageAccept k n) s = .next s1))) ∧
    (∀ set gen id, o.kind = .close set gen id →
      let key := setIdKey set
      let after (t : State) : State := finishOp t kk n
      let early := ∃ e ∈ (coreOf s kk).ops, e.1 < n ∧ e.2.uid = o.uid ∧ e.2.gid = o.gid ∧ ∃ a b c d x, e.2.kind = .stage a b c d x
      (early → exec (.closeAccept k n) s = .next s) ∧
      (¬ early → ∀ sub, closeRule s key gen (some o.polder.toNat) id.toNat = some sub →
        exec (.closeAccept k n) s = .next (after (failLater s kk n o { cause := causeMerge, sub := sub, lanes := o.lanes }))) ∧
      (¬ early → ∀ m, closeRule s key gen (some o.polder.toNat) id.toNat = none → openSet s key gen = some m →
        exec (.closeAccept k n) s = .next (after (setSet s key (setContrib m id.toNat
          { contribOf m id.toNat with st := .closed, asked := slicesOf m, partials := [] }))))) ∧
    (∀ (set : SetId) (slice : BitVec 8) (id : BitVec 16),
      (∀ m ctx, look s.sets (setIdKey set) = some m → stageWaits s set slice.toNat id.toNat = some ctx →
        exec (.slotRequest set slice id) s = .next (setSet s (setIdKey set) (claimSlot m id.toNat (some ctx)))) ∧
      (stageWaits s set slice.toNat id.toNat = none → exec (.slotRequest set slice id) s = .next s)) ∧
    (∀ m : MergeSet, ∀ id ctx, claimSlot m id ctx = if (look m.slots (slotOf m id)).isNone then
      { m with slots := put m.slots (slotOf m id) id, contribs := put m.contribs id { contribOf m id with claimedBy := ctx } } else m)) ∧
  (∀ (s : State) (set : SetId) (m : MergeSet), look s.sets (setIdKey set) = some m → m.st = .opened →
    let key := setIdKey set
    let by_ : Option Origin := some { core := coreCount, ctx := m.ctx, polder := m.polder, ipa := m.signalIpa }
    (∀ (slice : BitVec 8) (id : BitVec 16), let x := contribOf m id.toNat
      (x.st = .closed → slice.toNat ∈ x.asked → exec (.measureRequest set slice id) s = .next (setSet s key (setContrib m id.toNat
        { x with asked := x.asked.filter (· != slice.toNat),
                 partials := put x.partials slice.toNat (BitVec.ofNat 64 (partialSum m id.toNat slice.toNat)) })))) ∧
    (∀ id : BitVec 16, let x := contribOf m id.toNat
      (x.st = .closed → x.asked = [] →
        (notFinite fmtF64 (sigmaOf m x) = false → exec (.measureComplete set id) s = .next (setSet s key
          { setContrib m id.toNat { x with st := .measured, scale := scaleOf m.lambda (sigmaOf m x) } with measured := m.measured ++ [id.toNat] })) ∧
        (notFinite fmtF64 (sigmaOf m x) = true → m.rank = false →
          exec (.measureComplete set id) s = .next (setSet s key (retireId m id.toNat .rejected))) ∧
        (notFinite fmtF64 (sigmaOf m x) = true → m.rank = true →
          exec (.measureComplete set id) s = .next (setSet s key
            (freeSlot (setContrib m id.toNat { x with st := .measured, scale := 0, marked := true }) id.toNat))))) ∧
    (∀ id, nextTurn m = some id →
      ((contribOf m id).marked = false → exec (.commitIssue set) s = .next (setSet s key
        { setContrib m id { contribOf m id with st := .committed, seq := some m.commits.length } with
          commits := m.commits ++ [(id, (contribOf m id).scale)], signals := m.signals ++ [(id, true)], measured := m.measured.filter (· != id) })) ∧
      ((contribOf m id).marked = true → exec (.commitIssue set) s = .next (setSet s key (retireId m id .rejected)))) ∧
    (∀ (slice : BitVec 8) id scale, slice.toNat ∈ slicesOf m → m.commits[lookD m.applied slice.toNat 0]? = some (id, scale) →
      let es := if holds m id then (lookD m.berms (slotOf m id) []).filter (fun e => homeSlice e.1 == slice.toNat) else []
      let m' : MergeSet := { m with applied := put m.applied slice.toNat (lookD m.applied slice.toNat 0 + 1) }
      exec (.commitApply set slice) s = .next (noteArgs (setSet (applyCommit s m (key / 1280) scale (bermPoison m id) es) key
        (if appliedAll m' (lookD m.applied slice.toNat 0) then freeSlot m' id else m')) (es.map (fun e => (e.1, 4))))) ∧
    (signalFree s key m = false → exec (.signalUpdate set) s = .next s) ∧
    (∀ id rest, signalFree s key m = true → m.signals = (id, true) :: rest →
      (appliedAll m ((contribOf m id).seq.getD 0) = true →
        exec (.signalUpdate set) s = .next (endSet (atomicAdd (dirtyPage s m.polder.toNat (key / 1280) m.signalIpa) (key / 1280) m.signal 1 by_) key { m with signals := rest })) ∧
      (appliedAll m ((contribOf m id).seq.getD 0) = false → exec (.signalUpdate set) s = .next s)) ∧
    (∀ id rest, signalFree s key m = true → m.signals = (id, false) :: rest →
      exec (.signalUpdate set) s = .next (endSet (atomicAdd (dirtyPage s m.polder.toNat (key / 1280) m.signalIpa) (key / 1280) m.signal (2 ^ 32 + 1) by_) key { m with signals := rest })) ∧
    (m.signals ≠ [] ∨ allRetired m = false → ∀ t, endSet t key m = setSet t key m) ∧
    (m.signals = [] → allRetired m = true → ∀ t, endSet t key m = setSet { t with nextEnd := t.nextEnd + 1 } key { m with
      st := if m.aborting then .aborted else .complete, slots := [], berms := [], badSlots := [], measured := [], ended := t.nextEnd })) ∧
  (∀ (s : State) (k : BitVec 9) (n : Nat) (o : Op), opOf s k.toNat n = some o →
    let kk := k.toNat
    let word (t : State) (w : Word) : State := onGroup (mopenResult t kk n o w) o.uid o.gid (fun g => readyRemote g n)
    let fault (sub : Nat) : State := finishOp (failLater s kk n o { cause := causeMerge, sub := sub, lanes := o.lanes }) kk n
    (∀ set gen (id : BitVec 16), o.kind = .mstat set gen id →
      (heldSet s set gen = none → exec (.coordinatorAnswer k n) s = .next (word s 0)) ∧
      (∀ m, heldSet s set gen = some m →
        (id = 0xFFFF → exec (.coordinatorAnswer k n) s = .next (word s (setWord m))) ∧
        (id.toNat < m.expect → id ≠ 0xFFFF → exec (.coordinatorAnswer k n) s = .next (word s (contribWord m id.toNat))) ∧
        (m.expect ≤ id.toNat → id ≠ 0xFFFF → exec (.coordinatorAnswer k n) s = .next (fault 3)))) ∧
    (∀ set gen (id : BitVec 16), o.kind = .mabort set gen id →
      (heldSet s set gen = none → exec (.coordinatorAnswer k n) s = .next (fault 1)) ∧
      (∀ m, heldSet s set gen = some m →
        (m.polder ≠ o.polder → exec (.coordinatorAnswer k n) s = .next (fault 2)) ∧
        (m.polder = o.polder → id = 0xFFFF →
          exec (.coordinatorAnswer k n) s = .next (if m.st = .opened ∧ allRetired m = false then word (setSet s (setIdKey set) (abortSet m)) 0 else word s 1)) ∧
        (m.polder = o.polder → id ≠ 0xFFFF → m.expect ≤ id.toNat → exec (.coordinatorAnswer k n) s = .next (fault 3)) ∧
        (m.polder = o.polder → id ≠ 0xFFFF → id.toNat < m.expect →
          exec (.coordinatorAnswer k n) s = .next (if m.st = .opened ∧ abortable m id.toNat = true then
            word (setSet s (setIdKey set) (abortId m id.toNat)) 0 else word s 1)))) ∧
    (∀ addr x, o.kind = .mopen addr x → exec (.coordinatorAnswer k n) s = .next (performMopen s kk n o addr)) ∧
    (∀ addr x t pa ipa, o.kind = .mopen addr x → translate s kk o.ctx addr accRead = (t, .ok pa ipa) → rangeFollows (coreOf t kk) n o false (2, pa, 64) = false →
      isHostWindow pa = true ∨ canFill t (dieOfCore kk) pa = true →
      (portOpen t kk o.ctx (.op n) = false → exec (.coordinatorAnswer k n) s = .next (portWait t kk o.ctx (.op n))) ∧
      (portOpen t kk o.ctx (.op n) = true →
        let u0 := takeSector (homeFirst t kk o.ctx (.phys (lineOf pa)) addr) kk o.ctx pa
        let u := fillCopy (if isUpper addr && isHbm pa then countHeat u0 (homeDie pa) (dieOfCore kk) o.polder.toNat ipa else u0) (dieOfCore kk) pa
        badDesc (dieRead u (dieOfCore kk) pa 64) = true → exec (.coordinatorAnswer k n) s = .next (mopenResult u kk n o (mopenFail 3)))) ∧
    (∀ d (t : TPages) sig sigIpa, let die := homeDie ((t.lines.headD 0) * 256)
      let slice := homeSlice ((t.lines.headD 0) * 256)
      let m : MergeSet := { st := .opened, polder := o.polder, ctx := o.ctx, lines := t.lines, ipas := t.ipas, lambda := BitVec.ofNat 32 (descField d 12 4), expect := descField d 16 2, width := descField d 18 1, rank := descField d 19 1 = 1, signal := sig, signalIpa := sigIpa }
      ((t.dup = true ∨ ∃ l ∈ t.lines, isHbm (l * 256) = false ∨ homeDie (l * 256) ≠ die) → openRecord s o d t sig sigIpa = (s, mopenFail 4)) ∧
      (t.dup = false → (∀ l ∈ t.lines, isHbm (l * 256) = true ∧ homeDie (l * 256) = die) →
        let fits (j : Nat) : Prop := setLinesIn (setKey die slice 0) m j = 0 ∨
          quotaUsed s o.polder.toNat die j + setLinesIn (setKey die slice 0) m j ≤ quotaOf s o.polder.toNat die
        ((∃ j, j < 160 ∧ ¬ fits j) → openRecord s o d t sig sigIpa = (s, mopenFail 1)) ∧
        ((∀ j, j < 160 → fits j) → freeRecord s die slice = none → openRecord s o d t sig sigIpa = (s, mopenFail 2)) ∧
        (∀ key, (∀ j, j < 160 → fits j) → freeRecord s die slice = some key → let gen := (lookD s.sets key {}).gen + 1
          openRecord s o d t sig sigIpa = (setSet s key { m with gen := gen }, BitVec.ofNat 64 (gen.toNat * 2 ^ 32 + die * 2 ^ 16 + slice * 2 ^ 8 + key % 8))))))

/-! ### Dies, tokens and rates -/

/-- R209, R223, R224. MESSAGES BETWEEN DIES. The head of a link is applied when its clock test holds, else held while the buffer of its source has
room, writes and atomics counted; the oldest held message of a source whose test holds is applied. A write passes when it is the next of its writer and the
die has seen all that it had seen, the writer's and its own entries apart; it sets the writer's entry. A settle newer than the die's own last write of the line replaces its copy.
R205, R206, R208. TOKENS AND RATES, each every 1,024 cycles of its clock. A refill adds R_TOK to a core's tokens, which hold at most twice that, and pays what is
owed first. A token interval gives each of the 64 polders its allotment and its cores' refills, and starts the cores' counts anew, a core being dry while requests wait at its port. A rate interval cuts a port's rate by an
eighth, no lower than RMIN, for a polder that was marked, and else raises it by ADDINC, to 8,533 at most; its count and mark clear.
The model's own choices here, no rule of the spec: the depth of a link (log 13) and the counts of tokens (log 23). -/
def Obligations.DiesAndTokens : Prop :=
  (∀ (s : State) (src dst : BitVec 2) (m : LinkMsg) (rest : List LinkMsg),
    let x := dst.toNat
    let d := dieOf s x
    let t := setDie s x { d with link := putD d.link src.toNat [] rest }
    (∀ ev : Instr, (∀ w v, m = .notice w v → ev = .clockNotice src dst) → (∀ h v l y c, m = .settle h v l y c → ev = .settle src dst) →
      ((∀ w v, m ≠ .notice w v) → (∀ h v l y c, m ≠ .settle h v l y c) → ev = .crossDieWrite src dst) → lookD d.link src.toNat [] = m :: rest →
      (linkTest s x m = true → exec ev s = .next (applyLink t x m)) ∧
      (linkTest s x m = false → 4096 ≤ (lookD d.held (linkSource m) []).length → exec ev s = .next s) ∧
      (linkTest s x m = false → (lookD d.held (linkSource m) []).length < 4096 →
        let u := match m with | .notice .. => t | _ => bumpCounter t 13 1
        exec ev s = .next (setDie u x { dieOf u x with held := put (dieOf u x).held (linkSource m) (lookD (dieOf u x).held (linkSource m) [] ++ [m]) }))) ∧
    (lookD d.held src.toNat [] = m :: rest → linkTest s x m = true →
      exec (.heldWriteApply src dst) s = .next (applyLink (setDie s x { d with held := putD d.held src.toNat [] rest }) x m)) ∧
    ((∀ m ∈ lookD d.held src.toNat [], linkTest s x m = false) → exec (.heldWriteApply src dst) s = .next s) ∧
    (∀ vc v w, writeTest vc v w x = true ↔ clk v w = clk vc w + 1 ∧ ∀ e, e < 4 → e ≠ w → e ≠ x → clk v e ≤ clk vc e) ∧
    (∀ w v, applyLink s x (.notice w v) = setDie s x { d with vc := d.vc.set w.toNat (v.getD w.toNat 0) }) ∧
    (∀ h v line data c, applyLink s x (.settle h v line data c) =
      if clk v x < (lookD d.own line 0).toNat then s else setDie s x { d with copies := alter d.copies line (fun _ => data) })) ∧
  (∀ s : State,
    (∀ k : BitVec 9, let c := coreOf s k.toNat
      let sum := min (c.tok.toNat + c.rTok.toNat) (2 * c.rTok.toNat)
      (c.refillAt.toNat + 1024 ≤ c.ccyc.toNat → exec (.tokenRefill k) s = .next { s with cores := put s.cores k.toNat { c with
        tok := BitVec.ofNat 18 (sum - c.owed), owed := c.owed - sum, took := c.took || (c.owed != 0 && sum != 0), refillAt := c.refillAt + 1024 } }) ∧
      (c.ccyc.toNat < c.refillAt.toNat + 1024 → exec (.tokenRefill k) s = .next s)) ∧
    (∀ d : BitVec 2,
      ((dieOf s d.toNat).cyc.toNat < (dieOf s d.toNat).flowAt.toNat + 1024 → exec (.tokenInterval d) s = .next s) ∧
      ((dieOf s d.toNat).flowAt.toNat + 1024 ≤ (dieOf s d.toNat).cyc.toNat →
        ∃ t, exec (.tokenInterval d) s = .next t ∧ t.mem = s.mem ∧ t.device = s.device ∧ t.fabric = s.fabric ∧ t.ctxs = s.ctxs ∧
        (dieOf t d.toNat).flowAt = (dieOf s d.toNat).flowAt + 1024 ∧
        (∀ k, k < 80 → (look s.cores (d.toNat * 80 + k)).isSome = true →
          (coreOf t (d.toNat * 80 + k)).took = false ∧ (coreOf t (d.toNat * 80 + k)).dry = !(portQueue s (d.toNat * 80 + k)).isEmpty) ∧
        (∀ p, 64 ≤ p → look t.polders p = look s.polders p) ∧
        (∀ p, p < 64 → let idle := idleAfter s p d.toNat
          look (polderOf t p).ptok d.toNat = some (BitVec.ofNat 64 (baseAllot (polderOf s p) % 2 ^ 18 +
            effAllot s (sharers s d.toNat) (p, idle) % 2 ^ 18 * 2 ^ 20 + if idle then 2 ^ 63 else 0)) ∧
          (idle = true ↔ (polderOf s p).idlew ≤ (if (coresOn s p d.toNat).any (fun k => (coreOf s k).took) then 0
            else lookD (polderOf s p).quiet d.toNat 0 + 1))))) ∧
    (∀ port : BitVec 4, rateDue s port.toNat = false → exec (.rateInterval port) s = .next s) ∧
    (∀ (port : BitVec 4) p x, rateDue s port.toNat = true → look s.polders p = some x → ∃ t y, exec (.rateInterval port) s = .next t ∧ look t.polders p = some y ∧
      (portOf t port.toNat).rateAt = (portOf s port.toNat).rateAt + 1024 ∧ { t with polders := s.polders, fabric := s.fabric } = s ∧ y = { x with
        prate := put x.prate port.toNat (BitVec.ofNat 14 (if lookD x.marked port.toNat false then max (x.rate port.toNat * 7 / 8) x.rmin
          else min (x.rate port.toNat + x.addInc) 8533))
        sent := del x.sent port.toNat
        marked := del x.marked port.toNat }))

/-! ### Pages -/

/-- R93, R169, R173, R175, R178, R179. PAGES. When no access that used a matching entry is still to perform, the entries of an invalidation leave every TLB, the lines every
L1, written back; when the last of these is written, it completes and BUSY clears. A frame in quarantine is zeroed, or when the host scrubs it has been zeroed
by the host, its tags are 0, and no cache holds it: QUAR clears. The end of an epoch takes the decisions of the die's heat, halves its counts and clears WRITTEN. A page that was decided
for is marked MIG in its leaves, with fitting frames that firmware gives; when no write to it is on its way, and no access that used its old translation, it is copied, its leaves name the new frame, or a record of both copies
that replicate it, its old frames go to quarantine when it has moved, and waiting lanes are ready. A piece that a writer waits for collapses to the writer's copy, or to that of
the lowest die: its record and its leaves name it, the other copies' frames go to quarantine; one collapsed already only wakes its lanes, and so does one
that the device does not collapse for want of a frame for the split: they then take the fault.
The model's own choices here, no rule of the spec: frames offered by firmware, ties and the span of an invalidation (log 22), and the depth of a link (log 13). -/
def Obligations.PagesMove : Prop := ∀ (s : State) (p : BitVec 6) (page : BitVec 36),
  let pd := p.toNat
  let ipa := page.toNat * 65536
  let cover := polderCover s pd ipa 65536 false
  (∀ n : BitVec 10, n.toNat % 64 = pd → (polderOf s pd).tlbiBusy = true →
    let cv := ptlbiCover s pd
    let t := invalidate s cv
    (coverIdle s cv = true → coverIdle t cv = true →
      exec (.invalidationComplete true n) s = .next (onPolder t pd (fun x => { x with tlbiBusy := false }))) ∧
    (coverIdle s cv = true → coverIdle t cv = false → exec (.invalidationComplete true n) s = .next t) ∧
    (coverIdle s cv = false → exec (.invalidationComplete true n) s = .next s)) ∧
  (∀ c : BitVec 10, (ctxOf s c.toNat).tlbiBusy = true →
    let cv := ctlbiCover s c
    let t := invalidate s cv
    (coverIdle s cv = true → coverIdle t cv = true →
      exec (.invalidationComplete false c) s = .next (finishXlinv (onCtx t c.toNat (fun x => { x with tlbiBusy := false })) c)) ∧
    (coverIdle s cv = true → coverIdle t cv = false → exec (.invalidationComplete false c) s = .next (finishXlinv t c)) ∧
    (coverIdle s cv = false → exec (.invalidationComplete false c) s = .next (finishXlinv s c))) ∧
  (∀ f : BitVec 40,
    (look s.quar f.toNat = some false ∨ (look s.quar f.toNat = some true ∧ isZeroFrame s f.toNat = true) → ∃ t, exec (.quarantineClear f) s = .next t ∧ look t.quar f.toNat = none ∧
      (∀ g, g ≠ f.toNat → look t.quar g = look s.quar g) ∧
      (∀ e ∈ t.tags, ¬ (f.toNat * 4096 ≤ e.1 * 64 ∧ e.1 * 64 < f.toNat * 4096 + 4096)) ∧
      (look s.quar f.toNat = some false → ∀ c ∈ t.mem, ¬ (f.toNat * 4096 ≤ c.1 ∧ c.1 < f.toNat * 4096 + 4096)) ∧
      (∀ c, ¬ (f.toNat * 4096 ≤ c.1 ∧ c.1 < f.toNat * 4096 + 4096) → (c ∈ t.mem ↔ c ∈ s.mem))) ∧
    (look s.quar f.toNat = some true → isZeroFrame s f.toNat = false → exec (.quarantineClear f) s = .next s) ∧
    (isZeroFrame s f.toNat = true ↔ ∀ i, i < 64 → homeRead s (f.toNat * 4096 + 64 * i) 64 = 0) ∧
    (look s.quar f.toNat = none → exec (.quarantineClear f) s = .next s)) ∧
  (∀ d : BitVec 2, let t := decideAll s d.toNat
    (epochOver s d.toNat = false → exec (.epochEnd d) s = .next s) ∧
    (epochOver s d.toNat = true → exec (.epochEnd d) s = .next (setDie t d.toNat { dieOf t d.toNat with
      heat := (dieOf t d.toNat).heat.map (fun e => (e.1, { e.2 with counts := e.2.counts.map (· / 2), written := false }))
      epochAt := (dieOf t d.toNat).epochAt + BitVec.ofNat 64 (2 ^ fieldOf s.device.migcfg 0 5) }))) ∧
  (∀ d e rep frames l, leafOf s pd ipa = some l → look s.migrating (pageKey pd page.toNat) = some (e, rep, []) → framesFit s e rep frames = true →
    l.lvl = 4 → peRdup l.e = false → peMig l.e = false → peC16 l.e = true → pinned s pd ipa = false → homeDie l.out = d.toNat → coverIdle s cover = true →
    let u := rewriteRun s (runBase l) (fun _ x => if bitAt x 8 then x else x + 256)
    let v := invalidate u (polderCover u pd ipa 65536 false)
    exec (.pageMigrate d e p page rep frames) s = .next { v with migrating := put v.migrating (pageKey pd page.toNat) (e, rep, frames) }) ∧
  (∀ t f more l, look s.migrating (pageKey pd page.toNat) = some (t, false, f :: more) → leafOf s pd ipa = some l →
    let old := l.out / 65536 * 65536
    (pageQuiet s old = false ∨ coverIdle s cover = false → exec (.migrationCopyDone p page) s = .next s) ∧
    (pageQuiet s old = true → coverIdle s cover = true →
      let u := rewriteRun (copyPage s old (frameAt f)) (runBase l) (fun j e => frameAt f + 4096 * j + (1 + 2 + bitsAt e 2 4 * 4 + 64))
      let v := quarantine (invalidate u (polderCover u pd ipa 65536 false)) pd (pageFrames old)
      exec (.migrationCopyDone p page) s = .next (wakePage { v with migrating := del v.migrating (pageKey pd page.toNat) } ipa))) ∧
  (∀ t f r more l, look s.migrating (pageKey pd page.toNat) = some (t, true, f :: r :: more) → leafOf s pd ipa = some l →
    let old := l.out / 65536 * 65536
    pageQuiet s old = true → coverIdle s cover = true →
      let a := writeReplica (copyPage s old (frameAt f)) (frameAt r) (homeDie old) old t.toNat (frameAt f)
      let u := rewriteRun a (runBase l) (fun _ e => frameAt r / 4096 * 4096 + frameAt r % 4096 / 64 % 8 * 2 ^ 9 + 128 + (1 + 2 + bitsAt e 2 4 * 4 + 64))
      let v := invalidate u (polderCover u pd ipa 65536 false)
      exec (.migrationCopyDone p page) s = .next (wakePage { v with migrating := del v.migrating (pageKey pd page.toNat) } ipa)) ∧
  (∀ w l, leafOf s pd ipa = some l → pageWaits s pd ipa = false ∨ peMig l.e = true → exec (.pieceCollapse w p page) s = .next s) ∧
  (∀ w l, leafOf s pd ipa = some l → pageWaits s pd ipa = true → peMig l.e = false → peRdup l.e = true →
    let wide := polderCover s pd (leafSpan l ipa).1 (leafSpan l ipa).2 false
    (coverIdle s wide = true → pieceCollapsed s (replicaPa l.e) ipa = true →
      exec (.pieceCollapse w p page) s = .next (wakePage s ipa)) ∧
    (coverIdle s cover = true → pieceCollapsed s (replicaPa l.e) ipa = false → l.lvl = 4 →
      let r := replicaPa l.e
      let j := pieceOf s r ipa
      let own := if bitAt (replicaMask s r) w.toNat then w.toNat else lowestCopy s r
      let off := ipa % 2 ^ replicaBits s r / 65536 * 65536
      let byte := homeRead s (r + 0x28 + j / 2) 1
      let a := deviceWrite s (r + 0x28 + j / 2) 1 (byte - bitsAt byte (4 * (j % 2)) 4 * 2 ^ (4 * (j % 2)) + (8 + own) * 2 ^ (4 * (j % 2)))
      let b := deviceWrite a (r + 0x22) 1 (replicaRefs a r - 1)
      let c := rewriteRun b (runBase l) (fun n e => replicaPage s r own + off + 4096 * n + (1 + 2 + 4 + 64) + bitsAt e 3 1 * 8 + bitsAt e 4 1 * 16 + bitsAt e 5 1 * 32)
      exec (.pieceCollapse w p page) s = .next (wakePage (quarantine (invalidate c (polderCover c pd ipa 65536 false)) pd
        (((List.range 4).filter (fun d => d != own && bitAt (replicaMask s r) d)).flatMap (fun d => pageFrames (replicaPage s r d + off)))) ipa)) ∧
    (coverIdle s wide = true → pieceCollapsed s (replicaPa l.e) ipa = false → l.lvl = 3 → bitAt (polderOf s pd).psplit.toNat 0 = false →
      exec (.pieceCollapse w p page) s = .next (wakePage s ipa)) ∧
    (coverIdle s wide = false → exec (.pieceCollapse w p page) s = .next s)) ∧
  (∀ w l, leafOf s pd ipa = some l → pageWaits s pd ipa = true → peMig l.e = false → peRdup l.e = false → exec (.pieceCollapse w p page) s = .next (wakePage s ipa))

/-! ### The fabric -/

/-- R138, R141, R142, R144, R156, R157. PACKETS LEAVE. A port sends the packet whose turn it is: one from its source side takes the next send tag of its stream in classes 2 and 3, is
sealed when its polder has a flow key, is retained when it is of class 2 or a request, and counts against its polder's rate and the hop's credits; a
down or halted port, or one at the end of its key's counter, sends nothing. On the link it has the port's next counter value and its HOPTAG. Credits come back class by class. A packet reaching an egress queue is trimmed past the threshold, marked by its polder's share, refused
without room, and else queued; two adds of one word combine, and the members of a combined one are answered through the switch, marked like any other packet.
R205. A packet that lacks only a token waits for it at its core's port; one that lacks something else gives its place up.
R140, R154 to R156. LINKS, KEYS AND PLANES. KEYSWITCH is sent under the last value of the old key and goes over to the next keys with their counters at 0; KEYHALT is sent under the control key when the data
counter has run out, and halts; a control counter that
reaches 2^40 - 2 with no next key brings the link down; an installed key is the next, or ends a halt, with KEYSWITCH;
a failed tag has its packet sent again under the next counter value, and is counted; a link goes down. A plane with a failed port is dead, and its entries pend; a drained
entry goes to the plane that firmware named, or to the least carried live one, its waiting packets with it; a plane whose ports recover is dead no
longer, and MAP stays. A polder's flow key is set by the agent that KEYROT names.
The model's own choices here, no rule of the spec: the order of packets at a port (log 25) and its first turn (log 3), the code of a control flit and the failure of a halted port (log 13), and one installation for both keys of a link (log 32). -/
def Obligations.FabricSource : Prop :=
  (∀ (s : State) (port : BitVec 4),
    let n := port.toNat
    let x := portOf s n
    let s1 := askTokens s n
    (x.down = true ∨ x.halt = true ∨ 2 ^ 40 - 2 ≤ x.counter → nextToSend s n = none) ∧
    (nextToSend s1 n = none → exec (.fabricSend port) s = .next s1) ∧
    (x.waiting = [] → s1 = s) ∧
    (∀ w, x.waiting = [w] → x.down = false → x.halt = false → tokenFree s w = false →
      (mayLeaveBut s n w = true → hasTokens s w = false → s1 = portWait s w.2.1 w.1.ctx (packetReq w)) ∧
      (mayLeaveBut s n w = false → s1 = portLeave s w.2.1 (packetReq w))) ∧
    (∀ p, let f := Config.hopSeal n x.keyNo (hopNonce n x.counter) (headerFlit { p with hopTag := 0 } :: p.payload)
      let y := portOf (putOnLink s n p) n
      y.counter = x.counter + 1 ∧ y.sent = { p with hopTag := f.2 } :: x.sent ∧ y.wire = f.1 :: x.wire) ∧
    (∀ p, nextToSend s1 n = some (.transit p) →
      exec (.fabricSend port) s = .next (putOnLink (countRate (onPort s1 n (fun x => { x with queue := x.queue.erase p })) n p) n p)) ∧
    (∀ p k op, nextToSend s1 n = some (.first (p, k, op)) →
      let a0 := onPort s1 n (fun x => { x with waiting := x.waiting.erase (p, k, op) })
      let a := if p.kind == kRefillreq then bumpCounter a0 2 1 else a0
      (exempt p = true → exec (.fabricSend port) s = .next (putOnLink (countRate a n p) n p)) ∧
      (exempt p = false →
        let b := tagPacket (spendTok a k p.ctx (packetTokens a k p)) p
        let c := sealPacket b.1 b.2
        let wb := if wbBase ≤ op then some (op - wbBase) else none
        let d := if retains c.2 then onFabric c.1 (fun f => { f with retained := f.retained ++ [{ pkt := c.2, core := k, op := op, wb := wb, sentAt := f.cyc, limit := f.ftimeout.toNat }] }) else c.1
        exec (.fabricSend port) s = .next (putOnLink (countRate d n c.2) n c.2))) ∧
    (∀ r, nextToSend s1 n = some (.again r) → let p := { r.pkt with resend := true, notrim := true }
      exec (.fabricSend port) s = .next (putOnLink (countRate (onFabric s1 (fun f => { f with
        retained := f.retained.map (fun o => if o = r then { o with resend := false, sentAt := f.cyc } else o) })) n p) n p)) ∧
    (∀ p, 2 ≤ p.cls.toNat → let key := streamKey p.dst.toNat p.plane.toNat p.cls.toNat
      (tagPacket s p).2 = { p with stag := lookD s.fabric.tags key 0 } ∧ lookD (tagPacket s p).1.fabric.tags key 0 = lookD s.fabric.tags key 0 + 1) ∧
    (∀ (cls : BitVec 2) (flits : Nat), exec (.creditReturn port cls flits) s = .next { s with fabric := { s.fabric with
      ports := put s.fabric.ports n (countControl { x with used := putD x.used cls.toNat 0 (lookD x.used cls.toNat 0 - flits) }) } }) ∧
    (∀ y : Port, countControl y = { y with control := y.control + 1, down := y.down || (2 ^ 40 - 2 ≤ y.control + 1 && !y.nextKey) }) ∧
    (∀ p, (∀ q ∈ x.queue, combines q p = false ∨ joinQueued s n q p = none) → exec (.switchEgressEnqueue port p) s = .next (enqueue s n p)) ∧
    (∀ p q before after t, x.queue = before ++ q :: after → (∀ r ∈ before, combines r p = false ∨ joinQueued s n r p = none) → combines q p = true →
      joinQueued s n q p = some t → exec (.switchEgressEnqueue port p) s = .next t) ∧
    (∀ p, trims s x p = false → marks s x p = false → (p.cls.toNat < 2 ∨ dataFlits x (fun _ => true) + flitsOf p ≤ 2048) → (p.kind ≠ kAtomreq ∨ p.sealed = false) →
      enqueue s n p = onPort s n (fun x => { x with queue := x.queue ++ [p] })) ∧
    (∀ p, egress s n p = onPort s n (fun y => { y with queue := y.queue ++ [if marks s x p then { p with cm := true } else p] })) ∧
    (∀ p i r, s.fabric.combines.find? (fun e => e.2.dst == p.src && e.2.members.head?.any (fun m =>
          m.src == p.dst && m.cont == p.cont && m.gen == p.gen && m.rcore == p.rcore && m.off == p.off)) = some (i, r) → p.kind ≠ kNack →
      exec (.combinedResponse p) s = .next ((r.members.drop 1).foldl (fun s m =>
          let a : Packet := { answerOf m kAck stApplied with src := p.src, plane := p.plane, inDie := p.inDie }
          if m.src == s.fabric.node then ackTag (noteMark s a) a else egress s p.plane.toNat a)
        ((memberResponses (bitsAt (p.payload.headD 0).toNat 0 64) p r.members).foldl (fun s e => forward s e.2)
          (onFabric s (fun f => { f with combines := del f.combines i }))))) ∧
    (∀ p : Packet, forward s p = if p.dst = s.fabric.node then respondTo (noteMark s p) p else egress s p.plane.toNat p) ∧
    (∀ p : Packet, p.kind = kNack → exec (.combinedResponse p) s = .next (nackCombined s p))) ∧
  (∀ s : State,
    (∀ port : BitVec 4, let x := portOf s port.toNat
      let to' (y : Port) : State := { s with fabric := { s.fabric with ports := put s.fabric.ports port.toNat y } }
      (x.nextKey = true → exec (.keyswitch port) s = .next (to' { onWire port.toNat x (2 ^ 40 - 1) (endpointFlit s 1) with
        nextKey := false, counter := 0, control := 0, keyNo := x.keyNo + 1 })) ∧
      (x.nextKey = false → exec (.keyswitch port) s = .next (to' x)) ∧
      exec (.keyhalt port) s = .next (to' { (if 2 ^ 40 - 2 ≤ x.counter ∧ x.halt = false ∧ x.nextKey = false
          then controlFlit port.toNat x (endpointFlit s 2) else countControl x) with
        halt := true, haltFor := if x.halt then x.haltFor else 0, haltLimit := if x.halt then x.haltLimit else s.fabric.deadt.toNat }) ∧
      (x.halt = false → exec (.hopKeyInstall port) s = .next (to' { x with nextKey := true })) ∧
      (∀ f, let w := Config.controlSeal port.toNat x.keyNo (hopNonce port.toNat x.control) [headerFlit f]
        controlFlit port.toNat x f = { countControl x with wire := w.1 :: x.wire }) ∧
      (x.halt = true → exec (.hopKeyInstall port) s = .next (to' { onWire port.toNat x (2 ^ 40 - 1) (endpointFlit s 1) with
        halt := false, haltFor := 0, counter := 0, control := 0, keyNo := x.keyNo + 1, nextKey := false })) ∧
      (∀ p r, x.sent = p :: r → exec (.hopAuthFail port) s = .next (bumpCounter (to' { onWire port.toNat x x.counter p with counter := x.counter + 1 }) 10 1)) ∧
      (x.sent = [] → exec (.hopAuthFail port) s = .next (bumpCounter (to' { x with counter := x.counter + 1 }) 10 1)) ∧
      exec (.linkDown port) s = .next (to' { x with down := true })) ∧
    (∀ plane : BitVec 2, let p := plane.toNat
      ((planePorts p).any (portFails s) = true → deadBit s p = false → ∃ w, exec (.planeDead plane) s = .next { s with fabric := { s.fabric with fplane := w } } ∧
        bitAt w.toNat (8 + p) = true ∧ (∀ e, e < 4 → fieldOf w (2 * e) 2 = mapOf s e ∧ bitAt w.toNat (12 + e) = (mapOf s e == p || entryPending s e)) ∧
        (∀ q, q < 4 → q ≠ p → bitAt w.toNat (8 + q) = deadBit s q)) ∧
      ((planePorts p).any (portFails s) = false → exec (.planeDead plane) s = .next s) ∧
      (deadBit s p = true → (∀ q ∈ planePorts p, (portOf s q).halt = false ∨ (portOf s q).haltFor < (portOf s q).haltLimit) →
        exec (.planeRevive plane) s = .next (onFabric ((planePorts p).foldl (fun s q => onPort s q (fun x => { x with down := false, idle := 0 })) s)
          (fun f => { f with fplane := setField f.fplane (8 + p) 1 0 })))) ∧
    (∀ entry : BitVec 2, let e := entry.toNat
      (entryPending s e = true → planeDrained s (mapOf s e) = true →
        (∀ q, look s.fabric.newMap e = some q → deadBit s q.toNat = false →
          exec (.planeRemap entry) s = .next (moveWaiting (onFabric s (fun f => { f with fplane := setPend (setField f.fplane (2 * e) 2 q.toNat) e 0, newMap := del f.newMap e })) e q.toNat)) ∧
        (∀ q, look s.fabric.newMap e = none → leastPlane s = some q →
          exec (.planeRemap entry) s = .next (moveWaiting (onFabric s (fun f => { f with fplane := setPend (setField f.fplane (2 * e) 2 q) e 0, newMap := del f.newMap e })) e q)) ∧
        (look s.fabric.newMap e = none → leastPlane s = none → exec (.planeRemap entry) s = .next s)) ∧
      (entryPending s e = false ∨ planeDrained s (mapOf s e) = false → exec (.planeRemap entry) s = .next s)) ∧
    (∀ (host : Bool) (p : BitVec 6) (key : Word),
      ((polderOf s p.toNat).hostKeyrot = host → exec (.flowKeyInstall host p key) s = .next { s with
        polders := put s.polders p.toNat { polderOf s p.toNat with flowKey := some key } }) ∧
      ((polderOf s p.toNat).hostKeyrot ≠ host → exec (.flowKeyInstall host p key) s = .next s)))

/-- R136, R137, R153, R156. WHAT AN ARRIVAL MEETS FIRST, whatever its kind. A malformed packet is discarded and counted, the state otherwise as it was. One that names a polder under a tombstone is absorbed: a request is answered NACK TOMB. A replay is
dropped. One whose seal does not verify is answered NACK SEAL, and one whose opened mask flit has a reserved bit is discarded and counted.
R102, R110, R116, R147, R148, R184. THE TARGET. A packet that nothing holds back performs as it arrives: one of class 2 once its stream has received it. With no export of its offset it is answered NOEXPORT, without the right DENIED, in a polder that is
not active NOEXPORT. A read is answered with its line, a write performs its bytes, an integer atomic its wrapped addition and its old value, a stage breaks a rule of its
set and is answered with its subcode or joins its set when it holds its slot, each element added to what stands there, and a tag that differs is refused in a node that refuses. A close of an open contributor closes it.
R145 to R151. SKIMS, GAPS AND REFILLS. The skim of a data packet takes a free entry of the gap list, in order, and is acknowledged GAP; with the list full it is rejected and its stream blocked. A refill whose lower tags have
been received fills its gap and performs; else it waits; one that matches none is dropped, and one that no export covers any more gets NACK NOEXPORT. A gap that no refill has
filled, and that expires, is answered NACK GAPTO. Requests to a source go RGAP apart, RMAX outstanding: the first recorded gap is asked for, and with none a trimmed response.
The model's own choices here, no rule of the spec: the statuses of cases that no rule names, and what is asked for first (log 26). -/
def Obligations.FabricTarget : Prop :=
  (∀ (s : State) (p : Packet),
    (badFrame s p = true → exec (.malformedPacket p) s = .next (bumpCounter s 6 1)) ∧
    (badFrame s p = false → exec (.malformedPacket p) s = .next s) ∧
    (∀ kind f, p.kind = kind →
      (badFrame s p = true → arrivePacket s p kind f = bumpCounter s 6 1) ∧
      (badFrame s p = false → (polderOf s p.polder.toNat).tomb.isSome = true → arrivePacket s p kind f = absorbPacket s p ∧
        (asks p = true → absorbPacket s p = sendAnswer (bumpCounter s 9 1) p (answerOf p kNack stTomb)) ∧
        (asks p = false → absorbPacket s p = bumpCounter s 9 1)) ∧
      (badFrame s p = false → (polderOf s p.polder.toNat).tomb = none →
        (isReplay s p = true → arrivePacket s p kind f = s) ∧
        (isReplay s p = false → openSeal s p = none → arrivePacket s p kind f = sendAnswer s p (answerOf p kNack stSeal)) ∧
        (isReplay s p = false → (∃ q, openSeal s p = some q ∧ maskBits q = true) → arrivePacket s p kind f = bumpCounter s 6 1))) ∧
    (∀ b, badFrame s p = b → p.reservedSet = true ∨ maskReserved p = true ∨ p.dst ≠ s.fabric.node ∨ kindRule p.kind = none → b = true)) ∧
  (∀ (s : State) (p q : Packet),
    (∀ t, Serves s q t → q.cls = 1 →
      (Arrives s p kRdreq q → exec (.rdreq p) s = .next t) ∧
      (Arrives s p kGetreq q → exec (.getreq p) s = .next t) ∧
      (Arrives s p kMclose q → exec (.mclosePacket p) s = .next t)) ∧
    (∀ t, let u := receive (unblock s q) q
      Serves u q t → q.cls = 2 → t.fabric.gaps = [] → p.trim = false → p.refill = false → blocked (rxOf s q) q = false → wasReceived (rxOf s q) q.stag = false →
      (Arrives s p kWr q → exec (.wrPacket p) s = .next t) ∧
      (Arrives s p kPuts q → exec (.putsPacket p) s = .next t) ∧
      (Arrives s p kAtomreq q → exec (.atomreq p) s = .next t) ∧
      (Arrives s p kMstage q → exec (.mstage p) s = .next t)) ∧
    (q.kind ≠ kMclose → servePacket s q none = some (nackWith s q stNoexport)) ∧
    (q.kind ≠ kMclose → ∀ n e, let out := servePacket s q (some (n, e))
      (e.right (rightOf q.kind) = false → out = some (nackWith s q stDenied)) ∧
      (e.right (rightOf q.kind) = true → e.kind = 0 → (polderOf s e.polder).state ≠ 1 → out = some (nackWith s q stNoexport)) ∧
      (e.right (rightOf q.kind) = true → e.kind = 1 → out = some (launchServe s q e)) ∧
      (e.right (rightOf q.kind) = true → e.kind = 2 → out = some (controlServe s q n e))) ∧
    (∀ polder pa, let line := pa / 256 * 256
      (tagMiss s q line = true → q.tref = true → memoryServe s q polder pa = some (nackWith s q stTag)) ∧
      (tagMiss s q line = false →
        (q.kind = kRdreq → memoryServe s q polder pa = some (respondWith (serveLine s polder line 4) q kRdrsp 0 ((List.range 4).map (fun i => BitVec.ofNat 512 (homeRead s (line + 64 * i) 64))))) ∧
        (q.kind = kAtomreq → 4 ≤ q.tyField.toNat → q.tyField.toNat < 8 → q.op = 0 →
          let n := if q.tyField.toNat < 6 then 4 else 8
          let old := homeRead s pa n
          let sum := (old + bitsAt (q.payload.headD 0).toNat 0 64) % 2 ^ (8 * n)
          memoryServe s q polder pa = some (respondWith (ackWith (dieWrite (serveLine s polder line 1) (homeDie pa) pa n (2 ^ n - 1) sum none) q stApplied)
            q kAtomrsp 0 [BitVec.ofNat 512 old])) ∧
        (q.kind = kMstage →
          let key := setIdKey (handleSet q.handle)
          let gen := handleGen q.handle
          let id := q.cid.toNat
          let w := payloadWrite q.masked q.payload
          let es := ((List.range 64).filter (fun i => bitsAt w.1 (4 * i) 4 != 0)).map (fun i => (line + 4 * i, BitVec.ofNat 32 (bitsAt w.2 (32 * i) 32)))
          let rule := stageRule s key gen (some polder) id (es.map (·.1))
          (∀ sub, rule = some sub → memoryServe s q polder pa = some (nackWith s q (BitVec.ofNat 8 (0x10 + sub)))) ∧
          (∀ m, rule = none → openSet s key gen = some m → let m' := claimSlot m id none
            (holds m' id = true → memoryServe s q polder pa = some (ackWith (setSet s key (acceptStage m' id es)) q stApplied)) ∧
            (holds m' id = false → memoryServe s q polder pa = none))) ∧
        (q.kind = kWr → memoryServe s q polder pa = some (ackWith ((maskSectors (payloadWrite q.masked q.payload).1).foldl (fun s i =>
          dieWrite (serveLine s polder line 1) (homeDie pa) (line + 64 * i) 64 (bitsAt (payloadWrite q.masked q.payload).1 (64 * i) 64)
            (bitsAt (payloadWrite q.masked q.payload).2 (512 * i) 512) none) s) q stApplied)))) ∧
    (∀ (m : MergeSet) id at_ (v : BitVec 32), let m' := stageElem m id at_ v
      lookD (lookD m'.berms (slotOf m' id) []) at_ 0 = BitVec.ofNat 32 (addF fmtF32 .rne (lookD (lookD m.berms (slotOf m id) []) at_ 0).toNat v.toNat) ∧
      (∀ b, b ≠ at_ → look (lookD m'.berms (slotOf m' id) []) b = look (lookD m.berms (slotOf m id) []) b)) ∧
    (∀ m, q.kind = kMclose → let b := (q.payload.headD 0).toNat
      let hd := BitVec.ofNat 64 (bitsAt b 0 64)
      let key := setIdKey (handleSet hd)
      openSet s key (handleGen hd) = some m → mergeAdmits s m.polder.toNat q.src = true → bitsAt b 64 16 < m.expect →
      ((contribOf m (bitsAt b 64 16)).st = .idle ∨ (contribOf m (bitsAt b 64 16)).st = .staging) →
      ∀ entry, servePacket s q entry = some (ackWith (setSet s key (closeContrib m (bitsAt b 64 16))) q stApplied))) ∧
  (∀ (s : State) (p q : Packet),
    (p.trim = true → (p.kind = kWr ∨ p.kind = kAtomreq ∨ p.kind = kPuts ∨ p.kind = kMstage) → Arrives s p p.kind q → exec (.skim p) s = .next (recordSkim s q)) ∧
    (p.trim = true → (p.kind = kRdrsp ∨ p.kind = kGetrsp) → Arrives s p p.kind q → exec (.skim p) s = .next (respondTo (noteMark (receive s q) q) q)) ∧
    (blocked (rxOf s q) q = false → wasReceived (rxOf s q) q.stag = false →
      (∀ i, freeKey s.fabric.gaps 512 = some i →
        let g : Gap := { src := q.src, plane := q.plane, stag := q.stag, polder := q.polder, kind := q.kind, len := q.len, limit := s.fabric.ftimeout.toNat, line := BitVec.ofNat 34 (q.off.toNat / 256), seq := s.fabric.gapSeq, die := q.inDie }
        recordSkim s q = pumpRefills (bumpCounter (ackWith (onFabric (receive (unblock s q) q) (fun f => { f with gaps := put f.gaps i g, gapSeq := f.gapSeq + 1 }))
          { q with cls := 2 } stGap) 1 1)) ∧
      (freeKey s.fabric.gaps 512 = none → recordSkim s q = rejectPacket (setRx s q { rxOf s q with block := true, btag := q.stag }) q)) ∧
    (p.refill = true → p.trim = false → Arrives s p p.kind q → (∃ a b, kindRule q.kind = some (2, a, b)) →
      (s.fabric.gaps.find? (fun e => e.2.src == q.src && e.2.plane == q.plane && e.2.stag == q.stag && e.2.kind == q.kind && !e.2.filled) = none → exec (.refill p) s = .next s) ∧
      (∀ i g, s.fabric.gaps.find? (fun e => e.2.src == q.src && e.2.plane == q.plane && e.2.stag == q.stag && e.2.kind == q.kind && !e.2.filled) = some (i, g) → g.age < g.limit →
        (exportMatch s q.src q.off.toNat = none → exec (.refill p) s = .next (nackWith s q stNoexport)) ∧
        (∀ x, exportMatch s q.src q.off.toNat = some x →
          (tagBefore q.stag (rxOf s q).next = true → exec (.refill p) s = .next (applyRefill s i g q (some x))) ∧
          (tagBefore q.stag (rxOf s q).next = false →
            exec (.refill p) s = .next { s with fabric := { s.fabric with gaps := put s.fabric.gaps i { g with refill := some (q, some x) } } })))) ∧
    (∀ (i : BitVec 9) g, look s.fabric.gaps i.toNat = some g →
      (g.limit ≤ g.age → g.filled = false → exec (.gapExpire i) s = .next (pumpFabric (bumpCounter (nackGap s i.toNat g stGapto) 4 1))) ∧
      (g.age < g.limit ∨ g.filled = true → exec (.gapExpire i) s = .next s)) ∧
    (∀ src : BitVec 14, let f := s.fabric
      let paced := put f.paced src.toNat (0, ftrimField s 16)
      ((∃ n m, look f.paced src.toNat = some (n, m) ∧ n < m) ∨ fieldOf f.ftrim 24 6 ≤ refillsOut s → exec (.refillRequestSend src) s = .next s) ∧
      ((∀ n m, look f.paced src.toNat = some (n, m) → m ≤ n) → refillsOut s < fieldOf f.ftrim 24 6 →
        (∀ i g, nextGap s src = some (i, g) → exec (.refillRequestSend src) s = .next (submitAt
          { s with fabric := { f with paced := paced, gaps := put f.gaps i { g with requested := true } } } g.die.toNat g.plane.toNat (refillRequest g) 0 0)) ∧
        (∀ k e x, nextGap s src = none → skimmedCont s src = some (k, e, x) →
          exec (.refillRequestSend src) s = .next (reissue { s with fabric := { f with paced := paced } } k e x)) ∧
        (nextGap s src = none → skimmedCont s src = none → exec (.refillRequestSend src) s = .next s))))

/-- R142, R143, R146, R150, R151, R230. ANSWERS AND RESPONSES. A response whose generation matches reaches its continuation: its lanes take the values of the line, the entry is freed, and with no lane left the
waiting lanes are ready; a trimmed one is asked for again once. An ACK APPLIED ends what its retained packet did, GAP and HELD keep it as received, REJECT sends it and
every later one of its stream again; a NACK fails it with the cause of its status. A refill request sends the retained payload again. A
continuation that times out gives all ones and sets its FSTAT bit.
R171, R172. THE HOST'S TRANSLATIONS. An XLRSP to a request still open is kept for the access that asked, whose lanes ask again; a request that is not answered in time is marked so, and its lanes ask
again. What is answered or given up is retained no longer, nor does it wait at a port. An XLINV begins in its contexts, each keeping its VA, its pages, the REQID and the CONTEXT; it waits when one of them has one in progress.
R158, R208. A marked answer or response marks its polder, whatever becomes of it.
The model's own choices here, no rule of the spec: the port of an answer (log 30), ADDR of a fabric read (log 31) and combined packets (log 32). -/
def Obligations.FabricAnswers : Prop :=
  (∀ (s : State) (p q : Packet),
    let u := noteMark (receive s q) q
    let m := noteMark s q
    (Arrives s p kRdrsp q → q.cls = 3 → exec (.rdrsp p) s = .next (respondTo u q)) ∧
    (Arrives s p kGetrsp q → q.cls = 3 → exec (.getrsp p) s = .next (respondTo u q)) ∧
    (Arrives s p kAtomrsp q → q.cls = 3 → exec (.atomrsp p) s = .next (respondTo u q)) ∧
    (contOf s p = none → respondTo s p = s) ∧
    (∀ k e x o getf accs, contOf s p = some (k, e, x) → opOf s k x.op = some o → o.kind = .remoteRead getf accs → p.kind = (if getf then kGetrsp else kRdrsp) →
      (p.trim = false → p.status ≠ stTag → respondTo s p =
        let l := contAccs o x
        served (endCont (deliver s x.op o (l.map (fun a => (a, lineValue p.payload a)))) k e) k x.op l) ∧
      (p.trim = true → respondTo s p = onCore s k (fun c => { c with conts := alter c.conts e (fun x => { x with skimmed := !x.reissued }) }))) ∧
    (∀ k e x o op t accs, contOf s p = some (k, e, x) → opOf s k x.op = some o → o.kind = .remoteAtomic op t accs → p.kind = kAtomrsp → p.trim = false → p.status ≠ stTag →
      let l := contAccs o x
      respondTo s p = served (endCont (deliver s x.op o (l.map (fun a => (a, BitVec.ofNat 64 (bitsAt (p.payload.headD 0).toNat 0 (8 * a.n)))))) k e) k x.op l) ∧
    (∀ r, Arrives s p kAck q → q.cls = 0 → q.ck = false → retainedFor s q = some r →
      (q.status = stApplied → exec (.ack p) s = .next (performedAt m r false)) ∧
      (q.status = stAppliedTag → exec (.ack p) s = .next (performedAt m r true)) ∧
      (q.status = stGap ∨ q.status = stHeld → exec (.ack p) s = .next (onFabric m (fun f => { f with
        retained := f.retained.map (fun o => if o = r then { o with received := true } else o) }))) ∧
      (q.status = stReject → exec (.ack p) s = .next (onFabric m (fun f => { f with retained := f.retained.map (fun o =>
        if o.pkt.cls == 2 && o.pkt.dst == q.src && o.pkt.plane == q.plane && !tagBefore o.pkt.stag q.stag then { o with resend := true } else o) })))) ∧
    (Arrives s p kAck q → q.cls = 0 → q.ck = true → exec (.ack p) s = .next (ackClose m q)) ∧
    (∀ r, Arrives s p kNack q → q.cls = 0 → q.ck = false → retainedFor s q = some r → exec (.nack p) s = .next (failPacket m r q.status)) ∧
    (Arrives s p kNack q → q.cls = 0 → q.ck = true → exec (.nack p) s = .next (nackCont m q)) ∧
    (∀ st : BitVec 8, nackCause st = if st = stTag then (causeTag, st.toNat) else if 0x11 ≤ st.toNat ∧ st.toNat ≤ 0x15 then (causeMerge, st.toNat - 0x10)
      else (causeFabric, st.toNat)) ∧
    (∀ r, Arrives s p kRefillreq q → q.cls = 0 → retainedFor s q = some r → exec (.refillreq p) s = .next (onPort s (retainedPort r) (fun x => { x with
      waiting := x.waiting ++ [({ r.pkt with refill := true, notrim := true }, r.core, r.op)] }))) ∧
    (∀ (k : BitVec 9) (entry : BitVec 10) o getf accs, let x := lookD (coreOf s k.toNat).conts entry.toNat {}
      (x.used = true → (coreOf s k.toNat).ccyc.toNat < x.sent.toNat + x.limit → exec (.continuationTimeout k entry) s = .next s) ∧
      (x.used = true → x.sent.toNat + x.limit ≤ (coreOf s k.toNat).ccyc.toNat → opOf s k.toNat x.op = some o → o.kind = .remoteRead getf accs →
        exec (.continuationTimeout k entry) s = .next (served (endCont (onTeam (deliver s x.op o (onesFor (contAccs o x))) o.uid
          (fun t => { t with fstat := t.fstat ||| (if getf then 2 else 1) })) k.toNat entry.toNat) k.toNat x.op (contAccs o x))))) ∧
  (∀ (s : State) (p q : Packet),
    (∀ n x, Arrives s p kXlrsp q → q.cls = 1 → s.xlreqs.find? (fun e => e.1 % 2 ^ 32 == xlField q 4 4) = some (n, x) →
      (xlField q 0 1 = 2 → x.answer = none → x.timedOut = false →
        let ans := (xlField q 0x10 8 / 4096 * 4096, xlField q 0x18 1 % 4, bitAt (xlField q 0x19 1) 0, bitAt (xlField q 0x19 1) 1, BitVec.ofNat 8 (xlField q 1 1))
        let t := dropRequests s (fun p _ => p.kind == kXlreq && bitsAt (p.payload.headD 0).toNat 32 32 == xlField q 4 4)
        exec (.xlrsp p) s = .next (wakeHost { t with xlreqs := put t.xlreqs n { x with answer := some ans } } x.core n)) ∧
      (xlField q 0 1 ≠ 2 ∨ x.answer ≠ none ∨ x.timedOut = true → exec (.xlrsp p) s = .next s)) ∧
    (Arrives s p kXlinv q → q.cls = 1 → let cs := xlinvCtxs s q
      let v : XlInv := { va := BitVec.ofNat 64 (xlField q 8 8), n := BitVec.ofNat 64 (xlField q 0x10 8), req := BitVec.ofNat 32 (xlField q 4 4),
                         context := BitVec.ofNat 16 (xlField q 2 2), die := q.inDie }
      ((∃ c ∈ cs, (ctxOf s c).xlinv ≠ none) → exec (.xlinv p) s = .next { s with fabric := { s.fabric with waiting := s.fabric.waiting ++ [q] } }) ∧
      ((∀ c ∈ cs, (ctxOf s c).xlinv = none) → cs ≠ [] →
        exec (.xlinv p) s = .next (cs.foldl (fun s c => onCtx (xlinvRequests s c v.va v.n.toNat) c (fun x => { x with xlinv := some v })) s)) ∧
      (cs = [] → exec (.xlinv p) s = .next (xlinvAnswer s 0 v))) ∧
    (∀ (req : BitVec 32) n x, s.xlreqs.find? (fun e => e.1 % 2 ^ 32 == req.toNat) = some (n, x) →
      (x.answer = none → x.sent.toNat + x.limit ≤ (coreOf s x.core).ccyc.toNat →
        let t := dropRequests s (fun p _ => p.kind == kXlreq && bitsAt (p.payload.headD 0).toNat 32 32 == req.toNat)
        exec (.xlreqTimeout req) s = .next (wakeHost { t with xlreqs := put t.xlreqs n { x with timedOut := true } } x.core n)) ∧
      (x.answer ≠ none ∨ (coreOf s x.core).ccyc.toNat < x.sent.toNat + x.limit → exec (.xlreqTimeout req) s = .next s)) ∧
    (∀ core req, let t := wakeHost s core req
      t.mem = s.mem ∧ t.xlreqs = s.xlreqs ∧ (∀ k, k ≠ core → look t.cores k = look s.cores k) ∧
      ∀ e ∈ (coreOf t core).groups, ∀ y ∈ e.2.entries, y.hold ≠ .host req) ∧
    (∀ give : Packet → Nat → Bool, let t := dropRequests s give
      (∀ r ∈ t.fabric.retained, give r.pkt r.core = false) ∧ (∀ e ∈ t.fabric.ports, ∀ w ∈ e.2.waiting, give w.1 w.2.1 = false)))

/-! ### Launches and teams -/

/-- R9 to R17, R34 to R36, R116, R118, R119. LAUNCHES. An aligned 128-byte write to a launch port, with the device locked, puts the record behind those of its queue with the next
number, or finds the queue full. The head of a queue that may be dispatched is checked: by the first check that fails it is retired
unrun with its status, else it becomes a launch. A cluster is placed on a rectangle that meets the rules, when nothing that goes before it can be placed, and a saved one
is restored so, once the host has answered its translations. A draining team with nothing in flight is released, and its launch counts it.
R74, R122, R181. TEAMS AND CORES. A new team has the lowest free local number, the next identity, its record's
shape and STATE running, and every group of it starts with all 32 lanes at CODE, where a header is expected, with the argument block in s0 and s1. A core of a polder
that lends, which a completion has left with no team, above its minimum or with nothing queued, goes to the polder that is shortest of cores: scrubbed, out of the one's cores and into the other's. It is looked at once for each completion.
The model's own choices here, no rule of the spec: whole clusters and border moves (log 29), and when a record leaves its queue (log 39). -/
def Obligations.LaunchesAndTeams : Prop :=
  (∀ s : State,
    (∀ (off : BitVec 20) (size : Nat) (data : BitVec 1024), let c := off.toNat / 0x400
      let q := off.toNat % 0x400 / 0x80
      let x := queueOf (ctxOf s c) q
      (size = 128 → off.toNat % 128 = 0 → s.device.lock = true →
        (queueFull x = false → exec (.launchPortWrite off size data) s = .next { onQueue s c q (fun x => { x with
          records := x.records ++ [(x.next, data, s.nextAccept)], next := x.next + 1 }) with nextAccept := s.nextAccept + 1 }) ∧
        (queueFull x = true → exec (.launchPortWrite off size data) s = .next (onQueue s c q (fun x => { x with ovf := 1 })))) ∧
      (size ≠ 128 ∨ off.toNat % 128 ≠ 0 ∨ s.device.lock = false → exec (.launchPortWrite off size data) s = .next s)) ∧
    (∀ (c : BitVec 10) (q : BitVec 3) seq r acc, headOf s c.toNat q.toNat = some (seq, r, acc) → dispatches s c.toNat = true → launchOf s c.toNat q.toNat seq = none →
      (headStatus s c.toNat q.toNat seq r = none → exec (.recordHeadCheck c q) s = .next { s with
        launches := put s.launches s.nextLaunch { ctx := c, queue := q.toNat, seq := seq, record := r, accepted := acc }
        nextLaunch := s.nextLaunch + 1 }) ∧
      (∀ st, headStatus s c.toNat q.toNat seq r = some st → st ≠ 5 →
        exec (.recordHeadCheck c q) s = .next (retireRecord (popHead s c.toNat q.toNat) c.toNat q.toNat seq st)) ∧
      (headStatus s c.toNat q.toNat seq r = some 5 → exec (.recordHeadCheck c q) s = .next (retireRecord (popHead (reportCtx s
        { cause := causeStamp, kind := 6, ctx := c.toNat, polder := (ctxOf s c.toNat).polder, seq := seq }) c.toNat q.toNat) c.toNat q.toNat seq 5))) ∧
    (∀ (c : BitVec 10) (q : BitVec 3) x r, headCand s c.toNat q.toNat = some x → vacatedCands s = [] → canPlace s x r = true → isFirst s x = true →
      exec (.clusterPlace c q r) s = .next (placeCluster s x r [])) ∧
    (∀ (c : BitVec 10) (q : BitVec 3) r, headCand s c.toNat q.toNat = none → vacatedCands s = [] → exec (.clusterPlace c q r) s = .next s) ∧
    (∀ launch cluster r x, (vacatedCands s).find? (fun x => x.rank == 0 && x.launch == launch && x.cluster == cluster) = some x →
      (canPlace s x r = false ∨ isFirst s x = false → exec (.teamResume launch cluster r) s = .next s) ∧
      (canPlace s x r = true → isFirst s x = true → ∀ e im, x.members = [e] → imageAt s x e = some im →
        let u := translateImage s (candCore x r e) im
        (u.2.2 = true → exec (.teamResume launch cluster r) s = .next (placeCluster u.1 x r [(e, u.2.1)])) ∧
        (u.2.2 = false → exec (.teamResume launch cluster r) s = .next u.1))) ∧
    (∀ (k : BitVec 9) (team : BitVec 5) tm, teamOf (coreOf s k.toNat) team.toNat = some tm →
      (tm.st = .draining → stillHanded s tm.uid = false →
        exec (.teamDrainDone k team) s = .next (teamCompleted (endTeam s k.toNat team.toNat tm.uid) tm.launch)) ∧
      (tm.st ≠ .draining ∨ stillHanded s tm.uid = true → exec (.teamDrainDone k team) s = .next s))) ∧
  (∀ s : State,
    (∀ ctx r uid gid t, let g := newGroup s ctx r uid gid t
      g.entries = [{ mask := BitVec.allOnes 32, pc := lrCode r }] ∧ g.uid = uid ∧ g.gid = gid ∧ g.team = t ∧ g.ctx = BitVec.ofNat 10 ctx ∧
      sReg g 0 = lrArgptr r ∧ sReg g 1 = BitVec.ofNat 64 (lrArgsize r) ∧ (∀ n, 1 < n → sReg g n = 0) ∧ g.v = [] ∧ g.exited = 0 ∧ g.service = none ∧
      isNormal g.entries = true) ∧
    (∀ k : BitVec 9, (coreOf s k.toNat).idled = false → exec (.borderMove k) s = .next s) ∧
    (∀ (k : BitVec 9) a, (coreOf s k.toNat).idled = true → ownerOf (lookedAt s k.toNat) k.toNat = some a → let u := lookedAt s k.toNat
      ((coreOf u k.toNat).teams ≠ [] ∨ lends (polderOf u a) = false ∨ (heldCores (polderOf u a) ≤ minCores (polderOf u a) ∧ hasQueued u a = true) →
        exec (.borderMove k) s = .next u) ∧
      ((coreOf u k.toNat).teams = [] → lends (polderOf u a) = true → (minCores (polderOf u a) < heldCores (polderOf u a) ∨ hasQueued u a = false) →
        ∀ b, receiver u a = some b → exec (.borderMove k) s = .next ((List.range 64).foldl (fun t slot => slotUpdate u slot t k.toNat)
          (setOwner (setOwner (scrubCore u k.toNat) a k.toNat false) b k.toNat true)))))

/-! ### Boot, power and tests -/

/-- R90, R192, R405, R412 to R420. BOOT, POWER AND TESTS. A rail out of range or a thermal trip asserts package reset; a throttle request and a power sample are recorded and change nothing
else. A die boots stage by stage: the ROM measures itself and the firmware image, which it checks by key, security version and signature, with a failure at stage 0xF; then
the extension microcode, the window's opening by die 0, and the last measurement, die 0 first. A report is written where the
GO said, undefined when its place was written before DONE; DONE is set and BUSY clear. A microcode image raises MINOR only when it defines opcodes (R1), by what the model leaves
open. A fence of a subarray is requested once, and made when the doubled VEST fits, the matrix charges then doubled; a control core's bytes perform at
their homes.
The model's own choices here, no rule of the spec: the stages of boot and the report (log 28), MINOR (log 35), and the constants of log 5. -/
def Obligations.BootAndPower : Prop := ∀ (s : State) (d : BitVec 2),
  let n := d.toNat
  let x := dieOf s n
  (∀ r, exec (.railOutOfRange r) s = .next { s with rails := r :: s.rails.erase r, resetAsserted := true }) ∧
  exec (.thermalTrip d) s = .next { s with resetAsserted := true } ∧
  exec (.throttleRequest d) s = .next { s with throttle := s.throttle ||| BitVec.ofNat 4 (2 ^ n) } ∧
  (∀ (tmax : BitVec 16) (watts : BitVec 13), let t : State := { s with device := { s.device with ppower := BitVec.ofNat 64 (tmax.toNat * 2 ^ 48 + watts.toNat) } }
    (tmax.toNat < 105 → exec (.powerSample tmax watts) s = .next t) ∧
    (105 ≤ tmax.toNat → tmax.toNat < 115 → exec (.powerSample tmax watts) s = .next { t with
      throttle := s.throttle ||| BitVec.ofNat 4 (2 ^ ((Config.freeValue s.fresh).toNat % 4)), fresh := s.fresh + 1 }) ∧
    (115 ≤ tmax.toNat → exec (.powerSample tmax watts) s = .next { t with resetAsserted := true })) ∧
  (∀ b : BootPlan,
    (stageOf s n = 0 → let m := extendMeas s n 0 Config.romBytes
      (∀ e, imageError b.firmware = some e → exec (.boot d b) s = .next (setStage m n 0xF e)) ∧
      (imageError b.firmware = none → exec (.boot d b) s = .next (setStage (extendMeas m n 1 b.firmware.body) n 1 0))) ∧
    (stageOf s n = 1 → (b.microcode = none → exec (.boot d b) s = .next (setStage s n 2 0)) ∧
      (∀ i xs, b.microcode = some (i, xs) → imageError i = none →
        exec (.boot d b) s = .next (setStage (onDevice (extendMeas s n 2 i.body) (fun y => loadExtension y xs)) n 2 0)) ∧
      (∀ i xs e, b.microcode = some (i, xs) → imageError i = some e → exec (.boot d b) s = .next (setStage s n 0xF e))) ∧
    (stageOf s n = 2 → (∀ e, b.hbm = some e → exec (.boot d b) s = .next (setStage s n 0xF e.toNat)) ∧
      (b.hbm = none → let t := trainLinks s n
        let u := openWindow (onFabric t (fun f => { f with node := b.node })) b.hostNode
        let planes := BitVec.ofNat 64 b.map.toNat
        exec (.boot d b) s = .next (setStage (if n = 0 then (writePlanes u planes).getD (refuseWrite u 0x100) else t) n 3 0))) ∧
    (stageOf s n = 3 → n = 0 → let w := if s.device.spilled then s else (writeDevice s 64 0x018 b.spillMib).getD (refuseWrite s 0x018)
      exec (.boot d b) s = .next (setStage (extendMeas w n 3 (measuredBytes w)) n 4 0)) ∧
    (stageOf s n = 3 → n ≠ 0 → (stageOf s 0 = 4 → exec (.boot d b) s = .next (setStage (extendMeas s n 3 (measuredBytes s)) n 4 0)) ∧
      (stageOf s 0 ≠ 4 → exec (.boot d b) s = .next s))) ∧
  (∀ (y : Device) (xs : BitVec 8), let z := loadExtension y xs
    z = { y with xset := xs, version := z.version } ∧ (xs = 0 → z.version = y.version) ∧
    bitsAt z.version.toNat 24 8 = bitsAt y.version.toNat 24 8 ∧ bitsAt y.version.toNat 16 8 ≤ bitsAt z.version.toNat 16 8 ∧
    bitsAt z.version.toNat 0 16 = bitsAt y.version.toNat 0 16 ∧ (xs ≠ 0 → 1 ≤ bitsAt z.version.toNat 16 8)) ∧
  (∀ (i : SignedImage), imageError i = none ↔ shake256 i.key 32 = Config.rootKeyHash ∧ Config.minSecurityVersion.toNat ≤ i.secver.toNat ∧
    Config.ed448Verify i.key (shake256 i.body 64) i.sig = true) ∧
  (x.attBusy = true → ∃ t, exec (.attestDone d) s = .next t ∧ (dieOf t n).attBusy = false ∧ (dieOf t n).attDone = true ∧ t.cores = s.cores ∧ t.device = s.device ∧
    (x.attSpoiled = false →
      t = onDie (writeReport s n (x.attGoOff.toNat * 64) (reportBody s n ++ padBytes 114 (Config.ed448Sign (reportBody s n)) ++ padBytes 14 [])) n
        (fun y => { y with attBusy := false, attDone := true, attSpoiled := false })) ∧
    (x.attSpoiled = true →
      t = onDie { writeReport s n (x.attGoOff.toNat * 64) (freeReport s.fresh) with fresh := s.fresh + 66 } n
        (fun y => { y with attBusy := false, attDone := true, attSpoiled := false }))) ∧
  (x.attBusy = false → exec (.attestDone d) s = .next s) ∧
  (∀ (k : BitVec 9) (b : BitVec 2), let c := coreOf s k.toNat
    (c.fenceReq = none → exec (.selfTestFenceRequest k b) s = .next { s with cores := put s.cores k.toNat { c with fenceReq := some b } }) ∧
    (c.fenceReq = some b → c.vacates = [] →
      let fits (y : BitVec 10) : Prop := vestDoubled s k.toNat y ≤ vbnd s k.toNat y
      ((∀ y ∈ ctxsOn c, fits y) → exec (.subarrayFence k) s = .next { s with cores := put s.cores k.toNat { c with
        fenceReq := none
        suba := c.suba ||| BitVec.ofNat 4 (2 ^ b.toNat)
        teams := c.teams.map (fun t => (t.1, { t.2 with mfence := true }))
        ops := c.ops.map (fun o => (o.1, if o.2.eng = 2 then { o.2 with charge := 2 * o.2.charge } else o.2)) } }) ∧
      ((∃ y ∈ ctxsOn c, ¬ fits y) → exec (.subarrayFence k) s = .next s)) ∧
    (c.vacates ≠ [] → exec (.subarrayFence k) s = .next s)) ∧
  (∀ (pa : BitVec 42) (b : Byte),
    let t := noteArgs s [(pa.toNat, 1)]
    let w := deviceWrite t pa.toNat 1 b.toNat
    (isHbm pa.toNat = true → exec (.controlCoreWrite pa [b]) s = .next w) ∧
    (isHbm pa.toNat = false → isHostWindow pa.toNat = true →
      exec (.controlCoreWrite pa [b]) s = .next (if (dieOf w (windowDie pa.toNat)).attBy = 64 then noteReport w pa.toNat 1 1 else w)) ∧
    (isHbm pa.toNat = false → isHostWindow pa.toNat = false → exec (.controlCoreWrite pa [b]) s = .next t))

/-! ### Translation and the checks of an access -/

/-- R159 to R164. TRANSLATION. A TLB entry that covers an address and serves its access gives it at once. Else the upper half walks its context's table, and
an address of neither half is XLATE FORM; with no root it is INVALID at level 0. A level of a walk with V = 0 is INVALID, with a malformed entry ENTRY, both
at that level; a pointer goes on a level down, at its frame; a leaf ends the walk at its frame plus the offset. A leaf below level 2, a pointer at level 4, a pointer with MIG, a reserved bit and an
output that is not aligned to its size are malformed. An IPA of 2^52 or more is XLATE2 FORM; a leaf whose whole range is not populated is ACCESS; one that lacks W for a write is PERM 1, X for a fetch PERM 2, one with a frame in quarantine
QUAR (a TLB entry of such a range serves nothing); one that passes gives its output, with A set, and D on a write; a write into device memory marks its page WRITTEN (R177).
The model's own choices here, no rule of the spec: consistent runs (log 10). -/
def Obligations.TableWalks : Prop := ∀ s : State,
  (∀ k ctx va acc, let p := (ctxOf s ctx.toNat).polder
    let serves (t : TlbEntry) : Bool := t.covers ctx va && t.serves acc && !rangeQuarantined s t.pa (2 ^ sizeBits t.size)
    (∀ t, (tlbOf s k).find? serves = some t → let off := fieldOf va 0 56 % 2 ^ sizeBits t.size
      translate s k ctx va acc = (noteWritten s p va acc (t.pa + off) (t.ipa + off), .ok (t.pa + off) (t.ipa + off))) ∧
    ((tlbOf s k).find? serves = none →
      (isUpper va = false → isLower va = false → translate s k ctx va acc = (s, .fault { cause := causeXlate, sub := subForm })) ∧
      (isUpper va = true → bitAt (ctxOf s ctx.toNat).cs1root.toNat 0 = false → translate s k ctx va acc = (s, .fault { cause := causeXlate, sub := subInvalid })) ∧
      (isUpper va = true → ∀ u x, walk1 s ctx.toNat p va acc (dieOfCore k) = (u, .inl x) →
        translate s k ctx va acc = (tlbInsert (noteWritten u p va acc x.pa x.ipa) k (tlbEntryOf ctx va x), .ok x.pa x.ipa)) ∧
      (isUpper va = true → ∀ u f, walk1 s ctx.toNat p va acc (dieOfCore k) = (u, .inr f) → translate s k ctx va acc = (u, .fault f)) ∧
      (isUpper va = false → isLower va = true → translate s k ctx va acc = hostXlate s k ctx p va acc)) ∧
    (∀ pa ipa, noteWritten s p va acc pa ipa = if acc.writes = true ∧ isUpper va = true ∧ isHbm pa = true then markWritten s (homeDie pa) p ipa else s)) ∧
  (∀ at' cause st2 a n lvl t u pa, at' s (t + levelIndex a lvl * 8) lvl = (u, .inl pa) →
    let e := homeRead u pa 8
    let w := walkFrom at' cause st2 a (n + 1) lvl s t
    (peV e = false → w = (u, .inr { cause := cause, sub := subInvalid, level := lvl, ipa := a })) ∧
    (peV e = true → malformed e lvl st2 = true → w = (u, .inr { cause := cause, sub := subEntry, level := lvl, ipa := a })) ∧
    (peV e = true → malformed e lvl st2 = false → peLeaf e = false → w = walkFrom at' cause st2 a n (lvl + 1) u (peAddr e)) ∧
    (peV e = true → malformed e lvl st2 = false → peLeaf e = true → peC16 e = false →
      w = (u, .inl { entryPa := pa, e := e, lvl := lvl, out := peAddr e + a % 2 ^ leafBits lvl, size := sizeCode lvl e }))) ∧
  (∀ e lvl st2, (peLeaf e = true ∧ lvl < 2) ∨ (peLeaf e = false ∧ lvl = 4) ∨ bitsAt e 52 12 ≠ 0 ∨ (st2 = false ∧ (peRdup e = true ∨ peMig e = true)) ∨ (peMig e = true ∧ peLeaf e = false) ∨
    (peLeaf e = true ∧ peRdup e = false ∧ peAddr e % 2 ^ leafBits lvl ≠ 0) → malformed e lvl st2 = true) ∧
  (levelIndex 0x00_1234_5678_9ABC 0 = 0 ∧ levelIndex 0x00_1234_5678_9ABC 1 = 0x024 ∧ levelIndex 0x00_1234_5678_9ABC 2 = 0x0D1 ∧
    levelIndex 0x00_1234_5678_9ABC 3 = 0x0B3 ∧ levelIndex 0x00_1234_5678_9ABC 4 = 0x189) ∧
  (∀ p ipa acc d, let x := polderOf s p
    (2 ^ 52 ≤ ipa → stage2 s p ipa acc d = (s, .inr { cause := causeXlate2, sub := subForm, ipa := ipa })) ∧
    (ipa < 2 ^ 52 → bitAt x.ps2root.toNat 0 = false → stage2 s p ipa acc d = (s, .inr { cause := causeXlate2, sub := subInvalid, ipa := ipa })) ∧
    (ipa < 2 ^ 52 → bitAt x.ps2root.toNat 0 = true → ∀ l,
      walkFrom (fun s pa _ => (s, .inl pa)) causeXlate2 true ipa 5 0 s (fieldOf x.ps2root 12 40 * 4096) = (s, .inl l) → peRdup l.e = false →
      let base := peAddr l.e
      let n := 2 ^ leafBits l.lvl
      (rangePopulated base n = false → stage2 s p ipa acc d = (s, .inr { cause := causeAccess, sub := 1, level := l.lvl, ipa := ipa })) ∧
      (rangePopulated base n = true →
        (acc.writes = true → peW l.e = false → stage2 s p ipa acc d = (s, .inr { cause := causePerm, sub := 1, level := l.lvl, ipa := ipa })) ∧
        (acc.writes = false → acc.fetch = true → peX l.e = false → stage2 s p ipa acc d = (s, .inr { cause := causePerm, sub := 2, level := l.lvl, ipa := ipa })) ∧
        (acc.writes = false → acc.fetch = false → rangeQuarantined s base n = true →
          stage2 s p ipa acc d = (s, .inr { cause := causeXlate2, sub := subQuar, level := l.lvl, ipa := ipa })) ∧
        (acc.writes = false → acc.fetch = false → rangeQuarantined s base n = false →
          stage2 s p ipa acc d = (setAd s l.entryPa false, .inl { pa := l.out, w := peW l.e, x := peX l.e, size := l.size, dirty := peD l.e, rdup := false, mig := peMig l.e })) ∧
        (acc.writes = true → peW l.e = true → peD l.e = true → (acc.fetch = false ∨ peX l.e = true) → rangeQuarantined s base n = false → peMig l.e = false →
          stage2 s p ipa acc d = (setAd s l.entryPa true, .inl { pa := l.out, w := true, x := peX l.e, size := l.size, dirty := true, rdup := false, mig := false })))))

/-- R82, R91, R94, R181, R243, R330, R331, R404. THE CHECKS OF A LANE ACCESS, in their order. ALIGN comes first; then BANK for scratch, ACCESS SPACE for a half
or a window that the instruction does not take, XLATE FORM for an address of none; for a BX access SCLW with no window, or one that does not cover it. The host window takes what may go there and its table
grants; then the tables of home and memory; a tag that differs traps in mode 2 and is noted in mode 1; a load of poisoned data, or an atomic that returns it, is ECC. A walk's fault serves every lane of its page.
The model's own choices here, no rule of the spec: the subcodes of ACCESS and the tables (log 38), and the order of faults (log 15). -/
def Obligations.AccessChecks : Prop := ∀ (s : State) (i : Issuer) (q : Need) (a : Word),
  (a.toNat % q.n ≠ 0 → firstFault s i q a = some { cause := causeAlign }) ∧
  (a.toNat % q.n = 0 → q.scratch = true → (firstFault s i q a = some { cause := causeBank } ↔ scratchPlace (coreOf s i.k) i.t i.tm a = none)) ∧
  (a.toNat % q.n = 0 → q.scratch = false →
    (isFabricVa a = true → q.fabricOk = false → firstFault s i q a = some { cause := causeAccess, sub := subSpace }) ∧
    (isLower a = true → q.lowerOk = false → firstFault s i q a = some { cause := causeAccess, sub := subSpace }) ∧
    (isFabricVa a = false → isUpper a = false → isLower a = false → firstFault s i q a = some { cause := causeXlate, sub := subForm }) ∧
    (isUpper a = true → firstFault s i q a = none)) ∧
  (∀ g (p : Probe) l f, firstFault s i q a = some f → probeLane i g q (s, p) (l, a) = (s, { p with bad := p.bad ++ [(l, a, f)] })) ∧
  (∀ g (p : Probe) l sh, firstFault s i q a = none → q.bx = some sh → (windowOf g q.scratch = none ∨ ∃ w, windowOf g q.scratch = some w ∧ windowCovers w a = false) →
    probeLane i g q (s, p) (l, a) = (s, { p with bad := p.bad ++ [(l, a, { cause := causeSclw })] })) ∧
  (∀ g (p : Probe) l b, firstFault s i q a = none → q.bx = none → q.scratch = true → scratchPlace (coreOf s i.k) i.t i.tm a = some b →
    let bad := q.acc.writes = false ∧ scratchBadWord (coreOf s i.k) b q.n = true
    (¬ bad → probeLane i g q (s, p) (l, a) = (s, { p with accs := p.accs ++ [{ lane := l, reg := 0, space := .scratch, va := a, pa := b, ipa := 0, n := q.n }] })) ∧
    (bad → probeLane i g q (s, p) (l, a) = (s, { p with bad := p.bad ++ [(l, a, { cause := causeEcc })] }))) ∧
  (∀ ctx pa ipa miss, let x := ctxOf s ctx.toNat
    let c := judge s i.k ctx q a pa ipa miss
    let table := (atHome (coreOf s i.k) q || (miss && !q.acc.writes)) = true → memGrants s x.polder pa q.right = true
    let mis := q.tagged = true ∧ x.tagmode ≠ 0 ∧ tagSeen s i.k ctx q a pa ≠ vaTag a
    let bad := q.data = true ∧ (q.acc.writes = false ∨ q.acc.atomic = true) ∧ poisonSeen s i.k ctx q a pa = true
    (isHostWindow pa = true → q.hostOk = false → c.found = .bad { cause := causeAccess, sub := subSpace }) ∧
    (isHostWindow pa = true → q.hostOk = true → memGrants s x.polder pa q.right = false → c.found = .bad { cause := causeAccess }) ∧
    (isHostWindow pa = true → q.hostOk = true → memGrants s x.polder pa q.right = true → c.found = .ok .host pa ipa) ∧
    (isHostWindow pa = false → ¬ table → c.found = .bad { cause := causeAccess }) ∧
    (isHostWindow pa = false → table → mis → x.tagmode = 2 → c.found = .bad { cause := causeTag }) ∧
    (isHostWindow pa = false → table → ¬ (mis ∧ x.tagmode = 2) → bad → c.found = .bad { cause := causeEcc }) ∧
    (isHostWindow pa = false → table → ¬ (mis ∧ x.tagmode = 2) → ¬ bad → c.found = .ok .hbm pa ipa ∧ (c.mismatch = true ↔ mis))) ∧
  (∀ ctx walks pages f, isFabricVa a = false → servedBy (coreOf s i.k) ctx q a = none → walks.find? (fun w => w.1 == pageOfVa a) = some (pageOfVa a, f) →
    checkAccess s i.k ctx q walks pages a = (s, { found := .bad f, walked := true })) ∧
  (∀ ctx walks pages t, isFabricVa a = false → servedBy (coreOf s i.k) ctx q a = none → walks.find? (fun w => w.1 == pageOfVa a) = none →
    pages.find? (fun w => w.1 == pageOfVa a) = some (pageOfVa a, t) →
    checkAccess s i.k ctx q walks pages a = (s, judge s i.k ctx q a (t.1 + a.toNat % 4096) (t.2 + a.toNat % 4096) true))

/-! ### Every event completes -/

/-- R68 to R72, R102 to R111, R130, R137, R153, R169, R194, R205, R209, R216, R219, R230. EVERY EVENT COMPLETES: for each event behind the writes of the boot there are conditions on the state and
the operands alone under which it answers a next state with its own effect in it. The other statements give the whole of that state; this one says what each leaves behind, in the order of the table:
registerWrite, polderActivate, polderTeardown, teardownComplete, polderRelease, ctxcfgWrite, cboundWrite, vbndWrite, cclkWrite, clockLowerApply, tatWrite, vctWrite, exportWrite,
fplaneWrite, ctlbiWrite, ptlbiWrite, invalidationComplete, faultQueueConsume, resumeRetry, resumeFail, vacateGo, contextKill, vacateResume, attestGo, attestDone, selfTestFenceRequest,
subarrayFence, launchPortWrite, recordHeadCheck, clusterPlace, teamResume, teamDrainDone, borderMove, vacateStart, softStageEnd, saveBegin, saveComplete, killTimerExpire,
vbtStallTimeout, loadReturn, storePerform, vectorResultWrite, mmaComplete, copyBeat, copyComplete, bankTransitionComplete, fifoOpAccept, fifoTimeout, portTrackerComplete,
fenceComplete, writebackAck, l1Eviction, atomicPerform, stageAccept, slotRequest, closeAccept, measureRequest, measureComplete, commitIssue, commitApply, signalUpdate, epochEnd,
pageMigrate, migrationCopyDone, pieceCollapse, quarantineClear, crossDieWrite, clockNotice, heldWriteApply, settle, tokenRefill, tokenInterval, rateInterval, fabricSend,
switchEgressEnqueue, combinedResponse, rdreq, rdrsp, wrPacket, atomreq, atomrsp, putsPacket, getreq, getrsp, mstage, mclosePacket, skim, refill, refillreq, refillRequestSend, ack, nack,
xlrsp, xlinv, xlreqTimeout, creditReturn, keyswitch, keyhalt, hopKeyInstall, hopAuthFail, linkDown, planeDead, planeRemap, planeRevive, gapExpire, continuationTimeout,
tombstoneExpire, malformedPacket, coordinatorAnswer, flowKeyInstall, controlCoreWrite. -/
def Obligations.EventsComplete : Prop :=
  (∀ (s : State) (w : CtlWrite),
    (∀ c, Granted s w (.ctx c 0xD0) → ∃ t, exec (.registerWrite w) s = .next t ∧ (ctxOf t c).cvgrace = BitVec.ofNat 32 (fieldOf w.data 0 32)) ∧
    (∀ p, Granted s w (.polder p 0) → let x := polderOf s p
      let y : Polder := { x with pcfg := keep w.data 0x1F_FF03 }
      let fits := sumPolders s p y (fun z => if z.state = 1 then z.share else 0) ≤ 256
      (x.state = 0 → y.state = 1 → x.tomb = none → fits → ∃ t, exec (.polderActivate w) s = .next t ∧ (polderOf t p).state = 1) ∧
      (x.state = 1 → y.state = 2 → fits → ∃ t, exec (.polderTeardown w) s = .next t ∧ (polderOf t p).tomb ≠ none) ∧
      (x.state = 3 → y.state = 0 → x.tomb = none → fits → ∃ t, exec (.polderRelease w) s = .next t ∧ (polderOf t p).state = 0)) ∧
    (∀ p : BitVec 6, (polderOf s p.toNat).state = 2 → ∃ t, exec (.teardownComplete p) s = .next t ∧ (polderOf t p.toNat).state = 3) ∧
    (∀ c, Granted s w (.ctx c 0) → let y : Ctx := { ctxOf s c with ctxcfg := keep w.data 0xFF_F07F }
      y.tagmode ≠ 3 → placedTeams s c = 0 → ∃ t, exec (.ctxcfgWrite w) s = .next t ∧ (ctxOf t c).ctxcfg = y.ctxcfg) ∧
    (∀ c, Granted s w (.ctx c 0x10) → ∃ t, exec (.cboundWrite w) s = .next t ∧ (ctxOf t c).cbound = BitVec.ofNat 32 (fieldOf w.data 0 32)) ∧
    (∀ k slot, slot < 64 → Granted s w (.core k (0x800 + 0x20 * slot)) → (slotCtx s k slot).isSome = true → hwConverts s k = false →
      ∃ t, exec (.vbndWrite w) s = .next t ∧ lookD (coreOf t k).vbnd slot 0 = BitVec.ofNat 64 w.data.toNat) ∧
    (∀ k, Granted s w (.core k 0) → let mhz := fieldOf w.data 0 11
      500 ≤ mhz → mhz ≤ 1500 → mhz % 25 = 0 → (coreOf s k).lowering = none → (coreOf s k).mhz.toNat ≤ mhz →
      (∀ e ∈ validSlots s k, (ctxOf s e.2).phase ≠ 1 ∧ (ctxOf s e.2).phase ≠ 2) →
      ∃ t, exec (.cclkWrite w) s = .next t ∧ (coreOf t k).mhz = BitVec.ofNat 11 mhz) ∧
    (∀ kind first, kind < 5 → first < 64 → first % 8 = 0 → w.master = 64 → Granted s w (.device (0x400 + 128 * kind + first)) →
      ∃ t, exec (.tatWrite w) s = .next t ∧ ∀ j, j < 8 → tatByte t kind (first + j) = BitVec.ofNat 8 (byteAt w.data j % 16)) ∧
    (∀ cls, cls < 15 → w.master = 64 → vctEngine cls ≠ 0 → vctReset cls ≤ fieldOf w.data 0 16 → Granted s w (.device (0x200 + 8 * cls)) →
      ∃ t, exec (.vctWrite w) s = .next t ∧ look t.device.vct cls = some (BitVec.ofNat 16 (fieldOf w.data 0 16))) ∧
    (∀ n o, Granted s w (.entry n o) → overlaps s n (entryAfter s n o w.data) = false →
      ∃ t, exec (.exportWrite w) s = .next t ∧ look t.device.expo n = some (entryAfter s n o w.data)) ∧
    (Granted s w (.device 0x100) → (∀ e, e < 4 → deadBit s (fieldOf w.data (2 * e) 2) = false) →
      ∃ t, exec (.fplaneWrite w) s = .next t ∧ ∀ e, e < 4 → mapOf t e = mapOf s e ∧
        (mapOf s e ≠ fieldOf w.data (2 * e) 2 → entryPending t e = true ∧ look t.fabric.newMap e = some (BitVec.ofNat 2 (fieldOf w.data (2 * e) 2)))) ∧
    (∀ c, Granted s w (.ctx c 0xC0) → (ctxOf s c).tlbiBusy = false → fieldOf w.data 61 2 < 2 → ∃ t, exec (.ctlbiWrite w) s = .next t ∧ (ctxOf t c).tlbiBusy = true) ∧
    (∀ p, Granted s w (.polder p 0x070) → (polderOf s p).tlbiBusy = false → fieldOf w.data 61 2 < 2 →
      ∃ t, exec (.ptlbiWrite w) s = .next t ∧ (polderOf t p).tlbiBusy = true) ∧
    (∀ c, Granted s w (.ctx c 0x30) → (ctxOf s c).held = [] → ∃ t, exec (.faultQueueConsume w) s = .next t ∧ (ctxOf t c).cons = BitVec.ofNat 31 (fieldOf w.data 0 31)) ∧
    (∀ c kind, Granted s w (.ctx c 0x38) → let u := w.data &&& ~~~ 1
      s.tokens.find? (fun e => e.1 == u) = some (u, kind, c) →
      (bitAt w.data.toNat 0 = false → ∃ t, exec (.resumeRetry w) s = .next t ∧ t.tokens = s.tokens.filter (fun e => e.1 != u)) ∧
      (bitAt w.data.toNat 0 = true → kind ≠ 1 → ∃ t, exec (.resumeFail w) s = .next t ∧ (ctxOf t c).phase = 4)) ∧
    (∀ c, Granted s w (.ctx c 0xC8) →
      (fieldOf w.data 61 3 = 4 → (ctxOf s c).busy = false → ∃ t, exec (.vacateGo w) s = .next t ∧ (ctxOf t c).hold = true) ∧
      (fieldOf w.data 61 3 = 2 → ∃ t, exec (.contextKill w) s = .next t ∧ (ctxOf t c).phase = 4) ∧
      (fieldOf w.data 61 3 = 1 → (ctxOf s c).phase ≠ 1 → (ctxOf s c).phase ≠ 2 →
        ∃ t, exec (.vacateResume w) s = .next t ∧ (ctxOf t c).hold = false ∧ (ctxOf t c).phase = 0)) ∧
    (∀ d, Granted s w (.baseDie d 0x9A0) → bitAt w.data.toNat 63 = true → (dieOf s d).attBusy = false → 2 ≤ bitsAt (dieOf s d).bstat.toNat 0 4 →
      ∃ t, exec (.attestGo w) s = .next t ∧ (dieOf t d).attBusy = true)) ∧
  (∀ (s : State) (k : BitVec 9) (c10 : BitVec 10), let x := coreOf s k.toNat
    let c := c10.toNat
    (∀ m, x.lowering = some m → (∀ e ∈ validSlots s k.toNat, vest s k.toNat (BitVec.ofNat 10 e.2) ≤ vbnd s k.toNat (BitVec.ofNat 10 e.2)) →
      ∃ t, exec (.clockLowerApply k) s = .next t ∧ (coreOf t k.toNat).mhz = m ∧ (coreOf t k.toNat).lowering = none) ∧
    (c < 64 → (polderOf s c).tlbiBusy = true → coverIdle s (ptlbiCover s c) = true → coverIdle (invalidate s (ptlbiCover s c)) (ptlbiCover s c) = true →
      ∃ t, exec (.invalidationComplete true c10) s = .next t ∧ (polderOf t c).tlbiBusy = false) ∧
    (∀ d : BitVec 2, (dieOf s d.toNat).attBusy = true → ∃ t, exec (.attestDone d) s = .next t ∧ (dieOf t d.toNat).attDone = true) ∧
    (∀ b, x.fenceReq = none → ∃ t, exec (.selfTestFenceRequest k b) s = .next t ∧ (coreOf t k.toNat).fenceReq = some b) ∧
    (∀ b, x.fenceReq = some b → x.vacates = [] → (∀ y ∈ ctxsOn x, vestDoubled s k.toNat y ≤ vbnd s k.toNat y) →
      ∃ t, exec (.subarrayFence k) s = .next t ∧ (coreOf t k.toNat).suba = x.suba ||| BitVec.ofNat 4 (2 ^ b.toNat)) ∧
    (∀ (off : BitVec 20) data, off.toNat % 128 = 0 → s.device.lock = true → let q := queueOf (ctxOf s (off.toNat / 0x400)) (off.toNat % 0x400 / 0x80)
      queueFull q = false → ∃ t, exec (.launchPortWrite off 128 data) s = .next t ∧
        (queueOf (ctxOf t (off.toNat / 0x400)) (off.toNat % 0x400 / 0x80)).records = q.records ++ [(q.next, data, s.nextAccept)]) ∧
    (∀ (q : BitVec 3) seq r acc, headOf s c q.toNat = some (seq, r, acc) → dispatches s c = true → launchOf s c q.toNat seq = none → headStatus s c q.toNat seq r = none →
      ∃ t, exec (.recordHeadCheck c10 q) s = .next t ∧ look t.launches s.nextLaunch = some { ctx := c10, queue := q.toNat, seq := seq, record := r, accepted := acc }) ∧
    (∀ (q : BitVec 3) y r, headCand s c q.toNat = some y → vacatedCands s = [] → canPlace s y r = true → isFirst s y = true →
      exec (.clusterPlace c10 q r) s = .next (placeCluster s y r [])) ∧
    (∀ launch cluster r y e im, (vacatedCands s).find? (fun x => x.rank == 0 && x.launch == launch && x.cluster == cluster) = some y → y.members = [e] →
      imageAt s y e = some im → canPlace s y r = true → isFirst s y = true → let u := translateImage s (candCore y r e) im
      u.2.2 = true → exec (.teamResume launch cluster r) s = .next (placeCluster u.1 y r [(e, u.2.1)])) ∧
    (∀ (n : BitVec 5) tm, teamOf x n.toNat = some tm → tm.st = .draining → stillHanded s tm.uid = false →
      exec (.teamDrainDone k n) s = .next (teamCompleted (endTeam s k.toNat n.toNat tm.uid) tm.launch)) ∧
    (∃ t, exec (.borderMove k) s = .next t ∧ (coreOf t k.toNat).idled = false) ∧
    (∀ v more, x.vacates = (c, v) :: more → v.begun = false →
      ∃ t, exec (.vacateStart k c10) s = .next t ∧ vacateOf (coreOf t k.toNat) c = some { v with begun := true, start := x.ccyc }) ∧
    (∀ v, vacateOf x c = some v →
      (v.begun = true → v.te = none → softStageOver s k.toNat c v = true →
        ∃ t y, exec (.softStageEnd k c10) s = .next t ∧ vacateOf (coreOf t k.toNat) c = some y ∧ y.te = some x.ccyc) ∧
      (∀ te, v.te = some te → te.toNat + (ctxOf s c).q.toNat ≤ x.ccyc.toNat →
        ∃ t, exec (.saveBegin k c10) s = .next t ∧ vacateOf (coreOf t k.toNat) c = some { v with saving := true }) ∧
      (∀ te, v.te = some te → v.saving = true → ctxTeams x c10 = [] → wbsLeft (coreOf (writeBackCtx s k.toNat c10) k.toNat) c10 = false →
        exec (.saveComplete k c10) s = .next (endStage (writeBackCtx s k.toNat c10) k.toNat c v)) ∧
      (∀ te, v.te = some te → te.toNat + vbnd s k.toNat c10 + v.margin ≤ x.ccyc.toNat →
        ∃ t, exec (.killTimerExpire k c10) s = .next t ∧ (ctxOf t c).phase = 4)) ∧
    (∀ (slot : BitVec 5) (lanes : Mask) e g n f t y a i, entryNow s k.toNat slot.toNat lanes = some e → e.stall = some y → e.limit ≤ (x.ccyc - y).toNat →
      groupAt x slot.toNat = some g → fetchInstr s k.toNat slot.toNat g.ctx e.pc = (t, .inl (f, n)) → issuer (pointAt t k.toNat slot.toNat lanes n) = some i →
      e.asked = some a → let p := a.plan e.refusedLanes
      p.admitted t i (vbnd t k.toNat g.ctx) = false →
      exec (.vbtStallTimeout k slot lanes) s = .next (trapAtIssue (countVbt (pointAt t k.toNat slot.toNat lanes n) i.ctx e.refusedLanes) i
        { cause := causeVbt, addr := BitVec.ofNat 64 (p.vestAfter t i), lanes := e.refusedLanes }))) ∧
  (∀ (s : State) (k : BitVec 9) (n : Nat) (o : Op), let kk := k.toNat
    let c := coreOf s kk
    let gone (t : State) : Prop := opOf t kk n = none
    opOf s kk n = some o →
    (∀ path accs w, o.kind = .load path accs w → opLeaves c o.uid = false → mustFollow c n o = false → loadAllowed s kk o path accs = true →
      loadNeedsPort s kk o path accs = false ∨ portOpen s kk o.ctx (.op n) = true →
      loadAllowed (accs.foldl (fun s a => loadFirst s kk o path a) s) kk o path accs = true → ∃ t, exec (.loadReturn k n) s = .next t ∧ gone t) ∧
    (∀ path accs x, o.kind = .store path accs none x → mustFollow c n o = false → (∀ a ∈ accs, a.space = .scratch) →
      ∃ t, exec (.storePerform k n) s = .next t ∧ gone t) ∧
    (∀ ws uni, o.kind = .vec ws uni → ∃ t, exec (.vectorResultWrite k n) s = .next t ∧ gone t) ∧
    (∀ wide z fmt d av bv cv x bad ty, o.kind = .mma wide z fmt d av bv cv x bad → behindMatrix c n o d = false → formatType fmt = some ty →
      ∃ t, exec (.mmaComplete k n) s = .next t ∧ gone t) ∧
    (∀ ch dst sa da len done a a' ia ia', o.kind = .copy ch true dst sa da len done none → dst = 1 → canBeat s kk n = true →
      let b := beatLen true 1 sa da len done
      let src := sa + BitVec.ofNat 64 done
      let dest := da + BitVec.ofNat 64 done
      let y := coreOf (portLeave s kk (.op n)) kk
      scratchSide y o src b true = .at_ a ia → scratchSide y o dest b false = .at_ a' ia' →
      sideFollows y n o true false src a b = false → sideFollows y n o true true dest a' b = false →
      ∃ t p, exec (.copyBeat k n) s = .next t ∧ opOf t kk n = some p ∧ p.kind = .copy ch true dst sa da len (done + b) none) ∧
    (∀ ch fs dst sa da len p, o.kind = .copy ch fs dst sa da len len p → ∃ t, exec (.copyComplete k n) s = .next t ∧ gone t) ∧
    (∀ b tgt, o.kind = .bank b tgt → canSwitch s kk n = true → ∃ t, exec (.bankTransitionComplete k n) s = .next t ∧ gone t) ∧
    (∀ slot b xs, o.kind = .push slot xs → fifoSlot o = some slot → fifoBank c o slot = some b → canAccept s kk n = true → (bankOf c b).mode = .fifo →
      ∃ t, exec (.fifoOpAccept k n) s = .next t ∧ gone t) ∧
    (∀ slot xs, o.kind = .push slot xs → opLeaves c o.uid = false → 2 ^ 20 ≤ (c.ccyc - o.start).toNat → exec (.fifoTimeout k n) s = .next (fifoTrap s kk n o causeFifo 1)) ∧
    (∀ accs, o.kind = .remoteWrite 0 accs → ∃ t, exec (.portTrackerComplete k n) s = .next t ∧ gone t) ∧
    (∀ w wbs ops tok, o.kind = .fence w wbs ops true tok .nothing → (∀ b ∈ wbs, wbDone c n b = true) → homesDone s kk o.ctx w = true →
      ∃ t, exec (.fenceComplete k n) s = .next t ∧ gone t) ∧
    (∀ x y z accs, o.kind = .atomic x y accs → mustFollow c n o = false → accs = [z] → z.reg = 0 → lineFree s (dieOfCore kk) z.pa = true → portOpen s kk o.ctx (.op n) = true →
      let t := atomicLocation (portLeave s kk (.op n)) kk n o x y [z]
      exec (.atomicPerform k n) s = .next (noteArgs t (wroteSpans s t kk n))) ∧
    (∀ set gen id es r m, o.kind = .stage set gen id es r → o.tagmode = 0 → nextLine es ≠ [] → mustFollow c n o = false → portOpen s kk o.ctx (.op n) = true →
      let now := nextLine es
      let u := now.foldl (fun s e => homeFirst s kk o.ctx (.phys (lineOf e.2.2.1)) e.2.1) (portLeave s kk (.op n))
      let y := claimSlot m id.toNat (some o.ctx.toNat)
      stageRule u (setIdKey set) gen (some o.polder.toNat) id.toNat (now.map (·.2.2.1)) = none → openSet u (setIdKey set) gen = some m →
      stageBehind u kk n o m id.toNat now = false → holds y id.toNat = true →
      ∃ t, exec (.stageAccept k n) s = .next t ∧ look t.sets (setIdKey set) = some (acceptStage y id.toNat (now.map (fun e => (e.2.2.1, e.2.2.2))))) ∧
    (∀ set gen id m, o.kind = .close set gen id → (∀ e ∈ c.ops, e.1 < n → ∀ a b d x y, e.2.kind ≠ .stage a b d x y) →
      closeRule s (setIdKey set) gen (some o.polder.toNat) id.toNat = none → openSet s (setIdKey set) gen = some m →
      ∃ t y, exec (.closeAccept k n) s = .next t ∧ look t.sets (setIdKey set) = some y ∧ (contribOf y id.toNat).st = .closed) ∧
    (∀ set gen, o.kind = .mstat set gen 0xFFFF → ∃ t, exec (.coordinatorAnswer k n) s = .next t ∧ gone t)) ∧
  (∀ (s : State) (k : BitVec 9) (n : Nat), let c := coreOf s k.toNat
    (∀ w l, look c.wbs n = some w → w.sent = false → w.refused = false → wbGranted s w = true → (unsentOf c w).head?.map (·.1) = some n → w.home = .phys l →
      lineFree s (dieOfCore k.toNat) (l * 256 + 64 * sectorIx w.va) = true → portOpen s k.toNat w.ctx (.wb n) = true →
      exec (.writebackAck k n) s = .next (checkLaunches (onCore (performWriteBack s k.toNat w (l * 256 + 64 * sectorIx w.va)) k.toNat
        (fun c => { c with wbs := del c.wbs n })) w.ctx)) ∧
    (∀ (way : BitVec 6) (line : BitVec 7), ∃ t, exec (.l1Eviction k way line) s = .next t ∧ look (coreOf t k.toNat).l1 (way.toNat * 128 + line.toNat) = none) ∧
    (c.refillAt.toNat + 1024 ≤ c.ccyc.toNat → ∃ t, exec (.tokenRefill k) s = .next t ∧ (coreOf t k.toNat).refillAt = c.refillAt + 1024) ∧
    (∀ (e : BitVec 10) o getf accs, let x := lookD c.conts e.toNat {}
      x.used = true → x.sent.toNat + x.limit ≤ c.ccyc.toNat → opOf s k.toNat x.op = some o → o.kind = .remoteRead getf accs →
        ∃ t, exec (.continuationTimeout k e) s = .next t ∧ (lookD (coreOf t k.toNat).conts e.toNat {}).used = false)) ∧
  (∀ (s : State) (set : SetId) (m : MergeSet), let key := setIdKey set
    look s.sets key = some m →
    (∀ (slice : BitVec 8) (id : BitVec 16) ctx, stageWaits s set slice.toNat id.toNat = some ctx →
      ∃ t, exec (.slotRequest set slice id) s = .next t ∧ look t.sets key = some (claimSlot m id.toNat (some ctx))) ∧
    (m.st = .opened →
      (∀ (slice : BitVec 8) (id : BitVec 16), (contribOf m id.toNat).st = .closed → slice.toNat ∈ (contribOf m id.toNat).asked →
        ∃ t y, exec (.measureRequest set slice id) s = .next t ∧ look t.sets key = some y ∧ slice.toNat ∉ (contribOf y id.toNat).asked) ∧
      (∀ id : BitVec 16, (contribOf m id.toNat).st = .closed → (contribOf m id.toNat).asked = [] → notFinite fmtF64 (sigmaOf m (contribOf m id.toNat)) = false →
        ∃ t y, exec (.measureComplete set id) s = .next t ∧ look t.sets key = some y ∧ (contribOf y id.toNat).st = .measured) ∧
      (∀ id, nextTurn m = some id → (contribOf m id).marked = false →
        ∃ t y, exec (.commitIssue set) s = .next t ∧ look t.sets key = some y ∧ (contribOf y id).st = .committed ∧ y.commits = m.commits ++ [(id, (contribOf m id).scale)]) ∧
      (∀ (slice : BitVec 8) id scale, slice.toNat ∈ slicesOf m → m.commits[lookD m.applied slice.toNat 0]? = some (id, scale) →
        ∃ t y, exec (.commitApply set slice) s = .next t ∧ look t.sets key = some y ∧ lookD y.applied slice.toNat 0 = lookD m.applied slice.toNat 0 + 1) ∧
      (∀ id rest, signalFree s key m = true → m.signals = (id, true) :: rest → appliedAll m ((contribOf m id).seq.getD 0) = true →
        ∃ t y, exec (.signalUpdate set) s = .next t ∧ look t.sets key = some y ∧ y.signals = rest))) ∧
  (∀ (s : State) (d : BitVec 2) (p : BitVec 6) (page : BitVec 36), let ipa := page.toNat * 65536
    let pd := p.toNat
    let awake (t : State) : Prop := ∀ x ∈ t.cores, ∀ g ∈ x.2.groups, ∀ e ∈ g.2.entries, e.hold.pages.contains ipa = false
    (epochOver s d.toNat = true → ∃ t, exec (.epochEnd d) s = .next t ∧ ∀ e ∈ (dieOf t d.toNat).heat, e.2.written = false) ∧
    (∀ e rep frames l, leafOf s pd ipa = some l → look s.migrating (pageKey pd page.toNat) = some (e, rep, []) → framesFit s e rep frames = true →
      l.lvl = 4 → peRdup l.e = false → peMig l.e = false → peC16 l.e = true → pinned s pd ipa = false → homeDie l.out = d.toNat →
      coverIdle s (polderCover s pd ipa 65536 false) = true →
      ∃ t, exec (.pageMigrate d e p page rep frames) s = .next t ∧ look t.migrating (pageKey pd page.toNat) = some (e, rep, frames)) ∧
    (∀ t f more l, look s.migrating (pageKey pd page.toNat) = some (t, false, f :: more) → leafOf s pd ipa = some l → pageQuiet s (l.out / 65536 * 65536) = true →
      coverIdle s (polderCover s pd ipa 65536 false) = true → ∃ u, exec (.migrationCopyDone p page) s = .next u ∧ look u.migrating (pageKey pd page.toNat) = none ∧ awake u) ∧
    (∀ l, leafOf s pd ipa = some l → pageWaits s pd ipa = true → peMig l.e = false → peRdup l.e = true → l.lvl = 4 →
      coverIdle s (polderCover s pd ipa 65536 false) = true → pieceCollapsed s (replicaPa l.e) ipa = false →
      ∃ t, exec (.pieceCollapse d p page) s = .next t ∧ awake t) ∧
    (∀ f : BitVec 40, look s.quar f.toNat = some false ∨ (look s.quar f.toNat = some true ∧ isZeroFrame s f.toNat = true) → ∃ t, exec (.quarantineClear f) s = .next t ∧ look t.quar f.toNat = none) ∧
    ((dieOf s d.toNat).flowAt.toNat + 1024 ≤ (dieOf s d.toNat).cyc.toNat → ∃ t, exec (.tokenInterval d) s = .next t ∧ (dieOf t d.toNat).flowAt = (dieOf s d.toNat).flowAt + 1024) ∧
    ((polderOf s pd).tomb = some 0 → ∃ t, exec (.tombstoneExpire p) s = .next t ∧ (polderOf t pd).tomb = none) ∧
    (∀ key, ∃ t, exec (.flowKeyInstall (polderOf s pd).hostKeyrot p key) s = .next t ∧ (polderOf t pd).flowKey = some key) ∧
    (∀ (pa : BitVec 42) (b : Byte), isHbm pa.toNat = true → ∃ t, exec (.controlCoreWrite pa [b]) s = .next t ∧ homeRead t pa.toNat 1 = b.toNat)) ∧
  (∀ (s : State) (src dst : BitVec 2) (m : LinkMsg) (rest : List LinkMsg), let x := dieOf s dst.toNat
    let t := setDie s dst.toNat { x with link := putD x.link src.toNat [] rest }
    linkTest s dst.toNat m = true →
    (lookD x.link src.toNat [] = m :: rest →
      (∀ w v pa mask data tag upd bad org, m = .write w v pa mask data tag upd bad org → exec (.crossDieWrite src dst) s = .next (applyLink t dst.toNat m)) ∧
      (∀ w v pa k n accs org, m = .atomic w v pa k n accs org → exec (.crossDieWrite src dst) s = .next (applyLink t dst.toNat m)) ∧
      (∀ w v, m = .notice w v → ∃ u, exec (.clockNotice src dst) s = .next u ∧ clk (dieOf u dst.toNat).vc w.toNat = (if w.toNat < x.vc.length then clk v w.toNat else clk x.vc w.toNat)) ∧
      (∀ h v l y c, m = .settle h v l y c → exec (.settle src dst) s = .next (applyLink t dst.toNat m))) ∧
    (lookD x.held src.toNat [] = m :: rest →
      exec (.heldWriteApply src dst) s = .next (applyLink (setDie s dst.toNat { x with held := putD x.held src.toNat [] rest }) dst.toNat m))) ∧
  (∀ (s : State) (port : BitVec 4) (p : Packet), let n := port.toNat
    let x := portOf s n
    (rateDue s n = true → ∃ t, exec (.rateInterval port) s = .next t ∧ (portOf t n).rateAt = x.rateAt + 1024) ∧
    (nextToSend (askTokens s n) n = some (.transit p) → ∃ t, exec (.fabricSend port) s = .next t ∧ (portOf t n).counter = x.counter + 1) ∧
    ((∀ q ∈ x.queue, combines q p = false) → trims s x p = false → marks s x p = false → p.cls.toNat < 2 →
      ∃ t, exec (.switchEgressEnqueue port p) s = .next t ∧ (portOf t n).queue = x.queue ++ [p]) ∧
    (∀ i r m, s.fabric.combines.find? (fun e => e.2.dst == p.src && e.2.members.head?.any (fun m =>
        m.src == p.dst && m.cont == p.cont && m.gen == p.gen && m.rcore == p.rcore && m.off == p.off)) = some (i, r) → p.kind ≠ kNack → r.members = [m] →
      exec (.combinedResponse p) s = .next ((memberResponses (bitsAt (p.payload.headD 0).toNat 0 64) p [m]).foldl (fun s e => forward s e.2)
        (onFabric s (fun f => { f with combines := del f.combines i })))) ∧
    (∀ (cls : BitVec 2) flits, ∃ t, exec (.creditReturn port cls flits) s = .next t ∧ lookD (portOf t n).used cls.toNat 0 = lookD x.used cls.toNat 0 - flits) ∧
    (x.nextKey = true → ∃ t, exec (.keyswitch port) s = .next t ∧ (portOf t n).counter = 0 ∧ (portOf t n).control = 0 ∧ (portOf t n).keyNo = x.keyNo + 1) ∧
    (∃ t, exec (.keyhalt port) s = .next t ∧ (portOf t n).halt = true) ∧
    (x.halt = false → ∃ t, exec (.hopKeyInstall port) s = .next t ∧ (portOf t n).nextKey = true) ∧
    (∃ t, exec (.hopAuthFail port) s = .next t ∧ (portOf t n).counter = x.counter + 1) ∧
    (∃ t, exec (.linkDown port) s = .next t ∧ (portOf t n).down = true) ∧
    (∀ plane : BitVec 2, (planePorts plane.toNat).any (portFails s) = true → deadBit s plane.toNat = false →
      ∃ t, exec (.planeDead plane) s = .next t ∧ deadBit t plane.toNat = true) ∧
    (∀ plane : BitVec 2, deadBit s plane.toNat = true → (∀ q ∈ planePorts plane.toNat, (portOf s q).halt = false) →
      ∃ t, exec (.planeRevive plane) s = .next t ∧ deadBit t plane.toNat = false) ∧
    (∀ (e : BitVec 2) q, entryPending s e.toNat = true → planeDrained s (mapOf s e.toNat) = true → look s.fabric.newMap e.toNat = some q → deadBit s q.toNat = false →
      ∃ t, exec (.planeRemap e) s = .next t ∧ mapOf t e.toNat = q.toNat ∧ entryPending t e.toNat = false) ∧
    (∀ (i : BitVec 9) g, look s.fabric.gaps i.toNat = some g → g.limit ≤ g.age → g.filled = false →
      exec (.gapExpire i) s = .next (pumpFabric (bumpCounter (nackGap s i.toNat g stGapto) 4 1))) ∧
    (badFrame s p = true → exec (.malformedPacket p) s = .next (bumpCounter s 6 1)) ∧
    (∀ src i g, let f := s.fabric
      look f.paced src.toNat = none → refillsOut s < fieldOf f.ftrim 24 6 → nextGap s src = some (i, g) →
      let asked : Fabric := { f with paced := put f.paced src.toNat (0, ftrimField s 16), gaps := put f.gaps i { g with requested := true } }
      exec (.refillRequestSend src) s = .next (submitAt { s with fabric := asked } g.die.toNat g.plane.toNat (refillRequest g) 0 0)) ∧
    (∀ (req : BitVec 32) i y, s.xlreqs.find? (fun e => e.1 % 2 ^ 32 == req.toNat) = some (i, y) → y.answer = none → y.sent.toNat + y.limit ≤ (coreOf s y.core).ccyc.toNat →
      ∃ t, exec (.xlreqTimeout req) s = .next t ∧ look t.xlreqs i = some { y with timedOut := true })) ∧
  (∀ (s : State) (p q : Packet) (r : Retained), let u := noteMark (receive s q) q
    (∀ kind, Arrives s p kind q →
      ((∃ t, Serves s q t) → q.cls = 1 → ∃ t, Serves s q t ∧
        (kind = kRdreq → exec (.rdreq p) s = .next t) ∧ (kind = kGetreq → exec (.getreq p) s = .next t) ∧ (kind = kMclose → exec (.mclosePacket p) s = .next t)) ∧
      (let v := receive (unblock s q) q;
        q.cls = 2 → (∃ t, Serves v q t ∧ t.fabric.gaps = []) → p.trim = false → p.refill = false → blocked (rxOf s q) q = false → wasReceived (rxOf s q) q.stag = false →
        ∃ t, Serves v q t ∧ (kind = kWr → exec (.wrPacket p) s = .next t) ∧ (kind = kPuts → exec (.putsPacket p) s = .next t) ∧
          (kind = kAtomreq → exec (.atomreq p) s = .next t) ∧ (kind = kMstage → exec (.mstage p) s = .next t)) ∧
      (q.cls = 3 → (kind = kRdrsp → exec (.rdrsp p) s = .next (respondTo u q)) ∧ (kind = kGetrsp → exec (.getrsp p) s = .next (respondTo u q)) ∧
        (kind = kAtomrsp → exec (.atomrsp p) s = .next (respondTo u q))) ∧
      (p.trim = true → kind = kWr ∨ kind = kAtomreq ∨ kind = kPuts ∨ kind = kMstage → exec (.skim p) s = .next (recordSkim s q)) ∧
      (∀ i g x, p.refill = true → p.trim = false → kind = p.kind → (∃ a b, kindRule q.kind = some (2, a, b)) →
        s.fabric.gaps.find? (fun e => e.2.src == q.src && e.2.plane == q.plane && e.2.stag == q.stag && e.2.kind == q.kind && !e.2.filled) = some (i, g) → g.age < g.limit →
        exportMatch s q.src q.off.toNat = some x → tagBefore q.stag (rxOf s q).next = true → exec (.refill p) s = .next (applyRefill s i g q (some x))) ∧
      (q.cls = 0 → retainedFor s q = some r →
        (kind = kAck → q.ck = false → q.status = stApplied → exec (.ack p) s = .next (performedAt (noteMark s q) r false)) ∧
        (kind = kNack → q.ck = false → exec (.nack p) s = .next (failPacket (noteMark s q) r q.status)) ∧
        (kind = kRefillreq → exec (.refillreq p) s = .next (onPort s (retainedPort r) (fun x => { x with
          waiting := x.waiting ++ [({ r.pkt with refill := true, notrim := true }, r.core, r.op)] })))) ∧
      (∀ n x, kind = kXlrsp → q.cls = 1 → s.xlreqs.find? (fun e => e.1 % 2 ^ 32 == xlField q 4 4) = some (n, x) → xlField q 0 1 = 2 → x.answer = none → x.timedOut = false →
        ∃ t y, exec (.xlrsp p) s = .next t ∧ look t.xlreqs n = some y ∧ y.answer.isSome = true) ∧
      (kind = kXlinv → q.cls = 1 → xlinvCtxs s q ≠ [] → (∀ c ∈ xlinvCtxs s q, (ctxOf s c).xlinv = none) →
        ∃ t, exec (.xlinv p) s = .next t ∧ ∀ c ∈ xlinvCtxs s q, (ctxOf t c).xlinv.isSome = true)))
end

