-- ==== Sys2Proof/Laws/Map.lean ====
section
/-! SUPPORT. Reading the association lists after they are written. -/

namespace Sys2Proof.Machine

theorem look_put_self {α : Type} (m : AMap α) (k : Nat) (x : α) : look (put m k x) k = some x := by
  induction m with
  | nil => simp [put, look]
  | cons e r ih =>
    obtain ⟨j, y⟩ := e
    unfold put
    split
    · simp [look]
    · split
      · simp [look]
      · have h : j ≠ k := fun h => ‹¬k = j› h.symm
        simp [look, h, ih]

theorem look_put_ne {α : Type} (m : AMap α) {j k : Nat} (x : α) (h : j ≠ k) : look (put m k x) j = look m j := by
  induction m with
  | nil => simp [put, look, Ne.symm h]
  | cons e r ih =>
    obtain ⟨i, y⟩ := e
    unfold put
    split
    · simp [look, Ne.symm h]
    · split
      · rename_i hk; subst hk; simp [look, Ne.symm h]
      · simp [look, ih]

theorem look_put {α : Type} (m : AMap α) (j k : Nat) (x : α) : look (put m k x) j = if j = k then some x else look m j := by
  by_cases h : j = k
  · subst h; simp [look_put_self]
  · simp [look_put_ne m x h, h]

theorem look_del_self {α : Type} (m : AMap α) (k : Nat) : look (del m k) k = none := by
  induction m with
  | nil => simp [del, look]
  | cons e r ih =>
    obtain ⟨i, y⟩ := e
    by_cases h : i = k
    · subst h; simpa [del] using ih
    · simp only [del, List.filter_cons] at ih ⊢
      simp [h, look, ih]

theorem look_del_ne {α : Type} (m : AMap α) {j k : Nat} (h : j ≠ k) : look (del m k) j = look m j := by
  induction m with
  | nil => simp [del, look]
  | cons e r ih =>
    obtain ⟨i, y⟩ := e
    simp only [del, List.filter_cons] at ih ⊢
    by_cases hi : i = k
    · subst hi; simp [look, Ne.symm h, ih]
    · simp [hi, look, ih]

theorem lookD_put_self {α : Type} (m : AMap α) (k : Nat) (x d : α) : lookD (put m k x) k d = x := by
  simp [lookD, look_put_self]

theorem lookD_put_ne {α : Type} (m : AMap α) {j k : Nat} (x d : α) (h : j ≠ k) : lookD (put m k x) j d = lookD m j d := by
  simp [lookD, look_put_ne m x h]

theorem lookD_putD_self {α : Type} [DecidableEq α] (m : AMap α) (k : Nat) (d x : α) : lookD (putD m k d x) k d = x := by
  unfold putD
  split
  · rename_i h; simp [lookD, look_del_self, h]
  · simp [lookD_put_self]

theorem lookD_putD_ne {α : Type} [DecidableEq α] (m : AMap α) {j k : Nat} (d x : α) (h : j ≠ k) :
    lookD (putD m k d x) j d = lookD m j d := by
  unfold putD
  split
  · simp [lookD, look_del_ne m h]
  · simp [lookD_put_ne m x d h]

theorem look_alter {α : Type} (m : AMap α) (j k : Nat) (f : α → α) :
    look (alter m k f) j = if j = k then (look m j).map f else look m j := by
  induction m with
  | nil => simp [alter, look]
  | cons e r ih =>
    obtain ⟨i, y⟩ := e
    simp only [alter, List.map_cons] at ih ⊢
    by_cases hi : i = k
    · subst hi
      by_cases hj : i = j
      · subst hj; simp [look]
      · simp [look, hj, ih, Ne.symm hj]
    · by_cases hj : i = j
      · subst hj; simp [look, hi]
      · simp [look, hi, hj, ih]

end Sys2Proof.Machine
end

