-- ==== Sys2Proof/Laws/State.lean ====
section
/-! SUPPORT. What each update of a part of the state leaves of the state, field by field, and what it makes of its part. -/

namespace Sys2Proof.Machine

/-! ### setCore -/

@[simp] theorem setCore_mem (s : State) (k : Nat) (c : CoreState) : (setCore s k c).mem = s.mem := rfl
@[simp] theorem setCore_tags (s : State) (k : Nat) (c : CoreState) : (setCore s k c).tags = s.tags := rfl
@[simp] theorem setCore_poison (s : State) (k : Nat) (c : CoreState) : (setCore s k c).poison = s.poison := rfl
@[simp] theorem setCore_quar (s : State) (k : Nat) (c : CoreState) : (setCore s k c).quar = s.quar := rfl
@[simp] theorem setCore_dies (s : State) (k : Nat) (c : CoreState) : (setCore s k c).dies = s.dies := rfl
@[simp] theorem setCore_shares (s : State) (k : Nat) (c : CoreState) : (setCore s k c).shares = s.shares := rfl
@[simp] theorem setCore_tlb (s : State) (k : Nat) (c : CoreState) : (setCore s k c).tlb = s.tlb := rfl
@[simp] theorem setCore_xlreqs (s : State) (k : Nat) (c : CoreState) : (setCore s k c).xlreqs = s.xlreqs := rfl
@[simp] theorem setCore_nextReq (s : State) (k : Nat) (c : CoreState) : (setCore s k c).nextReq = s.nextReq := rfl
@[simp] theorem setCore_device (s : State) (k : Nat) (c : CoreState) : (setCore s k c).device = s.device := rfl
@[simp] theorem setCore_polders (s : State) (k : Nat) (c : CoreState) : (setCore s k c).polders = s.polders := rfl
@[simp] theorem setCore_ctxs (s : State) (k : Nat) (c : CoreState) : (setCore s k c).ctxs = s.ctxs := rfl
@[simp] theorem setCore_launches (s : State) (k : Nat) (c : CoreState) : (setCore s k c).launches = s.launches := rfl
@[simp] theorem setCore_nextLaunch (s : State) (k : Nat) (c : CoreState) : (setCore s k c).nextLaunch = s.nextLaunch := rfl
@[simp] theorem setCore_nextUid (s : State) (k : Nat) (c : CoreState) : (setCore s k c).nextUid = s.nextUid := rfl
@[simp] theorem setCore_nextAccept (s : State) (k : Nat) (c : CoreState) : (setCore s k c).nextAccept = s.nextAccept := rfl
@[simp] theorem setCore_nextSave (s : State) (k : Nat) (c : CoreState) : (setCore s k c).nextSave = s.nextSave := rfl
@[simp] theorem setCore_nextEnd (s : State) (k : Nat) (c : CoreState) : (setCore s k c).nextEnd = s.nextEnd := rfl
@[simp] theorem setCore_saved (s : State) (k : Nat) (c : CoreState) : (setCore s k c).saved = s.saved := rfl
@[simp] theorem setCore_sets (s : State) (k : Nat) (c : CoreState) : (setCore s k c).sets = s.sets := rfl
@[simp] theorem setCore_fabric (s : State) (k : Nat) (c : CoreState) : (setCore s k c).fabric = s.fabric := rfl
@[simp] theorem setCore_migrating (s : State) (k : Nat) (c : CoreState) : (setCore s k c).migrating = s.migrating := rfl
@[simp] theorem setCore_nextToken (s : State) (k : Nat) (c : CoreState) : (setCore s k c).nextToken = s.nextToken := rfl
@[simp] theorem setCore_tokens (s : State) (k : Nat) (c : CoreState) : (setCore s k c).tokens = s.tokens := rfl
@[simp] theorem setCore_rails (s : State) (k : Nat) (c : CoreState) : (setCore s k c).rails = s.rails := rfl
@[simp] theorem setCore_resetAsserted (s : State) (k : Nat) (c : CoreState) : (setCore s k c).resetAsserted = s.resetAsserted := rfl
@[simp] theorem setCore_throttle (s : State) (k : Nat) (c : CoreState) : (setCore s k c).throttle = s.throttle := rfl
@[simp] theorem setCore_agenda (s : State) (k : Nat) (c : CoreState) : (setCore s k c).agenda = s.agenda := rfl
@[simp] theorem setCore_cur (s : State) (k : Nat) (c : CoreState) : (setCore s k c).cur = s.cur := rfl
@[simp] theorem setCore_issued (s : State) (k : Nat) (c : CoreState) : (setCore s k c).issued = s.issued := rfl
@[simp] theorem setCore_fresh (s : State) (k : Nat) (c : CoreState) : (setCore s k c).fresh = s.fresh := rfl
@[simp] theorem setCore_turn (s : State) (k : Nat) (c : CoreState) : (setCore s k c).turn = s.turn := rfl

/-! ### onCore -/

@[simp] theorem onCore_mem (s : State) (k : Nat) (f : CoreState → CoreState) : (onCore s k f).mem = s.mem := rfl
@[simp] theorem onCore_tags (s : State) (k : Nat) (f : CoreState → CoreState) : (onCore s k f).tags = s.tags := rfl
@[simp] theorem onCore_poison (s : State) (k : Nat) (f : CoreState → CoreState) : (onCore s k f).poison = s.poison := rfl
@[simp] theorem onCore_quar (s : State) (k : Nat) (f : CoreState → CoreState) : (onCore s k f).quar = s.quar := rfl
@[simp] theorem onCore_dies (s : State) (k : Nat) (f : CoreState → CoreState) : (onCore s k f).dies = s.dies := rfl
@[simp] theorem onCore_shares (s : State) (k : Nat) (f : CoreState → CoreState) : (onCore s k f).shares = s.shares := rfl
@[simp] theorem onCore_tlb (s : State) (k : Nat) (f : CoreState → CoreState) : (onCore s k f).tlb = s.tlb := rfl
@[simp] theorem onCore_xlreqs (s : State) (k : Nat) (f : CoreState → CoreState) : (onCore s k f).xlreqs = s.xlreqs := rfl
@[simp] theorem onCore_nextReq (s : State) (k : Nat) (f : CoreState → CoreState) : (onCore s k f).nextReq = s.nextReq := rfl
@[simp] theorem onCore_device (s : State) (k : Nat) (f : CoreState → CoreState) : (onCore s k f).device = s.device := rfl
@[simp] theorem onCore_polders (s : State) (k : Nat) (f : CoreState → CoreState) : (onCore s k f).polders = s.polders := rfl
@[simp] theorem onCore_ctxs (s : State) (k : Nat) (f : CoreState → CoreState) : (onCore s k f).ctxs = s.ctxs := rfl
@[simp] theorem onCore_launches (s : State) (k : Nat) (f : CoreState → CoreState) : (onCore s k f).launches = s.launches := rfl
@[simp] theorem onCore_nextLaunch (s : State) (k : Nat) (f : CoreState → CoreState) : (onCore s k f).nextLaunch = s.nextLaunch := rfl
@[simp] theorem onCore_nextUid (s : State) (k : Nat) (f : CoreState → CoreState) : (onCore s k f).nextUid = s.nextUid := rfl
@[simp] theorem onCore_nextAccept (s : State) (k : Nat) (f : CoreState → CoreState) : (onCore s k f).nextAccept = s.nextAccept := rfl
@[simp] theorem onCore_nextSave (s : State) (k : Nat) (f : CoreState → CoreState) : (onCore s k f).nextSave = s.nextSave := rfl
@[simp] theorem onCore_nextEnd (s : State) (k : Nat) (f : CoreState → CoreState) : (onCore s k f).nextEnd = s.nextEnd := rfl
@[simp] theorem onCore_saved (s : State) (k : Nat) (f : CoreState → CoreState) : (onCore s k f).saved = s.saved := rfl
@[simp] theorem onCore_sets (s : State) (k : Nat) (f : CoreState → CoreState) : (onCore s k f).sets = s.sets := rfl
@[simp] theorem onCore_fabric (s : State) (k : Nat) (f : CoreState → CoreState) : (onCore s k f).fabric = s.fabric := rfl
@[simp] theorem onCore_migrating (s : State) (k : Nat) (f : CoreState → CoreState) : (onCore s k f).migrating = s.migrating := rfl
@[simp] theorem onCore_nextToken (s : State) (k : Nat) (f : CoreState → CoreState) : (onCore s k f).nextToken = s.nextToken := rfl
@[simp] theorem onCore_tokens (s : State) (k : Nat) (f : CoreState → CoreState) : (onCore s k f).tokens = s.tokens := rfl
@[simp] theorem onCore_rails (s : State) (k : Nat) (f : CoreState → CoreState) : (onCore s k f).rails = s.rails := rfl
@[simp] theorem onCore_resetAsserted (s : State) (k : Nat) (f : CoreState → CoreState) : (onCore s k f).resetAsserted = s.resetAsserted := rfl
@[simp] theorem onCore_throttle (s : State) (k : Nat) (f : CoreState → CoreState) : (onCore s k f).throttle = s.throttle := rfl
@[simp] theorem onCore_agenda (s : State) (k : Nat) (f : CoreState → CoreState) : (onCore s k f).agenda = s.agenda := rfl
@[simp] theorem onCore_cur (s : State) (k : Nat) (f : CoreState → CoreState) : (onCore s k f).cur = s.cur := rfl
@[simp] theorem onCore_issued (s : State) (k : Nat) (f : CoreState → CoreState) : (onCore s k f).issued = s.issued := rfl
@[simp] theorem onCore_fresh (s : State) (k : Nat) (f : CoreState → CoreState) : (onCore s k f).fresh = s.fresh := rfl
@[simp] theorem onCore_turn (s : State) (k : Nat) (f : CoreState → CoreState) : (onCore s k f).turn = s.turn := rfl

/-! ### setDie -/

@[simp] theorem setDie_mem (s : State) (d : Nat) (x : Die) : (setDie s d x).mem = s.mem := rfl
@[simp] theorem setDie_tags (s : State) (d : Nat) (x : Die) : (setDie s d x).tags = s.tags := rfl
@[simp] theorem setDie_poison (s : State) (d : Nat) (x : Die) : (setDie s d x).poison = s.poison := rfl
@[simp] theorem setDie_quar (s : State) (d : Nat) (x : Die) : (setDie s d x).quar = s.quar := rfl
@[simp] theorem setDie_shares (s : State) (d : Nat) (x : Die) : (setDie s d x).shares = s.shares := rfl
@[simp] theorem setDie_tlb (s : State) (d : Nat) (x : Die) : (setDie s d x).tlb = s.tlb := rfl
@[simp] theorem setDie_xlreqs (s : State) (d : Nat) (x : Die) : (setDie s d x).xlreqs = s.xlreqs := rfl
@[simp] theorem setDie_nextReq (s : State) (d : Nat) (x : Die) : (setDie s d x).nextReq = s.nextReq := rfl
@[simp] theorem setDie_cores (s : State) (d : Nat) (x : Die) : (setDie s d x).cores = s.cores := rfl
@[simp] theorem setDie_device (s : State) (d : Nat) (x : Die) : (setDie s d x).device = s.device := rfl
@[simp] theorem setDie_polders (s : State) (d : Nat) (x : Die) : (setDie s d x).polders = s.polders := rfl
@[simp] theorem setDie_ctxs (s : State) (d : Nat) (x : Die) : (setDie s d x).ctxs = s.ctxs := rfl
@[simp] theorem setDie_launches (s : State) (d : Nat) (x : Die) : (setDie s d x).launches = s.launches := rfl
@[simp] theorem setDie_nextLaunch (s : State) (d : Nat) (x : Die) : (setDie s d x).nextLaunch = s.nextLaunch := rfl
@[simp] theorem setDie_nextUid (s : State) (d : Nat) (x : Die) : (setDie s d x).nextUid = s.nextUid := rfl
@[simp] theorem setDie_nextAccept (s : State) (d : Nat) (x : Die) : (setDie s d x).nextAccept = s.nextAccept := rfl
@[simp] theorem setDie_nextSave (s : State) (d : Nat) (x : Die) : (setDie s d x).nextSave = s.nextSave := rfl
@[simp] theorem setDie_nextEnd (s : State) (d : Nat) (x : Die) : (setDie s d x).nextEnd = s.nextEnd := rfl
@[simp] theorem setDie_saved (s : State) (d : Nat) (x : Die) : (setDie s d x).saved = s.saved := rfl
@[simp] theorem setDie_sets (s : State) (d : Nat) (x : Die) : (setDie s d x).sets = s.sets := rfl
@[simp] theorem setDie_fabric (s : State) (d : Nat) (x : Die) : (setDie s d x).fabric = s.fabric := rfl
@[simp] theorem setDie_migrating (s : State) (d : Nat) (x : Die) : (setDie s d x).migrating = s.migrating := rfl
@[simp] theorem setDie_nextToken (s : State) (d : Nat) (x : Die) : (setDie s d x).nextToken = s.nextToken := rfl
@[simp] theorem setDie_tokens (s : State) (d : Nat) (x : Die) : (setDie s d x).tokens = s.tokens := rfl
@[simp] theorem setDie_rails (s : State) (d : Nat) (x : Die) : (setDie s d x).rails = s.rails := rfl
@[simp] theorem setDie_resetAsserted (s : State) (d : Nat) (x : Die) : (setDie s d x).resetAsserted = s.resetAsserted := rfl
@[simp] theorem setDie_throttle (s : State) (d : Nat) (x : Die) : (setDie s d x).throttle = s.throttle := rfl
@[simp] theorem setDie_agenda (s : State) (d : Nat) (x : Die) : (setDie s d x).agenda = s.agenda := rfl
@[simp] theorem setDie_cur (s : State) (d : Nat) (x : Die) : (setDie s d x).cur = s.cur := rfl
@[simp] theorem setDie_issued (s : State) (d : Nat) (x : Die) : (setDie s d x).issued = s.issued := rfl
@[simp] theorem setDie_fresh (s : State) (d : Nat) (x : Die) : (setDie s d x).fresh = s.fresh := rfl
@[simp] theorem setDie_turn (s : State) (d : Nat) (x : Die) : (setDie s d x).turn = s.turn := rfl

/-! ### setCtx -/

@[simp] theorem setCtx_mem (s : State) (c : Nat) (x : Ctx) : (setCtx s c x).mem = s.mem := rfl
@[simp] theorem setCtx_tags (s : State) (c : Nat) (x : Ctx) : (setCtx s c x).tags = s.tags := rfl
@[simp] theorem setCtx_poison (s : State) (c : Nat) (x : Ctx) : (setCtx s c x).poison = s.poison := rfl
@[simp] theorem setCtx_quar (s : State) (c : Nat) (x : Ctx) : (setCtx s c x).quar = s.quar := rfl
@[simp] theorem setCtx_dies (s : State) (c : Nat) (x : Ctx) : (setCtx s c x).dies = s.dies := rfl
@[simp] theorem setCtx_shares (s : State) (c : Nat) (x : Ctx) : (setCtx s c x).shares = s.shares := rfl
@[simp] theorem setCtx_tlb (s : State) (c : Nat) (x : Ctx) : (setCtx s c x).tlb = s.tlb := rfl
@[simp] theorem setCtx_xlreqs (s : State) (c : Nat) (x : Ctx) : (setCtx s c x).xlreqs = s.xlreqs := rfl
@[simp] theorem setCtx_nextReq (s : State) (c : Nat) (x : Ctx) : (setCtx s c x).nextReq = s.nextReq := rfl
@[simp] theorem setCtx_cores (s : State) (c : Nat) (x : Ctx) : (setCtx s c x).cores = s.cores := rfl
@[simp] theorem setCtx_device (s : State) (c : Nat) (x : Ctx) : (setCtx s c x).device = s.device := rfl
@[simp] theorem setCtx_polders (s : State) (c : Nat) (x : Ctx) : (setCtx s c x).polders = s.polders := rfl
@[simp] theorem setCtx_launches (s : State) (c : Nat) (x : Ctx) : (setCtx s c x).launches = s.launches := rfl
@[simp] theorem setCtx_nextLaunch (s : State) (c : Nat) (x : Ctx) : (setCtx s c x).nextLaunch = s.nextLaunch := rfl
@[simp] theorem setCtx_nextUid (s : State) (c : Nat) (x : Ctx) : (setCtx s c x).nextUid = s.nextUid := rfl
@[simp] theorem setCtx_nextAccept (s : State) (c : Nat) (x : Ctx) : (setCtx s c x).nextAccept = s.nextAccept := rfl
@[simp] theorem setCtx_nextSave (s : State) (c : Nat) (x : Ctx) : (setCtx s c x).nextSave = s.nextSave := rfl
@[simp] theorem setCtx_nextEnd (s : State) (c : Nat) (x : Ctx) : (setCtx s c x).nextEnd = s.nextEnd := rfl
@[simp] theorem setCtx_saved (s : State) (c : Nat) (x : Ctx) : (setCtx s c x).saved = s.saved := rfl
@[simp] theorem setCtx_sets (s : State) (c : Nat) (x : Ctx) : (setCtx s c x).sets = s.sets := rfl
@[simp] theorem setCtx_fabric (s : State) (c : Nat) (x : Ctx) : (setCtx s c x).fabric = s.fabric := rfl
@[simp] theorem setCtx_migrating (s : State) (c : Nat) (x : Ctx) : (setCtx s c x).migrating = s.migrating := rfl
@[simp] theorem setCtx_nextToken (s : State) (c : Nat) (x : Ctx) : (setCtx s c x).nextToken = s.nextToken := rfl
@[simp] theorem setCtx_tokens (s : State) (c : Nat) (x : Ctx) : (setCtx s c x).tokens = s.tokens := rfl
@[simp] theorem setCtx_rails (s : State) (c : Nat) (x : Ctx) : (setCtx s c x).rails = s.rails := rfl
@[simp] theorem setCtx_resetAsserted (s : State) (c : Nat) (x : Ctx) : (setCtx s c x).resetAsserted = s.resetAsserted := rfl
@[simp] theorem setCtx_throttle (s : State) (c : Nat) (x : Ctx) : (setCtx s c x).throttle = s.throttle := rfl
@[simp] theorem setCtx_agenda (s : State) (c : Nat) (x : Ctx) : (setCtx s c x).agenda = s.agenda := rfl
@[simp] theorem setCtx_cur (s : State) (c : Nat) (x : Ctx) : (setCtx s c x).cur = s.cur := rfl
@[simp] theorem setCtx_issued (s : State) (c : Nat) (x : Ctx) : (setCtx s c x).issued = s.issued := rfl
@[simp] theorem setCtx_fresh (s : State) (c : Nat) (x : Ctx) : (setCtx s c x).fresh = s.fresh := rfl
@[simp] theorem setCtx_turn (s : State) (c : Nat) (x : Ctx) : (setCtx s c x).turn = s.turn := rfl

/-! ### onCtx -/

@[simp] theorem onCtx_mem (s : State) (c : Nat) (f : Ctx → Ctx) : (onCtx s c f).mem = s.mem := rfl
@[simp] theorem onCtx_tags (s : State) (c : Nat) (f : Ctx → Ctx) : (onCtx s c f).tags = s.tags := rfl
@[simp] theorem onCtx_poison (s : State) (c : Nat) (f : Ctx → Ctx) : (onCtx s c f).poison = s.poison := rfl
@[simp] theorem onCtx_quar (s : State) (c : Nat) (f : Ctx → Ctx) : (onCtx s c f).quar = s.quar := rfl
@[simp] theorem onCtx_dies (s : State) (c : Nat) (f : Ctx → Ctx) : (onCtx s c f).dies = s.dies := rfl
@[simp] theorem onCtx_shares (s : State) (c : Nat) (f : Ctx → Ctx) : (onCtx s c f).shares = s.shares := rfl
@[simp] theorem onCtx_tlb (s : State) (c : Nat) (f : Ctx → Ctx) : (onCtx s c f).tlb = s.tlb := rfl
@[simp] theorem onCtx_xlreqs (s : State) (c : Nat) (f : Ctx → Ctx) : (onCtx s c f).xlreqs = s.xlreqs := rfl
@[simp] theorem onCtx_nextReq (s : State) (c : Nat) (f : Ctx → Ctx) : (onCtx s c f).nextReq = s.nextReq := rfl
@[simp] theorem onCtx_cores (s : State) (c : Nat) (f : Ctx → Ctx) : (onCtx s c f).cores = s.cores := rfl
@[simp] theorem onCtx_device (s : State) (c : Nat) (f : Ctx → Ctx) : (onCtx s c f).device = s.device := rfl
@[simp] theorem onCtx_polders (s : State) (c : Nat) (f : Ctx → Ctx) : (onCtx s c f).polders = s.polders := rfl
@[simp] theorem onCtx_launches (s : State) (c : Nat) (f : Ctx → Ctx) : (onCtx s c f).launches = s.launches := rfl
@[simp] theorem onCtx_nextLaunch (s : State) (c : Nat) (f : Ctx → Ctx) : (onCtx s c f).nextLaunch = s.nextLaunch := rfl
@[simp] theorem onCtx_nextUid (s : State) (c : Nat) (f : Ctx → Ctx) : (onCtx s c f).nextUid = s.nextUid := rfl
@[simp] theorem onCtx_nextAccept (s : State) (c : Nat) (f : Ctx → Ctx) : (onCtx s c f).nextAccept = s.nextAccept := rfl
@[simp] theorem onCtx_nextSave (s : State) (c : Nat) (f : Ctx → Ctx) : (onCtx s c f).nextSave = s.nextSave := rfl
@[simp] theorem onCtx_nextEnd (s : State) (c : Nat) (f : Ctx → Ctx) : (onCtx s c f).nextEnd = s.nextEnd := rfl
@[simp] theorem onCtx_saved (s : State) (c : Nat) (f : Ctx → Ctx) : (onCtx s c f).saved = s.saved := rfl
@[simp] theorem onCtx_sets (s : State) (c : Nat) (f : Ctx → Ctx) : (onCtx s c f).sets = s.sets := rfl
@[simp] theorem onCtx_fabric (s : State) (c : Nat) (f : Ctx → Ctx) : (onCtx s c f).fabric = s.fabric := rfl
@[simp] theorem onCtx_migrating (s : State) (c : Nat) (f : Ctx → Ctx) : (onCtx s c f).migrating = s.migrating := rfl
@[simp] theorem onCtx_nextToken (s : State) (c : Nat) (f : Ctx → Ctx) : (onCtx s c f).nextToken = s.nextToken := rfl
@[simp] theorem onCtx_tokens (s : State) (c : Nat) (f : Ctx → Ctx) : (onCtx s c f).tokens = s.tokens := rfl
@[simp] theorem onCtx_rails (s : State) (c : Nat) (f : Ctx → Ctx) : (onCtx s c f).rails = s.rails := rfl
@[simp] theorem onCtx_resetAsserted (s : State) (c : Nat) (f : Ctx → Ctx) : (onCtx s c f).resetAsserted = s.resetAsserted := rfl
@[simp] theorem onCtx_throttle (s : State) (c : Nat) (f : Ctx → Ctx) : (onCtx s c f).throttle = s.throttle := rfl
@[simp] theorem onCtx_agenda (s : State) (c : Nat) (f : Ctx → Ctx) : (onCtx s c f).agenda = s.agenda := rfl
@[simp] theorem onCtx_cur (s : State) (c : Nat) (f : Ctx → Ctx) : (onCtx s c f).cur = s.cur := rfl
@[simp] theorem onCtx_issued (s : State) (c : Nat) (f : Ctx → Ctx) : (onCtx s c f).issued = s.issued := rfl
@[simp] theorem onCtx_fresh (s : State) (c : Nat) (f : Ctx → Ctx) : (onCtx s c f).fresh = s.fresh := rfl
@[simp] theorem onCtx_turn (s : State) (c : Nat) (f : Ctx → Ctx) : (onCtx s c f).turn = s.turn := rfl

/-! ### setPolder -/

@[simp] theorem setPolder_mem (s : State) (p : Nat) (x : Polder) : (setPolder s p x).mem = s.mem := rfl
@[simp] theorem setPolder_tags (s : State) (p : Nat) (x : Polder) : (setPolder s p x).tags = s.tags := rfl
@[simp] theorem setPolder_poison (s : State) (p : Nat) (x : Polder) : (setPolder s p x).poison = s.poison := rfl
@[simp] theorem setPolder_quar (s : State) (p : Nat) (x : Polder) : (setPolder s p x).quar = s.quar := rfl
@[simp] theorem setPolder_dies (s : State) (p : Nat) (x : Polder) : (setPolder s p x).dies = s.dies := rfl
@[simp] theorem setPolder_shares (s : State) (p : Nat) (x : Polder) : (setPolder s p x).shares = s.shares := rfl
@[simp] theorem setPolder_tlb (s : State) (p : Nat) (x : Polder) : (setPolder s p x).tlb = s.tlb := rfl
@[simp] theorem setPolder_xlreqs (s : State) (p : Nat) (x : Polder) : (setPolder s p x).xlreqs = s.xlreqs := rfl
@[simp] theorem setPolder_nextReq (s : State) (p : Nat) (x : Polder) : (setPolder s p x).nextReq = s.nextReq := rfl
@[simp] theorem setPolder_cores (s : State) (p : Nat) (x : Polder) : (setPolder s p x).cores = s.cores := rfl
@[simp] theorem setPolder_device (s : State) (p : Nat) (x : Polder) : (setPolder s p x).device = s.device := rfl
@[simp] theorem setPolder_ctxs (s : State) (p : Nat) (x : Polder) : (setPolder s p x).ctxs = s.ctxs := rfl
@[simp] theorem setPolder_launches (s : State) (p : Nat) (x : Polder) : (setPolder s p x).launches = s.launches := rfl
@[simp] theorem setPolder_nextLaunch (s : State) (p : Nat) (x : Polder) : (setPolder s p x).nextLaunch = s.nextLaunch := rfl
@[simp] theorem setPolder_nextUid (s : State) (p : Nat) (x : Polder) : (setPolder s p x).nextUid = s.nextUid := rfl
@[simp] theorem setPolder_nextAccept (s : State) (p : Nat) (x : Polder) : (setPolder s p x).nextAccept = s.nextAccept := rfl
@[simp] theorem setPolder_nextSave (s : State) (p : Nat) (x : Polder) : (setPolder s p x).nextSave = s.nextSave := rfl
@[simp] theorem setPolder_nextEnd (s : State) (p : Nat) (x : Polder) : (setPolder s p x).nextEnd = s.nextEnd := rfl
@[simp] theorem setPolder_saved (s : State) (p : Nat) (x : Polder) : (setPolder s p x).saved = s.saved := rfl
@[simp] theorem setPolder_sets (s : State) (p : Nat) (x : Polder) : (setPolder s p x).sets = s.sets := rfl
@[simp] theorem setPolder_fabric (s : State) (p : Nat) (x : Polder) : (setPolder s p x).fabric = s.fabric := rfl
@[simp] theorem setPolder_migrating (s : State) (p : Nat) (x : Polder) : (setPolder s p x).migrating = s.migrating := rfl
@[simp] theorem setPolder_nextToken (s : State) (p : Nat) (x : Polder) : (setPolder s p x).nextToken = s.nextToken := rfl
@[simp] theorem setPolder_tokens (s : State) (p : Nat) (x : Polder) : (setPolder s p x).tokens = s.tokens := rfl
@[simp] theorem setPolder_rails (s : State) (p : Nat) (x : Polder) : (setPolder s p x).rails = s.rails := rfl
@[simp] theorem setPolder_resetAsserted (s : State) (p : Nat) (x : Polder) : (setPolder s p x).resetAsserted = s.resetAsserted := rfl
@[simp] theorem setPolder_throttle (s : State) (p : Nat) (x : Polder) : (setPolder s p x).throttle = s.throttle := rfl
@[simp] theorem setPolder_agenda (s : State) (p : Nat) (x : Polder) : (setPolder s p x).agenda = s.agenda := rfl
@[simp] theorem setPolder_cur (s : State) (p : Nat) (x : Polder) : (setPolder s p x).cur = s.cur := rfl
@[simp] theorem setPolder_issued (s : State) (p : Nat) (x : Polder) : (setPolder s p x).issued = s.issued := rfl
@[simp] theorem setPolder_fresh (s : State) (p : Nat) (x : Polder) : (setPolder s p x).fresh = s.fresh := rfl
@[simp] theorem setPolder_turn (s : State) (p : Nat) (x : Polder) : (setPolder s p x).turn = s.turn := rfl

/-! ### onPolder -/

@[simp] theorem onPolder_mem (s : State) (p : Nat) (f : Polder → Polder) : (onPolder s p f).mem = s.mem := rfl
@[simp] theorem onPolder_tags (s : State) (p : Nat) (f : Polder → Polder) : (onPolder s p f).tags = s.tags := rfl
@[simp] theorem onPolder_poison (s : State) (p : Nat) (f : Polder → Polder) : (onPolder s p f).poison = s.poison := rfl
@[simp] theorem onPolder_quar (s : State) (p : Nat) (f : Polder → Polder) : (onPolder s p f).quar = s.quar := rfl
@[simp] theorem onPolder_dies (s : State) (p : Nat) (f : Polder → Polder) : (onPolder s p f).dies = s.dies := rfl
@[simp] theorem onPolder_shares (s : State) (p : Nat) (f : Polder → Polder) : (onPolder s p f).shares = s.shares := rfl
@[simp] theorem onPolder_tlb (s : State) (p : Nat) (f : Polder → Polder) : (onPolder s p f).tlb = s.tlb := rfl
@[simp] theorem onPolder_xlreqs (s : State) (p : Nat) (f : Polder → Polder) : (onPolder s p f).xlreqs = s.xlreqs := rfl
@[simp] theorem onPolder_nextReq (s : State) (p : Nat) (f : Polder → Polder) : (onPolder s p f).nextReq = s.nextReq := rfl
@[simp] theorem onPolder_cores (s : State) (p : Nat) (f : Polder → Polder) : (onPolder s p f).cores = s.cores := rfl
@[simp] theorem onPolder_device (s : State) (p : Nat) (f : Polder → Polder) : (onPolder s p f).device = s.device := rfl
@[simp] theorem onPolder_ctxs (s : State) (p : Nat) (f : Polder → Polder) : (onPolder s p f).ctxs = s.ctxs := rfl
@[simp] theorem onPolder_launches (s : State) (p : Nat) (f : Polder → Polder) : (onPolder s p f).launches = s.launches := rfl
@[simp] theorem onPolder_nextLaunch (s : State) (p : Nat) (f : Polder → Polder) : (onPolder s p f).nextLaunch = s.nextLaunch := rfl
@[simp] theorem onPolder_nextUid (s : State) (p : Nat) (f : Polder → Polder) : (onPolder s p f).nextUid = s.nextUid := rfl
@[simp] theorem onPolder_nextAccept (s : State) (p : Nat) (f : Polder → Polder) : (onPolder s p f).nextAccept = s.nextAccept := rfl
@[simp] theorem onPolder_nextSave (s : State) (p : Nat) (f : Polder → Polder) : (onPolder s p f).nextSave = s.nextSave := rfl
@[simp] theorem onPolder_nextEnd (s : State) (p : Nat) (f : Polder → Polder) : (onPolder s p f).nextEnd = s.nextEnd := rfl
@[simp] theorem onPolder_saved (s : State) (p : Nat) (f : Polder → Polder) : (onPolder s p f).saved = s.saved := rfl
@[simp] theorem onPolder_sets (s : State) (p : Nat) (f : Polder → Polder) : (onPolder s p f).sets = s.sets := rfl
@[simp] theorem onPolder_fabric (s : State) (p : Nat) (f : Polder → Polder) : (onPolder s p f).fabric = s.fabric := rfl
@[simp] theorem onPolder_migrating (s : State) (p : Nat) (f : Polder → Polder) : (onPolder s p f).migrating = s.migrating := rfl
@[simp] theorem onPolder_nextToken (s : State) (p : Nat) (f : Polder → Polder) : (onPolder s p f).nextToken = s.nextToken := rfl
@[simp] theorem onPolder_tokens (s : State) (p : Nat) (f : Polder → Polder) : (onPolder s p f).tokens = s.tokens := rfl
@[simp] theorem onPolder_rails (s : State) (p : Nat) (f : Polder → Polder) : (onPolder s p f).rails = s.rails := rfl
@[simp] theorem onPolder_resetAsserted (s : State) (p : Nat) (f : Polder → Polder) : (onPolder s p f).resetAsserted = s.resetAsserted := rfl
@[simp] theorem onPolder_throttle (s : State) (p : Nat) (f : Polder → Polder) : (onPolder s p f).throttle = s.throttle := rfl
@[simp] theorem onPolder_agenda (s : State) (p : Nat) (f : Polder → Polder) : (onPolder s p f).agenda = s.agenda := rfl
@[simp] theorem onPolder_cur (s : State) (p : Nat) (f : Polder → Polder) : (onPolder s p f).cur = s.cur := rfl
@[simp] theorem onPolder_issued (s : State) (p : Nat) (f : Polder → Polder) : (onPolder s p f).issued = s.issued := rfl
@[simp] theorem onPolder_fresh (s : State) (p : Nat) (f : Polder → Polder) : (onPolder s p f).fresh = s.fresh := rfl
@[simp] theorem onPolder_turn (s : State) (p : Nat) (f : Polder → Polder) : (onPolder s p f).turn = s.turn := rfl

/-! ### onDevice -/

@[simp] theorem onDevice_mem (s : State) (f : Device → Device) : (onDevice s f).mem = s.mem := rfl
@[simp] theorem onDevice_tags (s : State) (f : Device → Device) : (onDevice s f).tags = s.tags := rfl
@[simp] theorem onDevice_poison (s : State) (f : Device → Device) : (onDevice s f).poison = s.poison := rfl
@[simp] theorem onDevice_quar (s : State) (f : Device → Device) : (onDevice s f).quar = s.quar := rfl
@[simp] theorem onDevice_dies (s : State) (f : Device → Device) : (onDevice s f).dies = s.dies := rfl
@[simp] theorem onDevice_shares (s : State) (f : Device → Device) : (onDevice s f).shares = s.shares := rfl
@[simp] theorem onDevice_tlb (s : State) (f : Device → Device) : (onDevice s f).tlb = s.tlb := rfl
@[simp] theorem onDevice_xlreqs (s : State) (f : Device → Device) : (onDevice s f).xlreqs = s.xlreqs := rfl
@[simp] theorem onDevice_nextReq (s : State) (f : Device → Device) : (onDevice s f).nextReq = s.nextReq := rfl
@[simp] theorem onDevice_cores (s : State) (f : Device → Device) : (onDevice s f).cores = s.cores := rfl
@[simp] theorem onDevice_polders (s : State) (f : Device → Device) : (onDevice s f).polders = s.polders := rfl
@[simp] theorem onDevice_ctxs (s : State) (f : Device → Device) : (onDevice s f).ctxs = s.ctxs := rfl
@[simp] theorem onDevice_launches (s : State) (f : Device → Device) : (onDevice s f).launches = s.launches := rfl
@[simp] theorem onDevice_nextLaunch (s : State) (f : Device → Device) : (onDevice s f).nextLaunch = s.nextLaunch := rfl
@[simp] theorem onDevice_nextUid (s : State) (f : Device → Device) : (onDevice s f).nextUid = s.nextUid := rfl
@[simp] theorem onDevice_nextAccept (s : State) (f : Device → Device) : (onDevice s f).nextAccept = s.nextAccept := rfl
@[simp] theorem onDevice_nextSave (s : State) (f : Device → Device) : (onDevice s f).nextSave = s.nextSave := rfl
@[simp] theorem onDevice_nextEnd (s : State) (f : Device → Device) : (onDevice s f).nextEnd = s.nextEnd := rfl
@[simp] theorem onDevice_saved (s : State) (f : Device → Device) : (onDevice s f).saved = s.saved := rfl
@[simp] theorem onDevice_sets (s : State) (f : Device → Device) : (onDevice s f).sets = s.sets := rfl
@[simp] theorem onDevice_fabric (s : State) (f : Device → Device) : (onDevice s f).fabric = s.fabric := rfl
@[simp] theorem onDevice_migrating (s : State) (f : Device → Device) : (onDevice s f).migrating = s.migrating := rfl
@[simp] theorem onDevice_nextToken (s : State) (f : Device → Device) : (onDevice s f).nextToken = s.nextToken := rfl
@[simp] theorem onDevice_tokens (s : State) (f : Device → Device) : (onDevice s f).tokens = s.tokens := rfl
@[simp] theorem onDevice_rails (s : State) (f : Device → Device) : (onDevice s f).rails = s.rails := rfl
@[simp] theorem onDevice_resetAsserted (s : State) (f : Device → Device) : (onDevice s f).resetAsserted = s.resetAsserted := rfl
@[simp] theorem onDevice_throttle (s : State) (f : Device → Device) : (onDevice s f).throttle = s.throttle := rfl
@[simp] theorem onDevice_agenda (s : State) (f : Device → Device) : (onDevice s f).agenda = s.agenda := rfl
@[simp] theorem onDevice_cur (s : State) (f : Device → Device) : (onDevice s f).cur = s.cur := rfl
@[simp] theorem onDevice_issued (s : State) (f : Device → Device) : (onDevice s f).issued = s.issued := rfl
@[simp] theorem onDevice_fresh (s : State) (f : Device → Device) : (onDevice s f).fresh = s.fresh := rfl
@[simp] theorem onDevice_turn (s : State) (f : Device → Device) : (onDevice s f).turn = s.turn := rfl

/-! ### onFabric -/

@[simp] theorem onFabric_mem (s : State) (f : Fabric → Fabric) : (onFabric s f).mem = s.mem := rfl
@[simp] theorem onFabric_tags (s : State) (f : Fabric → Fabric) : (onFabric s f).tags = s.tags := rfl
@[simp] theorem onFabric_poison (s : State) (f : Fabric → Fabric) : (onFabric s f).poison = s.poison := rfl
@[simp] theorem onFabric_quar (s : State) (f : Fabric → Fabric) : (onFabric s f).quar = s.quar := rfl
@[simp] theorem onFabric_dies (s : State) (f : Fabric → Fabric) : (onFabric s f).dies = s.dies := rfl
@[simp] theorem onFabric_shares (s : State) (f : Fabric → Fabric) : (onFabric s f).shares = s.shares := rfl
@[simp] theorem onFabric_tlb (s : State) (f : Fabric → Fabric) : (onFabric s f).tlb = s.tlb := rfl
@[simp] theorem onFabric_xlreqs (s : State) (f : Fabric → Fabric) : (onFabric s f).xlreqs = s.xlreqs := rfl
@[simp] theorem onFabric_nextReq (s : State) (f : Fabric → Fabric) : (onFabric s f).nextReq = s.nextReq := rfl
@[simp] theorem onFabric_cores (s : State) (f : Fabric → Fabric) : (onFabric s f).cores = s.cores := rfl
@[simp] theorem onFabric_device (s : State) (f : Fabric → Fabric) : (onFabric s f).device = s.device := rfl
@[simp] theorem onFabric_polders (s : State) (f : Fabric → Fabric) : (onFabric s f).polders = s.polders := rfl
@[simp] theorem onFabric_ctxs (s : State) (f : Fabric → Fabric) : (onFabric s f).ctxs = s.ctxs := rfl
@[simp] theorem onFabric_launches (s : State) (f : Fabric → Fabric) : (onFabric s f).launches = s.launches := rfl
@[simp] theorem onFabric_nextLaunch (s : State) (f : Fabric → Fabric) : (onFabric s f).nextLaunch = s.nextLaunch := rfl
@[simp] theorem onFabric_nextUid (s : State) (f : Fabric → Fabric) : (onFabric s f).nextUid = s.nextUid := rfl
@[simp] theorem onFabric_nextAccept (s : State) (f : Fabric → Fabric) : (onFabric s f).nextAccept = s.nextAccept := rfl
@[simp] theorem onFabric_nextSave (s : State) (f : Fabric → Fabric) : (onFabric s f).nextSave = s.nextSave := rfl
@[simp] theorem onFabric_nextEnd (s : State) (f : Fabric → Fabric) : (onFabric s f).nextEnd = s.nextEnd := rfl
@[simp] theorem onFabric_saved (s : State) (f : Fabric → Fabric) : (onFabric s f).saved = s.saved := rfl
@[simp] theorem onFabric_sets (s : State) (f : Fabric → Fabric) : (onFabric s f).sets = s.sets := rfl
@[simp] theorem onFabric_migrating (s : State) (f : Fabric → Fabric) : (onFabric s f).migrating = s.migrating := rfl
@[simp] theorem onFabric_nextToken (s : State) (f : Fabric → Fabric) : (onFabric s f).nextToken = s.nextToken := rfl
@[simp] theorem onFabric_tokens (s : State) (f : Fabric → Fabric) : (onFabric s f).tokens = s.tokens := rfl
@[simp] theorem onFabric_rails (s : State) (f : Fabric → Fabric) : (onFabric s f).rails = s.rails := rfl
@[simp] theorem onFabric_resetAsserted (s : State) (f : Fabric → Fabric) : (onFabric s f).resetAsserted = s.resetAsserted := rfl
@[simp] theorem onFabric_throttle (s : State) (f : Fabric → Fabric) : (onFabric s f).throttle = s.throttle := rfl
@[simp] theorem onFabric_agenda (s : State) (f : Fabric → Fabric) : (onFabric s f).agenda = s.agenda := rfl
@[simp] theorem onFabric_cur (s : State) (f : Fabric → Fabric) : (onFabric s f).cur = s.cur := rfl
@[simp] theorem onFabric_issued (s : State) (f : Fabric → Fabric) : (onFabric s f).issued = s.issued := rfl
@[simp] theorem onFabric_fresh (s : State) (f : Fabric → Fabric) : (onFabric s f).fresh = s.fresh := rfl
@[simp] theorem onFabric_turn (s : State) (f : Fabric → Fabric) : (onFabric s f).turn = s.turn := rfl

/-! ### Parts -/

@[simp] theorem coreOf_setCore_self (s : State) (k : Nat) (c : CoreState) : coreOf (setCore s k c) k = c := lookD_put_self _ _ _ _
@[simp] theorem coreOf_onCore_self (s : State) (k : Nat) (f : CoreState → CoreState) : coreOf (onCore s k f) k = f (coreOf s k) :=
  lookD_put_self _ _ _ _
theorem coreOf_setCore_ne (s : State) {j k : Nat} (c : CoreState) (h : j ≠ k) : coreOf (setCore s k c) j = coreOf s j := lookD_put_ne _ _ _ h
theorem coreOf_onCore_ne (s : State) {j k : Nat} (f : CoreState → CoreState) (h : j ≠ k) : coreOf (onCore s k f) j = coreOf s j :=
  lookD_put_ne _ _ _ h
@[simp] theorem ctxOf_setCtx_self (s : State) (c : Nat) (x : Ctx) : ctxOf (setCtx s c x) c = x := lookD_put_self _ _ _ _
@[simp] theorem ctxOf_onCtx_self (s : State) (c : Nat) (f : Ctx → Ctx) : ctxOf (onCtx s c f) c = f (ctxOf s c) := lookD_put_self _ _ _ _
theorem ctxOf_onCtx_ne (s : State) {b c : Nat} (f : Ctx → Ctx) (h : b ≠ c) : ctxOf (onCtx s c f) b = ctxOf s b := lookD_put_ne _ _ _ h
@[simp] theorem polderOf_setPolder_self (s : State) (p : Nat) (x : Polder) : polderOf (setPolder s p x) p = x := lookD_put_self _ _ _ _
@[simp] theorem polderOf_onPolder_self (s : State) (p : Nat) (f : Polder → Polder) : polderOf (onPolder s p f) p = f (polderOf s p) :=
  lookD_put_self _ _ _ _
@[simp] theorem dieOf_setDie_self (s : State) (d : Nat) (x : Die) : dieOf (setDie s d x) d = x := lookD_put_self _ _ _ _
theorem dieOf_setDie_ne (s : State) {c d : Nat} (x : Die) (h : c ≠ d) : dieOf (setDie s d x) c = dieOf s c := lookD_put_ne _ _ _ h

@[simp] theorem ctxOf_setCore (s : State) (k : Nat) (c : CoreState) (n : Nat) : ctxOf (setCore s k c) n = ctxOf s n := rfl
@[simp] theorem polderOf_setCore (s : State) (k : Nat) (c : CoreState) (n : Nat) : polderOf (setCore s k c) n = polderOf s n := rfl
@[simp] theorem dieOf_setCore (s : State) (k : Nat) (c : CoreState) (n : Nat) : dieOf (setCore s k c) n = dieOf s n := rfl
@[simp] theorem ctxOf_onCore (s : State) (k : Nat) (f : CoreState → CoreState) (n : Nat) : ctxOf (onCore s k f) n = ctxOf s n := rfl
@[simp] theorem polderOf_onCore (s : State) (k : Nat) (f : CoreState → CoreState) (n : Nat) : polderOf (onCore s k f) n = polderOf s n := rfl
@[simp] theorem dieOf_onCore (s : State) (k : Nat) (f : CoreState → CoreState) (n : Nat) : dieOf (onCore s k f) n = dieOf s n := rfl
@[simp] theorem coreOf_setDie (s : State) (d : Nat) (x : Die) (n : Nat) : coreOf (setDie s d x) n = coreOf s n := rfl
@[simp] theorem ctxOf_setDie (s : State) (d : Nat) (x : Die) (n : Nat) : ctxOf (setDie s d x) n = ctxOf s n := rfl
@[simp] theorem polderOf_setDie (s : State) (d : Nat) (x : Die) (n : Nat) : polderOf (setDie s d x) n = polderOf s n := rfl
@[simp] theorem coreOf_setCtx (s : State) (c : Nat) (x : Ctx) (n : Nat) : coreOf (setCtx s c x) n = coreOf s n := rfl
@[simp] theorem polderOf_setCtx (s : State) (c : Nat) (x : Ctx) (n : Nat) : polderOf (setCtx s c x) n = polderOf s n := rfl
@[simp] theorem dieOf_setCtx (s : State) (c : Nat) (x : Ctx) (n : Nat) : dieOf (setCtx s c x) n = dieOf s n := rfl
@[simp] theorem coreOf_onCtx (s : State) (c : Nat) (f : Ctx → Ctx) (n : Nat) : coreOf (onCtx s c f) n = coreOf s n := rfl
@[simp] theorem polderOf_onCtx (s : State) (c : Nat) (f : Ctx → Ctx) (n : Nat) : polderOf (onCtx s c f) n = polderOf s n := rfl
@[simp] theorem dieOf_onCtx (s : State) (c : Nat) (f : Ctx → Ctx) (n : Nat) : dieOf (onCtx s c f) n = dieOf s n := rfl
@[simp] theorem coreOf_setPolder (s : State) (p : Nat) (x : Polder) (n : Nat) : coreOf (setPolder s p x) n = coreOf s n := rfl
@[simp] theorem ctxOf_setPolder (s : State) (p : Nat) (x : Polder) (n : Nat) : ctxOf (setPolder s p x) n = ctxOf s n := rfl
@[simp] theorem dieOf_setPolder (s : State) (p : Nat) (x : Polder) (n : Nat) : dieOf (setPolder s p x) n = dieOf s n := rfl
@[simp] theorem coreOf_onPolder (s : State) (p : Nat) (f : Polder → Polder) (n : Nat) : coreOf (onPolder s p f) n = coreOf s n := rfl
@[simp] theorem ctxOf_onPolder (s : State) (p : Nat) (f : Polder → Polder) (n : Nat) : ctxOf (onPolder s p f) n = ctxOf s n := rfl
@[simp] theorem dieOf_onPolder (s : State) (p : Nat) (f : Polder → Polder) (n : Nat) : dieOf (onPolder s p f) n = dieOf s n := rfl
@[simp] theorem coreOf_onDevice (s : State) (f : Device → Device) (n : Nat) : coreOf (onDevice s f) n = coreOf s n := rfl
@[simp] theorem ctxOf_onDevice (s : State) (f : Device → Device) (n : Nat) : ctxOf (onDevice s f) n = ctxOf s n := rfl
@[simp] theorem polderOf_onDevice (s : State) (f : Device → Device) (n : Nat) : polderOf (onDevice s f) n = polderOf s n := rfl
@[simp] theorem dieOf_onDevice (s : State) (f : Device → Device) (n : Nat) : dieOf (onDevice s f) n = dieOf s n := rfl
@[simp] theorem coreOf_onFabric (s : State) (f : Fabric → Fabric) (n : Nat) : coreOf (onFabric s f) n = coreOf s n := rfl
@[simp] theorem ctxOf_onFabric (s : State) (f : Fabric → Fabric) (n : Nat) : ctxOf (onFabric s f) n = ctxOf s n := rfl
@[simp] theorem polderOf_onFabric (s : State) (f : Fabric → Fabric) (n : Nat) : polderOf (onFabric s f) n = polderOf s n := rfl
@[simp] theorem dieOf_onFabric (s : State) (f : Fabric → Fabric) (n : Nat) : dieOf (onFabric s f) n = dieOf s n := rfl

/-! ### Groups of a core -/

@[simp] theorem groupAt_setGroup_self (c : CoreState) (n : Nat) (g : Group) : groupAt (setGroup c n g) n = some g := look_put_self _ _ _
theorem groupAt_setGroup_ne (c : CoreState) {m n : Nat} (g : Group) (h : m ≠ n) : groupAt (setGroup c n g) m = groupAt c m := look_put_ne _ _ h
@[simp] theorem teamOf_setGroup (c : CoreState) (n m : Nat) (g : Group) : teamOf (setGroup c n g) m = teamOf c m := rfl
@[simp] theorem teamOf_setTeam_self (c : CoreState) (n : Nat) (t : Team) : teamOf (setTeam c n t) n = some t := look_put_self _ _ _
theorem teamOf_setTeam_ne (c : CoreState) {m n : Nat} (t : Team) (h : m ≠ n) : teamOf (setTeam c n t) m = teamOf c m := look_put_ne _ _ h

end Sys2Proof.Machine
end

