-- ==== Sys2Proof/Laws/Issue.lean ====
section
/-! SUPPORT. What the shared operations of an issue do: the issuing group as it changes, and what stays (`OnlyGroup`). -/

namespace Sys2Proof.Machine

/-! ### The issuing group -/

/-- The issuing group stands in its slot, with registers of its own. -/
def Holds (s : State) (i : Issuer) (g : Group) : Prop := groupAt (coreOf s i.k) i.slot = some g ∧ g.uid = i.g.uid ∧ g.gid = i.g.gid

theorem issuer_slot {s : State} {i : Issuer} (h : issuer s = some i) :
    groupAt (coreOf s i.k) i.slot = some i.g ∧ teamOf (coreOf s i.k) i.t = some i.tm ∧ entryOf i.g i.e.mask = some i.e ∧
      ∃ n, s.cur = some ⟨i.k, i.slot, i.e.mask, n⟩ := by
  unfold issuer at h
  split at h
  · cases h
  · rename_i u hu
    simp only at h
    split at h
    · cases h
    · rename_i g hg
      split at h
      · rename_i e tm he htm
        cases h
        have hm : e.mask = u.lanes := by
          have := List.find?_some he
          simpa using this
        refine ⟨hg, htm, ?_, u.len, ?_⟩
        · simpa [hm] using he
        · rw [hu]; simp [hm]
      · cases h

theorem holds_of_issuer {s : State} {i : Issuer} (h : issuer s = some i) : Holds s i i.g := ⟨(issuer_slot h).1, rfl, rfl⟩

theorem groupNow_of_holds {s : State} {i : Issuer} {g : Group} (h : Holds s i g) : groupNow s i = g := by simp [groupNow, h.1]

theorem onIssuing_eq {s : State} {i : Issuer} {g : Group} (h : Holds s i g) (f : Group → Group) :
    onIssuing s i f = onCore s i.k (fun c => setGroup c i.slot (f g)) := by
  unfold onIssuing onSlot onCore
  simp [h.1, h.2.1, h.2.2]

theorem holds_onIssuing {s : State} {i : Issuer} {g : Group} (h : Holds s i g) (f : Group → Group) (hu : (f g).uid = g.uid) (hg : (f g).gid = g.gid) :
    Holds (onIssuing s i f) i (f g) := by
  rw [onIssuing_eq h]
  exact ⟨by simp, by rw [hu, h.2.1], by rw [hg, h.2.2]⟩

theorem holds_onCore {s : State} {i : Issuer} {g : Group} (h : Holds s i g) (f : CoreState → CoreState) (hf : (f (coreOf s i.k)).groups = (coreOf s i.k).groups) :
    Holds (onCore s i.k f) i g := by
  refine ⟨?_, h.2⟩
  have := h.1
  simp only [groupAt, coreOf_onCore_self] at this ⊢
  rw [hf, this]

/-! ### What stays -/

theorem onlyGroup_refl {s : State} {i : Issuer} (h : teamOf (coreOf s i.k) i.t = some i.tm) : OnlyGroup s s i :=
  ⟨fun _ => rfl, rfl, fun _ _ => rfl, rfl, fun _ _ => rfl, fun _ _ => rfl, ⟨i.tm, h, rfl⟩, rfl⟩

/-- A further change that keeps the rest of the state keeps what `OnlyGroup` says. -/
theorem onlyGroup_step {s t u : State} {i : Issuer} (h : OnlyGroup s t i) (rest : u.besides t = t) (mem : u.mem = t.mem)
    (cores : ∀ k, k ≠ i.k → look u.cores k = look t.cores k) (core : (coreOf u i.k).besides (coreOf t i.k) = coreOf t i.k)
    (groups : ∀ n, n ≠ i.slot → groupAt (coreOf u i.k) n = groupAt (coreOf t i.k) n)
    (teams : ∀ n, n ≠ i.t → teamOf (coreOf u i.k) n = teamOf (coreOf t i.k) n)
    (team : ∀ tm, teamOf (coreOf t i.k) i.t = some tm → ∃ tm', teamOf (coreOf u i.k) i.t = some tm' ∧ { tm' with st := tm.st } = tm)
    (ops : opFrames (coreOf u i.k) = opFrames (coreOf t i.k)) : OnlyGroup s u i := by
  refine ⟨fun a => by rw [mem]; exact h.memory a, ?_, fun k hk => (cores k hk).trans (h.cores k hk), ?_, fun n hn => (groups n hn).trans (h.groups n hn),
    fun n hn => (teams n hn).trans (h.teams n hn), ?_, ops.trans h.ops⟩
  · have := congrArg (fun x => State.besides x s) rest
    exact this.trans h.rest
  · have := congrArg (fun x => CoreState.besides x (coreOf s i.k)) core
    exact this.trans h.core
  · obtain ⟨tm, ht, he⟩ := h.team
    obtain ⟨tm', ht', he'⟩ := team tm ht
    refine ⟨tm', ht', ?_⟩
    have := congrArg (fun x : Team => { x with st := i.tm.st }) he'
    exact this.trans he

/-- A change of one core, of the issuing slot alone. -/
theorem onlyGroup_onCore {s t : State} {i : Issuer} (h : OnlyGroup s t i) (f : CoreState → CoreState)
    (core : (f (coreOf t i.k)).besides (coreOf t i.k) = coreOf t i.k)
    (groups : ∀ n, n ≠ i.slot → groupAt (f (coreOf t i.k)) n = groupAt (coreOf t i.k) n)
    (teams : ∀ n, n ≠ i.t → teamOf (f (coreOf t i.k)) n = teamOf (coreOf t i.k) n)
    (team : ∀ tm, teamOf (coreOf t i.k) i.t = some tm → ∃ tm', teamOf (f (coreOf t i.k)) i.t = some tm' ∧ { tm' with st := tm.st } = tm)
    (ops : opFrames (f (coreOf t i.k)) = opFrames (coreOf t i.k)) : OnlyGroup s (onCore t i.k f) i := by
  apply onlyGroup_step h
  · rfl
  · rfl
  · intro k hk
    exact look_put_ne _ _ hk
  · simpa using core
  · simpa using groups
  · simpa using teams
  · simpa using team
  · simpa using ops

theorem onlyGroup_onIssuing {s t : State} {i : Issuer} {g : Group} (h : OnlyGroup s t i) (hg : Holds t i g) (f : Group → Group) :
    OnlyGroup s (onIssuing t i f) i := by
  rw [onIssuing_eq hg]
  apply onlyGroup_onCore h
  · rfl
  · intro n hn
    exact groupAt_setGroup_ne _ _ hn
  · intro n _
    rfl
  · intro tm htm
    exact ⟨tm, htm, rfl⟩
  · rfl

/-- A change outside the cores, made before the issue or after it. -/
theorem onlyGroup_base {s t : State} {i : Issuer} (h : OnlyGroup s t i) (f : State → State)
    (hf : ∀ (u : State) cores cur issued fresh, f { u with cores := cores, cur := cur, issued := issued, fresh := fresh } =
      { f u with cores := cores, cur := cur, issued := issued, fresh := fresh }) (hm : ∀ u, (f u).mem = u.mem) : OnlyGroup (f s) (f t) i := by
  have ht : t = { s with cores := t.cores, cur := t.cur, issued := t.issued, fresh := t.fresh } := by
    have := congrArg (fun x : State => { x with cores := t.cores, cur := t.cur, issued := t.issued, fresh := t.fresh }) h.rest
    exact this
  have hs : f s = { f s with cores := s.cores, cur := s.cur, issued := s.issued, fresh := s.fresh } := by
    have := hf s s.cores s.cur s.issued s.fresh
    exact this
  have h1 : f t = { f s with cores := t.cores, cur := t.cur, issued := t.issued, fresh := t.fresh } := by
    conv_lhs => rw [ht]
    exact hf s _ _ _ _
  have hc : ∀ k, coreOf (f t) k = coreOf t k := fun k => by rw [h1]; rfl
  have hd : ∀ k, coreOf (f s) k = coreOf s k := fun k => by rw [hs]; rfl
  refine ⟨fun a => by rw [hm, hm]; exact h.memory a, ?_, ?_, by rw [hc, hd]; exact h.core, fun n hn => by rw [hc, hd]; exact h.groups n hn,
    fun n hn => by rw [hc, hd]; exact h.teams n hn, by rw [hc]; exact h.team, by rw [hc, hd]; exact h.ops⟩
  · rw [h1]
    conv_rhs => rw [hs]
    conv_lhs => rw [hs]
    rfl
  · intro k hk
    have e1 : (f t).cores = t.cores := by rw [h1]
    have e2 : (f s).cores = s.cores := by rw [hs]
    rw [e1, e2]
    exact h.cores k hk

theorem onlyGroup_onCtx {s t : State} {i : Issuer} (h : OnlyGroup s t i) (n : Nat) (f : Ctx → Ctx) : OnlyGroup (onCtx s n f) (onCtx t n f) i :=
  onlyGroup_base h (fun u => onCtx u n f) (fun _ _ _ _ _ => rfl) (fun _ => rfl)

theorem onlyGroup_countAstat {s t : State} {i : Issuer} (h : OnlyGroup s t i) (n : Nat) (sat div : Mask) :
    OnlyGroup (countAstat s n sat div) (countAstat t n sat div) i := by
  unfold countAstat
  split
  · exact h
  · exact onlyGroup_onCtx h _ _

theorem holds_countAstat {s : State} {i : Issuer} {g : Group} (h : Holds s i g) (n : Nat) (sat div : Mask) : Holds (countAstat s n sat div) i g := by
  unfold countAstat
  split <;> exact h

/-! ### Reading sources -/

/-- Reading names changes nothing but the counter of free values. -/
theorem readView_state (s : State) (g : Group) (ns : List Nat) : (readView s g ns).1 = { s with fresh := (readView s g ns).1.fresh } := by
  unfold readView
  generalize g.pend.filter (fun p => ns.contains p.name) = l
  generalize hg : g = g0
  clear hg
  induction l generalizing s g0 with
  | nil => rfl
  | cons p r ih =>
    simp only [List.foldl_cons]
    rw [ih]

theorem onlyGroup_fresh {s t : State} {i : Issuer} (h : OnlyGroup s t i) (n : Nat) : OnlyGroup s { t with fresh := n } i := by
  apply onlyGroup_step h
  · rfl
  · rfl
  · intro k _
    rfl
  · rfl
  · intro n _
    rfl
  · intro n _
    rfl
  · intro tm htm
    exact ⟨tm, htm, rfl⟩
  · rfl

theorem holds_fresh {s : State} {i : Issuer} {g : Group} (h : Holds s i g) (n : Nat) : Holds { s with fresh := n } i g := h

/-! ### Releases -/

theorem opFrames_poison (c : CoreState) (uid gid : Nat) (ns : List Nat) : opFrames (poisonSources c uid gid ns) = opFrames c := by
  unfold opFrames poisonSources
  simp only [List.map_map]
  apply List.map_congr_left
  intro e _
  simp only [Function.comp]
  split
  · split <;> rfl
  · rfl

theorem unlatch_frame (c : CoreState) (slot : Nat) (ns : List Nat) : unlatch c slot ns = { c with latches := (unlatch c slot ns).latches } := by
  unfold unlatch
  split
  · split <;> rfl
  · rfl

theorem poison_frame (c : CoreState) (uid gid : Nat) (ns : List Nat) : poisonSources c uid gid ns = { c with ops := (poisonSources c uid gid ns).ops } := rfl

theorem onlyGroup_applyReleases {s t : State} {i : Issuer} {g : Group} (h : OnlyGroup s t i) (hg : Holds t i g) (p : Plan) :
    OnlyGroup s (applyReleases t i p) i := by
  unfold applyReleases
  apply onlyGroup_onCore (onlyGroup_onIssuing h hg _)
  · rw [poison_frame, unlatch_frame]
    rfl
  · intro n _
    rw [poison_frame, unlatch_frame]
    rfl
  · intro n _
    rw [poison_frame, unlatch_frame]
    rfl
  · intro tm htm
    rw [poison_frame, unlatch_frame]
    exact ⟨tm, htm, rfl⟩
  · rw [opFrames_poison, unlatch_frame]
    rfl

theorem holds_applyReleases {s : State} {i : Issuer} {g : Group} (h : Holds s i g) (p : Plan) :
    Holds (applyReleases s i p) i (releaseNames g (released p.rel (p.dst.map (·.1)))) := by
  unfold applyReleases
  apply holds_onCore (holds_onIssuing h _ rfl rfl)
  rw [poison_frame, unlatch_frame]

/-! ### The end of an issue -/

theorem replaceEntry_frame (g : Group) (e : Entry) (parts : List Entry) : replaceEntry g e parts = { g with entries := (replaceEntry g e parts).entries } := rfl

/-- An issue with no trap: the group's frontier changes, and it has begun. -/
theorem endIssue_noTraps {s : State} {i : Issuer} {g : Group} (hg : Holds s i g) (issued : Bool) (parts : List Entry) :
    ∃ t, endIssue s i issued parts [] = t ∧ t.issued = issued ∧ t.cur = none ∧ Holds t i { replaceEntry g i.e parts with begun := true } := by
  refine ⟨_, rfl, rfl, rfl, ?_⟩
  unfold endIssue takeTraps
  simp only [List.flatMap_nil, List.foldl_nil, List.append_nil]
  have h1 := holds_onIssuing hg (fun g => { replaceEntry g i.e parts with begun := true }) rfl rfl
  have h2 : Holds (markBegun (onIssuing s i (fun g => { replaceEntry g i.e parts with begun := true })) i) i { replaceEntry g i.e parts with begun := true } := by
    unfold markBegun
    exact holds_onCore h1 _ rfl
  exact h2

theorem onlyGroup_endIssue {s t : State} {i : Issuer} {g : Group} (h : OnlyGroup s t i) (hg : Holds t i g) (issued : Bool) (parts : List Entry) :
    OnlyGroup s (endIssue t i issued parts []) i := by
  unfold endIssue takeTraps
  simp only [List.flatMap_nil, List.foldl_nil, List.append_nil]
  have h1 := onlyGroup_onIssuing h hg (fun g => { replaceEntry g i.e parts with begun := true })
  have h2 : OnlyGroup s (markBegun (onIssuing t i (fun g => { replaceEntry g i.e parts with begun := true })) i) i := by
    unfold markBegun
    apply onlyGroup_onCore h1
    · rfl
    · intro n _
      rfl
    · intro n hn
      simp only [teamOf, look_alter, hn, if_false]
    · intro tm htm
      simp only [teamOf, look_alter, if_true] at htm ⊢
      simp only [htm, Option.map_some]
      refine ⟨_, rfl, ?_⟩
      split <;> rfl
    · rfl
  apply onlyGroup_step h2
  · rfl
  · rfl
  · intro k _
    rfl
  · rfl
  · intro n _
    rfl
  · intro n _
    rfl
  · intro tm htm
    exact ⟨tm, htm, rfl⟩
  · rfl

/-! ### An instruction at its issue -/

/-- A legal instruction with an active lane runs its effect. -/
theorem onIssue_effect {s : State} {i : Issuer} {f : Fx} {transfer : Bool} {p : Plan} (h : Issues s i f transfer p) (effect : Issuer → Mask → State)
    (rel : List Nat := relNames f) : onIssue s f transfer effect rel = .next (effect i (i.active f)) := by
  unfold onIssue whenIssuing
  rw [h.issuing]
  simp only [h.legal]
  rw [if_neg (by simpa using h.active), if_neg (by simp [h.clean])]

/-- What passes the checks goes on. -/
theorem passing_pass {s : State} {i : Issuer} {p : Plan} (h : gate s i p = .pass) (effect : State → State) : passing s i p effect = effect s := by
  unfold passing
  rw [h]

end Sys2Proof.Machine
end

