-- ==== Sys2Proof/Laws/Alu.lean ====
section
/-! SUPPORT. What the register instructions do, once for each shared shape (`writeLanes`, `predOp`). -/

namespace Sys2Proof.Machine

/-! ### Register files after a write -/

theorem pReg_setP (g : Group) (n k : Nat) (m : Mask) (hk : k ≠ 7) : pReg (setP g n m) k = if k = n then m else pReg g k := by
  unfold pReg setP
  by_cases hn : n = 7
  · simp [hn, hk]
  · by_cases h : k = n
    · subst h; simp [hk, lookD_putD_self]
    · simp [hn, hk, h, lookD_putD_ne]

theorem sReg_setS (g : Group) (n k : Nat) (x : Word) : sReg (setS g n x) k = if k = n then x else sReg g k := by
  unfold sReg setS
  by_cases h : k = n
  · subst h; simp [lookD_putD_self]
  · simp [h, lookD_putD_ne]

theorem look_dels {α : Type} (ns : List Nat) (m : AMap α) (k : Nat) : look (ns.foldl (fun v n => del v n) m) k = if k ∈ ns then none else look m k := by
  induction ns generalizing m with
  | nil => simp
  | cons n r ih =>
    simp only [List.foldl_cons, ih, List.mem_cons]
    by_cases h : k = n
    · subst h; simp [look_del_self]
    · simp [h, look_del_ne]

theorem look_releaseNames (g : Group) (ns : List Nat) (k : Nat) : look (releaseNames g ns).v k = if k ∈ ns then none else look g.v k :=
  look_dels ns g.v k

theorem laneNums_getD (f : Nat → Word) (l : Nat) (h : l < 32) : (laneNums.map f).getD l 0 = f l := by
  have : laneNums.length = 32 := rfl
  have h2 : l < laneNums.length := by omega
  rw [List.getD_eq_getElem?_getD, List.getElem?_map, List.getElem?_eq_getElem h2]
  simp only [Option.map_some, Option.getD_some]
  congr 1
  revert l
  decide

theorem look_writeName_self (g : Group) (n : Nat) (toUni : Bool) (m : Mask) (f : Nat → Word) :
    look (writeName g n toUni m f).v n = some (if toUni then .uni (f (lowestLane m)) else .full (laneNums.map (fun l => if inMask m l then f l else vLane g n l))) :=
  look_put_self _ _ _

theorem look_writeName_ne (g : Group) {n k : Nat} (toUni : Bool) (m : Mask) (f : Nat → Word) (h : k ≠ n) :
    look (writeName g n toUni m f).v k = look g.v k := look_put_ne _ _ h

/-- A lane of a written name. -/
theorem vLane_writeName (g : Group) (n : Nat) (toUni : Bool) (m : Mask) (f : Nat → Word) (l : Nat) (h : l < 32) :
    vLane (writeName g n toUni m f) n l = if toUni then f (lowestLane m) else if inMask m l then f l else vLane g n l := by
  rw [vLane, look_writeName_self]
  cases toUni
  · simp only [VReg.lane, Bool.false_eq_true, if_false]
    rw [laneNums_getD _ l h]
  · simp [VReg.lane]

/-! ### A write at issue -/

theorem spoilNames_none (s : State) (g : Group) (n : Nat) (h : ∀ p ∈ g.pend, p.name ≠ n) : spoilNames s g [n] = (s, g) := by
  unfold spoilNames
  have : g.pend.filter (fun p => [n].contains p.name) = [] := by
    rw [List.filter_eq_nil_iff]
    intro p hp
    simpa using h p hp
  rw [this]
  rfl

/-- Spoiling a name touches that name and its pending results alone. -/
theorem spoilNames_frame (s : State) (g : Group) (n : Nat) :
    (spoilNames s g [n]).1 = { s with fresh := (spoilNames s g [n]).1.fresh } ∧
      (spoilNames s g [n]).2 = { g with v := (spoilNames s g [n]).2.v, pend := (spoilNames s g [n]).2.pend } ∧
      ∀ k, k ≠ n → look (spoilNames s g [n]).2.v k = look g.v k := by
  unfold spoilNames
  generalize hl : g.pend.filter (fun p => [n].contains p.name) = l
  have hmem : ∀ p ∈ l, p.name = n := by
    intro p hp
    rw [← hl] at hp
    simpa using (List.mem_filter.mp hp).2
  clear hl
  induction l generalizing s g with
  | nil => exact ⟨rfl, rfl, fun _ _ => rfl⟩
  | cons p r ih =>
    simp only [List.foldl_cons]
    obtain ⟨h1, h2, h3⟩ := ih { s with fresh := s.fresh + 32 }
      { g with v := put g.v p.name (freeLike (look g.v p.name) s.fresh), pend := g.pend.map (fun q => if q.name = p.name then { q with spoiled := true } else q) }
      (fun q hq => hmem q (by simp [hq]))
    refine ⟨?_, ?_, ?_⟩
    · rw [h1]
    · rw [h2]
    · intro k hk
      rw [h3 k hk]
      have : p.name = n := hmem p (by simp)
      exact look_put_ne _ _ (by rw [this]; exact hk)

/-- The state and the group after `writeNow`. -/
theorem writeNow_spec {s t : State} {i : Issuer} {g : Group} (h : OnlyGroup s t i) (hg : Holds t i g) (n : Nat) (toUni : Bool) (m : Mask) (f : Nat → Word) :
    ∃ g', OnlyGroup s (writeNow t i n toUni m f) i ∧ Holds (writeNow t i n toUni m f) i g' ∧
      g' = { g with v := g'.v, badV := g'.badV, pend := g'.pend } ∧ (∀ k, k ≠ n → look g'.v k = look g.v k) ∧
      ((∀ p ∈ g.pend, p.name ≠ n) → g' = writeName g n toUni m f) ∧ (writeNow t i n toUni m f).cur = t.cur := by
  obtain ⟨h1, h2, h3⟩ := spoilNames_frame t (writeName g n toUni m f) n
  refine ⟨(spoilNames t (writeName g n toUni m f) [n]).2, ?_, ?_, ?_, ?_, ?_, ?_⟩
  · unfold writeNow
    simp only [groupNow_of_holds hg]
    rw [h1]
    exact onlyGroup_onIssuing (onlyGroup_fresh h _) (holds_fresh hg _) _
  · unfold writeNow
    simp only [groupNow_of_holds hg]
    rw [h1]
    apply holds_onIssuing (holds_fresh hg _)
    · rw [h2]; rfl
    · rw [h2]; rfl
  · rw [h2]; rfl
  · intro k hk
    rw [h3 k hk]
    exact look_writeName_ne g toUni m f hk
  · intro hp
    rw [spoilNames_none t (writeName g n toUni m f) n hp]
  · unfold writeNow
    simp only [groupNow_of_holds hg]
    rw [h1]
    rfl

/-- The destination is written: the state, the group, its registers. -/
theorem writeDest_spec {s t : State} {i : Issuer} {g : Group} (h : OnlyGroup s t i) (hg : Holds t i g) (d : Opnd) (uni : Bool) (m : Mask) (f : Nat → Word) :
    ∃ g', OnlyGroup s (writeDest t i d uni m f) i ∧ Holds (writeDest t i d uni m f) i g' ∧
      g' = { g with v := g'.v, badV := g'.badV, s := g'.s, badS := g'.badS, pend := g'.pend } ∧ (∀ k, k ∉ opNames d → look g'.v k = look g.v k) ∧
      (∀ n, d = .v n → (∀ p ∈ g.pend, p.name ≠ n.toNat) → g' = writeName g n.toNat uni m f) ∧
      (∀ n, d = .s n → sReg g' n.toNat = f (lowestLane m)) ∧ (∀ k, k ∉ opSNames d → sReg g' k = sReg g k) ∧
      (writeDest t i d uni m f).cur = t.cur := by
  cases d with
  | v n =>
    obtain ⟨g', h1, h2, h3, h4, h5, h6⟩ := writeNow_spec h hg n.toNat uni m f
    refine ⟨g', h1, h2, by rw [h3], ?_, ?_, ?_, ?_, h6⟩
    · intro k hk
      exact h4 k (by simpa [opNames] using hk)
    · intro n' hn hp
      cases hn
      exact h5 hp
    · intro n' hn
      cases hn
    · intro k _
      rw [h3]
      rfl
  | s n =>
    refine ⟨setS g n.toNat (f (lowestLane m)), onlyGroup_onIssuing h hg _, holds_onIssuing hg _ rfl rfl, rfl, fun _ _ => rfl, ?_, ?_, ?_, ?_⟩
    · intro n' hn
      cases hn
    · intro n' hn
      cases hn
      simp [sReg_setS]
    · intro k hk
      rw [sReg_setS, if_neg (by simpa [opSNames] using hk)]
    · show (onIssuing t i _).cur = t.cur
      rw [onIssuing_eq hg]
      rfl
  | p n => exact ⟨g, h, hg, rfl, fun _ _ => rfl, nofun, nofun, fun _ _ => rfl, rfl⟩
  | k c => exact ⟨g, h, hg, rfl, fun _ _ => rfl, nofun, nofun, fun _ _ => rfl, rfl⟩
  | none => exact ⟨g, h, hg, rfl, fun _ _ => rfl, nofun, nofun, fun _ _ => rfl, rfl⟩
  | reserved c => exact ⟨g, h, hg, rfl, fun _ _ => rfl, nofun, nofun, fun _ _ => rfl, rfl⟩

theorem maskWhere_false : maskWhere (fun _ => false) = 0 := by decide

/-- The end of an instruction with no trap. -/
theorem complete_spec {s t : State} {i : Issuer} {g : Group} (h : OnlyGroup s t i) (hg : Holds t i g) :
    OnlyGroup s (complete t i []) i ∧ (complete t i []).issued = true ∧ (complete t i []).cur = none ∧
      Holds (complete t i []) i { replaceEntry g i.e [i.onward (i.others 0)] with begun := true } := by
  unfold complete
  simp only [List.foldl_nil]
  obtain ⟨u, hu, h1, h2, h3⟩ := endIssue_noTraps hg true [i.onward (i.others 0)]
  rw [hu]
  refine ⟨?_, h1, h2, h3⟩
  rw [← hu]
  exact onlyGroup_endIssue h hg _ _

theorem others_zero (i : Issuer) : i.others 0 = i.e.mask := by
  have h : ~~~ (0 : Mask) = BitVec.allOnes 32 := by decide
  unfold Issuer.others
  rw [h, BitVec.and_allOnes]

/-- The end of an instruction with no trap, as statements put it. -/
theorem complete_issued {s t : State} {i : Issuer} {g : Group} (h : OnlyGroup s t i) (hg : Holds t i g) (he : g.entries = i.g.entries) :
    Issued s (complete t i []) i [i.onward i.e.mask] { replaceEntry g i.e [i.onward i.e.mask] with begun := true } := by
  obtain ⟨h1, h2, h3, h4⟩ := complete_spec h hg
  rw [others_zero] at h4
  refine ⟨h2, h3, h1, h4.1, ?_⟩
  unfold replaceEntry
  rw [he]

/-- The names gone and the sources read are those of the instruction. -/
theorem fxPlan_gone (i : Issuer) (f : Fx) (m : Mask) (cls : Nat) (uni : Bool) :
    released (fxPlan i f m cls uni).rel ((fxPlan i f m cls uni).dst.map (·.1)) = goneNames f := by
  unfold fxPlan goneNames
  simp [List.map_map, Function.comp_def]

theorem not_gone_of_dest {f : Fx} {n : Nat} (h : n ∈ opNames f.d) : n ∉ goneNames f := by
  unfold goneNames released
  intro hm
  have := (List.mem_filter.mp hm).2
  simp [h] at this

theorem pend_releaseNames {g : Group} {ns : List Nat} {n : Nat} (h : ∀ p ∈ g.pend, p.name ≠ n) : ∀ p ∈ (releaseNames g ns).pend, p.name ≠ n :=
  fun p hm => h p (List.mem_filter.mp hm).1

/-- The registers after the releases of an instruction and the write of its destination. -/
theorem vectorResult_of {i : Issuer} {f : Fx} {uni : Bool} {m : Mask} {val : Nat → Word} {g : Group}
    (others : ∀ k, k ∉ opNames f.d → look g.v k = look (releaseNames i.g (goneNames f)).v k)
    (written : ∀ n, f.d = .v n → (∀ p ∈ (releaseNames i.g (goneNames f)).pend, p.name ≠ n.toNat) → g.v = (writeName (releaseNames i.g (goneNames f)) n.toNat uni m val).v) :
    VectorResult i g f uni m val := by
  have hv : ∀ (n : BitVec 7), f.d = .v n → (∀ p ∈ i.g.pend, p.name ≠ n.toNat) → ∀ k, vLane g n.toNat k = vLane (writeName (releaseNames i.g (goneNames f)) n.toNat uni m val) n.toNat k := by
    intro n hd hp k
    unfold vLane
    rw [written n hd (pend_releaseNames hp)]
  refine ⟨?_, ?_, ?_, ?_⟩
  · intro n hd hp l hl hm
    rw [hv n hd hp, vLane_writeName _ _ _ _ _ _ hl]
    cases uni
    · simp [hm]
    · rfl
  · intro n hd hp hu
    rw [written n hd (pend_releaseNames hp), look_writeName_self]
    simp [hu]
  · intro n hd hp hu l hl hm
    rw [hv n hd hp, vLane_writeName _ _ _ _ _ _ hl]
    simp only [hu, Bool.false_eq_true, if_false, hm]
    have hn : n.toNat ∉ goneNames f := not_gone_of_dest (by simp [opNames, hd])
    unfold vLane
    rw [look_releaseNames, if_neg hn]
  · intro n hn
    rw [others n hn, look_releaseNames]

/-- WHAT A CLASS 0 INSTRUCTION THAT WRITES ITS RESULT AT ISSUE DOES. -/
theorem writeLanes_saturates {s : State} {i : Issuer} {f : Fx} (uni : Issuer → Mask → Bool) (val : Group → Mask → Nat → Word × Bool)
    (h : Issues s i f false (fxPlan i f (i.active f) 0 (uni i (i.active f)))) :
    WritesSaturating s i f (uni i (i.active f)) (fun g m l => (val g m l).1) (fun g m l => (val g m l).2) (writeLanes s f uni val) := by
  have hs := issuer_slot h.issuing
  have hg0 := holds_of_issuer h.issuing
  have hk0 := onlyGroup_refl hs.2.1
  unfold WritesSaturating writeLanes
  rw [onIssue_effect h]
  simp only [passing_pass h.passes]
  have hv : (fxPlan i f (i.active f) 0 (uni i (i.active f))).srcs = srcNames f := rfl
  rw [hv]
  generalize hview : readView s i.g (srcNames f) = rv
  obtain ⟨s1, g1⟩ := rv
  have hs1 : s1 = { s with fresh := s1.fresh } := by
    have := readView_state s i.g (srcNames f)
    rw [hview] at this
    exact this
  have hk1 : OnlyGroup s s1 i := by rw [hs1]; exact onlyGroup_fresh hk0 _
  have hg1 : Holds s1 i i.g := by rw [hs1]; exact holds_fresh hg0 _
  have hk2 := onlyGroup_applyReleases hk1 hg1 (fxPlan i f (i.active f) 0 (uni i (i.active f)))
  have hg2 := holds_applyReleases hg1 (fxPlan i f (i.active f) 0 (uni i (i.active f)))
  rw [fxPlan_gone] at hg2
  obtain ⟨g3, hk3, hg3, e3, v3, w3, s3, t3, _⟩ := writeDest_spec hk2 hg2 f.d (uni i (i.active f)) (i.active f) (fun l => (val g1 (i.active f) l).1)
  simp only
  generalize maskWhere (fun l => inMask (i.active f) l && (val g1 (i.active f) l).2) = sm
  have hk4 := onlyGroup_countAstat (onlyGroup_onIssuing hk3 hg3 (fun g => setAstat g sm 0)) i.ctx sm 0
  have hg4 := holds_countAstat (holds_onIssuing hg3 (fun g => setAstat g sm 0) rfl rfl) i.ctx sm 0
  have hi := complete_issued hk4 hg4 (by show g3.entries = _; rw [e3]; rfl)
  refine ⟨_, _, rfl, hi, vectorResult_of v3 (fun n hd hp => by
      have := w3 n hd hp
      show g3.v = _
      rw [this]), ⟨s3, t3⟩, ?_, ?_, ?_⟩
  · show g3.p = i.g.p
    rw [e3]
    rfl
  · show g3.astat ||| _ = _
    rw [e3]
    simp
    rfl
  · show Group.besides { replaceEntry (setAstat g3 sm 0) i.e [i.onward i.e.mask] with begun := true } i.g = i.g
    rw [e3]
    rfl

/-- The same of one that cannot saturate. -/
theorem writeLanes_writes {s : State} {i : Issuer} {f : Fx} (uni : Issuer → Mask → Bool) (val : Group → Mask → Nat → Word × Bool)
    (hsat : ∀ g m l, (val g m l).2 = false) (h : Issues s i f false (fxPlan i f (i.active f) 0 (uni i (i.active f)))) :
    WritesResult s i f (uni i (i.active f)) (fun g m l => (val g m l).1) (writeLanes s f uni val) := by
  obtain ⟨t, g, h1, h2, h3, h4, h5, h6, h7⟩ := writeLanes_saturates uni val h
  simp only [hsat, Bool.and_false, maskWhere_false] at h2 h6
  refine ⟨t, g, h1, h2, h3, h4, h5, ?_, h7⟩
  simpa using h6

theorem lane_law {ins : Instr} {f : Fx} {uni : Issuer → Mask → Bool} (val : Group → Mask → Nat → Word)
    (he : ∀ s, exec ins s = writeLanes s f uni (fun g m l => (val g m l, false))) : LaneLaw ins f uni val := by
  intro s i h
  rw [he]
  exact writeLanes_writes uni (fun g m l => (val g m l, false)) (fun _ _ _ => rfl) h

theorem sat_law {ins : Instr} {f : Fx} {uni : Issuer → Mask → Bool} (val : Group → Mask → Nat → Word × Bool)
    (he : ∀ s, exec ins s = writeLanes s f uni val) : SatLaw ins f uni (fun g m l => (val g m l).1) (fun g m l => (val g m l).2) := by
  intro s i h
  rw [he]
  exact writeLanes_saturates uni val h

/-- WHAT A CLASS 0 INSTRUCTION THAT WRITES A PREDICATE DOES. -/
theorem predOp_writes {s : State} {i : Issuer} {f : Fx} (bit : Group → Mask → Nat → Bool)
    (h : Issues s i f false (fxPlan i f (i.active f) 0 false)) : WritesPredicate s i f bit (predOp s f bit) := by
  have hs := issuer_slot h.issuing
  have hg0 := holds_of_issuer h.issuing
  have hk0 := onlyGroup_refl hs.2.1
  unfold WritesPredicate predOp
  rw [onIssue_effect h]
  simp only [passing_pass h.passes]
  have hv : (fxPlan i f (i.active f) 0 false).srcs = srcNames f := rfl
  rw [hv]
  generalize hview : readView s i.g (srcNames f) = rv
  obtain ⟨s1, g1⟩ := rv
  have hs1 : s1 = { s with fresh := s1.fresh } := by
    have := readView_state s i.g (srcNames f)
    rw [hview] at this
    exact this
  have hk1 : OnlyGroup s s1 i := by rw [hs1]; exact onlyGroup_fresh hk0 _
  have hg1 : Holds s1 i i.g := by rw [hs1]; exact holds_fresh hg0 _
  have hk2 := onlyGroup_applyReleases hk1 hg1 (fxPlan i f (i.active f) 0 false)
  have hg2 := holds_applyReleases hg1 (fxPlan i f (i.active f) 0 false)
  rw [fxPlan_gone] at hg2
  have hk3 := onlyGroup_onIssuing hk2 hg2 (fun h => writePred h f.d.num (i.active f) (bit g1 (i.active f)))
  have hfr : ∀ (g : Group) (n : Nat) (m : Mask) (b : Nat → Bool), writePred g n m b = { g with p := (writePred g n m b).p } := by
    intro g n m b
    unfold writePred setP
    split <;> rfl
  have hg3 := holds_onIssuing hg2 (fun h => writePred h f.d.num (i.active f) (bit g1 (i.active f))) (by rw [hfr]) (by rw [hfr])
  have hi := complete_issued hk3 hg3 (by rw [hfr]; rfl)
  refine ⟨_, _, rfl, hi, ?_, ?_, ?_, ?_, ?_⟩
  · intro n hn
    show pReg (writePred (releaseNames i.g (goneNames f)) f.d.num (i.active f) (bit g1 (i.active f))) n = _
    unfold writePred
    rw [pReg_setP _ _ _ _ hn]
    by_cases hnd : n = f.d.num
    · subst hnd
      simp only [if_true]
      rfl
    · simp only [hnd, if_false]
      rfl
  · intro n
    show look (writePred (releaseNames i.g (goneNames f)) f.d.num (i.active f) (bit g1 (i.active f))).v n = _
    rw [hfr]
    exact look_releaseNames _ _ _
  · show (writePred (releaseNames i.g (goneNames f)) f.d.num (i.active f) (bit g1 (i.active f))).s = _
    rw [hfr]
    rfl
  · show (writePred (releaseNames i.g (goneNames f)) f.d.num (i.active f) (bit g1 (i.active f))).astat = _
    rw [hfr]
    rfl
  · show Group.besides { replaceEntry (writePred (releaseNames i.g (goneNames f)) f.d.num (i.active f) (bit g1 (i.active f))) i.e [i.onward i.e.mask] with begun := true } i.g = i.g
    rw [hfr]
    rfl

theorem pred_law {ins : Instr} {f : Fx} {bit : Group → Mask → Nat → Bool} (he : ∀ s, exec ins s = predOp s f bit) : PredLaw ins f bit := by
  intro s i h
  rw [he]
  exact predOp_writes bit h

end Sys2Proof.Machine
end

