-- ==== Sys2Proof/Laws/Bits.lean ====
section
/-! SUPPORT. Masks of lanes by their bits. -/

namespace Sys2Proof.Machine

theorem foldl_bits (p : Nat → Bool) (n : Nat) :
    (List.range n).foldl (fun a l => if p l then a + 2 ^ l else a) 0 < 2 ^ n ∧
      ∀ l, l < n → ((List.range n).foldl (fun a l => if p l then a + 2 ^ l else a) 0).testBit l = p l := by
  induction n with
  | zero => exact ⟨by simp, fun l h => absurd h (Nat.not_lt_zero l)⟩
  | succ n ih =>
    obtain ⟨h1, h2⟩ := ih
    rw [List.range_succ, List.foldl_append]
    simp only [List.foldl_cons, List.foldl_nil]
    generalize (List.range n).foldl (fun a l => if p l then a + 2 ^ l else a) 0 = a at h1 h2
    have hpow : 2 ^ (n + 1) = 2 ^ n + 2 ^ n := by omega
    split
    · rename_i hp
      refine ⟨by omega, fun l hl => ?_⟩
      rw [Nat.add_comm a]
      by_cases h : l = n
      · subst h
        rw [Nat.testBit_two_pow_add_eq, Nat.testBit_lt_two_pow h1, hp]
        rfl
      · rw [Nat.testBit_two_pow_add_gt (by omega)]
        exact h2 l (by omega)
    · rename_i hp
      refine ⟨by omega, fun l hl => ?_⟩
      by_cases h : l = n
      · subst h
        rw [Nat.testBit_lt_two_pow h1]
        simpa using hp
      · exact h2 l (by omega)

/-- A lane is in the mask of a test when it satisfies it. -/
theorem inMask_maskWhere (p : Nat → Bool) (l : Nat) (h : l < 32) : inMask (maskWhere p) l = p l := by
  obtain ⟨h1, h2⟩ := foldl_bits p 32
  unfold inMask maskWhere laneNums
  rw [BitVec.getLsbD_ofNat, h2 l h]
  simp [h]

/-- The lanes of a mask. -/
theorem mem_lanesIn (m : Mask) (l : Nat) : l ∈ lanesIn m ↔ l < 32 ∧ inMask m l = true := by
  unfold lanesIn laneNums
  simp

/-- A mask by its lanes. -/
theorem mask_ext {a b : Mask} (h : ∀ l, l < 32 → inMask a l = inMask b l) : a = b := by
  ext l hl
  have := h l hl
  unfold inMask at this
  simpa [BitVec.getLsbD_eq_getElem hl] using this

theorem maskWhere_inMask (m : Mask) : maskWhere (inMask m) = m := mask_ext fun l h => inMask_maskWhere _ l h

end Sys2Proof.Machine
end

