-- ==== Sys2Proof/Laws/Exec.lean ====
section
/-! SUPPORT. The meaning of each constructor, as an equation. -/

namespace Sys2Proof.Machine

theorem exec_reservedOpcode (r : Illegal) (s : State) : exec (.reservedOpcode r) s = execReservedOpcode r s := rfl
theorem exec_clause (h : Header) (s : State) : exec (.clause h) s = execClause h s := rfl
theorem exec_nop (f : Fx) (s : State) : exec (.nop f) s = execNop f s := rfl
theorem exec_bra (f : Fx) (s : State) : exec (.bra f) s = execBra f s := rfl
theorem exec_brx (f : Fx) (s : State) : exec (.brx f) s = execBrx f s := rfl
theorem exec_call (f : Fx) (s : State) : exec (.call f) s = execCall f s := rfl
theorem exec_callx (f : Fx) (s : State) : exec (.callx f) s = execCallx f s := rfl
theorem exec_ret (f : Fx) (s : State) : exec (.ret f) s = execRet f s := rfl
theorem exec_join (f : Fx) (s : State) : exec (.join f) s = execJoin f s := rfl
theorem exec_exit (f : Fx) (s : State) : exec (.exit f) s = execExit f s := rfl
theorem exec_yield (f : Fx) (s : State) : exec (.yield f) s = execYield f s := rfl
theorem exec_waitf (f : Fx) (s : State) : exec (.waitf f) s = execWaitf f s := rfl
theorem exec_barSync (f : Fx) (s : State) : exec (.barSync f) s = execBarSync f s := rfl
theorem exec_barArv (f : Fx) (s : State) : exec (.barArv f) s = execBarArv f s := rfl
theorem exec_barWait (f : Fx) (s : State) : exec (.barWait f) s = execBarWait f s := rfl
theorem exec_cbar (f : Fx) (s : State) : exec (.cbar f) s = execCbar f s := rfl
theorem exec_voteAny (f : Fx) (s : State) : exec (.voteAny f) s = execVoteAny f s := rfl
theorem exec_voteAll (f : Fx) (s : State) : exec (.voteAll f) s = execVoteAll f s := rfl
theorem exec_voteBal (f : Fx) (s : State) : exec (.voteBal f) s = execVoteBal f s := rfl
theorem exec_plop (f : Fx) (s : State) : exec (.plop f) s = execPlop f s := rfl
theorem exec_pmov (f : Fx) (s : State) : exec (.pmov f) s = execPmov f s := rfl
theorem exec_launch (f : Fx) (s : State) : exec (.launch f) s = execLaunch f s := rfl
theorem exec_trap (f : Fx) (s : State) : exec (.trap f) s = execTrap f s := rfl
theorem exec_bkpt (f : Fx) (s : State) : exec (.bkpt f) s = execBkpt f s := rfl
theorem exec_iadd (f : Fx) (s : State) : exec (.iadd f) s = execIadd f s := rfl
theorem exec_isub (f : Fx) (s : State) : exec (.isub f) s = execIsub f s := rfl
theorem exec_iaddc (f : Fx) (s : State) : exec (.iaddc f) s = execIaddc f s := rfl
theorem exec_imul (f : Fx) (s : State) : exec (.imul f) s = execImul f s := rfl
theorem exec_imulh (f : Fx) (s : State) : exec (.imulh f) s = execImulh f s := rfl
theorem exec_imad (f : Fx) (s : State) : exec (.imad f) s = execImad f s := rfl
theorem exec_imadw (f : Fx) (s : State) : exec (.imadw f) s = execImadw f s := rfl
theorem exec_idiv (f : Fx) (s : State) : exec (.idiv f) s = execIdiv f s := rfl
theorem exec_irem (f : Fx) (s : State) : exec (.irem f) s = execIrem f s := rfl
theorem exec_imin (f : Fx) (s : State) : exec (.imin f) s = execImin f s := rfl
theorem exec_imax (f : Fx) (s : State) : exec (.imax f) s = execImax f s := rfl
theorem exec_iabs (f : Fx) (s : State) : exec (.iabs f) s = execIabs f s := rfl
theorem exec_ineg (f : Fx) (s : State) : exec (.ineg f) s = execIneg f s := rfl
theorem exec_isad (f : Fx) (s : State) : exec (.isad f) s = execIsad f s := rfl
theorem exec_icmp (f : Fx) (s : State) : exec (.icmp f) s = execIcmp f s := rfl
theorem exec_ipick (f : Fx) (s : State) : exec (.ipick f) s = execIpick f s := rfl
theorem exec_shl (f : Fx) (s : State) : exec (.shl f) s = execShl f s := rfl
theorem exec_shr (f : Fx) (s : State) : exec (.shr f) s = execShr f s := rfl
theorem exec_sar (f : Fx) (s : State) : exec (.sar f) s = execSar f s := rfl
theorem exec_rot (f : Fx) (s : State) : exec (.rot f) s = execRot f s := rfl
theorem exec_fshf (f : Fx) (s : State) : exec (.fshf f) s = execFshf f s := rfl
theorem exec_andBits (f : Fx) (s : State) : exec (.andBits f) s = execAndBits f s := rfl
theorem exec_orBits (f : Fx) (s : State) : exec (.orBits f) s = execOrBits f s := rfl
theorem exec_xorBits (f : Fx) (s : State) : exec (.xorBits f) s = execXorBits f s := rfl
theorem exec_notBits (f : Fx) (s : State) : exec (.notBits f) s = execNotBits f s := rfl
theorem exec_blut (f : Fx) (s : State) : exec (.blut f) s = execBlut f s := rfl
theorem exec_popc (f : Fx) (s : State) : exec (.popc f) s = execPopc f s := rfl
theorem exec_clz (f : Fx) (s : State) : exec (.clz f) s = execClz f s := rfl
theorem exec_ctz (f : Fx) (s : State) : exec (.ctz f) s = execCtz f s := rfl
theorem exec_brev (f : Fx) (s : State) : exec (.brev f) s = execBrev f s := rfl
theorem exec_bfx (f : Fx) (s : State) : exec (.bfx f) s = execBfx f s := rfl
theorem exec_bfi (f : Fx) (s : State) : exec (.bfi f) s = execBfi f s := rfl
theorem exec_idot (f : Fx) (s : State) : exec (.idot f) s = execIdot f s := rfl
theorem exec_mov (f : Fx) (s : State) : exec (.mov f) s = execMov f s := rfl
theorem exec_cvti (f : Fx) (s : State) : exec (.cvti f) s = execCvti f s := rfl
theorem exec_lea (f : Fx) (s : State) : exec (.lea f) s = execLea f s := rfl
theorem exec_tags (f : Fx) (s : State) : exec (.tags f) s = execTags f s := rfl
theorem exec_tagg (f : Fx) (s : State) : exec (.tagg f) s = execTagg f s := rfl
theorem exec_pack (f : Fx) (s : State) : exec (.pack f) s = execPack f s := rfl
theorem exec_unpk (f : Fx) (s : State) : exec (.unpk f) s = execUnpk f s := rfl
theorem exec_fadd (f : Fx) (s : State) : exec (.fadd f) s = execFadd f s := rfl
theorem exec_fsub (f : Fx) (s : State) : exec (.fsub f) s = execFsub f s := rfl
theorem exec_fmul (f : Fx) (s : State) : exec (.fmul f) s = execFmul f s := rfl
theorem exec_ffma (f : Fx) (s : State) : exec (.ffma f) s = execFfma f s := rfl
theorem exec_fmin (f : Fx) (s : State) : exec (.fmin f) s = execFmin f s := rfl
theorem exec_fmax (f : Fx) (s : State) : exec (.fmax f) s = execFmax f s := rfl
theorem exec_fsetp (f : Fx) (s : State) : exec (.fsetp f) s = execFsetp f s := rfl
theorem exec_fcls (f : Fx) (s : State) : exec (.fcls f) s = execFcls f s := rfl
theorem exec_frnd (f : Fx) (s : State) : exec (.frnd f) s = execFrnd f s := rfl
theorem exec_frcp (f : Fx) (s : State) : exec (.frcp f) s = execFrcp f s := rfl
theorem exec_frsq (f : Fx) (s : State) : exec (.frsq f) s = execFrsq f s := rfl
theorem exec_fsqrt (f : Fx) (s : State) : exec (.fsqrt f) s = execFsqrt f s := rfl
theorem exec_fdiv (f : Fx) (s : State) : exec (.fdiv f) s = execFdiv f s := rfl
theorem exec_fex2 (f : Fx) (s : State) : exec (.fex2 f) s = execFex2 f s := rfl
theorem exec_flg2 (f : Fx) (s : State) : exec (.flg2 f) s = execFlg2 f s := rfl
theorem exec_fsin (f : Fx) (s : State) : exec (.fsin f) s = execFsin f s := rfl
theorem exec_fcos (f : Fx) (s : State) : exec (.fcos f) s = execFcos f s := rfl
theorem exec_ftanh (f : Fx) (s : State) : exec (.ftanh f) s = execFtanh f s := rfl
theorem exec_fsig (f : Fx) (s : State) : exec (.fsig f) s = execFsig f s := rfl
theorem exec_cvtf (f : Fx) (s : State) : exec (.cvtf f) s = execCvtf f s := rfl
theorem exec_f2i (f : Fx) (s : State) : exec (.f2i f) s = execF2i f s := rfl
theorem exec_i2f (f : Fx) (s : State) : exec (.i2f f) s = execI2f f s := rfl
theorem exec_bxenc (f : Fx) (s : State) : exec (.bxenc f) s = execBxenc f s := rfl
theorem exec_bxdec (f : Fx) (s : State) : exec (.bxdec f) s = execBxdec f s := rfl
theorem exec_lxch (f : Fx) (s : State) : exec (.lxch f) s = execLxch f s := rfl
theorem exec_prm (f : Fx) (s : State) : exec (.prm f) s = execPrm f s := rfl
theorem exec_lbc (f : Fx) (s : State) : exec (.lbc f) s = execLbc f s := rfl
theorem exec_redc (f : Fx) (s : State) : exec (.redc f) s = execRedc f s := rfl
theorem exec_scan (f : Fx) (s : State) : exec (.scan f) s = execScan f s := rfl
theorem exec_matchLanes (f : Fx) (s : State) : exec (.matchLanes f) s = execMatchLanes f s := rfl
theorem exec_csamp (f : Fx) (s : State) : exec (.csamp f) s = execCsamp f s := rfl
theorem exec_rng (f : Fx) (s : State) : exec (.rng f) s = execRng f s := rfl
theorem exec_ld (f : Fx) (s : State) : exec (.ld f) s = execLd f s := rfl
theorem exec_st (f : Fx) (s : State) : exec (.st f) s = execSt f s := rfl
theorem exec_lds (f : Fx) (s : State) : exec (.lds f) s = execLds f s := rfl
theorem exec_sts (f : Fx) (s : State) : exec (.sts f) s = execSts f s := rfl
theorem exec_ldu (f : Fx) (s : State) : exec (.ldu f) s = execLdu f s := rfl
theorem exec_stu (f : Fx) (s : State) : exec (.stu f) s = execStu f s := rfl
theorem exec_ldbxs (f : Fx) (s : State) : exec (.ldbxs f) s = execLdbxs f s := rfl
theorem exec_atom (f : Fx) (s : State) : exec (.atom f) s = execAtom f s := rfl
theorem exec_red (f : Fx) (s : State) : exec (.red f) s = execRed f s := rfl
theorem exec_copy (f : Fx) (s : State) : exec (.copy f) s = execCopy f s := rfl
theorem exec_copyf (f : Fx) (s : State) : exec (.copyf f) s = execCopyf f s := rfl
theorem exec_wptr (f : Fx) (s : State) : exec (.wptr f) s = execWptr f s := rfl
theorem exec_pushf (f : Fx) (s : State) : exec (.pushf f) s = execPushf f s := rfl
theorem exec_popf (f : Fx) (s : State) : exec (.popf f) s = execPopf f s := rfl
theorem exec_bankcfg (f : Fx) (s : State) : exec (.bankcfg f) s = execBankcfg f s := rfl
theorem exec_fenceAcq (f : Fx) (s : State) : exec (.fenceAcq f) s = execFenceAcq f s := rfl
theorem exec_fenceRel (f : Fx) (s : State) : exec (.fenceRel f) s = execFenceRel f s := rfl
theorem exec_fenceAr (f : Fx) (s : State) : exec (.fenceAr f) s = execFenceAr f s := rfl
theorem exec_cwb (f : Fx) (s : State) : exec (.cwb f) s = execCwb f s := rfl
theorem exec_cinv (f : Fx) (s : State) : exec (.cinv f) s = execCinv f s := rfl
theorem exec_flush (f : Fx) (s : State) : exec (.flush f) s = execFlush f s := rfl
theorem exec_pref (f : Fx) (s : State) : exec (.pref f) s = execPref f s := rfl
theorem exec_ldtag (f : Fx) (s : State) : exec (.ldtag f) s = execLdtag f s := rfl
theorem exec_sttag (f : Fx) (s : State) : exec (.sttag f) s = execSttag f s := rfl
theorem exec_watch (f : Fx) (s : State) : exec (.watch f) s = execWatch f s := rfl
theorem exec_oprf (f : Fx) (s : State) : exec (.oprf f) s = execOprf f s := rfl
theorem exec_mma (f : Fx) (s : State) : exec (.mma f) s = execMma f s := rfl
theorem exec_mmaw (f : Fx) (s : State) : exec (.mmaw f) s = execMmaw f s := rfl
theorem exec_mopen (f : Fx) (s : State) : exec (.mopen f) s = execMopen f s := rfl
theorem exec_mstg (f : Fx) (s : State) : exec (.mstg f) s = execMstg f s := rfl
theorem exec_mclose (f : Fx) (s : State) : exec (.mclose f) s = execMclose f s := rfl
theorem exec_mabort (f : Fx) (s : State) : exec (.mabort f) s = execMabort f s := rfl
theorem exec_mstat (f : Fx) (s : State) : exec (.mstat f) s = execMstat f s := rfl
theorem exec_rld (f : Fx) (s : State) : exec (.rld f) s = execRld f s := rfl
theorem exec_rst (f : Fx) (s : State) : exec (.rst f) s = execRst f s := rfl
theorem exec_ratom (f : Fx) (s : State) : exec (.ratom f) s = execRatom f s := rfl
theorem exec_puts (f : Fx) (s : State) : exec (.puts f) s = execPuts f s := rfl
theorem exec_getf (f : Fx) (s : State) : exec (.getf f) s = execGetf f s := rfl
theorem exec_fstatc (f : Fx) (s : State) : exec (.fstatc f) s = execFstatc f s := rfl
theorem exec_vcost (f : Fx) (s : State) : exec (.vcost f) s = execVcost f s := rfl
theorem exec_vchk (f : Fx) (s : State) : exec (.vchk f) s = execVchk f s := rfl
theorem exec_vckpt (f : Fx) (s : State) : exec (.vckpt f) s = execVckpt f s := rfl
theorem exec_vckptPoll (f : Fx) (s : State) : exec (.vckptPoll f) s = execVckptPoll f s := rfl
theorem exec_getsr (f : Fx) (s : State) : exec (.getsr f) s = execGetsr f s := rfl
theorem exec_setsr (f : Fx) (s : State) : exec (.setsr f) s = execSetsr f s := rfl
theorem exec_icinv (f : Fx) (s : State) : exec (.icinv f) s = execIcinv f s := rfl
theorem exec_sysc (f : Fx) (s : State) : exec (.sysc f) s = execSysc f s := rfl
theorem exec_tret (f : Fx) (s : State) : exec (.tret f) s = execTret f s := rfl
theorem exec_iaddI32C (c : CForm) (s : State) : exec (.iaddI32C c) s = execIaddI32C c s := rfl
theorem exec_isubI32C (c : CForm) (s : State) : exec (.isubI32C c) s = execIsubI32C c s := rfl
theorem exec_imulI32C (c : CForm) (s : State) : exec (.imulI32C c) s = execImulI32C c s := rfl
theorem exec_iminI32C (c : CForm) (s : State) : exec (.iminI32C c) s = execIminI32C c s := rfl
theorem exec_imaxI32C (c : CForm) (s : State) : exec (.imaxI32C c) s = execImaxI32C c s := rfl
theorem exec_iaddI64C (c : CForm) (s : State) : exec (.iaddI64C c) s = execIaddI64C c s := rfl
theorem exec_isubI64C (c : CForm) (s : State) : exec (.isubI64C c) s = execIsubI64C c s := rfl
theorem exec_andB64C (c : CForm) (s : State) : exec (.andB64C c) s = execAndB64C c s := rfl
theorem exec_orB64C (c : CForm) (s : State) : exec (.orB64C c) s = execOrB64C c s := rfl
theorem exec_xorB64C (c : CForm) (s : State) : exec (.xorB64C c) s = execXorB64C c s := rfl
theorem exec_shlB32C (c : CForm) (s : State) : exec (.shlB32C c) s = execShlB32C c s := rfl
theorem exec_shrN32C (c : CForm) (s : State) : exec (.shrN32C c) s = execShrN32C c s := rfl
theorem exec_sarI32C (c : CForm) (s : State) : exec (.sarI32C c) s = execSarI32C c s := rfl
theorem exec_shlB64C (c : CForm) (s : State) : exec (.shlB64C c) s = execShlB64C c s := rfl
theorem exec_shrN64C (c : CForm) (s : State) : exec (.shrN64C c) s = execShrN64C c s := rfl
theorem exec_iminN32C (c : CForm) (s : State) : exec (.iminN32C c) s = execIminN32C c s := rfl
theorem exec_imaxN32C (c : CForm) (s : State) : exec (.imaxN32C c) s = execImaxN32C c s := rfl
theorem exec_faddF32C (c : CForm) (s : State) : exec (.faddF32C c) s = execFaddF32C c s := rfl
theorem exec_fsubF32C (c : CForm) (s : State) : exec (.fsubF32C c) s = execFsubF32C c s := rfl
theorem exec_fmulF32C (c : CForm) (s : State) : exec (.fmulF32C c) s = execFmulF32C c s := rfl
theorem exec_fminF32C (c : CForm) (s : State) : exec (.fminF32C c) s = execFminF32C c s := rfl
theorem exec_fmaxF32C (c : CForm) (s : State) : exec (.fmaxF32C c) s = execFmaxF32C c s := rfl
theorem exec_faddF16C (c : CForm) (s : State) : exec (.faddF16C c) s = execFaddF16C c s := rfl
theorem exec_fmulF16C (c : CForm) (s : State) : exec (.fmulF16C c) s = execFmulF16C c s := rfl
theorem exec_faddBf16C (c : CForm) (s : State) : exec (.faddBf16C c) s = execFaddBf16C c s := rfl
theorem exec_fmulBf16C (c : CForm) (s : State) : exec (.fmulBf16C c) s = execFmulBf16C c s := rfl
theorem exec_faddF64C (c : CForm) (s : State) : exec (.faddF64C c) s = execFaddF64C c s := rfl
theorem exec_fmulF64C (c : CForm) (s : State) : exec (.fmulF64C c) s = execFmulF64C c s := rfl
theorem exec_movB64C (c : CForm) (s : State) : exec (.movB64C c) s = execMovB64C c s := rfl
theorem exec_fminF64C (c : CForm) (s : State) : exec (.fminF64C c) s = execFminF64C c s := rfl
theorem exec_fmaxF64C (c : CForm) (s : State) : exec (.fmaxF64C c) s = execFmaxF64C c s := rfl
theorem exec_iaddI32I (i : IForm) (s : State) : exec (.iaddI32I i) s = execIaddI32I i s := rfl
theorem exec_iaddI64I (i : IForm) (s : State) : exec (.iaddI64I i) s = execIaddI64I i s := rfl
theorem exec_andB32I (i : IForm) (s : State) : exec (.andB32I i) s = execAndB32I i s := rfl
theorem exec_orB32I (i : IForm) (s : State) : exec (.orB32I i) s = execOrB32I i s := rfl
theorem exec_xorB32I (i : IForm) (s : State) : exec (.xorB32I i) s = execXorB32I i s := rfl
theorem exec_shlB32I (i : IForm) (s : State) : exec (.shlB32I i) s = execShlB32I i s := rfl
theorem exec_shrN32I (i : IForm) (s : State) : exec (.shrN32I i) s = execShrN32I i s := rfl
theorem exec_sarI32I (i : IForm) (s : State) : exec (.sarI32I i) s = execSarI32I i s := rfl
theorem exec_shlB64I (i : IForm) (s : State) : exec (.shlB64I i) s = execShlB64I i s := rfl
theorem exec_shrN64I (i : IForm) (s : State) : exec (.shrN64I i) s = execShrN64I i s := rfl
theorem exec_movI32I (i : IForm) (s : State) : exec (.movI32I i) s = execMovI32I i s := rfl
theorem exec_movI64I (i : IForm) (s : State) : exec (.movI64I i) s = execMovI64I i s := rfl
theorem exec_imulI32I (i : IForm) (s : State) : exec (.imulI32I i) s = execImulI32I i s := rfl
theorem exec_iminI32I (i : IForm) (s : State) : exec (.iminI32I i) s = execIminI32I i s := rfl
theorem exec_imaxI32I (i : IForm) (s : State) : exec (.imaxI32I i) s = execImaxI32I i s := rfl
theorem exec_iaddI32P (h0 : PHalf) (op1 : PairOp) (h1 : PHalf) (s : State) : exec (.iaddI32P h0 op1 h1) s = execIaddI32P h0 op1 h1 s := rfl
theorem exec_isubI32P (h0 : PHalf) (op1 : PairOp) (h1 : PHalf) (s : State) : exec (.isubI32P h0 op1 h1) s = execIsubI32P h0 op1 h1 s := rfl
theorem exec_iaddI64P (h0 : PHalf) (op1 : PairOp) (h1 : PHalf) (s : State) : exec (.iaddI64P h0 op1 h1) s = execIaddI64P h0 op1 h1 s := rfl
theorem exec_andB64P (h0 : PHalf) (op1 : PairOp) (h1 : PHalf) (s : State) : exec (.andB64P h0 op1 h1) s = execAndB64P h0 op1 h1 s := rfl
theorem exec_orB64P (h0 : PHalf) (op1 : PairOp) (h1 : PHalf) (s : State) : exec (.orB64P h0 op1 h1) s = execOrB64P h0 op1 h1 s := rfl
theorem exec_xorB64P (h0 : PHalf) (op1 : PairOp) (h1 : PHalf) (s : State) : exec (.xorB64P h0 op1 h1) s = execXorB64P h0 op1 h1 s := rfl
theorem exec_iminI32P (h0 : PHalf) (op1 : PairOp) (h1 : PHalf) (s : State) : exec (.iminI32P h0 op1 h1) s = execIminI32P h0 op1 h1 s := rfl
theorem exec_imaxI32P (h0 : PHalf) (op1 : PairOp) (h1 : PHalf) (s : State) : exec (.imaxI32P h0 op1 h1) s = execImaxI32P h0 op1 h1 s := rfl
theorem exec_faddF32P (h0 : PHalf) (op1 : PairOp) (h1 : PHalf) (s : State) : exec (.faddF32P h0 op1 h1) s = execFaddF32P h0 op1 h1 s := rfl
theorem exec_fmulF32P (h0 : PHalf) (op1 : PairOp) (h1 : PHalf) (s : State) : exec (.fmulF32P h0 op1 h1) s = execFmulF32P h0 op1 h1 s := rfl
theorem exec_fminF32P (h0 : PHalf) (op1 : PairOp) (h1 : PHalf) (s : State) : exec (.fminF32P h0 op1 h1) s = execFminF32P h0 op1 h1 s := rfl
theorem exec_fmaxF32P (h0 : PHalf) (op1 : PairOp) (h1 : PHalf) (s : State) : exec (.fmaxF32P h0 op1 h1) s = execFmaxF32P h0 op1 h1 s := rfl
theorem exec_faddBf16P (h0 : PHalf) (op1 : PairOp) (h1 : PHalf) (s : State) : exec (.faddBf16P h0 op1 h1) s = execFaddBf16P h0 op1 h1 s := rfl
theorem exec_fmulBf16P (h0 : PHalf) (op1 : PairOp) (h1 : PHalf) (s : State) : exec (.fmulBf16P h0 op1 h1) s = execFmulBf16P h0 op1 h1 s := rfl
theorem exec_faddF16P (h0 : PHalf) (op1 : PairOp) (h1 : PHalf) (s : State) : exec (.faddF16P h0 op1 h1) s = execFaddF16P h0 op1 h1 s := rfl
theorem exec_fmulF16P (h0 : PHalf) (op1 : PairOp) (h1 : PHalf) (s : State) : exec (.fmulF16P h0 op1 h1) s = execFmulF16P h0 op1 h1 s := rfl
theorem exec_movB64P (h0 : PHalf) (op1 : PairOp) (h1 : PHalf) (s : State) : exec (.movB64P h0 op1 h1) s = execMovB64P h0 op1 h1 s := rfl
theorem exec_faddF64P (h0 : PHalf) (op1 : PairOp) (h1 : PHalf) (s : State) : exec (.faddF64P h0 op1 h1) s = execFaddF64P h0 op1 h1 s := rfl
theorem exec_fmulF64P (h0 : PHalf) (op1 : PairOp) (h1 : PHalf) (s : State) : exec (.fmulF64P h0 op1 h1) s = execFmulF64P h0 op1 h1 s := rfl
theorem exec_packageReset (s : State) : exec .packageReset s = execPackageReset s := rfl
theorem exec_railOutOfRange (r : Rail) (s : State) : exec (.railOutOfRange r) s = execRailOutOfRange r s := rfl
theorem exec_thermalTrip (d : BitVec 2) (s : State) : exec (.thermalTrip d) s = execThermalTrip d s := rfl
theorem exec_throttleRequest (d : BitVec 2) (s : State) : exec (.throttleRequest d) s = execThrottleRequest d s := rfl
theorem exec_powerSample (tmax : BitVec 16) (watts : BitVec 13) (s : State) : exec (.powerSample tmax watts) s = execPowerSample tmax watts s := rfl
theorem exec_boot (d : BitVec 2) (b : BootPlan) (s : State) : exec (.boot d b) s = execBoot d b s := rfl
theorem exec_dcfgLock (w : CtlWrite) (s : State) : exec (.dcfgLock w) s = execDcfgLock w s := rfl
theorem exec_coreReset (w : CtlWrite) (s : State) : exec (.coreReset w) s = execCoreReset w s := rfl
theorem exec_registerWrite (w : CtlWrite) (s : State) : exec (.registerWrite w) s = execRegisterWrite w s := rfl
theorem exec_polderActivate (w : CtlWrite) (s : State) : exec (.polderActivate w) s = execPolderActivate w s := rfl
theorem exec_polderTeardown (w : CtlWrite) (s : State) : exec (.polderTeardown w) s = execPolderTeardown w s := rfl
theorem exec_teardownComplete (p : BitVec 6) (s : State) : exec (.teardownComplete p) s = execTeardownComplete p s := rfl
theorem exec_polderRelease (w : CtlWrite) (s : State) : exec (.polderRelease w) s = execPolderRelease w s := rfl
theorem exec_ctxcfgWrite (w : CtlWrite) (s : State) : exec (.ctxcfgWrite w) s = execCtxcfgWrite w s := rfl
theorem exec_cboundWrite (w : CtlWrite) (s : State) : exec (.cboundWrite w) s = execCboundWrite w s := rfl
theorem exec_vbndWrite (w : CtlWrite) (s : State) : exec (.vbndWrite w) s = execVbndWrite w s := rfl
theorem exec_cclkWrite (w : CtlWrite) (s : State) : exec (.cclkWrite w) s = execCclkWrite w s := rfl
theorem exec_clockLowerApply (k : BitVec 9) (s : State) : exec (.clockLowerApply k) s = execClockLowerApply k s := rfl
theorem exec_tatWrite (w : CtlWrite) (s : State) : exec (.tatWrite w) s = execTatWrite w s := rfl
theorem exec_vctWrite (w : CtlWrite) (s : State) : exec (.vctWrite w) s = execVctWrite w s := rfl
theorem exec_exportWrite (w : CtlWrite) (s : State) : exec (.exportWrite w) s = execExportWrite w s := rfl
theorem exec_fplaneWrite (w : CtlWrite) (s : State) : exec (.fplaneWrite w) s = execFplaneWrite w s := rfl
theorem exec_ctlbiWrite (w : CtlWrite) (s : State) : exec (.ctlbiWrite w) s = execCtlbiWrite w s := rfl
theorem exec_ptlbiWrite (w : CtlWrite) (s : State) : exec (.ptlbiWrite w) s = execPtlbiWrite w s := rfl
theorem exec_invalidationComplete (polder : Bool) (n : BitVec 10) (s : State) : exec (.invalidationComplete polder n) s = execInvalidationComplete polder n s := rfl
theorem exec_faultQueueConsume (w : CtlWrite) (s : State) : exec (.faultQueueConsume w) s = execFaultQueueConsume w s := rfl
theorem exec_resumeRetry (w : CtlWrite) (s : State) : exec (.resumeRetry w) s = execResumeRetry w s := rfl
theorem exec_resumeFail (w : CtlWrite) (s : State) : exec (.resumeFail w) s = execResumeFail w s := rfl
theorem exec_vacateGo (w : CtlWrite) (s : State) : exec (.vacateGo w) s = execVacateGo w s := rfl
theorem exec_contextKill (w : CtlWrite) (s : State) : exec (.contextKill w) s = execContextKill w s := rfl
theorem exec_vacateResume (w : CtlWrite) (s : State) : exec (.vacateResume w) s = execVacateResume w s := rfl
theorem exec_attestGo (w : CtlWrite) (s : State) : exec (.attestGo w) s = execAttestGo w s := rfl
theorem exec_attestDone (d : BitVec 2) (s : State) : exec (.attestDone d) s = execAttestDone d s := rfl
theorem exec_selfTestFenceRequest (k : BitVec 9) (sub : BitVec 2) (s : State) : exec (.selfTestFenceRequest k sub) s = execSelfTestFenceRequest k sub s := rfl
theorem exec_subarrayFence (k : BitVec 9) (s : State) : exec (.subarrayFence k) s = execSubarrayFence k s := rfl
theorem exec_launchPortWrite (off : BitVec 20) (size : Nat) (data : BitVec 1024) (s : State) : exec (.launchPortWrite off size data) s = execLaunchPortWrite off size data s := rfl
theorem exec_recordHeadCheck (c : BitVec 10) (q : BitVec 3) (s : State) : exec (.recordHeadCheck c q) s = execRecordHeadCheck c q s := rfl
theorem exec_clusterPlace (c : BitVec 10) (q : BitVec 3) (r : Rect) (s : State) : exec (.clusterPlace c q r) s = execClusterPlace c q r s := rfl
theorem exec_teamResume (launch cluster : Nat) (r : Rect) (s : State) : exec (.teamResume launch cluster r) s = execTeamResume launch cluster r s := rfl
theorem exec_teamDrainDone (k : BitVec 9) (team : BitVec 5) (s : State) : exec (.teamDrainDone k team) s = execTeamDrainDone k team s := rfl
theorem exec_borderMove (k : BitVec 9) (s : State) : exec (.borderMove k) s = execBorderMove k s := rfl
theorem exec_vacateStart (k : BitVec 9) (c : BitVec 10) (s : State) : exec (.vacateStart k c) s = execVacateStart k c s := rfl
theorem exec_softStageEnd (k : BitVec 9) (c : BitVec 10) (s : State) : exec (.softStageEnd k c) s = execSoftStageEnd k c s := rfl
theorem exec_saveBegin (k : BitVec 9) (c : BitVec 10) (s : State) : exec (.saveBegin k c) s = execSaveBegin k c s := rfl
theorem exec_saveComplete (k : BitVec 9) (c : BitVec 10) (s : State) : exec (.saveComplete k c) s = execSaveComplete k c s := rfl
theorem exec_killTimerExpire (k : BitVec 9) (c : BitVec 10) (s : State) : exec (.killTimerExpire k c) s = execKillTimerExpire k c s := rfl
theorem exec_vbtStallTimeout (k : BitVec 9) (slot : BitVec 5) (lanes : BitVec 32) (s : State) : exec (.vbtStallTimeout k slot lanes) s = execVbtStallTimeout k slot lanes s := rfl
theorem exec_loadReturn (k : BitVec 9) (op : Nat) (s : State) : exec (.loadReturn k op) s = execLoadReturn k op s := rfl
theorem exec_storePerform (k : BitVec 9) (op : Nat) (s : State) : exec (.storePerform k op) s = execStorePerform k op s := rfl
theorem exec_vectorResultWrite (k : BitVec 9) (op : Nat) (s : State) : exec (.vectorResultWrite k op) s = execVectorResultWrite k op s := rfl
theorem exec_mmaComplete (k : BitVec 9) (op : Nat) (s : State) : exec (.mmaComplete k op) s = execMmaComplete k op s := rfl
theorem exec_copyBeat (k : BitVec 9) (op : Nat) (s : State) : exec (.copyBeat k op) s = execCopyBeat k op s := rfl
theorem exec_copyComplete (k : BitVec 9) (op : Nat) (s : State) : exec (.copyComplete k op) s = execCopyComplete k op s := rfl
theorem exec_bankTransitionComplete (k : BitVec 9) (op : Nat) (s : State) : exec (.bankTransitionComplete k op) s = execBankTransitionComplete k op s := rfl
theorem exec_fifoOpAccept (k : BitVec 9) (op : Nat) (s : State) : exec (.fifoOpAccept k op) s = execFifoOpAccept k op s := rfl
theorem exec_fifoTimeout (k : BitVec 9) (op : Nat) (s : State) : exec (.fifoTimeout k op) s = execFifoTimeout k op s := rfl
theorem exec_portTrackerComplete (k : BitVec 9) (op : Nat) (s : State) : exec (.portTrackerComplete k op) s = execPortTrackerComplete k op s := rfl
theorem exec_fenceComplete (k : BitVec 9) (op : Nat) (s : State) : exec (.fenceComplete k op) s = execFenceComplete k op s := rfl
theorem exec_writebackAck (k : BitVec 9) (wb : Nat) (s : State) : exec (.writebackAck k wb) s = execWritebackAck k wb s := rfl
theorem exec_l1Eviction (k : BitVec 9) (way : BitVec 6) (line : BitVec 7) (s : State) : exec (.l1Eviction k way line) s = execL1Eviction k way line s := rfl
theorem exec_atomicPerform (k : BitVec 9) (op : Nat) (s : State) : exec (.atomicPerform k op) s = execAtomicPerform k op s := rfl
theorem exec_stageAccept (k : BitVec 9) (op : Nat) (s : State) : exec (.stageAccept k op) s = execStageAccept k op s := rfl
theorem exec_slotRequest (set : SetId) (slice : BitVec 8) (id : BitVec 16) (s : State) : exec (.slotRequest set slice id) s = execSlotRequest set slice id s := rfl
theorem exec_closeAccept (k : BitVec 9) (op : Nat) (s : State) : exec (.closeAccept k op) s = execCloseAccept k op s := rfl
theorem exec_measureRequest (set : SetId) (slice : BitVec 8) (id : BitVec 16) (s : State) : exec (.measureRequest set slice id) s = execMeasureRequest set slice id s := rfl
theorem exec_measureComplete (set : SetId) (id : BitVec 16) (s : State) : exec (.measureComplete set id) s = execMeasureComplete set id s := rfl
theorem exec_commitIssue (set : SetId) (s : State) : exec (.commitIssue set) s = execCommitIssue set s := rfl
theorem exec_commitApply (set : SetId) (slice : BitVec 8) (s : State) : exec (.commitApply set slice) s = execCommitApply set slice s := rfl
theorem exec_signalUpdate (set : SetId) (s : State) : exec (.signalUpdate set) s = execSignalUpdate set s := rfl
theorem exec_epochEnd (d : BitVec 2) (s : State) : exec (.epochEnd d) s = execEpochEnd d s := rfl
theorem exec_pageMigrate (d e : BitVec 2) (p : BitVec 6) (page : BitVec 36) (replicate : Bool) (frames : List (BitVec 40)) (s : State) : exec (.pageMigrate d e p page replicate frames) s = execPageMigrate d e p page replicate frames s := rfl
theorem exec_migrationCopyDone (p : BitVec 6) (page : BitVec 36) (s : State) : exec (.migrationCopyDone p page) s = execMigrationCopyDone p page s := rfl
theorem exec_pieceCollapse (w : BitVec 2) (p : BitVec 6) (page : BitVec 36) (s : State) : exec (.pieceCollapse w p page) s = execPieceCollapse w p page s := rfl
theorem exec_quarantineClear (frame : BitVec 40) (s : State) : exec (.quarantineClear frame) s = execQuarantineClear frame s := rfl
theorem exec_crossDieWrite (src dst : BitVec 2) (s : State) : exec (.crossDieWrite src dst) s = execCrossDieWrite src dst s := rfl
theorem exec_clockNotice (src dst : BitVec 2) (s : State) : exec (.clockNotice src dst) s = execClockNotice src dst s := rfl
theorem exec_heldWriteApply (src dst : BitVec 2) (s : State) : exec (.heldWriteApply src dst) s = execHeldWriteApply src dst s := rfl
theorem exec_settle (src dst : BitVec 2) (s : State) : exec (.settle src dst) s = execSettle src dst s := rfl
theorem exec_tokenRefill (k : BitVec 9) (s : State) : exec (.tokenRefill k) s = execTokenRefill k s := rfl
theorem exec_tokenInterval (d : BitVec 2) (s : State) : exec (.tokenInterval d) s = execTokenInterval d s := rfl
theorem exec_rateInterval (port : BitVec 4) (s : State) : exec (.rateInterval port) s = execRateInterval port s := rfl
theorem exec_fabricSend (port : BitVec 4) (s : State) : exec (.fabricSend port) s = execFabricSend port s := rfl
theorem exec_switchEgressEnqueue (port : BitVec 4) (p : Packet) (s : State) : exec (.switchEgressEnqueue port p) s = execSwitchEgressEnqueue port p s := rfl
theorem exec_combinedResponse (p : Packet) (s : State) : exec (.combinedResponse p) s = execCombinedResponse p s := rfl
theorem exec_rdreq (p : Packet) (s : State) : exec (.rdreq p) s = execRdreq p s := rfl
theorem exec_rdrsp (p : Packet) (s : State) : exec (.rdrsp p) s = execRdrsp p s := rfl
theorem exec_wrPacket (p : Packet) (s : State) : exec (.wrPacket p) s = execWrPacket p s := rfl
theorem exec_atomreq (p : Packet) (s : State) : exec (.atomreq p) s = execAtomreq p s := rfl
theorem exec_atomrsp (p : Packet) (s : State) : exec (.atomrsp p) s = execAtomrsp p s := rfl
theorem exec_putsPacket (p : Packet) (s : State) : exec (.putsPacket p) s = execPutsPacket p s := rfl
theorem exec_getreq (p : Packet) (s : State) : exec (.getreq p) s = execGetreq p s := rfl
theorem exec_getrsp (p : Packet) (s : State) : exec (.getrsp p) s = execGetrsp p s := rfl
theorem exec_mstage (p : Packet) (s : State) : exec (.mstage p) s = execMstage p s := rfl
theorem exec_mclosePacket (p : Packet) (s : State) : exec (.mclosePacket p) s = execMclosePacket p s := rfl
theorem exec_skim (p : Packet) (s : State) : exec (.skim p) s = execSkim p s := rfl
theorem exec_refill (p : Packet) (s : State) : exec (.refill p) s = execRefill p s := rfl
theorem exec_refillreq (p : Packet) (s : State) : exec (.refillreq p) s = execRefillreq p s := rfl
theorem exec_refillRequestSend (src : BitVec 14) (s : State) : exec (.refillRequestSend src) s = execRefillRequestSend src s := rfl
theorem exec_ack (p : Packet) (s : State) : exec (.ack p) s = execAck p s := rfl
theorem exec_nack (p : Packet) (s : State) : exec (.nack p) s = execNack p s := rfl
theorem exec_xlrsp (p : Packet) (s : State) : exec (.xlrsp p) s = execXlrsp p s := rfl
theorem exec_xlinv (p : Packet) (s : State) : exec (.xlinv p) s = execXlinv p s := rfl
theorem exec_xlreqTimeout (req : BitVec 32) (s : State) : exec (.xlreqTimeout req) s = execXlreqTimeout req s := rfl
theorem exec_creditReturn (port : BitVec 4) (cls : BitVec 2) (flits : Nat) (s : State) : exec (.creditReturn port cls flits) s = execCreditReturn port cls flits s := rfl
theorem exec_keyswitch (port : BitVec 4) (s : State) : exec (.keyswitch port) s = execKeyswitch port s := rfl
theorem exec_keyhalt (port : BitVec 4) (s : State) : exec (.keyhalt port) s = execKeyhalt port s := rfl
theorem exec_hopKeyInstall (port : BitVec 4) (s : State) : exec (.hopKeyInstall port) s = execHopKeyInstall port s := rfl
theorem exec_hopAuthFail (port : BitVec 4) (s : State) : exec (.hopAuthFail port) s = execHopAuthFail port s := rfl
theorem exec_linkDown (port : BitVec 4) (s : State) : exec (.linkDown port) s = execLinkDown port s := rfl
theorem exec_planeDead (plane : BitVec 2) (s : State) : exec (.planeDead plane) s = execPlaneDead plane s := rfl
theorem exec_planeRemap (entry : BitVec 2) (s : State) : exec (.planeRemap entry) s = execPlaneRemap entry s := rfl
theorem exec_planeRevive (plane : BitVec 2) (s : State) : exec (.planeRevive plane) s = execPlaneRevive plane s := rfl
theorem exec_gapExpire (i : BitVec 9) (s : State) : exec (.gapExpire i) s = execGapExpire i s := rfl
theorem exec_continuationTimeout (k : BitVec 9) (entry : BitVec 10) (s : State) : exec (.continuationTimeout k entry) s = execContinuationTimeout k entry s := rfl
theorem exec_tombstoneExpire (p : BitVec 6) (s : State) : exec (.tombstoneExpire p) s = execTombstoneExpire p s := rfl
theorem exec_malformedPacket (p : Packet) (s : State) : exec (.malformedPacket p) s = execMalformedPacket p s := rfl
theorem exec_coordinatorAnswer (k : BitVec 9) (op : Nat) (s : State) : exec (.coordinatorAnswer k op) s = execCoordinatorAnswer k op s := rfl
theorem exec_flowKeyInstall (host : Bool) (p : BitVec 6) (key : Word) (s : State) : exec (.flowKeyInstall host p key) s = execFlowKeyInstall host p key s := rfl
theorem exec_controlCoreWrite (pa : BitVec 42) (bytes : List Byte) (s : State) : exec (.controlCoreWrite pa bytes) s = execControlCoreWrite pa bytes s := rfl

end Sys2Proof.Machine
end

