-- ==== Sys2Proof/Laws/Frontier.lean ====
section
/-! SUPPORT. The frontier in the form of R19: what merging and settling keep. -/

namespace Sys2Proof.Machine

/-- What a ready wait joins, and what a wait on no record joins: the others of its STATE. -/
theorem Hold.joins_of_idle {a : Hold} (x : Hold) (h : a.idle = true) : a.joins x = x.idle := by
  cases a <;> simp [Hold.idle] at h <;> cases x <;> simp [Hold.joins, Hold.idle, Hold.unrecorded, Hold.pages, Hold.served]

theorem Hold.idle_of_unrecorded {a : Hold} (h : a.unrecorded = true) : a.idle = false := by
  cases a <;> simp_all [Hold.unrecorded, Hold.pages, Hold.served, Hold.idle]

theorem Hold.joins_of_unrecorded {a : Hold} (x : Hold) (h : a.unrecorded = true) : a.joins x = x.unrecorded := by
  have hi := Hold.idle_of_unrecorded h
  unfold Hold.joins
  by_cases he : a = x
  · subst he
    simp [h]
  · simp [he, hi, h]

/-- The merged wait is of the STATE of either. -/
theorem Hold.idle_join {a b : Hold} (ha : a.idle = true) : (a.join b).idle = true := by
  unfold Hold.join
  split
  · exact ha
  · split
    · dsimp
      split <;> rfl
    · rfl

theorem Hold.unrecorded_join {a b : Hold} (ha : a.unrecorded = true) : (a.join b).unrecorded = true := by
  have hi := Hold.idle_of_unrecorded ha
  unfold Hold.join
  split
  · exact ha
  · split
    · simp [Hold.idle] at hi
    · simp only [hi, Bool.false_eq_true, if_false]
      simp only [Hold.unrecorded, Hold.pages, Hold.served, Bool.or_eq_true, Bool.not_eq_true', List.isEmpty_eq_false_iff] at ha ⊢
      rcases ha with h | h
      · left
        obtain ⟨y, hy⟩ := List.exists_mem_of_ne_nil _ h
        exact List.ne_nil_of_mem (List.mem_eraseDups.mpr (List.mem_append_left _ hy))
      · right
        exact .inl h

theorem Hold.join_joins {a b : Hold} (x : Hold) (h : a.joins b = true) : (a.join b).joins x = a.joins x := by
  simp only [Hold.joins, Bool.or_eq_true, Bool.and_eq_true] at h
  rcases h with (h | h) | h
  · simp [Hold.join, h]
  · rw [Hold.joins_of_idle x h.1, Hold.joins_of_idle x (Hold.idle_join h.1)]
  · rw [Hold.joins_of_unrecorded x h.1, Hold.joins_of_unrecorded x (Hold.unrecorded_join h.1)]

theorem Hold.joins_comm (a b : Hold) : a.joins b = b.joins a := by
  simp only [Hold.joins, Bool.and_comm, BEq.comm]

/-- The merged entry stands where either of the two stood: what it joins is what the first joins. -/
theorem join_joins (a b x : Entry) (h : a.joins b = true) : (a.join b).joins x = a.joins x := by
  have hl : (a.left == 0) = (b.left == 0) := by
    simp only [Entry.joins, Bool.and_eq_true, beq_iff_eq] at h
    exact h.1.1.1.1.2
  have hh : a.hold.joins b.hold = true := by
    simp only [Entry.joins, Bool.and_eq_true] at h
    exact h.1.1.2
  have hn : (a.left != 0) = (b.left != 0) := by simp only [bne, hl]
  unfold Entry.joins Entry.join Entry.ageWith Entry.clauseOf
  dsimp only
  rw [Hold.join_joins x.hold hh]
  split
  · rfl
  · rw [← hl, ← hn]

theorem joins_comm (a b : Entry) : a.joins b = b.joins a := by
  rw [Bool.eq_iff_iff]
  simp only [Entry.joins, Bool.and_eq_true, Bool.or_eq_true, beq_iff_eq, bne_iff_ne, ne_eq]
  constructor <;> (rintro ⟨⟨⟨⟨⟨⟨⟨h1, h2⟩, h3⟩, h4⟩, h5⟩, h6⟩, h7⟩, h8⟩; refine ⟨⟨⟨⟨⟨⟨⟨h1.symm, h2.symm⟩, h3.symm⟩, h4.symm⟩, h5.symm⟩, (Hold.joins_comm _ _).trans h6⟩, ?_⟩, h8.symm⟩)
  all_goals
    rcases h7 with h7 | h7
    · left
      have h9 := congrArg not h4
      revert h9
      simp_all
    · exact .inr h7.symm

theorem joins_join (a b x : Entry) (h : a.joins b = true) : x.joins (a.join b) = x.joins a := by
  rw [joins_comm, join_joins a b x h, joins_comm]

theorem joins_aged (a x : Entry) (p q : Option Nat) : ({ a with aged := p }).joins { x with aged := q } = a.joins x := rfl

theorem join_mask_ne {a b : Entry} (h : a.mask ≠ 0) : (a.join b).mask ≠ 0 := by
  intro hz
  apply h
  have : a.mask ||| b.mask = 0 := hz
  ext i hi
  have := congrArg (fun m => m.getLsbD i) this
  simp at this
  simp [← BitVec.getLsbD_eq_getElem, this.1]

/-- Every entry of a merge joins what an entry that stood there joins, or is the new one. -/
theorem all_mergeInto (p : Entry → Bool) (hp : ∀ a b, Entry.joins a b = true → p (Entry.join a b) = p a) (l : List Entry) (e : Entry) (hl : l.all p = true) (he : p e = true) :
    (mergeInto l e).all p = true := by
  induction l with
  | nil => simpa [mergeInto] using he
  | cons a r ih =>
    simp only [List.all_cons, Bool.and_eq_true] at hl
    unfold mergeInto
    split
    · rename_i hj
      simp [hp _ _ hj, hl.1, hl.2]
    · simp [hl.1, ih hl.2]

/-- Merging keeps the form. -/
theorem isNormal_mergeInto (l : List Entry) (e : Entry) (h : isNormal l = true) (he : e.mask ≠ 0) : isNormal (mergeInto l e) = true := by
  induction l with
  | nil => simpa [mergeInto, isNormal] using he
  | cons a r ih =>
    simp only [isNormal, Bool.and_eq_true] at h
    obtain ⟨⟨h1, h2⟩, h3⟩ := h
    unfold mergeInto
    split
    · rename_i hj
      have hm : (a.join e).mask ≠ 0 := join_mask_ne (by simpa using h1)
      simp only [isNormal, Bool.and_eq_true, join_joins a e _ hj]
      exact ⟨⟨by simpa using hm, h2⟩, h3⟩
    · rename_i hj
      simp only [isNormal, Bool.and_eq_true]
      refine ⟨⟨h1, ?_⟩, ih h3⟩
      apply all_mergeInto _ _ r e h2
      · simpa using hj
      · intro x y hxy
        rw [joins_join x y a hxy]

theorem isNormal_foldl_mergeInto (es l : List Entry) (h : isNormal l = true) (hes : ∀ e ∈ es, e.mask ≠ 0) : isNormal (es.foldl mergeInto l) = true := by
  induction es generalizing l with
  | nil => exact h
  | cons e r ih =>
    exact ih _ (isNormal_mergeInto l e h (hes e (by simp))) (fun x hx => hes x (by simp [hx]))

theorem isNormal_map_aged (l : List Entry) (f : Entry → Option Nat) (h : isNormal l = true) :
    isNormal (l.map (fun e => { e with aged := f e })) = true := by
  induction l with
  | nil => rfl
  | cons a r ih =>
    simp only [isNormal, Bool.and_eq_true] at h
    simp only [List.map_cons, isNormal, Bool.and_eq_true]
    refine ⟨⟨h.1.1, ?_⟩, ih h.2⟩
    simp only [List.all_map]
    exact h.1.2

/-- The frontier that `normalise` gives has the form of R19. -/
theorem isNormal_normalise (l : List Entry) : isNormal (normalise l) = true := by
  unfold normalise compactPlaces
  apply isNormal_map_aged
  apply isNormal_foldl_mergeInto
  · rfl
  · intro e he
    simpa using (List.mem_filter.mp he).2

/-- A settled state changes nothing but frontiers. -/
@[simp] theorem settle_mem (s : State) : (settle s).mem = s.mem := rfl
@[simp] theorem settle_agenda (s : State) : (settle s).agenda = s.agenda := rfl
@[simp] theorem settle_cur (s : State) : (settle s).cur = s.cur := rfl
@[simp] theorem settle_issued (s : State) : (settle s).issued = s.issued := rfl
@[simp] theorem settle_fabric (s : State) : (settle s).fabric = s.fabric := rfl
@[simp] theorem settle_ctxs (s : State) : (settle s).ctxs = s.ctxs := rfl
@[simp] theorem settle_polders (s : State) : (settle s).polders = s.polders := rfl
@[simp] theorem settle_device (s : State) : (settle s).device = s.device := rfl
@[simp] theorem settle_dies (s : State) : (settle s).dies = s.dies := rfl

end Sys2Proof.Machine
end

