-- ==== Sys2Proof/Laws/Ops.lean ====
section
/-! SUPPORT. What the start of an operation does to the state and to the issuing group. -/

namespace Sys2Proof.Machine

/-! ### An operation is added -/

theorem opFrames_put (m : AMap Op) (n : Nat) (o : Op) :
    (put m n o).map (fun e => (e.1, { e.2 with kind := OpKind.bank 0 .off })) = put (m.map (fun e => (e.1, { e.2 with kind := OpKind.bank 0 .off }))) n { o with kind := .bank 0 .off } := by
  induction m with
  | nil => rfl
  | cons e r ih =>
    simp only [put, List.map_cons]
    split
    · rfl
    · split
      · rfl
      · rw [List.map_cons, ih]

theorem nextOp_of_onlyGroup {s t : State} {i : Issuer} (h : OnlyGroup s t i) : (coreOf t i.k).nextOp = (coreOf s i.k).nextOp := by
  have := congrArg CoreState.nextOp h.core
  exact this

/-- The operation is added before the issue or after it. -/
theorem onlyGroup_addOp {s t : State} {i : Issuer} (h : OnlyGroup s t i) (o : Op) : OnlyGroup (addOp s i.k o).1 (addOp t i.k o).1 i := by
  have hn := nextOp_of_onlyGroup h
  unfold addOp
  simp only
  refine ⟨h.memory, ?_, ?_, ?_, ?_, ?_, ?_, ?_⟩
  · have := congrArg (fun x : State => setCore x i.k { coreOf s i.k with ops := put (coreOf s i.k).ops (coreOf s i.k).nextOp o, nextOp := (coreOf s i.k).nextOp + 1 }) h.rest
    exact this
  · intro k hk
    show look (put t.cores i.k _) k = look (put s.cores i.k _) k
    rw [look_put_ne _ _ hk, look_put_ne _ _ hk]
    exact h.cores k hk
  · simp only [coreOf_setCore_self]
    have := congrArg (fun x : CoreState => { x with ops := put (coreOf s i.k).ops (coreOf s i.k).nextOp o, nextOp := (coreOf s i.k).nextOp + 1 }) h.core
    rw [hn]
    exact this
  · intro n hne
    simp only [coreOf_setCore_self]
    exact h.groups n hne
  · intro n hne
    simp only [coreOf_setCore_self]
    exact h.teams n hne
  · simp only [coreOf_setCore_self]
    exact h.team
  · simp only [coreOf_setCore_self]
    have := h.ops
    unfold opFrames at this ⊢
    simp only
    rw [opFrames_put, opFrames_put, this, hn]

theorem holds_addOp {s : State} {i : Issuer} {g : Group} (h : Holds s i g) (o : Op) : Holds (addOp s i.k o).1 i g := by
  unfold addOp
  refine ⟨?_, h.2⟩
  simp only [coreOf_setCore_self]
  exact h.1

theorem opOf_addOp (s : State) (k : Nat) (o : Op) : opOf (addOp s k o).1 k (coreOf s k).nextOp = some o := by
  unfold opOf addOp
  simp only [coreOf_setCore_self]
  exact look_put_self _ _ _

/-! ### What keeps the operations in flight -/

theorem opOf_onIssuing {s : State} {i : Issuer} {g : Group} (h : Holds s i g) (f : Group → Group) (n : Nat) : opOf (onIssuing s i f) i.k n = opOf s i.k n := by
  rw [onIssuing_eq h]
  unfold opOf
  simp only [coreOf_onCore_self]
  rfl

theorem opOf_complete {s : State} {i : Issuer} {g : Group} (h : Holds s i g) (n : Nat) : opOf (complete s i []) i.k n = opOf s i.k n := by
  unfold complete endIssue takeTraps
  simp only [List.flatMap_nil, List.foldl_nil, List.append_nil]
  have h1 := opOf_onIssuing h (fun g => { replaceEntry g i.e [i.onward (i.others 0)] with begun := true }) n
  refine Eq.trans ?_ h1
  show opOf (markBegun (onIssuing s i (fun g => { replaceEntry g i.e [i.onward (i.others 0)] with begun := true })) i) i.k n = _
  unfold markBegun opOf
  rw [coreOf_onCore_self]

theorem opOf_countAstat (s : State) (c : Nat) (a b : Mask) (k n : Nat) : opOf (countAstat s c a b) k n = opOf s k n := by
  unfold countAstat
  split <;> rfl

theorem countFlag_frame (g : Group) (x : Option Nat) : countFlag g x = { g with f := (countFlag g x).f, pend := (countFlag g x).pend } := by
  cases x <;> rfl

/-- The start of an operation. -/
theorem startOp_spec {base s : State} {i : Issuer} {g : Group} (h : OnlyGroup base s i) (hg : Holds s i g) (o : Op) :
    OnlyGroup (addOp base i.k o).1 (startOp s i o).1 i ∧ Holds (startOp s i o).1 i (countFlag g o.flag) ∧
      opOf (startOp s i o).1 i.k (nextOp base i) = some o ∧ (startOp s i o).2 = nextOp base i := by
  have hn : (coreOf (onIssuing s i (fun g => countFlag g o.flag)) i.k).nextOp = nextOp base i := nextOp_of_onlyGroup (onlyGroup_onIssuing h hg _)
  refine ⟨onlyGroup_addOp (onlyGroup_onIssuing h hg _) o,
    holds_addOp (holds_onIssuing hg (fun g => countFlag g o.flag) (by rw [countFlag_frame]) (by rw [countFlag_frame])) o, ?_, hn⟩
  have := opOf_addOp (onIssuing s i (fun g => countFlag g o.flag)) i.k o
  rw [hn] at this
  exact this

/-! ### Class 1 -/

/-- The group when the values of a class 1 instruction are to come. -/
def vectorGroup (i : Issuer) (f : Fx) (div : Mask) (fl : Option Nat) : Group := countFlag (setAstat (releaseNames i.g (goneNames f)) 0 div) fl

theorem vectorGroup_besides (i : Issuer) (f : Fx) (div : Mask) (fl : Option Nat) :
    (vectorGroup i f div fl).besides (countFlag i.g fl) = countFlag i.g fl ∧ (vectorGroup i f div fl).p = i.g.p ∧ (vectorGroup i f div fl).s = i.g.s ∧
      (vectorGroup i f div fl).astat = i.g.astat ||| BitVec.ofNat 64 div.toNat ∧ (vectorGroup i f div fl).entries = i.g.entries ∧
      (∀ n, look (vectorGroup i f div fl).v n = if n ∈ goneNames f then none else look i.g.v n) := by
  unfold vectorGroup
  refine ⟨by cases fl <;> rfl, by cases fl <;> rfl, by cases fl <;> rfl, ?_, by cases fl <;> rfl, ?_⟩
  · rw [countFlag_frame]
    have : setAstat (releaseNames i.g (goneNames f)) 0 div = { releaseNames i.g (goneNames f) with astat := i.g.astat ||| BitVec.ofNat 64 div.toNat } := by
      unfold setAstat
      simp
      rfl
    rw [this]
  · intro n
    rw [countFlag_frame]
    exact look_releaseNames _ _ _

/-- A name that becomes pending: it and its pending results alone change, and it awaits the operation. -/
theorem pendName_spec (a : State × Group) (n op : Nat) (fl : Option Nat) :
    (pendName a n op fl).1 = { a.1 with fresh := (pendName a n op fl).1.fresh } ∧
      (pendName a n op fl).2 = { a.2 with v := (pendName a n op fl).2.v, pend := (pendName a n op fl).2.pend } ∧
      (∀ k, k ≠ n → look (pendName a n op fl).2.v k = look a.2.v k) ∧
      (pendName a n op fl).2.pend.any (fun p => p.name == n && p.op == op && p.flag == fl) = true := by
  obtain ⟨h1, h2, h3⟩ := spoilNames_frame a.1 a.2 n
  unfold pendName
  dsimp only
  generalize a.2.pend.any _ = c
  cases c
  · exact ⟨rfl, rfl, fun _ _ => rfl, List.any_eq_true.mpr ⟨_, List.mem_append_right _ (List.mem_singleton.mpr rfl), by simp⟩⟩
  · refine ⟨h1, ?_, h3, ?_⟩
    · show Group.mk .. = _
      rw [if_pos rfl, h2]
    · exact List.any_eq_true.mpr ⟨_, List.mem_append_right _ (List.mem_singleton.mpr rfl), by simp⟩

/-- Its end, for a vector destination. -/
theorem vector_tail {base s : State} {i : Issuer} {f : Fx} {div : Mask} {fl : Option Nat} (hk3 : OnlyGroup base s i)
    (hg3 : Holds s i (setAstat (releaseNames i.g (goneNames f)) 0 div)) (o : Op) (hof : o.flag = fl) (n : BitVec 7) (uni : Bool) (hd : f.d = .v n) :
    ∃ t g, complete (onIssuing (pendName ((startOp s i o).1, writeName (groupNow (startOp s i o).1 i) n.toNat uni 0
          (fun l => vLane (groupNow (startOp s i o).1 i) n.toNat l)) n.toNat (startOp s i o).2 none).1 i
        (fun _ => (pendName ((startOp s i o).1, writeName (groupNow (startOp s i o).1 i) n.toNat uni 0
          (fun l => vLane (groupNow (startOp s i o).1 i) n.toNat l)) n.toNat (startOp s i o).2 none).2)) i [] = t ∧
      Issued (addOp base i.k o).1 t i [i.onward i.e.mask] g ∧ opOf t i.k (nextOp base i) = some o ∧
      (∀ k, k ∉ opNames f.d → look g.v k = if k ∈ goneNames f then none else look i.g.v k) ∧
      (∀ k, f.d = .v k → g.pend.any (fun p => p.name == k.toNat && p.op == nextOp base i && p.flag.isNone) = true) ∧
      g.p = i.g.p ∧ g.s = i.g.s ∧ g.astat = i.g.astat ||| BitVec.ofNat 64 div.toNat ∧ g.besides (countFlag i.g fl) = countFlag i.g fl := by
  obtain ⟨hk4, hg4, ho4, hk⟩ := startOp_spec hk3 hg3 o
  rw [hk]
  rw [hof] at hg4
  have hg4' : Holds (startOp s i o).1 i (vectorGroup i f div fl) := hg4
  obtain ⟨v1, v2, v3, v4, v5, v6⟩ := vectorGroup_besides i f div fl
  generalize vectorGroup i f div fl = vg at *
  generalize (startOp s i o).1 = s4 at *
  rw [groupNow_of_holds hg4']
  obtain ⟨e1, e2, e3, e4⟩ := pendName_spec (s4, writeName vg n.toNat uni 0 (fun l => vLane vg n.toNat l)) n.toNat (nextOp base i) none
  generalize pendName (s4, writeName vg n.toNat uni 0 (fun l => vLane vg n.toNat l)) n.toNat (nextOp base i) none = r at *
  have hk4' : OnlyGroup (addOp base i.k o).1 r.1 i := by rw [e1]; exact onlyGroup_fresh hk4 _
  have hg4'' : Holds r.1 i vg := by rw [e1]; exact holds_fresh hg4' _
  have hk5 := onlyGroup_onIssuing hk4' hg4'' (fun _ => r.2)
  have hg5 := holds_onIssuing hg4'' (fun _ => r.2) (by rw [e2]; rfl) (by rw [e2]; rfl)
  have hi := complete_issued hk5 hg5 (by rw [e2]; exact v5)
  refine ⟨_, _, rfl, hi, ?_, ?_, ?_, ?_, ?_, ?_, ?_⟩
  · rw [opOf_complete hg5, opOf_onIssuing hg4'']
    rw [e1]
    exact ho4
  · intro k hkk
    show look r.2.v k = _
    rw [e3 k (by simpa [opNames, hd] using hkk)]
    show look (put vg.v n.toNat _) k = _
    rw [look_put_ne _ _ (by simpa [opNames, hd] using hkk)]
    exact v6 k
  · intro n' hn'
    have : n = n' := by simpa [hd] using hn'
    subst this
    show r.2.pend.any _ = true
    rw [← e4]
    congr 1
    funext p
    cases p.flag <;> rfl
  · show r.2.p = _
    rw [e2]
    exact v2
  · show r.2.s = _
    rw [e2]
    exact v3
  · show r.2.astat = _
    rw [e2]
    exact v4
  · show Group.besides { replaceEntry r.2 i.e _ with begun := true } _ = _
    rw [e2]
    exact v1

/-- For an s register. -/
theorem vector_tailS {base s : State} {i : Issuer} {f : Fx} {div : Mask} {fl : Option Nat} (hk3 : OnlyGroup base s i)
    (hg3 : Holds s i (setAstat (releaseNames i.g (goneNames f)) 0 div)) (o : Op) (hof : o.flag = fl) (n : BitVec 6) (hd : f.d = .s n) :
    ∃ t g, complete (startOp s i o).1 i [] = t ∧
      Issued (addOp base i.k o).1 t i [i.onward i.e.mask] g ∧ opOf t i.k (nextOp base i) = some o ∧
      (∀ k, k ∉ opNames f.d → look g.v k = if k ∈ goneNames f then none else look i.g.v k) ∧
      (∀ k, f.d = .v k → g.pend.any (fun p => p.name == k.toNat && p.op == nextOp base i && p.flag.isNone) = true) ∧
      g.p = i.g.p ∧ g.s = i.g.s ∧ g.astat = i.g.astat ||| BitVec.ofNat 64 div.toNat ∧ g.besides (countFlag i.g fl) = countFlag i.g fl := by
  obtain ⟨hk4, hg4, ho4, hk⟩ := startOp_spec hk3 hg3 o
  rw [hof] at hg4
  have hg4' : Holds (startOp s i o).1 i (vectorGroup i f div fl) := hg4
  obtain ⟨v1, v2, v3, v4, v5, v6⟩ := vectorGroup_besides i f div fl
  generalize vectorGroup i f div fl = vg at *
  generalize (startOp s i o).1 = s4 at *
  have hi := complete_issued hk4 hg4' v5
  refine ⟨_, _, rfl, hi, ?_, fun k _ => v6 k, ?_, v2, v3, v4, v1⟩
  · rw [opOf_complete hg4']
    exact ho4
  · intro n' hn'
    rw [hd] at hn'
    cases hn'

/-- What a class 1 instruction does when no lane of it traps: the values are computed now and are to be written later. -/
theorem vectorOp_starts {s : State} {i : Issuer} {f : Fx} (val : Group → Nat → Word) (bad : Group → Nat → Bool) (hd : f.d.isV || f.d.isS)
    (h : Issues s i f false (lanePlan i f 1 (uniformly f)))
    (hb : i.g.trapen.getLsbD 0 = true → maskWhere (fun l => inMask (i.active f) l && bad (readView s i.g (srcNames f)).2 l) = 0) :
    StartsVector s i f val bad (vectorOp s f val bad) := by
  have hs := issuer_slot h.issuing
  have hg0 := holds_of_issuer h.issuing
  have hk0 := onlyGroup_refl hs.2.1
  unfold StartsVector vectorOp
  rw [onIssue_effect h]
  have hp : gate s i (fxPlan i f (i.active f) 1 (uniformResult i.g f (i.active f))) = .pass := h.passes
  simp only [passing_pass hp]
  have hv : (fxPlan i f (i.active f) 1 (uniformResult i.g f (i.active f))).srcs = srcNames f := rfl
  rw [hv]
  generalize hview : readView s i.g (srcNames f) = rv at hb ⊢
  obtain ⟨s1, g1⟩ := rv
  have hs1 : s1 = { s with fresh := s1.fresh } := by
    have := readView_state s i.g (srcNames f)
    rw [hview] at this
    exact this
  have hk1 : OnlyGroup s s1 i := by rw [hs1]; exact onlyGroup_fresh hk0 _
  have hg1 : Holds s1 i i.g := by rw [hs1]; exact holds_fresh hg0 _
  generalize hplan : fxPlan i f (i.active f) 1 (uniformResult i.g f (i.active f)) = p
  have hgone : released p.rel (p.dst.map (·.1)) = goneNames f := by rw [← hplan]; exact fxPlan_gone _ _ _ _ _
  have hk2 := onlyGroup_applyReleases hk1 hg1 p
  have hg2 := holds_applyReleases hg1 p
  rw [hgone] at hg2
  simp only at hb ⊢
  generalize hdiv : maskWhere (fun l => inMask (i.active f) l && bad g1 l) = div at hb ⊢
  have hout : (if i.g.trapen.getLsbD 0 = true then div else (0 : Mask)) = 0 := by
    by_cases ht : i.g.trapen.getLsbD 0 = true
    · rw [if_pos ht]; exact hb ht
    · rw [if_neg ht]
  simp only [hout]
  have hw : i.active f &&& ~~~ (0 : Mask) = i.active f := by
    have h0 : ~~~ (0 : Mask) = BitVec.allOnes 32 := by decide
    rw [h0, BitVec.and_allOnes]
  simp only [hw]
  rw [if_neg (by simpa using h.active)]
  have hk3 := onlyGroup_countAstat (onlyGroup_onIssuing hk2 hg2 (fun g => setAstat g 0 div)) i.ctx 0 div
  have hg3 := holds_countAstat (holds_onIssuing hg2 (fun g => setAstat g 0 div) rfl rfl) i.ctx 0 div
  generalize countAstat (onIssuing (applyReleases s1 i p) i (fun g => setAstat g 0 div)) i.ctx 0 div = s3 at hk3 hg3 ⊢
  have hn0 : nextOp (countAstat s i.ctx 0 div) i = nextOp s i := by unfold countAstat nextOp; split <;> rfl
  have hpf : p.flag = flagNumber i.e f.fen f.fsel := by rw [← hplan]; rfl
  have hz : ((0 : Mask) == 0) = true := rfl
  simp only [hz, if_true]
  cases hdd : f.d with
  | v n =>
    obtain ⟨t, g, h1, h2, h3, h4, h5, h6⟩ := vector_tail hk3 hg3 { newOp s3 i p (i.active f)
      (.vec ((lanesIn (i.active f)).map (fun l => (l, val g1 l))) (uniformResult i.g f (i.active f))) with dest := Dest.v n.toNat } hpf n (uniformResult i.g f (i.active f)) hdd
    rw [hn0] at h3 h5
    rw [hdd] at h4 h5
    exact ⟨t, g, _, congrArg _ h1, h2, h3, rfl, rfl, ⟨rfl, rfl, rfl, hpf⟩, h4, h5, h6⟩
  | s n =>
    obtain ⟨t, g, h1, h2, h3, h4, h5, h6⟩ := vector_tailS hk3 hg3 { newOp s3 i p (i.active f)
      (.vec ((lanesIn (i.active f)).map (fun l => (l, val g1 l))) (uniformResult i.g f (i.active f))) with dest := Dest.s n.toNat } hpf n hdd
    rw [hn0] at h3 h5
    rw [hdd] at h4 h5
    exact ⟨t, g, _, congrArg _ h1, h2, h3, rfl, rfl, ⟨rfl, rfl, rfl, hpf⟩, h4, h5, h6⟩
  | p n => simp [hdd, Opnd.isV, Opnd.isS] at hd
  | k c => simp [hdd, Opnd.isV, Opnd.isS] at hd
  | none => simp [hdd, Opnd.isV, Opnd.isS] at hd
  | reserved c => simp [hdd, Opnd.isV, Opnd.isS] at hd

theorem vector_law {ins : Instr} {f : Fx} {val : Group → Nat → Word} {bad : Group → Nat → Bool} (he : ∀ s, exec ins s = vectorOp s f val bad) :
    VectorLaw ins f val bad := by
  intro s i hd h hb
  rw [he]
  exact vectorOp_starts val bad hd h hb

end Sys2Proof.Machine
end

