-- ==== Sys2Proof/Laws/Translate.lean ====
section
/-! SUPPORT. A translation, and the checks of an access, touch no core. -/

namespace Sys2Proof.Machine

/-- What every step of a fold keeps, the fold keeps. -/
theorem foldl_keeps {α β γ : Type} (p : γ → β) (f : γ → α → γ) (h : ∀ s x, p (f s x) = p s) (l : List α) (s : γ) : p (l.foldl f s) = p s := by
  induction l generalizing s with
  | nil => rfl
  | cons x r ih => rw [List.foldl_cons, ih, h]

theorem cores_homeWriteMask (s : State) (pa n m v : Nat) : (homeWriteMask s pa n m v).cores = s.cores := rfl

theorem cores_applyHome (s : State) (pa n m v : Nat) (t : Option (BitVec 4)) : (applyHome s pa n m v t).cores = s.cores := by
  unfold applyHome
  refine (foldl_keeps (fun s : State => s.cores) (fun s i => setPoison s (pa / 256 * 256 + 64 * i) false) (fun _ _ => rfl) _ _).trans ?_
  cases t <;> rfl

theorem cores_noteWritten (s : State) (p : Nat) (va : Word) (acc : Acc) (pa ipa : Nat) : (noteWritten s p va acc pa ipa).cores = s.cores := by
  unfold noteWritten
  split <;> rfl

theorem cores_deviceWrite (s : State) (pa n v : Nat) : (deviceWrite s pa n v).cores = s.cores := by
  unfold deviceWrite
  refine (foldl_keeps (fun s : State => s.cores) _ ?_ _ _).trans (cores_applyHome _ _ _ _ _ _)
  intro s e
  split <;> rfl

theorem cores_logDirty (s : State) (p a z : Nat) : (logDirty s p a z).cores = s.cores := by
  unfold logDirty
  dsimp only
  split
  · rfl
  · split
    · rfl
    · exact cores_deviceWrite _ _ _ _

theorem cores_setAd (s : State) (pa : Nat) (w : Bool) : (setAd s pa w).cores = s.cores := by
  unfold setAd
  dsimp only
  generalize (if bitAt (homeRead s pa 8) 4 then homeRead s pa 8 else homeRead s pa 8 + 16) = x
  repeat' split
  all_goals first
    | rfl
    | exact cores_deviceWrite _ _ _ _

theorem cores_walkFrom (at' : State → Nat → Nat → State × (Nat ⊕ XFault)) (h : ∀ s a l, (at' s a l).1.cores = s.cores) (cause : Nat) (st2 : Bool) (a : Nat) :
    ∀ n lvl s t, (walkFrom at' cause st2 a n lvl s t).1.cores = s.cores := by
  intro n
  induction n with
  | zero => intros; rfl
  | succ n ih =>
    intro lvl s t
    unfold walkFrom
    have h1 := h s (t + levelIndex a lvl * 8) lvl
    split
    · rename_i s' f he
      rw [he] at h1
      exact h1
    · rename_i s' pa he
      rw [he] at h1
      dsimp only at h1 ⊢
      repeat' split
      all_goals first
        | exact h1
        | exact (ih _ _ _).trans h1

theorem cores_stage2 (s : State) (p ipa : Nat) (acc : Acc) (d : Nat) : (stage2 s p ipa acc d).1.cores = s.cores := by
  unfold stage2
  dsimp only
  split
  · rfl
  split
  · rfl
  have hw := cores_walkFrom (fun s pa _ => (s, .inl pa)) (fun _ _ _ => rfl) causeXlate2 true ipa 5 0 s (fieldOf (polderOf s p).ps2root 12 40 * 4096)
  split
  · rename_i s' f he
    rw [he] at hw
    exact hw
  · rename_i s' l he
    rw [he] at hw
    repeat' split
    all_goals first
      | exact hw
      | exact (cores_setAd _ _ _).trans ((cores_logDirty _ _ _ _).trans hw)
      | exact (cores_setAd _ _ _).trans hw

theorem cores_walk1 (s : State) (c p : Nat) (va : Word) (acc : Acc) (d : Nat) : (walk1 s c p va acc d).1.cores = s.cores := by
  unfold walk1
  dsimp only
  split
  · rfl
  have hstep : ∀ (s : State) (ipa lvl : Nat), ((fun s ipa lvl => match stage2 s p ipa accRead d with
      | (s, .inl o) => (s, Sum.inl o.pa)
      | (s, .inr f) => (s, Sum.inr ({ cause := causeWalk2, sub := f.sub, level := lvl, ipa := ipa } : XFault))) s ipa lvl : State × (Nat ⊕ XFault)).1.cores = s.cores := by
    intro s ipa lvl
    have := cores_stage2 s p ipa accRead d
    dsimp only
    split <;> (rename_i he; rw [he] at this; exact this)
  split
  · rename_i he
    have hw := congrArg (fun x => x.1.cores) he
    exact hw.symm.trans (cores_walkFrom _ hstep _ _ _ _ _ _ _)
  · rename_i s' l he
    have hw : s'.cores = s.cores := (congrArg (fun x => x.1.cores) he).symm.trans (cores_walkFrom _ hstep _ _ _ _ _ _ _)
    split
    · exact hw
    · split
      · exact hw
      · have h2 := cores_stage2 s' p l.out acc d
        split <;> rename_i he2 <;> rw [he2] at h2
        · exact h2.trans hw
        · exact (cores_setAd _ _ _).trans (h2.trans hw)

theorem cores_submitAt (s : State) (die plane : Nat) (p : Packet) (core op : Nat) : (submitAt s die plane p core op).cores = s.cores := rfl

theorem cores_hostXlate (s : State) (k : Nat) (ctx : BitVec 10) (p : Nat) (va : Word) (acc : Acc) : (hostXlate s k ctx p va acc).1.cores = s.cores := by
  unfold hostXlate
  split
  · rfl
  · split
    · rfl
    · rename_i n r _
      dsimp only
      split
      · rfl
      · split
        · rfl
        · split
          · rfl
          · split
            · rfl
            · split
              · rename_i he
                have h2 := congrArg (fun x => x.1.cores) he
                rw [← h2]
                exact cores_stage2 _ _ _ _ _
              · rename_i he
                have h2 := congrArg (fun x => x.1.cores) he
                split
                · rw [← h2]
                  exact cores_stage2 _ _ _ _ _
                · refine Eq.trans ?_ (Eq.trans h2.symm ?_)
                  · rfl
                  · exact cores_stage2 _ _ _ _ _

/-- A translation touches no core. -/
theorem cores_translate (s : State) (k : Nat) (ctx : BitVec 10) (va : Word) (acc : Acc) : (translate s k ctx va acc).1.cores = s.cores := by
  unfold translate
  dsimp only
  split
  · exact cores_noteWritten _ _ _ _ _ _
  · split
    · have h1 := cores_walk1 s ctx.toNat (ctxOf s ctx.toNat).polder va acc (dieOfCore k)
      split <;> rename_i he <;> rw [he] at h1
      · exact h1
      · exact (cores_noteWritten _ _ _ _ _ _).trans h1
    · split
      · exact cores_hostXlate _ _ _ _ _ _
      · rfl

theorem cores_checkAccess (s : State) (k : Nat) (ctx : BitVec 10) (q : Need) (w : List (Word × XFault)) (ps : List (Word × Nat × Nat)) (va : Word) :
    (checkAccess s k ctx q w ps va).1.cores = s.cores := by
  unfold checkAccess
  split
  · dsimp only
    split <;> rfl
  · split
    · split <;> rfl
    · split
      · rfl
      · split
        · rfl
        have h1 := cores_translate s k ctx va q.acc
        split <;> rename_i he <;> rw [he] at h1 <;> exact h1

theorem cores_probeDeep (s : State) (i : Issuer) (q : Need) (l r : Nat) (a : Word) (p : Probe) : (probeDeep s i q l r a p).1.cores = s.cores := by
  unfold probeDeep
  split
  · repeat' split
    all_goals rfl
  · exact cores_checkAccess _ _ _ _ _ _ _

theorem cores_probeLane (i : Issuer) (g : Group) (q : Need) (a : State × Probe) (e : Nat × Word) : (probeLane i g q a e).1.cores = a.1.cores := by
  obtain ⟨s, p⟩ := a
  unfold probeLane
  dsimp only
  split
  · rfl
  · split
    · exact cores_probeDeep _ _ _ _ _ _ _
    · split
      · rfl
      · split
        · rfl
        · repeat' split
          all_goals first
            | rfl
            | exact cores_probeDeep _ _ _ _ _ _ _
            | exact (cores_probeDeep _ _ _ _ _ _ _).trans (cores_probeDeep _ _ _ _ _ _ _)

/-- The checks of an instruction's accesses touch no core. -/
theorem cores_probe (s : State) (i : Issuer) (g : Group) (q : Need) (m : Mask) (ea : Nat → Word) : (probe s i g q m ea).1.cores = s.cores := by
  unfold probe
  exact foldl_keeps (fun a : State × Probe => a.1.cores) (probeLane i g q) (fun a e => cores_probeLane i g q a e) _ _

end Sys2Proof.Machine
end

