-- ==== Sys2Proof/Laws/Mem.lean ====
section
/-! SUPPORT. What a memory instruction does when every access of it goes through, and what the start of a load leaves. -/

namespace Sys2Proof.Machine

/-! ### The common course -/

theorem traps_nil {r : Probe} (q : Need) (h : r.bad = []) : r.traps q = [] := by unfold Probe.traps; rw [h]; rfl

theorem countTagFaults_nil {s : State} {i : Issuer} {r : Probe} (h : r.bad = []) : countTagFaults s i r = s := by
  unfold countTagFaults
  rw [h]
  rfl

theorem reportTags_nil (s : State) (i : Issuer) (c : Nat) : reportTags s i c [] = s := rfl

theorem and_not_zero (m : Mask) : m &&& ~~~ (0 : Mask) = m := by
  have h : ~~~ (0 : Mask) = BitVec.allOnes 32 := by decide
  rw [h, BitVec.and_allOnes]

/-- The end of an instruction of which no lane faults or mismatches. -/
theorem finishMem_clear {s : State} {i : Issuer} {p : Plan} {q : Need} {once : Option Mask} {m : Mask} {r : Probe}
    {wait : Mask → List LaneAcc → Option (Mask × (List Nat → Hold))} (effect : Mask → State → State) (hb : r.bad = []) (ht : r.mism = []) (hm : m ≠ 0) :
    finishMem s i p q once m r wait effect =
      match wait m r.byLane with
      | none => complete (effect m (applyReleases s i p)) i []
      | some (w, h) =>
        completeWait (effect m (applyReleases s i p)) i w
          (h (startedOps (effect m (applyReleases s i p)) i.k (coreOf (applyReleases s i p) i.k).nextOp)) [] := by
  have h2 : trapLanes [] = 0 := rfl
  have h3 : (m == 0) = false := by simpa using hm
  have h4 : ∀ all, onceTraps all [] = [] := fun _ => rfl
  unfold finishMem
  cases once <;>
    simp only [traps_nil q hb, h4, h2, and_not_zero, h3, countTagFaults_nil hb, ht, reportTags_nil, Bool.false_eq_true, if_false] <;>
    rfl

/-- A memory instruction whose lanes each access memory. -/
theorem memOp_clear {s : State} {i : Issuer} {f : Fx} {plan : Issuer → Mask → Plan} {q : Need} {watch : Option WatchKind}
    {effect : Issuer → Group → Plan → Mask → List LaneAcc → State → State} {p : Plan} (hp : plan i (i.active f) = p)
    (h : Issues s i f false p)
    (hc : Clear s i p q (i.active f) (fun g => eaAt g f q.scratch) (fun s accs => watch.bind (fun k => watchTrap s i k accs)))
    (rel : List Nat := relNames f) :
    memOp s f plan q watch effect rel = .next (complete (effect i (readView s i.g p.srcs).2 p (i.active f)
      (found s i p q (i.active f) (fun g => eaAt g f q.scratch)).2.byLane
      (applyReleases (found s i p q (i.active f) (fun g => eaAt g f q.scratch)).1 i p)) i []) := by
  obtain ⟨h1, h2, h3, h4⟩ := hc
  unfold found at h1 h2 h3 h4 ⊢
  unfold memOp
  rw [onIssue_effect h _ rel, hp]
  simp only [passing_pass h.passes]
  generalize readView s i.g p.srcs = rv at *
  obtain ⟨s1, g⟩ := rv
  simp only at *
  generalize probe s1 i g q (i.active f) (eaAt g f q.scratch) = pr at *
  obtain ⟨s2, r⟩ := pr
  simp only at *
  simp only [h2]
  rw [finishMem_clear _ h1 h3 h.active, h4]
  rfl

/-- A memory instruction that acts once. -/
theorem onceOp_clear {s : State} {i : Issuer} {f : Fx} {plan : Issuer → Mask → Plan} {q : Need} {watch : Option WatchKind}
    {effect : Issuer → Group → Plan → Mask → List LaneAcc → State → State} {p : Plan} (hp : plan i (i.active f) = p)
    (h : Issues s i f false p)
    (hc : Clear s i p q (maskOfLanes [lowestLane (i.active f)]) (fun g => eaAt g f q.scratch)
      (fun s accs => watch.bind (fun k => onceWatch s i k (i.active f) accs))) :
    onceOp s f plan q watch effect = .next (complete (effect i (readView s i.g p.srcs).2 p (i.active f)
      (found s i p q (maskOfLanes [lowestLane (i.active f)]) (fun g => eaAt g f q.scratch)).2.byLane
      (applyReleases (found s i p q (maskOfLanes [lowestLane (i.active f)]) (fun g => eaAt g f q.scratch)).1 i p)) i []) := by
  obtain ⟨h1, h2, h3, h4⟩ := hc
  unfold found at h1 h2 h3 h4 ⊢
  unfold onceOp
  rw [onIssue_effect h, hp]
  simp only [passing_pass h.passes]
  generalize readView s i.g p.srcs = rv at *
  obtain ⟨s1, g⟩ := rv
  simp only at *
  generalize probe s1 i g q (maskOfLanes [lowestLane (i.active f)]) (eaAt g f q.scratch) = pr at *
  obtain ⟨s2, r⟩ := pr
  simp only at *
  simp only [h2, Bool.false_eq_true, if_false]
  rw [finishMem_clear _ h1 h3 h.active]
  simp only [h4]
  rfl

/-! ### The state after the translations -/

theorem cores_found (s : State) (i : Issuer) (p : Plan) (q : Need) (m : Mask) (ea : Group → Nat → Word) : (found s i p q m ea).1.cores = s.cores := by
  unfold found
  rw [cores_probe, readView_state]

theorem coreOf_of_cores {s t : State} (h : t.cores = s.cores) (k : Nat) : coreOf t k = coreOf s k := by unfold coreOf; rw [h]

theorem holds_found {s : State} {i : Issuer} (h : issuer s = some i) (p : Plan) (q : Need) (m : Mask) (ea : Group → Nat → Word) :
    Holds (found s i p q m ea).1 i i.g :=
  ⟨by rw [coreOf_of_cores (cores_found s i p q m ea)]; exact (holds_of_issuer h).1, rfl, rfl⟩

theorem onlyGroup_found {s : State} {i : Issuer} (h : issuer s = some i) (p : Plan) (q : Need) (m : Mask) (ea : Group → Nat → Word) :
    OnlyGroup (found s i p q m ea).1 (found s i p q m ea).1 i :=
  onlyGroup_refl (by rw [coreOf_of_cores (cores_found s i p q m ea)]; exact (issuer_slot h).2.1)

theorem nextOp_found (s : State) (i : Issuer) (p : Plan) (q : Need) (m : Mask) (ea : Group → Nat → Word) : nextOp (found s i p q m ea).1 i = nextOp s i := by
  unfold nextOp
  rw [coreOf_of_cores (cores_found s i p q m ea)]

/-! ### Names to come -/

/-- A name that becomes pending leaves the operations that other names await. -/
theorem pend_any_spoil (s : State) (g : Group) (n : Nat) (q : Nat → Nat → Option Nat → Bool) :
    (spoilNames s g [n]).2.pend.any (fun x => q x.name x.op x.flag) = g.pend.any (fun x => q x.name x.op x.flag) := by
  unfold spoilNames
  generalize g.pend.filter (fun p => [n].contains p.name) = l
  induction l generalizing s g with
  | nil => rfl
  | cons p r ih =>
    simp only [List.foldl_cons]
    rw [ih, List.any_map]
    congr 1
    funext x
    simp only [Function.comp]
    split <;> rfl

/-- The names of a list become pending for an operation. -/
def pendAll (ns : List Nat) (op : Nat) (fl : Option Nat) (a : State × Group) : State × Group :=
  ns.foldl (fun a n => pendName (a.1, allocName a.2 n) n op fl) a

theorem pendAll_spec (ns : List Nat) (op : Nat) (fl : Option Nat) (a : State × Group) :
    (pendAll ns op fl a).1 = { a.1 with fresh := (pendAll ns op fl a).1.fresh } ∧
      (pendAll ns op fl a).2 = { a.2 with v := (pendAll ns op fl a).2.v, badV := (pendAll ns op fl a).2.badV, pend := (pendAll ns op fl a).2.pend } ∧
      (∀ q : Nat → Nat → Option Nat → Bool, a.2.pend.any (fun x => q x.name x.op x.flag) = true → (pendAll ns op fl a).2.pend.any (fun x => q x.name x.op x.flag) = true) ∧
      (∀ n ∈ ns, (pendAll ns op fl a).2.pend.any (fun x => x.name == n && x.op == op && x.flag == fl) = true) ∧
      (∀ n, n ∉ ns → look (pendAll ns op fl a).2.v n = look a.2.v n) := by
  unfold pendAll
  induction ns generalizing a with
  | nil => exact ⟨rfl, rfl, fun _ h => h, fun n h => absurd h (by simp), fun n _ => rfl⟩
  | cons b r ih =>
    simp only [List.foldl_cons]
    obtain ⟨h1, h2, h3, h4, h5⟩ := ih (pendName (a.1, allocName a.2 b) b op fl)
    obtain ⟨e1, e2, e3, e4⟩ := pendName_spec (a.1, allocName a.2 b) b op fl
    refine ⟨?_, ?_, ?_, ?_, ?_⟩
    · rw [h1, e1]
    · rw [h2, e2]
      rfl
    · intro q hq
      apply h3
      unfold pendName
      rw [List.any_append]
      simp only [Bool.or_eq_true]
      left
      split
      · exact (pend_any_spoil a.1 (allocName a.2 b) b q).trans hq
      · exact hq
    · intro n hn
      rcases List.mem_cons.mp hn with rfl | hn
      · exact h3 (fun x y z => x == n && y == op && z == fl) e4
      · exact h4 n hn
    · intro n hn
      rw [h5 n (fun h => hn (List.mem_cons_of_mem _ h)), e3 n (fun h => hn (by rw [h]; exact List.mem_cons_self))]
      exact look_put_ne _ _ (fun h => hn (by rw [h]; exact List.mem_cons_self))

theorem allocFor_eq (s : State) (i : Issuer) (ns : List Nat) (op : Nat) (fl : Option Nat) :
    allocFor s i ns op fl = onIssuing (pendAll ns op fl (s, groupNow s i)).1 i (fun _ => (pendAll ns op fl (s, groupNow s i)).2) := rfl

/-- The start of an operation with results to come, and the end of the issue. -/
theorem start_pending {base s : State} {i : Issuer} {p : Plan} (hb : OnlyGroup base s i) (hg : Holds s i (releaseNames i.g (released p.rel (p.dst.map (·.1)))))
    (o : Op) (ns : List Nat) (flag : Option Nat) (hf : o.flag = flag) (hpf : ns = [] ∨ flag = p.flag) :
    StartsOp base i flag o (fun g => Pending i g p ns (nextOp base i)) (.next (complete (allocFor (startOp s i o).1 i ns (startOp s i o).2 flag) i [])) := by
  obtain ⟨k1, k2, k3, k4⟩ := startOp_spec hb hg o
  rw [k4]
  rw [hf] at k2
  have hc := countFlag_frame (releaseNames i.g (released p.rel (p.dst.map (·.1)))) flag
  have hc' := countFlag_frame i.g flag
  generalize hx : countFlag (releaseNames i.g (released p.rel (p.dst.map (·.1)))) flag = gx at k2 hc
  have hgf : gx.f = (countFlag i.g flag).f := by rw [← hx]; cases flag <;> rfl
  rw [allocFor_eq, groupNow_of_holds k2]
  obtain ⟨q0, q1, _, q3, q4⟩ := pendAll_spec ns (nextOp base i) flag ((startOp s i o).1, gx)
  generalize pendAll ns (nextOp base i) flag ((startOp s i o).1, gx) = r at *
  generalize (startOp s i o).1 = s4 at *
  simp only at q0 q1 q4
  have k1' : OnlyGroup (addOp base i.k o).1 r.1 i := by rw [q0]; exact onlyGroup_fresh k1 _
  have k2' : Holds r.1 i gx := by rw [q0]; exact holds_fresh k2 _
  have hk := onlyGroup_onIssuing k1' k2' (fun _ => r.2)
  have hh := holds_onIssuing k2' (fun _ => r.2) (by rw [q1]) (by rw [q1])
  refine ⟨_, _, rfl, complete_issued hk hh (by rw [q1, hc]; rfl), ?_, ?_, ?_, ?_, ?_, ?_⟩
  · rw [opOf_complete hh, opOf_onIssuing k2', q0]
    exact k3
  · rw [q1, hc, hgf, hc']
    rfl
  · show r.2.p = _
    rw [q1, hc]; rfl
  · show r.2.s = _
    rw [q1, hc]; rfl
  · intro n hn
    rcases hpf with h | h
    · rw [h] at hn; cases hn
    · rw [← h]
      exact q3 n hn
  · intro n hn
    show look r.2.v n = _
    rw [q4 n hn, hc]
    exact look_releaseNames _ _ _

end Sys2Proof.Machine
end

