-- ==== Sys2Proof/Laws/Memory.lean ====
section
/-! SUPPORT. The laws of memory: reading what was written, and the canonical form that every operation keeps. -/

namespace Sys2Proof.Machine

theorem memory_read_nil (a : Nat) : Memory.read [] a = Memory.empty := rfl

theorem memory_wfFrom_mono {lo lo' : Nat} {m : List Host.Cell} (h : lo' ≤ lo) (w : Memory.wfFrom lo m = true) : Memory.wfFrom lo' m = true := by
  cases m with
  | nil => rfl
  | cons e r =>
    obtain ⟨k, b⟩ := e
    simp only [Memory.wfFrom, Bool.and_eq_true, decide_eq_true_eq] at w ⊢
    exact ⟨⟨Nat.le_trans h w.1.1, w.1.2⟩, w.2⟩

/-- An address below every listed one reads as an unlisted one. -/
theorem memory_read_below {lo a : Nat} {m : List Host.Cell} (w : Memory.wfFrom lo m = true) (h : a < lo) : Memory.read m a = Memory.empty := by
  cases m with
  | nil => rfl
  | cons e r =>
    obtain ⟨k, b⟩ := e
    simp only [Memory.wfFrom, Bool.and_eq_true, decide_eq_true_eq] at w
    have h1 : a < k := by omega
    have h2 : k ≠ a := by omega
    simp [Memory.read, h1, h2]

/-- Writing a byte keeps the canonical form. -/
theorem memory_write_wfFrom {lo : Nat} {m : List Host.Cell} (a : Nat) (b : Byte) (w : Memory.wfFrom lo m = true) (h : lo ≤ a) :
    Memory.wfFrom lo (Memory.write m a b) = true := by
  induction m generalizing lo with
  | nil =>
    unfold Memory.write
    split <;> simp_all [Memory.wfFrom]
  | cons e r ih =>
    obtain ⟨k, c⟩ := e
    simp only [Memory.wfFrom, Bool.and_eq_true, decide_eq_true_eq, bne_iff_ne, ne_eq] at w
    obtain ⟨⟨h1, h2⟩, h3⟩ := w
    unfold Memory.write
    split
    · rename_i hak
      split
      · simp [Memory.wfFrom, h1, h2, h3]
      · rename_i hb
        have hk : a + 1 ≤ k := by omega
        simp [Memory.wfFrom, h, hb, h2, h3, hk]
    · split
      · rename_i hak
        subst hak
        split
        · exact memory_wfFrom_mono (by omega) h3
        · rename_i hb
          simp [Memory.wfFrom, h, hb, h3]
      · have := ih h3 (by omega)
        simp [Memory.wfFrom, h1, h2, this]

theorem memory_write_wf {m : List Host.Cell} (a : Nat) (b : Byte) (w : Memory.wf m = true) : Memory.wf (Memory.write m a b) = true :=
  memory_write_wfFrom a b w (Nat.zero_le _)

/-- A byte reads as what was written there. -/
theorem memory_read_write_self {lo : Nat} {m : List Host.Cell} (a : Nat) (b : Byte) (w : Memory.wfFrom lo m = true) :
    Memory.read (Memory.write m a b) a = b := by
  induction m generalizing lo with
  | nil =>
    unfold Memory.write
    split
    · rename_i h; simp [Memory.read, h]
    · simp [Memory.read]
  | cons e r ih =>
    obtain ⟨k, c⟩ := e
    simp only [Memory.wfFrom, Bool.and_eq_true, decide_eq_true_eq] at w
    unfold Memory.write
    split
    · rename_i hak
      split
      · rename_i hb
        have : k ≠ a := by omega
        simp [Memory.read, hb, hak, this]
      · simp [Memory.read]
    · split
      · rename_i h1 h2
        subst h2
        split
        · rename_i hb
          rw [hb]
          exact memory_read_below w.2 (by omega)
        · simp [Memory.read]
      · rename_i h1 h2
        have h3 : k ≠ a := fun h => h2 h.symm
        simp [Memory.read, h3, h1, ih w.2]

/-- Every other byte reads as before. -/
theorem memory_read_write_ne {lo : Nat} {m : List Host.Cell} {a x : Nat} (b : Byte) (w : Memory.wfFrom lo m = true) (h : x ≠ a) :
    Memory.read (Memory.write m a b) x = Memory.read m x := by
  induction m generalizing lo with
  | nil =>
    unfold Memory.write
    split
    · rfl
    · simp [Memory.read, Ne.symm h]
  | cons e r ih =>
    obtain ⟨k, c⟩ := e
    simp only [Memory.wfFrom, Bool.and_eq_true, decide_eq_true_eq] at w
    unfold Memory.write
    split
    · rename_i hak
      split
      · rfl
      · by_cases hx : x < a
        · have h1 : k ≠ x := by omega
          have h2 : x < k := by omega
          have h3 : a ≠ x := by omega
          simp [Memory.read, hx, h1, h2, h3]
        · have h3 : a ≠ x := by omega
          simp [Memory.read, hx, h3]
    · split
      · rename_i h1 h2
        subst h2
        have h3 : a ≠ x := by omega
        split
        · by_cases hx : x < a
          · simp only [Memory.read, h3, hx, if_true, if_false]
            exact memory_read_below w.2 (by omega)
          · simp [Memory.read, h3, hx]
        · simp [Memory.read, h3]
      · simp only [Memory.read]
        split
        · rfl
        · split
          · rfl
          · exact ih w.2

theorem memory_writeN_wf (n : Nat) {m : List Host.Cell} (a v : Nat) (w : Memory.wf m = true) : Memory.wf (Memory.writeN m a n v) = true := by
  induction n generalizing m a v with
  | zero => exact w
  | succ n ih => exact ih _ _ (memory_write_wf _ _ w)

theorem memory_writeMask_wf (n : Nat) {m : List Host.Cell} (a mask v : Nat) (w : Memory.wf m = true) :
    Memory.wf (Memory.writeMask m a n mask v) = true := by
  induction n generalizing m a mask v with
  | zero => exact w
  | succ n ih =>
    unfold Memory.writeMask
    apply ih
    split
    · exact memory_write_wf _ _ w
    · exact w

/-- A write under a mask leaves every byte outside its range as it was. -/
theorem memory_read_writeMask_outside (n : Nat) {m : List Host.Cell} (a mask v x : Nat) (w : Memory.wf m = true) (h : x < a ∨ a + n ≤ x) :
    Memory.read (Memory.writeMask m a n mask v) x = Memory.read m x := by
  induction n generalizing m a mask v with
  | zero => rfl
  | succ n ih =>
    unfold Memory.writeMask
    split
    · rw [ih _ _ _ (memory_write_wf _ _ w) (by omega), memory_read_write_ne _ w (by omega)]
    · rw [ih _ _ _ w (by omega)]

theorem memory_read_writeN_outside (n : Nat) {m : List Host.Cell} (a v x : Nat) (w : Memory.wf m = true) (h : x < a ∨ a + n ≤ x) :
    Memory.read (Memory.writeN m a n v) x = Memory.read m x := by
  induction n generalizing m a v with
  | zero => rfl
  | succ n ih =>
    unfold Memory.writeN
    rw [ih _ _ (memory_write_wf _ _ w) (by omega), memory_read_write_ne _ w (by omega)]

/-- Clearing a range keeps the canonical form. -/
theorem memory_clearRange_wfFrom {lo : Nat} {m : List Host.Cell} (a n : Nat) (w : Memory.wfFrom lo m = true) :
    Memory.wfFrom lo (clearRange m a n) = true := by
  induction m generalizing lo with
  | nil => rfl
  | cons e r ih =>
    obtain ⟨k, c⟩ := e
    simp only [Memory.wfFrom, Bool.and_eq_true, decide_eq_true_eq] at w
    simp only [clearRange, List.filter_cons]
    have h := ih w.2
    split
    · simp only [Memory.wfFrom, Bool.and_eq_true, decide_eq_true_eq]
      exact ⟨w.1, h⟩
    · exact memory_wfFrom_mono (by omega) h

theorem memory_clearRange_wf {m : List Host.Cell} (a n : Nat) (w : Memory.wf m = true) : Memory.wf (clearRange m a n) = true :=
  memory_clearRange_wfFrom a n w

/-- Nothing is listed after reset. -/
theorem memory_reset_wf : Memory.wf State.reset.mem = true := rfl

end Sys2Proof.Machine
end

