-- ==== Sys2Proof/Laws/Pair.lean ====
section
/-! SUPPORT. What a pair does: both halves read before either writes. -/

namespace Sys2Proof.Machine

theorem onPair_effect {s : State} {i : Issuer} {f0 f1 : Fx} {v0 v1 : Group → Nat → Word}
    (h : IssuesPair s i { f := f0, m := i.active f0, val := v0 } { f := f1, m := i.active f1, val := v1 }) :
    pairOp s f0 f1 v0 v1 = .next (
      let h0 : Half := { f := f0, m := i.active f0, val := v0 }
      let h1 : Half := { f := f1, m := i.active f1, val := v1 }
      let p := pairPlan i h0 h1
      let (t, g) := readView s i.g p.srcs
      complete (writeHalf (writeHalf (applyReleases t i p) i g h0) i g h1) i []) := by
  unfold pairOp whenIssuing
  rw [h.issuing]
  simp only
  rw [if_neg h.inBody]
  have ha : ¬ ((pairPlan i { f := f0, m := i.active f0, val := v0 } { f := f1, m := i.active f1, val := v1 }).active == 0) = true := by
    intro hc
    exact h.active (beq_iff_eq.mp hc)
  rw [if_neg ha, passing_pass h.passes]

/-- Spoiling keeps the names of the pending results. -/
theorem spoilNames_names (s : State) (g : Group) (ns : List Nat) : (spoilNames s g ns).2.pend.map (·.name) = g.pend.map (·.name) := by
  unfold spoilNames
  generalize g.pend.filter (fun p => ns.contains p.name) = l
  induction l generalizing s g with
  | nil => rfl
  | cons p r ih =>
    simp only [List.foldl_cons]
    rw [ih]
    simp only [List.map_map]
    apply List.map_congr_left
    intro q _
    simp only [Function.comp]
    split <;> rfl

theorem pend_of_names {a b : List Pend} (h : a.map (·.name) = b.map (·.name)) {n : Nat} (hb : ∀ p ∈ b, p.name ≠ n) : ∀ p ∈ a, p.name ≠ n := by
  intro p hp he
  have : p.name ∈ b.map (·.name) := by rw [← h]; exact List.mem_map_of_mem hp
  obtain ⟨q, hq, hqn⟩ := List.mem_map.mp this
  exact hb q hq (hqn.trans he)

/-- A half that is active, or not. -/
theorem writeHalf_spec {s t : State} {i : Issuer} {g : Group} (h : OnlyGroup s t i) (hg : Holds t i g) (view : Group) (x : Half) {n : BitVec 7} (hd : x.f.d = .v n) :
    ∃ g', OnlyGroup s (writeHalf t i view x) i ∧ Holds (writeHalf t i view x) i g' ∧
      g' = { g with v := g'.v, badV := g'.badV, pend := g'.pend } ∧ g'.pend.map (·.name) = g.pend.map (·.name) ∧ (∀ k, k ∉ halfDst x → look g'.v k = look g.v k) ∧
      (x.m ≠ 0 → (∀ p ∈ g.pend, p.name ≠ n.toNat) → g'.v = (writeName g n.toNat (uniformResult i.g x.f x.m) x.m (x.val view)).v) := by
  unfold writeHalf halfDst
  by_cases hm : x.m = 0
  · refine ⟨g, ?_, ?_, rfl, rfl, fun _ _ => rfl, fun h => absurd hm h⟩ <;> simp [hm, h, hg]
  · simp only [beq_iff_eq, if_neg hm, hd]
    obtain ⟨g', h1, h2, h3, h4, h5, _⟩ := writeNow_spec h hg n.toNat (uniformResult i.g x.f x.m) x.m (x.val view)
    refine ⟨g', h1, h2, h3, ?_, ?_, ?_⟩
    · have : g' = (spoilNames t (writeName g n.toNat (uniformResult i.g x.f x.m) x.m (x.val view)) [n.toNat]).2 := by
        have he : writeDest t i (.v n) (uniformResult i.g x.f x.m) x.m (x.val view) = writeNow t i n.toNat (uniformResult i.g x.f x.m) x.m (x.val view) := rfl
        have hh := h2.1
        unfold writeNow at hh
        simp only [groupNow_of_holds hg] at hh
        have hf := (spoilNames_frame t (writeName g n.toNat (uniformResult i.g x.f x.m) x.m (x.val view)) n.toNat)
        have := (holds_onIssuing (s := (spoilNames t (writeName g n.toNat (uniformResult i.g x.f x.m) x.m (x.val view)) [n.toNat]).1)
          (by rw [hf.1]; exact holds_fresh hg _) (fun _ => (spoilNames t (writeName g n.toNat (uniformResult i.g x.f x.m) x.m (x.val view)) [n.toNat]).2)
          (by rw [hf.2.1]; rfl) (by rw [hf.2.1]; rfl)).1
        exact Option.some.inj (hh.symm.trans this)
      rw [this, spoilNames_names]
      rfl
    · intro k hk
      exact h4 k (by simpa [opNames] using hk)
    · intro _ hp
      rw [h5 hp]

/-- WHAT A PAIR DOES. -/
theorem pair_law {ins : Instr} {f0 f1 : Fx} {v0 v1 : Group → Nat → Word} {n0 n1 : BitVec 7} (d0 : f0.d = .v n0) (d1 : f1.d = .v n1) (hne : n0 ≠ n1)
    (he : ∀ s, exec ins s = pairOp s f0 f1 v0 v1) : PairLaw ins f0 f1 v0 v1 := by
  intro s i h0 h1 h
  rw [he, onPair_effect h]
  have hs := issuer_slot h.issuing
  have hg0 := holds_of_issuer h.issuing
  have hk0 := onlyGroup_refl hs.2.1
  simp only
  generalize hview : readView s i.g (pairPlan i h0 h1).srcs = rv
  obtain ⟨s1, g1⟩ := rv
  have hs1 : s1 = { s with fresh := s1.fresh } := by
    have := readView_state s i.g (pairPlan i h0 h1).srcs
    rw [hview] at this
    exact this
  have hk1 : OnlyGroup s s1 i := by rw [hs1]; exact onlyGroup_fresh hk0 _
  have hg1 : Holds s1 i i.g := by rw [hs1]; exact holds_fresh hg0 _
  have hk2 := onlyGroup_applyReleases hk1 hg1 (pairPlan i h0 h1)
  have hg2 := holds_applyReleases hg1 (pairPlan i h0 h1)
  have hgone : released (pairPlan i h0 h1).rel ((pairPlan i h0 h1).dst.map (·.1)) = pairGone h0 h1 := by
    have hd : ∀ x : Half, ((if (x.m == 0) = true then ([] : List (Nat × Bool)) else (opNames x.f.d).map (fun n => (n, uniformResult i.g x.f x.m))).map (·.1)) = halfDst x := by
      intro x
      unfold halfDst
      split
      · rfl
      · simp [List.map_map, Function.comp_def]
    unfold pairPlan pairGone
    simp only [List.map_append]
    rw [hd h0, hd h1]
  rw [hgone] at hg2
  obtain ⟨ga, ka, ha, ea, na, oa, wa⟩ := writeHalf_spec hk2 hg2 g1 h0 (n := n0) d0
  obtain ⟨gb, kb, hb, eb, nb, ob, wb⟩ := writeHalf_spec ka ha g1 h1 (n := n1) d1
  have hi := complete_issued kb hb (by rw [eb, ea]; rfl)
  have hnn : n0.toNat ≠ n1.toNat := fun h => hne (BitVec.eq_of_toNat_eq h)
  have m0 : n0.toNat ∉ halfDst h1 := by
    unfold halfDst
    split
    · simp
    · simp only [show h1.f.d = .v n1 from d1, opNames, List.mem_singleton]; exact hnn
  have m1 : n1.toNat ∉ halfDst h0 := by
    unfold halfDst
    split
    · simp
    · simp only [show h0.f.d = .v n0 from d0, opNames, List.mem_singleton]; exact fun h => hnn h.symm
  have g0 : h0.m ≠ 0 → n0.toNat ∉ pairGone h0 h1 := by
    intro hm hmem
    have := (List.mem_filter.mp hmem).2
    have hin : n0.toNat ∈ halfDst h0 := by
      unfold halfDst
      rw [if_neg (by simpa using hm), show h0.f.d = .v n0 from d0]
      exact List.mem_singleton.mpr rfl
    simp [hin] at this
  have g1' : h1.m ≠ 0 → n1.toNat ∉ pairGone h0 h1 := by
    intro hm hmem
    have := (List.mem_filter.mp hmem).2
    have hin : n1.toNat ∈ halfDst h1 := by
      unfold halfDst
      rw [if_neg (by simpa using hm), show h1.f.d = .v n1 from d1]
      exact List.mem_singleton.mpr rfl
    simp [hin] at this
  refine ⟨_, _, rfl, hi, ?_, ?_, ?_, ?_, ?_, ?_, ?_⟩
  · intro hm
    have hw : ∀ n, h0.f.d = .v n → (∀ p ∈ i.g.pend, p.name ≠ n.toNat) →
        ∀ l, vLane gb n.toNat l = vLane (writeName (releaseNames i.g (pairGone h0 h1)) n.toNat (uniformResult i.g h0.f h0.m) h0.m (v0 g1)) n.toNat l := by
      intro n hd hp l
      have hnn0 : n = n0 := by
        have := hd.symm.trans (show h0.f.d = .v n0 from d0)
        simpa using this
      subst hnn0
      unfold vLane
      rw [ob _ m0, wa hm (pend_releaseNames hp)]
    refine ⟨?_, ?_⟩
    · intro n hd hp l hl hl2
      show vLane gb n.toNat l = _
      rw [hw n hd hp, vLane_writeName _ _ _ _ _ _ hl]
      cases uniformResult i.g h0.f h0.m
      · simp [hl2]
      · rfl
    · intro n hd hp hu l hl hl2
      show vLane gb n.toNat l = _
      rw [hw n hd hp, vLane_writeName _ _ _ _ _ _ hl]
      simp only [hu, Bool.false_eq_true, if_false, hl2]
      have hnn0 : n = n0 := by
        have := hd.symm.trans (show h0.f.d = .v n0 from d0)
        simpa using this
      subst hnn0
      unfold vLane
      rw [look_releaseNames, if_neg (g0 hm)]
  · intro hm
    have hw : ∀ n, h1.f.d = .v n → (∀ p ∈ i.g.pend, p.name ≠ n.toNat) →
        ∀ l, vLane gb n.toNat l = vLane (writeName ga n.toNat (uniformResult i.g h1.f h1.m) h1.m (v1 g1)) n.toNat l := by
      intro n hd hp l
      have hnn1 : n = n1 := by
        have := hd.symm.trans (show h1.f.d = .v n1 from d1)
        simpa using this
      subst hnn1
      unfold vLane
      rw [wb hm (pend_of_names na (pend_releaseNames hp))]
    refine ⟨?_, ?_⟩
    · intro n hd hp l hl hl2
      show vLane gb n.toNat l = _
      rw [hw n hd hp, vLane_writeName _ _ _ _ _ _ hl]
      cases uniformResult i.g h1.f h1.m
      · simp [hl2]
      · rfl
    · intro n hd hp hu l hl hl2
      show vLane gb n.toNat l = _
      rw [hw n hd hp, vLane_writeName _ _ _ _ _ _ hl]
      simp only [hu, Bool.false_eq_true, if_false, hl2]
      have hnn1 : n = n1 := by
        have := hd.symm.trans (show h1.f.d = .v n1 from d1)
        simpa using this
      subst hnn1
      unfold vLane
      rw [oa _ m1, look_releaseNames, if_neg (g1' hm)]
  · intro n hn
    simp only [List.mem_append, not_or] at hn
    show look gb.v n = _
    rw [ob n hn.2, oa n hn.1, look_releaseNames]
  · show gb.s = _
    rw [eb, ea]
    rfl
  · show gb.p = _
    rw [eb, ea]
    rfl
  · show gb.astat = _
    rw [eb, ea]
    rfl
  · show Group.besides { replaceEntry gb i.e [i.onward i.e.mask] with begun := true } i.g = i.g
    rw [eb, ea]
    rfl

/-- The destinations of a legal pair differ. -/
theorem pairOk_dest {h0 h1 : PHalf} (h : pairOk h0 h1 = true) : h0.vd ≠ h1.vd := by
  intro he
  unfold pairOk at h
  simp [he] at h

end Sys2Proof.Machine
end

