-- ==== Sys2Proof/Tests/Slice0.lean ====
section
/-! SUPPORT. Tests: ill-formed terms that the checks refuse, words written out bit by bit from the spec's encodings, single steps on small
states, and for each obligation with hypotheses a concrete state and operands that meet them. -/

namespace Sys2Proof.Tests

open Sys2Proof Sys2Proof.Machine

set_option maxRecDepth 100000
set_option exponentiation.threshold 2048
set_option Elab.async false

/-! ### Well-formed instructions, and one ill-formed term for each check -/

/-- IADD.i32 v1, v2, v3 under no guard. -/
def form : Fx := { ty := .i32, d := .v 1, a := .v 2, b := .v 3, c := .none, lua := false, lub := false, luc := false, guard := 7, gneg := false,
                   fen := false, fsel := false, reuse := false, md := 0, ext := .f }

theorem test_wellformed : (Instr.iadd form).wf = true := by decide

/-- R264: a MOD bit that the entry does not define; XMOD where no entry takes it. -/
theorem test_illformed_resv : okResv ((Sys2Proof.form 0x20).getD Form.bare) { form with md := 2 } = false ∧ (Instr.iadd { form with md := 2 }).wf = false ∧
    (Instr.iadd { form with ext := .sm 1 0 0 }).wf = false := by decide

/-- R262: an operand code not allowed in its role; a constant as d; operand c where the entry has none; a last-use bit on no vector register. -/
theorem test_illformed_operand : (Instr.iadd { form with a := .p 1 }).wf = false ∧ (Instr.iadd { form with d := .k .zero }).wf = false ∧
    (Instr.iadd { form with c := .v 1 }).wf = false ∧ (Instr.iadd { form with a := .s 1, lua := true }).wf = false ∧
    (Instr.iadd { form with a := .reserved 0xC8 }).wf = false := by decide

/-- R262: float constants in an integer type; the lane index on the uniform datapath; a vector source of it; REUSE outside MMA. -/
theorem test_illformed_constant : (Instr.iadd { form with a := .k .fOne }).wf = false ∧ (Instr.iadd { form with d := .s 1, a := .s 2, b := .k .lane }).wf = false ∧
    (Instr.iadd { form with d := .s 1 }).wf = false ∧ (Instr.iadd { form with reuse := true }).wf = false := by decide

/-- R253: a literal beside an operand b, and a literal of an instruction with no operand b. -/
theorem test_illformed_literal : (Instr.iadd { form with ext := .lit 1 }).wf = false ∧ (Instr.ineg { form with b := .none, ext := .lit 1 }).wf = false ∧
    (Instr.iadd { form with b := .none, ext := .lit 1 }).wf = true := by decide

/-- R261: a type that the entry does not accept. -/
theorem test_illformed_type : (Instr.iadd { form with ty := .f32 }).wf = false ∧ (Instr.nop { form with d := .none, a := .none, b := .none }).wf = false := by decide

/-- R263: CLASS 101 and 000 with other bits; d of S or more; rev with a distance; a modifier on no vector register. -/
theorem test_illformed_smod : smodOk 0xA00 = false ∧ smodOk 0x040 = false ∧ smodOk 0x242 = true ∧ smodOk 0x244 = false ∧ smodOk 0x842 = false ∧ smodOk 0x180 = false ∧
    (Instr.iadd { form with a := .s 1, ext := .sm 0 0 0x242 }).wf = false := by decide

/-- R264: rounding codes 5 to 7, and a comparison code past 5. -/
theorem test_illformed_modf : (Instr.fadd { form with ty := .f32, md := 4 }).wf = true ∧ (Instr.fadd { form with ty := .f32, md := 5 }).wf = false ∧
    (Instr.icmp { form with d := .p 1, md := 5 }).wf = true ∧ (Instr.icmp { form with d := .p 1, md := 6 }).wf = false := by decide

/-- R262, R357: FSEL without FEN, a flag where none is allowed, and no flag where one is required. -/
theorem test_illformed_flag : (Instr.iadd { form with fsel := true }).wf = false ∧ (Instr.iadd { form with fen := true }).wf = false ∧
    (Instr.mma { form with ty := .n8, d := .v 32, a := .v 8, b := .v 16 }).wf = false ∧
    (Instr.mma { form with ty := .n8, d := .v 32, a := .v 8, b := .v 16, fen := true }).wf = true := by decide

/-- R357: spans that are not aligned, or overlap. R332: a run not at a multiple of its length. -/
theorem test_illformed_spans : (Instr.mma { form with ty := .n8, d := .v 16, a := .v 8, b := .v 16, fen := true }).wf = false ∧
    (Instr.mma { form with ty := .n8, d := .v 32, a := .v 40, b := .v 16, fen := true }).wf = false ∧
    (Instr.ld { form with ty := .b64, d := .v 6, a := .s 0, b := .v 0, md := 1 }).wf = true ∧ (Instr.ld { form with ty := .b64, d := .v 6, a := .s 0, b := .v 0, md := 2 }).wf = false := by
  decide

/-- R256, R257: VB of MOV.b64, a shift count past its limit, VA of MOV.i32. -/
theorem test_illformed_short : (Instr.movB64C { g := false, lub := false, lua := false, vb := 1, va := 2, vd := 3 }).wf = false ∧
    (Instr.shlB32I { imm := 31, lua := false, va := 2, vd := 3 }).wf = true ∧ (Instr.shlB32I { imm := 32, lua := false, va := 2, vd := 3 }).wf = false ∧
    (Instr.movI32I { imm := 1, lua := false, va := 2, vd := 3 }).wf = false := by decide

/-- R259: two destinations in one bank; a bank read three times. R260: equal flags, a flag of 12, a field without its valid bit. -/
theorem test_illformed_pair_header :
    let h (vd vs : BitVec 7) : PHalf := { gneg := false, guard := 7, lus := false, vs := vs, vd := vd }
    let c : Header := { len := 0, pri := 0, bv := false, flagB := 0, av := false, flagA := 0, wait := 0 }
    pairOk (h 0 1) (h 2 3) = true ∧ pairOk (h 0 1) (h 4 2) = false ∧ pairOk (h 0 4) (h 1 8) = false ∧
    (Instr.clause c).wf = true ∧ (Instr.clause { c with av := true, bv := true, flagA := 3, flagB := 3 }).wf = false ∧
    (Instr.clause { c with av := true, flagA := 12 }).wf = false ∧ (Instr.clause { c with flagB := 1 }).wf = false := by decide

/-! ### Words written out from the encodings of R250 to R260 -/

/-- The two parcels of a word of format F or P, and the three of one of format X. -/
def words2 (w : Nat) : List Nat := [w % 2 ^ 32, w / 2 ^ 32]
def words3 (w : Nat) : List Nat := [w % 2 ^ 32, w / 2 ^ 32 % 2 ^ 32, w / 2 ^ 64]

/-- R250, R256: G, LUB, LUA, VB, VA, VD, OPC, 00. FADD.f16 v1, v2, v3 under p0, a last used. -/
theorem test_decode_compact : decode (parcelBytes [0b1_0_1_0000011_0000010_0000001_010110_00]) =
    .ok (.faddF16C { g := true, lub := false, lua := true, vb := 3, va := 2, vd := 1 }, []) := by decide +kernel

/-- R251, R257: IMM, LUA, VA, VD, OPI, 01. IADD.i64 v5, v6, −2. -/
theorem test_decode_immediate : decode (parcelBytes [0b111111110_1_0000110_0000101_000001_01]) =
    .ok (.iaddI64I { imm := 0x1FE, lua := true, va := 6, vd := 5 }, []) := by decide +kernel

/-- R258: 0, half 1, half 0, 1, 10; a half is 00000, GNEG, GUARD, LUS, VS, VD, OPP. FMUL.f32 v2, v3 under not p1 beside MOV.b64 v0, v5. -/
theorem test_decode_pair : decode (parcelBytes (words2 0b0_000000111100001010000000010000_000001001000000110000010001001_1_10)) =
    .ok (.fmulF32P { gneg := true, guard := 1, lus := false, vs := 3, vd := 2 } .movB64 { gneg := false, guard := 7, lus := true, vs := 5, vd := 0 }, []) := by decide +kernel

/-- R260: 14 zeros, LEN, PRI, BV, FLAGB, AV, FLAGA, WAIT, TYPE 0, OP8 0, 010. A body of 4 at priority 9, flags 2 and 11, waiting for f0 and f11. -/
theorem test_decode_header : decode (parcelBytes (words2 0b00000000000000_00011_00001001_1_1011_1_0010_100000000001_0000_00000000_0_10)) =
    .ok (.clause { len := 3, pri := 9, bv := true, flagB := 11, av := true, flagA := 2, wait := 0x801 }, []) := by decide +kernel

/-- R252: MOD, REUSE, FSEL, FEN, GNEG, GUARD, LUC, LUB, LUA, C, B, A, D, TYPE, OP8, 0, 10. FFMA.f32.rz v8, v1, s2, v3, b last used: refused, as s2
is no vector register; c last used: accepted, under not p4. -/
theorem test_decode_float : decode (parcelBytes (words2 0b0000001_0_0_0_1_100_1_0_0_00000011_10000010_00000001_00001000_1010_01010011_0_10)) =
    .ok (.ffma { form with ty := .f32, d := .v 8, a := .v 1, b := .s 2, c := .v 3, luc := true, guard := 4, gneg := true, md := 1 }, []) ∧
    decode (parcelBytes (words2 0b0000001_0_0_0_1_100_0_1_0_00000011_10000010_00000001_00001000_1010_01010011_0_10)) =
    .ok (.reservedOpcode { cause := 0x02, sub := 0x02, hdrSub := 0x08, parcels := 0b0000001_0_0_0_1_100_0_1_0_00000011_10000010_00000001_00001000_1010_01010011_0_10 }, []) := by
  decide +kernel

/-- R253, R263: format X with L = 0: XMOD, SMB, SMA. LXCH needs none: ISUB.i32 v1, v2, v3 with a rotated by 1 in segments of 2. -/
theorem test_decode_extended : decode (parcelBytes (words3 0b00000000_000000000000_001001000010_0000000_0_0_0_0_111_0_0_0_11111111_00000011_00000010_00000001_0101_00100001_0_11)) =
    .ok (.isub { form with ext := .sm 0 0 0x242 }, []) := by decide +kernel

/-- R253: L = 1: LIT, with field B 0xFF. ST.f32 of v9 at s4 plus a literal, counted on flag B. TRAP 7. -/
theorem test_decode_literal : decode (parcelBytes (words3 0b00000000000000000000000100000000_0000000_0_1_1_0_111_0_0_0_00001001_11111111_10000100_11111111_1010_10000001_1_11)) =
    .ok (.st { form with ty := .f32, d := .none, a := .s 4, b := .none, c := .v 9, fen := true, fsel := true, ext := .lit 256 }, []) ∧
    decode (parcelBytes (words3 0b00000000000000000000000000000111_0000000_0_0_0_0_111_0_0_0_11111111_11111111_11111111_11111111_0110_00010001_1_11)) =
    .ok (.trap { form with ty := .n64, d := .none, a := .none, b := .none, ext := .lit 7 }, []) := by decide +kernel

/-- R255: atomics, fences, copies, banks, the merge, fabric, gauge and system rows: ATOM.add.n32 v1, [s2 + v3], v4; COPY s1, s2, s3 on flag A; RLD.b64 v4, [s2 + v0];
MSTG.bf16; VCOST v1, s2, s3. -/
theorem test_decode_rows :
    decode (parcelBytes (words2 0b0000000_0_0_0_0_111_0_0_0_00000100_00000011_10000010_00000001_0100_10000111_0_10)) =
      .ok (.atom { form with ty := .n32, d := .v 1, a := .s 2, b := .v 3, c := .v 4 }, []) ∧
    decode (parcelBytes (words2 0b0000000_0_0_1_0_111_0_0_0_11010000_10000011_10000010_10000001_0000_10001001_0_10)) =
      .ok (.copy { form with ty := .n8, d := .s 1, a := .s 2, b := .s 3, c := .k .zero, fen := true }, []) ∧
    decode (parcelBytes (words2 0b0000000_0_0_0_0_111_0_0_0_11111111_11111111_00000010_00000100_1111_11000000_0_10)) =
      .ok (.rld { form with ty := .b64, d := .v 4, a := .v 2, b := .none }, []) ∧
    decode (parcelBytes (words2 0b0000000_0_0_0_0_111_0_0_0_00000101_00000011_10000100_11111111_1001_10111001_0_10)) =
      .ok (.mstg { form with ty := .bf16, d := .none, a := .s 4, b := .v 3, c := .v 5 }, []) ∧
    decode (parcelBytes (words2 0b0000000_0_0_0_0_111_0_0_0_10000011_10000010_11111111_00000001_0000_11010000_0_10)) =
      .ok (.vcost { form with ty := .n8, d := .v 1, a := .none, b := .s 2, c := .s 3 }, []) := by decide +kernel

/-- R264, R265: OP8 0x13 is ILLOP; 0xE0 is ILLOP EXT; OPC 0x1F is ILLOP; OP8 0 in a body is a clause breach, a header's reserved bit RESV. -/
theorem test_decode_reserved :
    let w (op8 : Nat) : Nat := 0b010 + 8 * op8 + 2 ^ 50 * 7
    decode (parcelBytes (words2 (w 0x13))) = .ok (.reservedOpcode { cause := 0x01, sub := 0x00, hdrSub := 0x08, parcels := BitVec.ofNat 96 (w 0x13) }, []) ∧
    decode (parcelBytes (words2 (w 0xE0))) = .ok (.reservedOpcode { cause := 0x01, sub := 0x01, hdrSub := 0x08, parcels := BitVec.ofNat 96 (w 0xE0) }, []) ∧
    decode (parcelBytes [0b0_0_0_0000000_0000000_0000000_011111_00]) =
      .ok (.reservedOpcode { cause := 0x01, sub := 0x00, hdrSub := 0x08, parcels := 0b0_0_0_0000000_0000000_0000000_011111_00 }, []) ∧
    decode (parcelBytes (words2 (2 ^ 50 + 2))) = .ok (.reservedOpcode { cause := 0x02, sub := 0x08, hdrSub := 0x01, parcels := BitVec.ofNat 96 (2 ^ 50 + 2) }, []) := by decide +kernel

/-- A well-formed instruction that has words, as `DecodeOfEncode` asks. -/
theorem met_DecodeOfEncode : (Instr.iadd form).wf = true ∧ (Instr.iadd form).hasWords = true := by decide

/-! ### A small machine with one group, and what the checks of an issue answer on it -/

/-- The group of the small machine, its team alone on core 0, all lanes at the last instruction of a clause body. -/
def entry : Entry := { mask := BitVec.allOnes 32, pc := probeAddr, left := 1 }
def baseState : State := State.reset.withFetchWord 64 0

/-- The small machine with its group and its team changed, issuing an instruction of 8 bytes. -/
def withGroup (h : Group → Group) (k : Team → Team := id) : State :=
  pointAt (onCore baseState 0 (fun c => { c with groups := [(0, h (probeGroup 0))], teams := [(0, k (probeTeam 0 0))] })) 0 0 (BitVec.allOnes 32) 8

def spot : State := withGroup id

def who (s : State) : Issuer := (issuer s).getD { k := 0, slot := 0, g := probeGroup 0, e := entry, t := 0, tm := probeTeam 0 0, len := 8 }

def isPass (v : Verdict) : Bool := match v with | .pass => true | _ => false

theorem issuer_of {s : State} (h : (issuer s).isSome = true) : issuer s = some (who s) := by
  unfold who; cases hs : issuer s <;> simp_all

theorem pass_of {v : Verdict} (h : isPass v = true) : v = .pass := by cases v <;> simp_all [isPass]

/-- A test of `Issues` that computes. -/
def passes (s : State) (f : Fx) (tr : Bool) (p : Plan) : Bool :=
  (issuer s).isSome && (bodyBreach (who s).e f.fen f.fsel tr == none) && (who s).active f != 0 &&
    !(sSrcNames f).any (who s).g.badS.contains && isPass (gate s (who s) p)

theorem issues_of {s : State} {f : Fx} {tr : Bool} {p : Plan} (h : passes s f tr p = true) : Issues s (who s) f tr p := by
  simp only [passes, Bool.and_eq_true, beq_iff_eq, bne_iff_ne, Bool.not_eq_true'] at h
  exact ⟨issuer_of h.1.1.1.1, h.1.1.1.2, h.1.1.2, h.1.2, pass_of h.2⟩

/-- A test of `Reaches`. -/
theorem reaches_of {s : State} {f : Fx} {tr : Bool} (h : ((issuer s).isSome && (bodyBreach (who s).e f.fen f.fsel tr == none) && (who s).active f != 0 &&
    !(sSrcNames f).any (who s).g.badS.contains) = true) :
    Reaches s (who s) f tr := by
  simp only [Bool.and_eq_true, beq_iff_eq, bne_iff_ne, Bool.not_eq_true'] at h
  exact ⟨issuer_of h.1.1.1, h.1.1.2, h.1.2, h.2⟩

/-- An instruction with no operand. -/
def none' : Fx := { form with ty := .n8, d := .none, a := .none, b := .none }

/-! ### The hypotheses of the obligations, met -/

/-- Lanes that compute in uniform form where they may: the hypothesis of IntegerResults, ShiftResults, LogicResults, BitResults, WidthResults, most of
SaturatingResults, FloatResults and ShortForms, and the first of CarrySampleRandom. -/
theorem met_IntegerResults : Issues spot (who spot) form false (lanePlan (who spot) form 0 (uniformly form)) := issues_of (by decide)
theorem met_ShiftResults : Issues spot (who spot) { form with ty := .b64 } false (lanePlan (who spot) { form with ty := .b64 } 0 (uniformly { form with ty := .b64 })) :=
  issues_of (by decide)
theorem met_LogicResults : let f : Fx := { form with ty := .b64, ext := .sm 0xE8 0 0 }
    Issues spot (who spot) f false (lanePlan (who spot) f 0 (uniformly f)) := issues_of (by decide)
theorem met_BitResults : let f : Fx := { form with a := .s 2, b := .s 3, d := .s 1 }
    Issues spot (who spot) f false (lanePlan (who spot) f 0 (uniformly f)) := issues_of (by decide)
theorem met_WidthResults : let f : Fx := { form with guard := 0, gneg := true }
    Issues spot (who spot) f false (lanePlan (who spot) f 0 (uniformly f)) := issues_of (by decide)
theorem met_FloatResults : let f : Fx := { form with ty := .f64, md := 4 }
    Issues spot (who spot) f false (lanePlan (who spot) f 0 (uniformly f)) := issues_of (by decide)

/-- FloatResults, its values: zeros of both signs, infinities and a NaN of f16, and magnitudes at both edges of overflow. -/
theorem met_FloatResults_values :
    (isNan (unpackF fmtF16 0x7E00) = true ∧ isNan (unpackF fmtF16 0x3C00) = false ∧ unpackF fmtF16 0 = .fin false 0 (-24) ∧ unpackF fmtF16 0x8000 = .fin true 0 (-24) ∧
      unpackF fmtF16 0x3C00 = .fin false 1024 (-10) ∧ unpackF fmtF16 0x7C00 = .inf false ∧ unpackF fmtF16 0xFC00 = .inf true) ∧
    (((2 : ℚ) ^ 11 - 1) * 2 ^ (5 : Int) + 2 ^ (4 : Int) ≤ 1 * ((65520 : Nat) : ℚ) * 2 ^ (0 : Int) ∧ ((2 : ℚ) ^ 11 - 1) * 2 ^ (5 : Int) < 1 * ((65505 : Nat) : ℚ) * 2 ^ (0 : Int)) ∧
    packF fmtF16 .rne (.fin false 65520 0) = 0x7C00 ∧ packF fmtF16 .rne (.fin false 65519 0) = 0x7BFF ∧ packF fmtF16 .rdn (.fin true 65505 0) = 0xFC00 := by
  refine ⟨?_, ⟨?_, ?_⟩, ?_⟩
  · decide +kernel
  · norm_num
  · norm_num
  · decide +kernel

/-- SaturatingResults: BXENC writes full form. -/
theorem met_SaturatingResults : (let f : Fx := { form with ty := .n8, md := 1 }
    Issues spot (who spot) f false (lanePlan (who spot) f 0 (uniformly f))) ∧
    let f : Fx := { form with ty := .bx8, b := .none }
    Issues spot (who spot) f false (lanePlan (who spot) f 0 inFull) := ⟨issues_of (by decide), issues_of (by decide)⟩

/-- CrossLaneResults: the operations of REDC at both sides of 6, MATCH without `.all`. -/
theorem met_CrossLaneResults : (let f : Fx := { form with b := .none, md := 5 }
    f.modAt 0 3 < 6 ∧ Issues spot (who spot) f false (lanePlan (who spot) f 0 inFull)) ∧
    (let f : Fx := { form with b := .none, md := 6 }
    6 ≤ f.modAt 0 3 ∧ f.modAt 0 1 = 0 ∧ Issues spot (who spot) f false (lanePlan (who spot) f 0 inFull)) ∧
    let f : Fx := { form with ty := .b64, b := .k .lane }
    Issues spot (who spot) f false (lanePlan (who spot) f 0 (fun i m => isFull i.g m && f.b != .k .lane)) :=
  ⟨⟨by decide, issues_of (by decide)⟩, ⟨by decide, by decide, issues_of (by decide)⟩, issues_of (by decide)⟩

theorem met_PredicateResults : let f : Fx := { form with d := .p 6, md := 1 }
    f.modAt 0 1 = 1 ∧ Issues spot (who spot) f false (lanePlan (who spot) f 0 inFull) := ⟨by decide, issues_of (by decide)⟩

/-- VectorResults: with the ARITH trap on, and no lane at a corner: b is all ones under an unsigned type. -/
theorem met_VectorResults : let f : Fx := { form with ty := .n32, b := .k .ones }
    let s := withGroup (fun g => { g with trapen := 1 })
    (f.d.isV || f.d.isS) = true ∧ Issues s (who s) f false (lanePlan (who s) f 1 (uniformly f)) ∧ (who s).g.trapen.getLsbD 0 = true ∧
      maskWhere (fun l => inMask ((who s).active f) l && (List.range 2).any (fun k => elemAt 32 (bAt (readView s (who s).g (srcNames f)).2 f l) k == 0)) = 0 :=
  ⟨by decide, issues_of (by decide), by decide, by decide +kernel⟩

theorem met_ShortForms : let c : CForm := { g := false, lub := true, lua := false, vb := 127, va := 2, vd := 0 }
    let f : Fx := { ty := .i32, d := .v c.vd, a := .v c.va, b := .v c.vb, c := .none, lua := c.lua, lub := c.lub, luc := false, guard := if c.g then 0 else 7, gneg := false, fen := false, fsel := false, reuse := false, md := 0, ext := .f }
    let j : Fx := { ty := .i64, d := .v 1, a := .none, b := .none, c := .none, lua := false, lub := false, luc := false, guard := 7, gneg := false, fen := false, fsel := false, reuse := false, md := 0, ext := .lit ((0x100 : BitVec 9).signExtend 32) }
    Issues spot (who spot) f false (lanePlan (who spot) f 0 (uniformly f)) ∧ Issues spot (who spot) j false (lanePlan (who spot) j 0 (uniformly j)) :=
  ⟨issues_of (by decide), issues_of (by decide)⟩

/-- PairResults: halves in different banks, each with active lanes. -/
theorem met_PairResults : let h0 : PHalf := { gneg := false, guard := 7, lus := false, vs := 3, vd := 2 }
    let h1 : PHalf := { gneg := true, guard := 1, lus := true, vs := 5, vd := 0 }
    let form (h : PHalf) : Fx :=
      { ty := .i32, d := .v h.vd, a := .v h.vd, b := .v h.vs, c := .none, lua := false, lub := h.lus, luc := false, guard := h.guard, gneg := h.gneg, fen := false, fsel := false, reuse := false, md := 0, ext := .f }
    let half (h : PHalf) : Half := { f := form h, m := (who spot).active (form h), val := valAdd (form h) }
    pairOk h0 h1 = true ∧ IssuesPair spot (who spot) (half h0) (half h1) ∧ (half h0).m ≠ 0 ∧ (half h1).m ≠ 0 :=
  ⟨by decide, ⟨issuer_of (by decide), by decide, by decide, pass_of (by decide)⟩, by decide, by decide⟩

/-- CarrySampleRandom: IADDC with its carry in p6, CSAMP and RNG in full form. -/
theorem met_CarrySampleRandom : (let f : Fx := { form with ty := .n64, c := .p 6 }
    Issues spot (who spot) f false (lanePlan (who spot) f 0 (uniformly f))) ∧
    let f : Fx := { form with ty := .f32, md := 6 }
    Issues spot (who spot) f false (lanePlan (who spot) f 0 inFull) := ⟨issues_of (by decide), issues_of (by decide)⟩

/-- Transfers: the last instruction of a body. -/
theorem met_Transfers : let f : Fx := { none' with ty := .i64, ext := .lit 0xD0 }
    Issues spot (who spot) f true (lanePlan (who spot) f 0 (fun i m => isFull i.g m)) ∧ inMask (BitVec.allOnes 32) 31 := ⟨issues_of (by decide), by decide⟩

/-- WaitingInstructions: WAITF of f11 alone, with the flag at 0 and at 63. -/
theorem met_WaitingInstructions : let f : Fx := { none' with ty := .n32, ext := .lit 0x800 }
    let s := withGroup (fun g => { g with f := [(11, 63)] })
    Reaches spot (who spot) f false ∧ mustWait (coreOf spot 0) (who spot).g (lanePlan (who spot) f 0 inFull) = false ∧
    (∀ n, n < 12 → (uniformB (who spot).g f).testBit n = true → flagOf (who spot).g n = 0) ∧
    Reaches s (who s) f false ∧ ∃ n, n < 12 ∧ (uniformB (who s).g f).testBit n = true ∧ flagOf (who s).g n ≠ 0 :=
  ⟨reaches_of (by decide), by decide, by decide, reaches_of (by decide), 11, by decide, by decide, by decide⟩

/-- JoinsAndExits: a JOIN of all lanes; one of half of them; one of the handler's lanes while the others have exited. -/
theorem met_JoinsAndExits :
    let part (s : State) (f : Fx) : Group := { replaceEntry (who s).g (who s).e
      [issuedAge { (who s).e with mask := (who s).active f, st := .waitingJoin, skip := (who s).len }, (who s).onward ((who s).others ((who s).active f))] with begun := true }
    let half : Fx := { none' with guard := 0 }
    let s1 := withGroup (fun g => { g with p := [(0, 0xFFFF)] })
    let s2 := withGroup (fun g => { g with entries := [{ entry with mask := 1 }], service := some { pri := 0, fa := 0, fav := false, fb := 0, fbv := false, left := 1 }, tlanes := 1, exited := 0xFFFF_FFF0 })
    let s2 := pointAt s2 0 0 1 8
    (Reaches s1 (who s1) half false ∧ (who s1).g.service = none ∧ liveLanes (part s1 half) &&& ~~~ joinLanes (part s1 half) ≠ 0) ∧
    (Reaches spot (who spot) none' false ∧ (who spot).g.service = none ∧ liveLanes (part spot none') ≠ 0 ∧
      liveLanes (part spot none') &&& ~~~ joinLanes (part spot none') = 0) ∧
    (Reaches s2 (who s2) none' false ∧ (who s2).g.service.isSome = true ∧ liveLanes (part s2 none') &&& ~~~ joinLanes (part s2 none') ≠ 0 ∧
      serviceLanes (part s2 none') ≠ 0 ∧ serviceLanes (part s2 none') &&& ~~~ joinLanes (part s2 none') = 0) := by
  refine ⟨⟨reaches_of ?_, ?_, ?_⟩, ⟨reaches_of ?_, ?_, ?_, ?_⟩, reaches_of ?_, ?_, ?_, ?_, ?_⟩ <;> decide +kernel

/-- Barriers: barrier 15 with a count of 33, one arrival short of it and at it. -/
theorem met_Barriers : let f : Fx := { none' with ty := .n32, md := 0b0111100 }
    let tm (n : Nat) : Team := { probeTeam 0 0 with bars := [(15, { arrived := n, expect := some 64, open_ := true })] }
    let c : CoreState := { coreOf baseState 0 with teams := [(0, tm 32)] }
    Issues spot (who spot) f false (lanePlan (who spot) f 0 inFull) ∧ Reaches spot (who spot) none' false ∧ f.modAt 2 4 = 15 ∧
    teamOf c 0 = some (tm 32) ∧ (31 : Nat) ≠ 0 ∧ (barrierOf (tm 32) 15).arrived + 31 < 64 ∧ (barrierOf (tm 32) 15).arrived + 32 = 64 ∧
    (barrierOf (tm 32) 15).expect.getD (teamLive c (tm 32).uid) = 64 :=
  ⟨issues_of (by decide), reaches_of (by decide), by decide, by decide, by decide, by decide, by decide, by decide⟩

/-- TrapInstructions: in handler mode, with no trap in service. -/
theorem met_TrapInstructions : Issues spot (who spot) none' false (lanePlan (who spot) none' 14 inFull) ∧
    handlerMode spot (who spot).tm = true ∧ (who spot).g.service = none :=
  ⟨issues_of (by decide), by decide +kernel, by decide⟩

/-- TrapTaken: reported in a lane of the handler; not reported with another trap in service, and with none. -/
theorem met_TrapTaken : let tr : Trap := { cause := causeBkpt, lanes := 1 }
    let sv : Service := { pri := 0, fa := 0, fav := false, fb := 0, fbv := false, left := 1 }
    let s := withGroup (fun g => { g with service := some sv, tlanes := 2 })
    let rep (s : State) (i : Issuer) (tr : Trap) : Prop := tr.report = true ∨ handlerMode s i.tm = false ∨ tr.lanes &&& handlerLanes (groupNow s i) ≠ 0
    tr.hold = .none ∧ rep s (who s) { tr with lanes := 3 } ∧ ¬ rep s (who s) tr ∧ (groupNow s (who s)).service.isSome = true ∧
      ¬ rep spot (who spot) tr ∧ (groupNow spot (who spot)).service = none := by decide +kernel

/-- TrapReturn: TRET of the handler's lanes; a service with a lane to come, and one that is done. -/
theorem met_TrapReturn : let sv (done : Mask) : Service := { pri := 0, fa := 0, fav := false, fb := 0, fbv := false, left := 1, done := done }
    let s := withGroup (fun g => { g with service := some (sv 0), tlanes := BitVec.allOnes 32 })
    let g (done : Mask) : Group := { probeGroup 0 with service := some (sv done), tlanes := 3, exited := 0xFFFF_FFF8, tpc := probeAddr }
    (who s).g.service.isSome = true ∧ Issues s (who s) none' true { cls := 14, active := (who s).active none' } ∧
    (g 1).tlanes &&& liveLanes (g 1) &&& ~~~ (sv 1).done ≠ 0 ∧ (g 3).tlanes &&& liveLanes (g 3) ≠ 0 ∧ (g 3).tlanes &&& liveLanes (g 3) &&& ~~~ (sv 3).done = 0 ∧
    (g 3).tpc.getLsbD 0 = false ∧ ({ g 3 with tpc := probeAddr + 1 } : Group).tpc.getLsbD 0 = true :=
  ⟨by decide, issues_of (by decide), by decide, by decide, by decide, by decide, by decide⟩

/-- ClauseEntered: at a header with f11 at 0, with f11 at 1, and in a body. -/
theorem met_ClauseEntered : let h : Header := { len := 31, pri := 255, bv := false, flagB := 0, av := false, flagA := 0, wait := 0x800 }
    let s0 := withGroup (fun g => { g with entries := [{ entry with left := 0 }] })
    let s1 := withGroup (fun g => { g with entries := [{ entry with left := 0 }], f := [(11, 1)] })
    (issuer s0 = some (who s0) ∧ (who s0).e.left = 0 ∧ (∀ n, n < 12 → h.wait.getLsbD n = true → flagOf (who s0).g n = 0)) ∧
    (issuer s1 = some (who s1) ∧ (who s1).e.left = 0 ∧ ∃ n, n < 12 ∧ h.wait.getLsbD n = true ∧ flagOf (who s1).g n ≠ 0) ∧
    (issuer spot = some (who spot) ∧ (who spot).e.left ≠ 0) :=
  ⟨⟨issuer_of (by decide), by decide, by decide⟩, ⟨issuer_of (by decide), by decide, 11, by decide, by decide, by decide⟩, issuer_of (by decide), by decide⟩

/-- EncodingFaults: each breach by itself. -/
theorem met_EncodingFaults : let s0 := withGroup (fun g => { g with entries := [{ entry with left := 0 }] })
    let s2 := withGroup (fun g => { g with entries := [{ entry with left := 2 }] })
    (issuer s0 = some (who s0) ∧ (who s0).e.left = 0) ∧ (issuer spot = some (who spot) ∧ (who spot).e.left ≠ 0 ∧ (who spot).e.fav = false ∧ (who spot).e.fbv = false) ∧
    (issuer s2 = some (who s2) ∧ 1 < (who s2).e.left) ∧ bodyBreach (who s2).e false false true = some subClause :=
  ⟨⟨issuer_of (by decide), by decide⟩, ⟨issuer_of (by decide), by decide, by decide, by decide⟩, ⟨issuer_of (by decide), by decide⟩, by decide⟩

/-- EmptyMask: a guard of p7 negated. -/
theorem met_EmptyMask : let f : Fx := { form with gneg := true }
    issuer spot = some (who spot) ∧ bodyBreach (who spot).e f.fen f.fsel false = none ∧ (who spot).active f = 0 := ⟨issuer_of (by decide), by decide, by decide⟩

/-- IssueChecks: each case of the order. -/
theorem met_IssueChecks :
    let p : Plan := { cls := 1, active := 1, srcs := [5], dst := [(6, false)], ds := 64 }
    let s := { withGroup (fun g => { g with v := [(5, .uni 0)] }) with ctxs := [(0, { ctxcfg := 3, q := 0 })] }
    let u := { withGroup id with ctxs := [(0, { ctxcfg := 3 })] }
    let i := who s
    let c := coreOf s 0
    let waits (s : State) (p : Plan) : Prop := p.ready = false ∨ flagAtLimit (who s).g p.flag = true ∨ mustWait (coreOf s 0) (who s).g p = true
    (waits s { p with ready := false }) ∧
    (¬ waits u p ∧ (ctxOf u 0).ureg = true ∧ unmapped (who u).g p = some (5, 1)) ∧
    (¬ waits s p ∧ (ctxOf s 0).ureg = true ∧ unmapped i.g p = none ∧ overFootprint i p = false ∧ hazardTrap c i.g p = none ∧ p.early = none) ∧
    (overFootprint { i with tm := { i.tm with footprint := 0 } } p = true) ∧
    ((hazardTrap c i.g { p with early := some { cause := causeUreg, lanes := 1 } }).or (some { cause := causeUreg, lanes := 1 }) ≠ none) ∧
    neverFits s 0 i.g.ctx (teamBytes c i.t i.tm) p.engine (p.charge s 0) (p.delta i.g) = false ∧
    admits s 0 i.g.ctx p.engine (p.charge s 0) (p.delta i.g) (sluiceBound s 0 i.g.ctx) = true ∧
    admits s 0 i.g.ctx p.engine (p.charge s 0) (p.delta i.g) 0 = false ∧
    (let t := { s with ctxs := [(0, { ctxcfg := 3, q := 65535 })], cores := put s.cores 0 { c with vbnd := [(0, 16)] } }
     neverFits t 0 i.g.ctx (teamBytes c i.t i.tm) p.engine (p.charge t 0) (p.delta i.g) = true) := by decide +kernel

/-- Some memory: a 1 GiB page of context 0 at the bottom of the upper half, which the tables of polder 0 grant, scratch bank 20 in slot 0 of the team and FIFO bank 21 in slot 1. -/
def memState (h : Group → Group) (k : Team → Team := id) : State :=
  let s := withGroup (fun g => h { g with p := [(0, 3)], s := [(2, 0x8000_0000_0000_0100), (3, 64), (4, 0x8000_0000_0000_4000)], v := [(0, .uni 0)] })
    (fun t => k { t with scrb := 1, fifob := 1 })
  { s with
    tlb := [(0, [{ ctx := 0, upper := true, va := 0x8000_0000_0000_0000, size := 3, ipa := 0, pa := 0, w := true, x := false, dirty := true, rdup := false }])]
    device := { s.device with tat := [(0, 7), (128, 7), (256, 7), (384, 7)] }
    cores := put s.cores 0 { coreOf s 0 with banks := [(20, { bankOf (coreOf s 0) 20 with owner := 0, slot := 0 }),
      (21, { bankOf (coreOf s 0) 21 with mode := .fifo, owner := 0, slot := 1, queue := [7, 8] })] } }

def mem : State := memState id

/-- Every access goes through. -/
def clearB (s : State) (p : Plan) (q : Need) (m : Mask) (ea : Group → Nat → Word) (watch : State → List LaneAcc → Option Trap) : Bool :=
  (found s (who s) p q m ea).2.bad.isEmpty && (found s (who s) p q m ea).2.wait.isNone && (found s (who s) p q m ea).2.mism.isEmpty &&
    (watch (found s (who s) p q m ea).1 (found s (who s) p q m ea).2.byLane).isNone

theorem clear_of {s : State} {p : Plan} {q : Need} {m : Mask} {ea : Group → Nat → Word} {watch : State → List LaneAcc → Option Trap}
    (h : clearB s p q m ea watch = true) : Clear s (who s) p q m ea watch := by
  simp only [clearB, Bool.and_eq_true, List.isEmpty_iff, Option.isNone_iff_eq_none] at h
  exact ⟨h.1.1.1, h.1.1.2, h.1.2, h.2⟩

/-- v8 = [s2 + 0], two lanes. -/
def access : Fx := { form with ty := .b64, d := .v 8, a := .s 2, b := .none, guard := 0 }

/-- SpecialRegisters: GETSR of FSTAT, SETSR of TRAPEN, SCLWIN with V = 1, and SETSR of a register with no writable field. -/
theorem met_SpecialRegisters : let f : Fx := { none' with d := .s 1, ext := .lit 0x61 }
    let p (s : State) (f : Fx) : Plan := { specialPlan s f (who s) ((who s).active f) true with
      ready := (specialPlan s f (who s) ((who s).active f) true).ready &&
        !(specialIndex (who s).g f == 0x50 && (windowOpen (coreOf s 0) (who s).g || (bitAt (uniformA (who s).g f).toNat 0 && fenceOpen (coreOf s 0) (who s).g))) }
    let g : Fx := { none' with a := .s 2, ext := .lit 0x88 }
    let w : Fx := { none' with a := .s 2, ext := .lit 0x50 }
    let load := withGroup (fun g => { g with s := [(2, 1)] })
    let r : Fx := { none' with a := .s 2, ext := .lit 0x89 }
    let tr : Trap := { cause := causePriv, lanes := (who spot).active r }
    Issues spot (who spot) f false (specialPlan spot f (who spot) ((who spot).active f) (specialIndex (who spot).g f != 0 && isFull (who spot).g ((who spot).active f))) ∧
    Issues spot (who spot) g false (p spot g) ∧
    ((uniformA (who load).g w).getLsbD 0 = true ∧ Issues load (who load) w false { p load w with cls := 2 }) ∧
    (Reaches spot (who spot) r false ∧ gate spot (who spot) { p spot r with early := some tr } = .stop (trapAtIssue spot (who spot) tr)) :=
  ⟨issues_of (by decide), issues_of (by decide), ⟨by decide, issues_of (by decide)⟩, reaches_of (by decide), by decide +kernel⟩

/-- GaugeInstructions: in a soft stage and outside it. -/
theorem met_GaugeInstructions : let c : Fx := { none' with d := .v 1, b := .k .zero, c := .k .zero }
    let k : Fx := { none' with d := .p 1, b := .k .zero, c := .k .zero, md := 5 }
    let v : VacateStage := { arrived := 0, begun := true, lc := 100 }
    let s : State := { spot with ctxs := put spot.ctxs 0 { ctxOf spot 0 with busy := true }, cores := put spot.cores 0 { coreOf spot 0 with vacates := [(0, v)] } }
    Issues spot (who spot) c false (lanePlan (who spot) c 14 (fun i m => isFull i.g m)) ∧ Issues spot (who spot) k false (lanePlan (who spot) k 0 inFull) ∧
    Issues spot (who spot) none' false { cls := 14, active := (who spot).active none' } ∧ inSoftStage (coreOf spot 0) 0 = false ∧
    Issues s (who s) none' false { cls := 14, active := (who s).active none' } ∧ inSoftStage (coreOf s 0) 0 = true :=
  ⟨issues_of (by decide), issues_of (by decide), issues_of (by decide), by decide, issues_of (by decide), by decide⟩

/-- LoadsIssue: LD of one register, LDS of the scratch bank's last bytes, LDU, LDTAG, PREF, and LDBXS under a window. -/
theorem met_LoadsIssue :
    let m := (who mem).active access
    let watch (s : State) (a : List LaneAcc) : Option Trap := watchTrap s (who mem) .read a
    let x : Fx := { access with ty := .bx8 }
    let bx := memState (fun g => { g with sclwin := 1, window := some { eb := 0x8000_0000_0000_0000, sb := 0x8000_0000_0001_0000, elen := 4096 } })
    let bxs : Need := { acc := accRead, n := 8, scratch := false, hostOk := false, bx := bxShift .bx8, pair := true, elem := false }
    let lds : Fx := { access with a := .k .zero, ext := .lit 32760 }
    (Issues mem (who mem) access false (loadPlan mem access false 1 (who mem) m) ∧
      Clear mem (who mem) (loadPlan mem access false 1 (who mem) m) (loadNeed access false 1) m (fun g => eaAt g access false) watch) ∧
    (Issues mem (who mem) lds false (loadPlan mem lds true 1 (who mem) m) ∧
      Clear mem (who mem) (loadPlan mem lds true 1 (who mem) m) (loadNeed lds true 1) m (fun g => eaAt g lds true) watch) ∧
    Clear mem (who mem) (loadPlan mem access false 1 (who mem) m) (loadNeed access false 1) 1 (fun g => eaAt g access false) (fun s a => onceWatch s (who mem) .read m a) ∧
    Clear mem (who mem) (loadPlan mem access false 1 (who mem) m) { acc := accRead, n := 1, tagged := false, data := false, hostOk := false } m
      (fun g => eaAt g access false) (fun _ _ => none) ∧
    Issues mem (who mem) access false { loadPlan mem access false 1 (who mem) m with dst := [] } ∧
    (Issues bx (who bx) x false (loadPlan bx x false 1 (who bx) m) ∧
      Clear bx (who bx) (loadPlan bx x false 1 (who bx) m) bxs m (fun g => eaAt g x false) (fun s a => watchTrap s (who bx) .read a)) := by
  refine ⟨⟨issues_of ?_, clear_of ?_⟩, ⟨issues_of ?_, clear_of ?_⟩, clear_of ?_, clear_of ?_, issues_of ?_, issues_of ?_, clear_of ?_⟩ <;> decide +kernel

/-- StoresIssue: a store into the L1, one at its home with the last free entry of the port tracker, and one with none. -/
theorem met_StoresIssue :
    let f : Fx := { access with d := .none, c := .v 0 }
    let i := who mem
    let m := i.active f
    let p := storePlan mem f (storeNeed f false 1) 1 false i m
    let fd := found mem i p (storeNeed f false 1) m (fun g => eaAt g f false)
    let parts := (ofLanes m fd.2.byLane).flatMap (storeParts (readView mem i.g p.srcs).2 f)
    let one : LaneAcc := { lane := 0, space := .hbm, va := 0x8000_0000_0000_0000, pa := 0, n := 8 }
    let busy (n : Nat) : CoreState := { coreOf mem 0 with ops := [(0, { uid := 9, gid := 0, ctx := 0, polder := 0, lanes := 0, pc := 0, seq := 0, kind := .pop 0, tracker := n })] }
    Issues mem i f false p ∧ Clear mem i p (storeNeed f false 1) m (fun g => eaAt g f false) (fun s a => watchTrap s i .write a) ∧
    groupAt (coreOf mem 0) 0 = some i.g ∧ parts ≠ [] ∧ (∀ a ∈ parts, inL1 (coreOf mem 0) .keep a = true) ∧ inL1 (coreOf mem 0) .home one = false ∧
    trackerFree (busy 256) < 1 := by
  refine ⟨issues_of ?_, clear_of ?_, ?_, ?_, ?_, ?_, ?_⟩ <;> decide +kernel

/-- Atomics: two lanes at one location. -/
theorem met_Atomics :
    let f : Fx := { access with c := .k .ones }
    let go (ret : Bool) : Prop := let p := atomicPlan mem f ret (who mem) ((who mem).active f)
      let fd := found mem (who mem) p (atomicNeed f ret) ((who mem).active f) (fun g => eaAt g f false)
      Issues mem (who mem) f false p ∧ Clear mem (who mem) p (atomicNeed f ret) ((who mem).active f) (fun g => eaAt g f false) (fun s a => watchTrap s (who mem) .atomic a) ∧
        ((ofLanes ((who mem).active f) fd.2.byLane).map (·.pa)).eraseDups.length ≤ trackerFree (coreOf mem 0)
    go true ∧ go false := by
  refine ⟨⟨issues_of ?_, clear_of ?_, ?_⟩, issues_of ?_, clear_of ?_, ?_⟩ <;> decide +kernel

/-- CopiesIssue: 64 bytes of memory to the FIFO; a misaligned length; WPTR; and a queued copy to the FIFO. -/
theorem met_CopiesIssue :
    let f : Fx := { none' with d := .s 9, a := .s 4, c := .s 3, ext := .lit 1, md := 0b100000 }
    let bad := memState (fun g => { g with s := put g.s 3 63 })
    let a := copyArgs (who mem).g f
    let m := (who mem).active f
    (copyFault (coreOf mem 0) 0 (who mem).tm a = none ∧ Issues mem (who mem) f false (copyPlan mem f (who mem) m 5 a.len (copyRise mem (who mem) a a.len)) ∧
      Issues mem (who mem) f false (copyPlan mem f (who mem) m 14 0 0)) ∧
    ((copyFault (coreOf bad 0) 0 (who bad).tm (copyArgs (who bad).g f)).isSome = true ∧ Issues bad (who bad) f false (copyPlan bad f (who bad) m 5 0 0) ∧
      Issues bad (who bad) f false (copyPlan bad f (who bad) m 14 0 0)) ∧
    Issues mem (who mem) f false { active := m, sNames := opSNames f.d } ∧
    (a.len ≠ 0 ∧ groupAt (coreOf mem 0) 0 = some (who mem).g ∧ teamOf (coreOf mem 0) 0 = some (who mem).tm ∧ a.dst = 2 ∧ bankOfSlot (coreOf mem 0) 0 a.da.toNat = some 21) := by
  refine ⟨⟨?_, issues_of ?_, issues_of ?_⟩, ⟨?_, issues_of ?_, issues_of ?_⟩, issues_of ?_, ?_, ?_, ?_, ?_, ?_⟩ <;> decide +kernel

/-- BanksAndWatch: slot 1, a FIFO; slot 0, none; a switch that goes, one that is refused; a watchpoint. -/
theorem met_BanksAndWatch :
    let f (slot : BitVec 32) : Fx := { none' with ty := .b64, d := .v 9, c := .v 0, guard := 0, ext := .lit slot }
    let i := who mem
    let c := coreOf mem 0
    let m := i.active (f 1)
    let isFifo (slot : Nat) : Prop := slotIn c i.t i.tm .fifo slot = true ∨ slotInTransition c i.t slot = true
    let push (slot : Nat) (h : Fx) : Plan := { cls := 3, active := m, srcs := opNames h.c, rel := relNames h, sNames := sSrcNames h, flag := none, ds := fifoRise c i.t slot (countMask m), ready := !fenceOpen c i.g }
    let pop (h : Fx) (dst : List (Nat × Bool)) : Plan := { cls := 2, active := m, dst := dst, sNames := sSrcNames h, flag := none, ready := !fenceOpen c i.g }
    let bank (slot : Nat) (h : Fx) (ds : Int) : Plan := { cls := 11, active := m, sNames := sSrcNames h, flag := none, ds := ds, ready := !slotInTransition c i.t slot }
    (isFifo 1 ∧ Issues mem i (f 1) false (push 1 (f 1)) ∧ Issues mem i (f 1) false (pop (f 1) [(9, false)])) ∧
    (¬ isFifo 0 ∧ Issues mem i (f 0) false (push 0 (f 0)) ∧ Issues mem i (f 0) false (pop (f 0) [])) ∧
    (bankRefused c i.t i.tm 1 .scratch = false ∧ bankOfSlot c i.t 1 = some 21 ∧ Issues mem i (f 1) false (bank 1 (f 1) (bankDelta c i.t 1 .scratch))) ∧
    (bankRefused c i.t i.tm 2 .scratch = true ∧ Issues mem i (f 2) false (bank 2 (f 2) 0)) ∧
    Issues mem i (f 3) false { cls := 14, active := m, sNames := sSrcNames (f 3) } := by
  refine ⟨⟨?_, issues_of ?_, issues_of ?_⟩, ⟨?_, issues_of ?_, issues_of ?_⟩, ⟨?_, ?_, issues_of ?_⟩, ⟨?_, issues_of ?_⟩, issues_of ?_⟩ <;> decide +kernel

/-- A load of the group in flight, as operation 1. -/
def anOp (kind : OpKind) : Op := { uid := 0, gid := 0, ctx := 0, polder := 0, lanes := 1, pc := probeAddr, seq := 1, kind := kind }
def withOp (s : State) (o : Op) : State := { s with cores := put s.cores 0 { coreOf s 0 with ops := [(1, o)], nextOp := 2 } }

/-- FencesIssue: with 0 bytes and with 1, in each scope of ICINV, and a fence behind a load. -/
theorem met_FencesIssue : let f (n : BitVec 32) : Fx := { none' with a := .s 2, ext := .lit n }
    let s := withOp mem (anOp (.load .keep [] false))
    (Issues mem (who mem) (f 0) false (fencePlan mem (f 0) (who mem) ((who mem).active (f 0)) 12) ∧ uniformB (who mem).g (f 0) % 2 ^ 40 = 0) ∧
    (Issues mem (who mem) (f 1) false (fencePlan mem (f 1) (who mem) ((who mem).active (f 1)) 12) ∧ uniformB (who mem).g (f 1) % 2 ^ 40 ≠ 0) ∧
    Issues mem (who mem) (f 1) false (fencePlan mem (f 1) (who mem) ((who mem).active (f 1)) 14) ∧
    Issues mem (who mem) { none' with d := .s 1, a := .s 2 } false { fencePlan mem none' (who mem) ((who mem).active none') 13 with sNames := [2, 1] } ∧
    (groupAt (coreOf s 0) 0 = some (who s).g ∧ (∀ e ∈ (coreOf s 0).ops, e.1 < (coreOf s 0).nextOp) ∧
      earlierOps (coreOf s 0) 0 0 2 (fenceWaits (.fence true true 5)) ≠ []) := by
  refine ⟨⟨issues_of ?_, ?_⟩, ⟨issues_of ?_, ?_⟩, issues_of ?_, issues_of ?_, ?_, ?_, ?_⟩ <;> decide +kernel

/-- MatrixIssues: a format in every lane; MMA and MMAW with their spans mapped and a format set. -/
theorem met_MatrixIssues : let f : Fx := { none' with ext := .lit 0xA0D }
    let mm : Fx := { none' with d := .v 32, a := .v 16, b := .v 8, c := .none, fen := true, md := 1 }
    let s := withGroup (fun g => { g with mfmt := 0x8501, entries := [{ entry with fa := 11, fav := true }] })
    (formatOk (formatWord (who spot).g f ((who spot).active f)) = true ∧ Issues spot (who spot) f false (lanePlan (who spot) f 0 inFull)) ∧
    (Issues s (who s) mm false (matrixPlan s mm false (who s) ((who s).active mm)) ∧ Issues s (who s) mm false (matrixPlan s mm true (who s) ((who s).active mm))) := by
  refine ⟨⟨?_, issues_of ?_⟩, issues_of ?_, issues_of ?_⟩ <;> decide +kernel

/-- MergeInstructions: a local handle and a remote one; a descriptor and a target that are accessible. -/
theorem met_MergeInstructions :
    let local' := memState (fun g => { g with s := put (put g.s 6 0x1_0000_0000) 7 0 })
    let far := memState (fun g => { g with s := put (put g.s 6 0x1_0000_0000) 7 0x8001_0000 })
    let f : Fx := { none' with a := .s 6 }
    let o : Fx := { none' with a := .s 2, d := .s 8 }
    let st : Fx := { form with ty := .bf16, d := .none, a := .s 6, b := .s 2, c := .v 0, guard := 0 }
    let p (s : State) (g : Fx) (cls n : Nat) : Plan := mergePlan s g cls n (who s) ((who s).active g)
    let close (s : State) : Plan := { p s f 10 1 with ready := (p s f 10 1).ready && noStages (coreOf s 0) (who s).g && (!(handleOf (who s).g f).remote || 1 ≤ contsFree (coreOf s 0)) }
    let p0 := mergePlan local' st 10 (stageEntries st ((who local').active st)) (who local') ((who local').active st)
    let stagePlan : Plan := { p0 with ready := p0.ready && fabricReady (coreOf local' 0) (who local').g ((lanesIn ((who local').active st)).map (stageAddr (who local').g st)) (stageEntries st ((who local').active st)) }
    let fd := found local' (who local') (p local' st 10 4) (stageNeed st) ((who local').active st) (fun g => stageAddr g st)
    ((handleOf (who local').g f).remote = false ∧ Issues local' (who local') f false (close local') ∧ Issues local' (who local') f false (p local' f 10 1) ∧
      Issues local' (who local') f false (p local' f 8 0)) ∧
    ((handleOf (who far).g f).remote = true ∧ Issues far (who far) f false (close far) ∧ Issues far (who far) f false (p far f 10 1) ∧ Issues far (who far) f false (p far f 8 0)) ∧
    (Issues mem (who mem) o false (p mem o 10 1) ∧ Clear mem (who mem) (p mem o 10 1) { acc := accRead, n := 64 } 1 (fun g => eaAt g o false) (fun _ _ => none)) ∧
    (Issues local' (who local') st false (stagePlan) ∧
      Clear local' (who local') stagePlan (stageNeed st) ((who local').active st)
        (fun g => stageAddr g st) (fun _ _ => none) ∧ ∀ a ∈ ofLanes ((who local').active st) fd.2.byLane, a.space ≠ .fabric) := by
  refine ⟨⟨?_, issues_of ?_, issues_of ?_, issues_of ?_⟩, ⟨?_, issues_of ?_, issues_of ?_, issues_of ?_⟩, ⟨issues_of ?_, clear_of ?_⟩, issues_of ?_, clear_of ?_, ?_⟩ <;> decide +kernel

/-- FabricInstructions: aligned and permitted accesses of the fabric window, with a release and without; FSTATC. -/
theorem met_FabricInstructions :
    let s := memState (fun g => { g with s := put g.s 2 0xC000_0000_0000_0100 })
    let f : Fx := { access with c := .v 0 }
    let i := who s
    let m := i.active f
    let rd : Plan := { fabricPlan s f 8 1 (countMask m) 0 false i m with dst := (runNames f.d 1).map (fun x => (x, false)) }
    let st (h : Fx) : Plan := fabricPlan s h 9 1 0 (countMask m) false i m
    let at_ : Plan := { fabricPlan s f 9 (atomicRegs f) (countMask m) (countMask m) false i m with dst := [(8, false)] }
    let fs : Fx := { none' with d := .s 1, ext := .lit 15 }
    (Issues s i f false rd ∧ (fabricProbe s i 0 m (eaAt i.g f false) 8).bad = []) ∧
    (Issues s i { f with md := 16 } false (st { f with md := 16 }) ∧ Issues s i f false (st f) ∧ (fabricProbe s i 1 m (eaAt i.g f false) 8).bad = []) ∧
    ((fabricProbe s i 1 1 (eaAt i.g f false) 8).accs.length = 1 ∧ Issues s i f false (fabricPlan s f 9 1 0 1 true i m)) ∧
    (Issues s i f false at_ ∧ (fabricProbe s i 2 m (eaAt i.g f false) 8).bad = []) ∧
    (Issues s i fs false { cls := 14, active := i.active fs, sNames := sSrcNames fs ++ opSNames fs.d }) := by
  refine ⟨⟨issues_of ?_, ?_⟩, ⟨issues_of ?_, issues_of ?_, ?_⟩, ⟨?_, issues_of ?_⟩, ⟨issues_of ?_, ?_⟩, issues_of ?_⟩ <;> decide +kernel

/-- R19: entries that meet at a header merge whatever clause they come from; in a body as well, whatever their flags; none across, and none with the entry of a trap handler's start. -/
theorem test_meet : let a : Entry := { entry with left := 0, fa := 3, fav := true, mask := 1 }
    a.joins { entry with left := 0, mask := 2 } = true ∧ Entry.joins { a with left := 2 } { entry with left := 1, mask := 2, fb := 4 } = true ∧
    Entry.joins { a with left := 2 } { entry with left := 0 } = false ∧ a.joins { entry with left := 0, keep := true } = false ∧
    (normalise [a, { entry with left := 0, mask := 2 }]).map (·.mask) = [3] := by decide

/-- StepRunsDecoded: NOP, the first instruction after reset; and an event that is due. -/
theorem met_StepRunsDecoded :
    let w := 0b0000000_0_0_0_0_111_0_0_0_11111111_11111111_11111111_11111111_0000_00000001_0_10
    let s := State.reset.withFetchWord 64 w
    let s0 : State := { s with cur := none }
    let s1 := peekHeaders (passSlot s0 0 0) 0 0
    let i : Instr := .nop none'
    let d : State := { State.reset with agenda := [.ev (.thermalTrip 3)] }
    (s.resetAsserted = false ∧ s.agenda = [] ∧ firstEvent s0 (overdueEvents s0) = none ∧ (schedulers s0).head? = some (0, 0) ∧
      (offerOrder (coreOf s0 0) 0).head? = some 0 ∧ candidates s1 0 0 = [entry] ∧ entry.left ≠ 0 ∧ decode (parcelBytes (words2 w)) = .ok (i, []) ∧
      (match exec i (pointAt s1 0 0 entry.mask 8) with | .next t => t.cur.isNone | _ => false) = true) ∧
    CodeAt (coreOf s1 0) (slotGroupCtx s1 0 0) entry.pc (words2 w) ∧
    (d.resetAsserted = false ∧ ∃ r, d.agenda = .ev (.thermalTrip 3) :: r) := by
  refine ⟨by decide +kernel, ?_, by decide, [], rfl⟩
  intro j hj
  have hj : j = 0 ∨ j = 1 := by simp [words2] at hj; omega
  rcases hj with rfl | rfl
  · exact ⟨by decide +kernel, { ctx := 0, va := probeAddr, data := BitVec.ofNat 2048 0b0000000_0_0_0_0_111_0_0_0_11111111_11111111_11111111_11111111_0000_00000001_0_10 }, by decide +kernel, by decide +kernel⟩
  · exact ⟨by decide +kernel, { ctx := 0, va := probeAddr, data := BitVec.ofNat 2048 0b0000000_0_0_0_0_111_0_0_0_11111111_11111111_11111111_11111111_0000_00000001_0_10 }, by decide +kernel, by decide +kernel⟩

/-- FrontiersKept: the reset state and the small machine. -/
theorem met_FrontiersKept : FrontiersNormal State.reset ∧ FrontiersNormal spot := by
  unfold FrontiersNormal
  decide +kernel

/-! ### Writes of the control window, and the machines that they act on -/

/-- A write of 8 bytes, by master 64. -/
def ctl (off : BitVec 26) (data : Word) (master : BitVec 7 := 64) : CtlWrite := { master := master, viaEntry0 := false, off := off, size := 8, data := data }

/-- WindowWrites: a granted one that does something (CVGRACE of context 1023), one that a rule refuses, a reserved register, the heat table; a size and an alignment
that no write has; a master without the right; one that is not of the block. -/
theorem met_WindowWrites : let s := State.reset
    let cfg : State := { s with device := { s.device with tat := [(512 + 1, 8)] } }
    Granted s (ctl 0x13_FFD0 5) (.ctx 1023 0xD0) ∧ (writeRegion s 64 5 (.ctx 1023 0xD0)).isSome = true ∧
    Granted s (ctl 0x20_0000 499) (.core 0 0) ∧ writeRegion s 64 499 (.core 0 0) = none ∧
    Granted s (ctl 0x8_2000 0) .reserved ∧ Granted s (ctl 0x40_0000 0) (.heat 0 0) ∧
    ({ ctl 0 0 with size := 4 } : CtlWrite).size ≠ 8 ∧ (ctl 0x10_00D4 0).off.toNat % 8 ≠ 0 ∧
    (tatGrants s 4 1 3 = false) ∧ ((1 : BitVec 7) ≠ 64 ∧ (1 : BitVec 7) ≠ 66 ∧ ownBlock cfg 1 (.core 0 0) = false) ∧
    (tatGrants s 4 64 3 = true ∧ (ctl 0x13_FFD0 5).off.toNat = 0x10_00D0 + 0x100 * 1023) := by
  unfold Granted
  decide +kernel

/-- DeviceWrites: each register, with a value that is taken and one that is refused. -/
theorem met_DeviceWrites : let s := State.reset
    let own : State := { s with polders := [(0, { cores := 1 })], ctxs := [(0, { ctxcfg := 1 })] }
    let assisted : State := { own with polders := [(0, { pcfg := 0x10_0001, cores := 1 })] }
    let low (c : CoreState) : State := { own with cores := [(0, c)] }
    let twice : State := { s with device := { s.device with expo := [(2, { len := 4096 })] } }
    let att (x : Die) : State := { s with dies := [(0, x)] }
    (Granted s (ctl 0x020 1) (.device 0x020) ∧ bitAt (ctl 0x020 1).data.toNat 0 = true ∧ (ctl 0x020 1).master = 64 ∧ allBooted s = false ∧
      allBooted { s with dies := [0, 1, 2, 3].map (fun d => (d, { bstat := 4 })) } = true) ∧
    (Granted s (ctl 0x238 0xFFFF) (.device (0x200 + 8 * 7)) ∧ vctEngine 7 ≠ 0 ∧ vctReset 7 ≤ fieldOf 0xFFFF 0 16 ∧ ¬ vctReset 7 ≤ fieldOf 0 0 16 ∧ (31 : Nat) < 32 ∧ ¬ (31 : Nat) < 15) ∧
    (Granted s (ctl 0x678 0) (.device (0x400 + 128 * 4 + 120)) ∧ Granted s (ctl 0x640 0) (.device (0x400 + 128 * 4 + 64)) ∧ byteAt 0 0 % 16 ≠ 15) ∧
    (Granted s (ctl 0x100 0xE4) (.device 0x100) ∧ (∀ e, e < 4 → deadBit s (fieldOf 0xE4 (2 * e) 2) = false ∧ mapOf s e = fieldOf 0xE4 (2 * e) 2 ∧ entryPending s e = false) ∧
      (writePlanes s 0x1B).isSome = true ∧ deadBit { s with fabric := { s.fabric with fplane := 0x100 } } 0 = true) ∧
    (Granted s (ctl 0x8_1FF8 0) (.entry 255 24) ∧ overlaps s 255 (entryAfter s 255 24 0) = false ∧ Granted twice (ctl 0x8_0040 0x8000_0000_0000_0000) (.entry 2 0) ∧
      overlaps twice 2 (entryAfter twice 2 0 0x8000_0000_0000_0000) = true) ∧
    (Granted s (ctl 0x20_0010 1) (.core 0 0x010) ∧ ownerOf s 0 = none ∧ (coreOf s 0).teams = [] ∧ ownerOf own 0 ≠ none) ∧
    (Granted (att { bstat := 2 }) { ctl 0x49A0 0x8000_0000_0000_0000 with viaEntry0 := true } (.baseDie 0 0x9A0) ∧ (dieOf (att { bstat := 2 }) 0).attBusy = false ∧ 2 ≤ bitsAt (dieOf (att { bstat := 2 }) 0).bstat.toNat 0 4 ∧
      bitsAt (dieOf (att { bstat := 1 }) 0).bstat.toNat 0 4 < 2) ∧
    (Granted own (ctl 0x20_0FE0 7) (.core 0 (0x800 + 0x20 * 63)) ∧ Granted own (ctl 0x20_0800 7) (.core 0 0x800) ∧ (slotCtx own 0 0).isSome = true ∧ hwConverts own 0 = true ∧ (slotCtx own 0 63).isSome = false ∧
      (slotCtx assisted 0 0).isSome = true ∧ hwConverts assisted 0 = false) ∧
    (Granted own (ctl 0x20_0000 500) (.core 0 0) ∧ fieldOf 500 0 11 < (coreOf own 0).mhz.toNat ∧ ownerOf own 0 ≠ none ∧ (coreOf own 0).lowering = none ∧
      (∀ e ∈ validSlots own 0, (ctxOf own e.2).phase ≠ 1 ∧ (ctxOf own e.2).phase ≠ 2)) ∧
    ((coreOf (low { lowering := some 500 }) 0).lowering = some 500 ∧
      (∀ e ∈ validSlots (low { lowering := some 500, vbnd := [(0, 65536)] }) 0,
        vest (low { lowering := some 500, vbnd := [(0, 65536)] }) 0 (BitVec.ofNat 10 e.2) ≤ vbnd (low { lowering := some 500, vbnd := [(0, 65536)] }) 0 (BitVec.ofNat 10 e.2)) ∧
      ∃ e ∈ validSlots (low { lowering := some 500 }) 0, vbnd (low { lowering := some 500 }) 0 (BitVec.ofNat 10 e.2) < vest (low { lowering := some 500 }) 0 (BitVec.ofNat 10 e.2)) := by
  unfold Granted
  refine ⟨?_, ?_, ?_, ?_, ?_, ?_, ?_, ?_, ?_, ?_⟩ <;> decide +kernel

/-- PolderStates: a free polder, an active one with the whole share, a released one with its tombstone and without, and one share too many. -/
theorem met_PolderStates : let s := State.reset
    let at_ (x : Polder) : State := { s with polders := [(63, x)] }
    let share (v : Word) (s : State) : Nat := sumPolders s 63 { polderOf s 63 with pcfg := keep v 0x1F_FF03 } (fun z => if z.state = 1 then z.share else 0)
    let full : State := { at_ {} with polders := [(0, { pcfg := 0xFF01 })] }
    (Granted s (ctl 0x4_F000 0x1_0001) (.polder 63 0) ∧ (polderOf s 63).state = 0 ∧ (polderOf s 63).tomb = none ∧ share 0x1_0001 s ≤ 256) ∧
    (Granted (at_ { pcfg := 1 }) (ctl 0x4_F000 2) (.polder 63 0) ∧ (polderOf (at_ { pcfg := 1 }) 63).state = 1) ∧
    ((polderOf (at_ { pcfg := 3 }) 63).state = 3 ∧ (polderOf (at_ { pcfg := 3 }) 63).tomb = none ∧ (polderOf (at_ { pcfg := 3, tomb := some 1 }) 63).tomb ≠ none) ∧
    (256 < share 0xFF01 full ∧ share 0x0101 full = 256) ∧
    (Granted s (ctl 0x4_F070 0x2000_0000_0000_0000) (.polder 63 0x070) ∧ fieldOf 0x2000_0000_0000_0000 61 2 < 2 ∧ 2 ≤ fieldOf 0x4000_0000_0000_0000 61 2 ∧
      (polderOf s 63).tlbiBusy = false ∧ (polderOf (at_ { tlbiBusy := true }) 63).tlbiBusy = true) ∧
    ((polderOf (at_ { pcfg := 2 }) 63).state = 2 ∧ (polderOf s 63).state ≠ 2 ∧ (polderOf (at_ { tomb := some 0 }) 63).tomb = some 0 ∧ (polderOf (at_ { tomb := some 1 }) 63).tomb ≠ some 0) := by
  unfold Granted
  decide +kernel

/-- ContextWrites: the descriptor's registers, a ring with room and one without, a token of each kind. -/
theorem met_ContextWrites : let s := State.reset
    let at_ (x : Ctx) : State := { s with ctxs := [(0, x)] }
    let placed : State := { spot with cur := none }
    let tok (kind c : Nat) : State := { s with tokens := [(2, kind, c)] }
    (Granted s (ctl 0x10_0000 1) (.ctx 0 0) ∧ ({ ctxOf s 0 with ctxcfg := keep 1 0xFF_F07F } : Ctx).tagmode ≠ 3 ∧ placedTeams s 0 = 0 ∧ 0 < placedTeams placed 0 ∧
      ({ ctxOf s 0 with ctxcfg := keep 0xC 0xFF_F07F } : Ctx).tagmode = 3 ∧ ({ ctxOf s 0 with ctxcfg := keep 0x3000 0xFF_F07F } : Ctx).polder ≠ (ctxOf s 0).polder) ∧
    Granted s (ctl 0x10_0010 100) (.ctx 0 0x10) ∧
    (Granted s (ctl 0x10_00C0 0) (.ctx 0 0xC0) ∧ (ctxOf s 0).tlbiBusy = false ∧ (ctxOf (at_ { tlbiBusy := true }) 0).tlbiBusy = true) ∧
    (Granted s (ctl 0x10_0030 1) (.ctx 0 0x30) ∧ (ctxOf s 0).held = [] ∧ (ctxOf (at_ { held := [0], cfrq := 0x1000 }) 0).held = 0 :: [] ∧ ringBase (ctxOf (at_ { cfrq := 0x1000 }) 0).cfrq ≠ 0 ∧
      ringUsed 0 0 < ringSize 0x1000 ∧ ringSize 0x1000 ≤ ringUsed (BitVec.ofNat 31 (ringSize 0x1000)) 0) ∧
    (Granted s (ctl 0x10_0038 2) (.ctx 0 0x38) ∧ bitAt (2 : Word).toNat 0 = false ∧ bitAt (3 : Word).toNat 0 = true ∧
      (tok 0 0).tokens.find? (fun e => e.1 == 2) = some (2, 0, 0) ∧ (tok 1 0).tokens.find? (fun e => e.1 == 2) = some (2, 1, 0) ∧ (∀ e ∈ s.tokens, e.1 ≠ 2) ∧
      (tok 0 1).tokens.find? (fun e => e.1 == 2) = some (2, 0, 1) ∧ (tok 2 0).tokens.find? (fun e => e.1 == 2) = some (2, 2, 0) ∧
      ([((1 : Nat), (2 : Word))].any (fun e => e.2 == 2) && !([((1 : Nat), (4 : Word))] : List (Nat × Word)).any (fun e => e.2 == 2)) = true) := by
  unfold Granted
  refine ⟨?_, ?_, ?_, ?_, ?_⟩ <;> decide +kernel

/-- VacateLadder: GO, RESUME, KILL and each refusal; a stage at each step of the ladder; an entry refused for VSTALLMAX cycles. -/
theorem met_VacateLadder : let s := State.reset
    let at_ (x : Ctx) : State := { s with ctxs := [(0, x)] }
    let v : VacateStage := { arrived := 0 }
    let on (v : VacateStage) : State := { spot with cur := none, cores := put spot.cores 0 { coreOf spot 0 with ccyc := 65536 + 4096, teams := [], groups := [], vacates := [(0, v)] } }
    let asks (n : Nat) : Asked := { cls := 0, bytes := 0, rel := [], dst := [], ds := n }
    let st (n : Nat) : State := { withGroup (fun g => { g with entries := [{ entry with stall := some 0, limit := 65536, refusedLanes := 1, asked := some (asks n) }] }) with cur := none }
    let st (n : Nat) : State := onCore (st n) 0 (fun c => { c with ccyc := 65536, vbnd := put c.vbnd 0 (if n = 0 then 65536 else 0) })
    let tried (n : Nat) (want : Bool) : Bool := match fetchInstr (st n) 0 0 0 probeAddr with
      | (t, .inl (_, m)) => (issuer (pointAt t 0 0 (BitVec.allOnes 32) m)).any (fun i => ((asks n).plan 1).admitted t i (vbnd t 0 0) == want)
      | _ => false
    (Granted s (ctl 0x10_00C8 0x8000_0000_0000_0000) (.ctx 0 0xC8) ∧ bitAt (0x8000_0000_0000_0000 : Word).toNat 63 = true ∧ (ctxOf s 0).busy = false ∧ coresWith s 0 = [] ∧
      (ctxOf (at_ { busy := true }) 0).busy = true) ∧
    (bitAt (0x2000_0000_0000_0000 : Word).toNat 61 = true ∧ (ctxOf s 0).phase ≠ 1 ∧ (ctxOf s 0).phase ≠ 2 ∧ (ctxOf (at_ { phase := 2 }) 0).phase = 2) ∧
    bitAt (0x4000_0000_0000_0000 : Word).toNat 62 = true ∧
    (vacateOf (coreOf (on { v with te := some 0, margin := 4096 }) 0) 0 = some { v with te := some 0, margin := 4096 } ∧
      0 + vbnd (on { v with te := some 0, margin := 4096 }) 0 0 + 4096 ≤ (coreOf (on { v with te := some 0, margin := 4096 }) 0).ccyc.toNat ∧
      (coreOf (on { v with te := some 1, margin := 4096 }) 0).ccyc.toNat < 1 + vbnd (on { v with te := some 1, margin := 4096 }) 0 0 + 4096) ∧
    ((coreOf (on v) 0).vacates = (0, v) :: [] ∧ v.begun = false) ∧
    (softStageOver (on { v with begun := true }) 0 0 { v with begun := true } = true ∧
      softStageOver { spot with cores := put spot.cores 0 { coreOf spot 0 with vacates := [(0, { v with begun := true, lc := 100000, gc := 100000 })] } } 0 0 { v with begun := true, lc := 100000, gc := 100000 } = false) ∧
    ((69376 : Word).toNat + (ctxOf (on { v with te := some 69376 }) 0).q.toNat ≤ (coreOf (on { v with te := some 69376 }) 0).ccyc.toNat) ∧
    (∀ e ∈ ctxTeams (coreOf (on { v with te := some 0, saving := true }) 0) 0, e.2.st ≠ .draining ∧ teamDrained (coreOf (on v) 0) e.2.uid = true) ∧
    (entryNow (st 0) 0 0 (BitVec.allOnes 32) = some { entry with stall := some 0, limit := 65536, refusedLanes := 1, asked := some (asks 0) } ∧ 65536 ≤ ((coreOf (st 0) 0).ccyc - 0).toNat ∧
      (groupAt (coreOf (st 0) 0) 0).isSome = true ∧
      wbsLeft (coreOf (writeBackCtx (on { v with te := some 0, saving := true }) 0 0) 0) 0 = false ∧ wbsLeft { wbs := [(0, { ctx := 0, polder := 0, va := 0, home := .phys 0, mask := 1, tag := 0, tagDirty := false, data := 0 })] } 0 = true ∧
      tried 0 true = true ∧ tried 1 false = true) := by
  unfold Granted
  decide +kernel

/-! ### Operations in flight -/

/-- The small machine with memory, and operations of its group in flight on core 0, numbered from 1. -/
def withOps (os : List OpKind) (dest : Dest := .none) (h : CoreState → CoreState := id) : State :=
  let s : State := { mem with cur := none }
  { s with cores := put s.cores 0 (h { coreOf s 0 with ops := (os.zipIdx 1).map (fun e => (e.2, { anOp e.1 with dest := dest, seq := e.2 })), nextOp := os.length + 1 }) }

/-- One access of lane 0 to 8 bytes of memory, and one to the last 8 bytes of the scratch bank. -/
def hbm (a : Nat) : LaneAcc := { lane := 0, space := .hbm, va := BitVec.ofNat 64 (2 ^ 63 + a), pa := a, n := 8, data := 5 }
def scratch : LaneAcc := { lane := 0, space := .scratch, va := 32760, pa := 20 * 32768 + 32760, n := 8, data := 5 }

/-- ResultsArrive: a class 1 result for a vector, for an s register, for none; a name that awaits it, one that does not. -/
theorem met_ResultsArrive : let k : OpKind := .vec [(0, 1), (31, 2)] false
    let g : Group := { probeGroup 0 with pend := [{ name := 9, op := 1 }], exited := 1 }
    (opOf (withOps [k] (.v 9)) 0 1 = some { anOp k with dest := .v 9 }) ∧ (opOf (withOps [k] (.s 9)) 0 1 = some { anOp k with dest := .s 9 }) ∧
    (opOf (withOps [k]) 0 1 = some (anOp k)) ∧ awaited g 9 1 = true ∧ awaited g 9 2 = false ∧ inMask g.exited 0 ∧ ¬ inMask g.exited 31 ∧
    (findGroup (coreOf (withOps [k]) 0) (anOp k).uid (anOp k).gid).any (fun e => e.2.entries.all (fun e => match e.hold with | .watch .. => false | _ => true)) = true := by decide +kernel

/-- AccessesPerform: a load and a store that nothing precedes, the same behind a store to their byte; stores of each kind, an atomic, and a packet's answer. -/
theorem met_AccessesPerform : let ld : OpKind := .load .keep [hbm 256, scratch] false
    let st : OpKind := .store .keep [hbm 256, scratch] none 1
    let at_ : OpKind := .atomic 0 .n64 [hbm 256, { hbm 256 with lane := 1 }]
    let free (k : OpKind) : Prop := opOf (withOps [k]) 0 1 = some (anOp k) ∧ mustFollow (coreOf (withOps [k]) 0) 1 (anOp k) = false
    let rich (k : OpKind) : State := withOps [k] .none (fun c => { c with tok := 1 })
    (free ld ∧ opLeaves (coreOf (withOps [ld]) 0) 0 = false ∧ loadAllowed (withOps [ld]) 0 (anOp ld) .keep [hbm 256, scratch] = true ∧
      portOpen (rich ld) 0 0 (.op 1) = true ∧ loadAllowed ([hbm 256, scratch].foldl (fun s a => loadFirst s 0 (anOp ld) .keep a) (withOps [ld])) 0 (anOp ld) .keep [hbm 256, scratch] = true ∧
      loadAllowed (onDie (withOps [ld]) 0 (fun d => { d with awaiting := [2 ^ 31] })) 0 (anOp ld) .keep [hbm (2 ^ 39)] = false ∧ loadNeedsPort (withOps [.load .keep [scratch] false]) 0 (anOp ld) .keep [scratch] = false ∧
      loadNeedsPort (withOps [.load .home [hbm 256] false]) 0 (anOp ld) .home [hbm 256] = true ∧ portOpen (withOps [ld]) 0 0 (.op 1) = false) ∧
    (loadsHome (coreOf (withOps [st]) 0) .keep = false ∧ lineFree (withOps [st]) 0 256 = true) ∧
    mustFollow (coreOf (withOps [st, ld]) 0) 2 { anOp ld with seq := 2 } = true ∧ mustFollow (coreOf (withOps [st, st]) 0) 2 { anOp st with seq := 2 } = true ∧
    scratch.space = .scratch ∧ free st ∧ free (.homeStore [hbm 256] (some false)) ∧ canFill (withOps []) (dieOfCore 0) 256 = true ∧ free at_ ∧ (hbm 256).reg = 0 ∧
    free (.remoteWrite 0 []) ∧ (32760 % 8 + 8 ≤ 8 ∧ 32767 % 8 + 1 ≤ 8) := by decide +kernel

/-- AccessesPerform, its values: a load on the .home path of a line that the core does not hold; a line of the L1; a launch that has started. -/
theorem met_AccessesPerform_values :
    let held : State := onCore (withOps []) 0 (fun c => { c with l1 := [(2, { ctx := 0, va := 0x8000_0000_0000_0200, home := .phys 2, sectors := [{}, {}, {}, {}], ipa := 0x200 })] })
    let a : LaneAcc := { hbm 0x208 with va := 0x8000_0000_0000_0208 }
    (loadsHome (coreOf (withOps []) 0) .home = true ∧ homeDie 256 = dieOfCore 0 ∧ l1Holding (coreOf (withOps []) 0) 0 (.phys (lineOf 256)) (hbm 256).va = none ∧
      leavesFirst (coreOf (withOps []) 0) 0 (.phys (lineOf 256)) (hbm 256).va = []) ∧
    (l1Find (coreOf held 0) 0 a.va = some 2 ∧ (look (coreOf held 0).l1 2).any (fun l => l.sectors.length == 4) = true ∧ a.va.toNat % 64 + a.n ≤ 64) ∧
    ((∀ l ∈ (withOps []).launches, starting (withOps []) l.1 l.2 = false) ∧ argChanged (withOps []) 0 0 (hbm 256) = false) := by decide +kernel

/-- FencesComplete: a write-back that the tables grant, one they refuse, one of the fabric with room and without; a fence that waits, one whose waits are over; a launch. -/
theorem met_FencesComplete :
    let w (h : LineHome) : WriteBack := { ctx := 0, polder := 0, va := 0x8000_0000_0000_0000, home := h, mask := 1, tag := 0, tagDirty := false, data := 1 }
    let at_ (w : WriteBack) (t : Nat) : State := withOps [] .none (fun c => { c with wbs := [(0, w)], ops := [(1, { anOp (.pop 0) with tracker := t })] })
    let k (b : Bool) (wbs : List Nat) : OpKind := .fence (.fence true true 5) wbs [] b 0 .nothing
    (look (coreOf (at_ (w (.phys 1)) 0) 0).wbs 0 = some (w (.phys 1)) ∧ wbGranted (at_ (w (.phys 1)) 0) (w (.phys 1)) = true ∧
      wbGranted (at_ (w (.phys 1)) 0) { w (.phys 1) with polder := 1 } = false ∧ (unsentOf (coreOf (at_ (w (.phys 1)) 0) 0) (w (.phys 1))).head?.map (·.1) = some 0 ∧
      portOpen (onCore (at_ (w (.phys 1)) 0) 0 (fun c => { c with tok := 1 })) 0 0 (.wb 0) = true ∧ portOpen (at_ (w (.phys 1)) 0) 0 0 (.wb 0) = false ∧ lineFree (at_ (w (.phys 1)) 0) 0 256 = true ∧ lineFree (onDie (at_ (w (.phys 1)) 0) 0 (fun d => { d with awaiting := [1] })) 0 256 = false ∧ State.reset.launches.filter (fun e => e.2.ctx == (w (.phys 1)).ctx) = []) ∧
    (wbGranted (at_ (w .fabric) 0) (w .fabric) = true ∧ trackerFree (coreOf (at_ (w .fabric) 255) 0) ≠ 0 ∧ trackerFree (coreOf (at_ (w .fabric) 256) 0) = 0) ∧
    (opOf (withOps [k false []]) 0 1 = some (anOp (k false [])) ∧ opOf (withOps [k true []]) 0 1 = some (anOp (k true [])) ∧ homesDone (withOps [k true []]) 0 0 (.fence true true 5) = true) ∧
    (opOf (withOps [k true [0]] .none (fun c => { c with wbs := [(0, w (.phys 1))] })) 0 1 = some (anOp (k true [0])) ∧
      wbDone (coreOf (withOps [k true [0]] .none (fun c => { c with wbs := [(0, { w (.phys 1) with waiters := [1] })] })) 0) 1 0 = false) ∧
    opOf (withOps [.launch 0 7]) 0 1 = some (anOp (.launch 0 7)) := by decide +kernel

/-- EnginesComplete: a switch that may go and one that waits; FIFO operations at the head of a FIFO, of a bank that has left it, behind another, and too old; a
matrix operation alone and behind another on its accumulator; a copy at its end, in its course, paused, and at a bad place. -/
theorem met_EnginesComplete :
    let mm : OpKind := .mma false true 0x8501 32 [] [] [] [] false
    let cp (sa : Word) (done : Nat) (fs : Bool) (dst : Nat) : OpKind := .copy 0 fs dst sa 0 64 done none
    let o (k : OpKind) : Op := anOp k
    (canSwitch (withOps [.bank 20 .cache]) 0 1 = true ∧ canSwitch (withOps [.store .keep [scratch] none 0, .bank 20 .cache]) 0 2 = false ∧ (bankOf (coreOf mem 0) 20).mode ≠ .cache ∧
      (bankOf (coreOf mem 0) 20).mode ≠ .cache) ∧
    (fifoBank (coreOf mem 0) (o (.push 1 [1])) 1 = some 21 ∧ canAccept (withOps [.push 1 [1]]) 0 1 = true ∧ (bankOf (coreOf (withOps [.push 1 [1]]) 0) 21).mode = .fifo ∧
      canAccept (withOps [.pop 1] (.v 9)) 0 1 = true ∧ canAccept (withOps [.push 1 [1], .pop 1]) 0 2 = false) ∧
    (fifoBank (coreOf mem 0) (o (.pop 0)) 0 = some 20 ∧ canAccept (withOps [.pop 0]) 0 1 = true ∧ (bankOf (coreOf (withOps [.pop 0]) 0) 20).mode ≠ .fifo) ∧
    (opLeaves (coreOf mem 0) 0 = false ∧ 2 ^ 20 ≤ ((coreOf (withOps [.pop 1] .none (fun c => { c with ccyc := 0x10_0000 })) 0).ccyc - (o (.pop 1)).start).toNat ∧
      ((coreOf (withOps [.pop 1] .none (fun c => { c with ccyc := 0xF_FFFF })) 0).ccyc - (o (.pop 1)).start).toNat < 2 ^ 20) ∧
    (behindMatrix (coreOf (withOps [mm]) 0) 1 (o mm) 32 = false ∧ formatType 0x8501 = some .i8 ∧ behindMatrix (coreOf (withOps [mm, mm]) 0) 2 (o mm) 32 = true) ∧
    (canBeat (withOps [cp 0 0 true 1]) 0 1 = true ∧ (match scratchSide (coreOf mem 0) (o (cp 0 0 true 1)) 0 64 true with | .at_ a _ => a == 0 | _ => false) = true ∧
      (match scratchSide (coreOf mem 0) (o (cp 64 0 true 1)) 64 64 false with | .at_ a _ => a == 64 | _ => false) = true ∧ beatLen true 1 64 0 64 0 = 64 ∧
      (∀ j < 8, ¬ ((64 : Nat) ≤ 8 * j ∧ 8 * j < 64 + 64)) ∧ (∀ j < 8, (0 : Nat) ≤ 8 * j ∧ 8 * j < 0 + 64) ∧
      (match scratchSide (coreOf mem 0) (o (cp 65472 0 true 1)) 65472 64 true with | .bad _ => true | _ => false) = true ∧
      (match (memSide (withOps [cp 0 0 false 1]) 0 (o (cp 0 0 false 1)) 0xC000_0000_0000_0000 accRead).2 with | .bad _ => true | _ => false) = true ∧
      sideFollows (coreOf (withOps [cp 0 0 true 1]) 0) 1 (o (cp 0 0 true 1)) true true 0 0 64 = false) := by
  refine ⟨?_, ?_, ?_, ?_, ?_, ?_⟩ <;> decide +kernel

/-- EnginesComplete, beats that cross: from memory to scratch, the other way, and from scratch to a FIFO. -/
theorem met_EnginesComplete_memory :
    let up : Word := 0x8000_0000_0000_1000
    let cp (fs : Bool) (dst : Nat) (sa da : Word) : OpKind := .copy 0 fs dst sa da 64 0 none
    let at_ (k : OpKind) : State := withOps [k] .none (fun c => { c with tok := 1 })
    let placed (x : Side) (a : Nat) : Bool := match x with | .at_ b _ => a == b | _ => false
    let into := cp false 1 up 0
    let out := cp true 0 0 up
    let fifo := cp true 2 0 1
    (canBeat (at_ into) 0 1 = true ∧ portOpen (at_ into) 0 0 (.op 1) = true ∧ placed (memSide (portLeave (at_ into) 0 (.op 1)) 0 (anOp into) up accRead).2 0x1000 = true ∧
      placed (scratchSide (coreOf (at_ into) 0) (anOp into) 0 64 false) 0 = true ∧ homeAnswers (at_ into) 0 0x1000 64 = true ∧ (∀ x ∈ beatSectors 0x1000 64, isPoisoned (at_ into) x = false) ∧
      (∃ x ∈ beatSectors 0x1000 64, isPoisoned { at_ into with poison := [(64, true)] } x = true) ∧ sideFollows (coreOf (at_ into) 0) 1 (anOp into) false false up 0x1000 64 = false) ∧
    (canBeat (at_ out) 0 1 = true ∧ placed (memSide (at_ out) 0 (anOp out) up accCopyDst).2 0x1000 = true ∧ placed (scratchSide (coreOf (at_ out) 0) (anOp out) 0 64 true) 0 = true) ∧
    (canBeat (at_ fifo) 0 1 = true ∧ placed (fifoSide (coreOf (at_ fifo) 0) (anOp fifo) 1) 0 = true ∧ fifoBank (coreOf (at_ fifo) 0) (anOp fifo) 1 = some 21) := by
  refine ⟨?_, ?_, ?_⟩ <;> decide +kernel

/-! ### Merge sets -/

/-- An open set of two contributors on the line at 0, homed in slice 0, and the machine that holds it. -/
def openMerge : MergeSet := { gen := 1, st := .opened, lines := [0], expect := 2, signal := 4096 }
def withSet (m : MergeSet) (os : List OpKind := []) : State := { withOps os with sets := [(0, m)] }
def set0 : SetId := { die := 0, slice := 0, record := 0 }

/-- MergeSets: stages, closes, measures, commits, signals and answers, each taken and each refused. -/
theorem met_MergeSets :
    let es : List (Mask × Word × Nat × BitVec 32) := [(1, 0x8000_0000_0000_0000, 0, 1)]
    let st (id : BitVec 16) : OpKind := .stage set0 1 id es []
    let closed (asked : List Nat) : MergeSet := { openMerge with contribs := [(1, { st := .closed, asked := asked })] }
    let ready (marked : Bool) : MergeSet := { openMerge with measured := [1], contribs := [(1, { st := .measured, marked := marked })] }
    let done : MergeSet := { openMerge with commits := [(1, 0)], signals := [(1, true)], contribs := [(1, { st := .committed, seq := some 0 })] }
    let ended : MergeSet := { openMerge with contribs := [(0, { st := .committed }), (1, { st := .rejected })] }
    (setIdKey set0 = 0 ∧ nextLine es ≠ [] ∧ stageRule (withSet openMerge) 0 1 (some 0) 1 [0] = none ∧ stageRule (withSet openMerge) 0 1 (some 0) 2 [0] = some 3 ∧
      openSet (withSet openMerge) 0 1 = some openMerge ∧ holds (claimSlot openMerge 1 none) 1 = true ∧
      stageBehind (withSet openMerge [st 1]) 0 1 (anOp (st 1)) openMerge 1 es = false ∧ stageBehind (withSet openMerge [st 0, st 1]) 0 2 (anOp (st 1)) openMerge 1 es = true ∧
      holds (claimSlot { openMerge with slots := [(0, 0)] } 1 none) 1 = false) ∧
    (closeRule (withSet openMerge) 0 1 (some 0) 1 = none ∧ closeRule (withSet (closed [])) 0 1 (some 0) 1 = some 5 ∧
      opOf (withSet openMerge [st 1, .close set0 1 1]) 0 2 = some { anOp (.close set0 1 1) with seq := 2 }) ∧
    (look (withSet openMerge [st 1]).sets 0 = some openMerge ∧ openMerge.st = .opened ∧ stageWaits (withSet openMerge [st 1]) set0 0 1 = some 0 ∧ stageWaits (withSet openMerge) set0 0 1 = none) ∧
    ((contribOf (closed [0]) 1).st = .closed ∧ 0 ∈ (contribOf (closed [0]) 1).asked ∧ (contribOf (closed []) 1).asked = [] ∧
      notFinite fmtF64 (sigmaOf (closed []) (contribOf (closed []) 1)) = false) ∧
    (nextTurn (ready false) = some 1 ∧ (contribOf (ready false) 1).marked = false ∧ nextTurn (ready true) = some 1 ∧ (contribOf (ready true) 1).marked = true) ∧
    (0 ∈ slicesOf done ∧ done.commits[lookD done.applied 0 0]? = some (1, 0) ∧ done.signals = (1, true) :: [] ∧ appliedAll done 0 = false ∧
      appliedAll { done with applied := [(0, 1)] } 0 = true) ∧
    (ended.signals = [] ∧ allRetired ended = true ∧ allRetired openMerge = false) ∧
    (heldSet (withSet openMerge) set0 2 = none ∧ heldSet (withSet openMerge) set0 1 = some openMerge ∧ (1 : BitVec 16).toNat < openMerge.expect ∧ openMerge.expect ≤ (2 : BitVec 16).toNat ∧
      abortable openMerge 1 = true ∧ openMerge.polder = (anOp (.pop 0)).polder) ∧
    (quotaUsed (withSet openMerge) 0 0 0 + setLinesIn (setKey 0 0 0) openMerge 0 ≤ quotaOf { withSet openMerge with polders := [(0, { pberm := 40 })] } 0 0 ∧
      freeRecord (withSet openMerge) 0 0 = some 1 ∧
      freeRecord { withSet openMerge with sets := (List.range 8).map (fun r => (r, openMerge)) } 0 0 = none) := by
  refine ⟨?_, ?_, ?_, ?_, ?_, ?_, ?_, ?_, ?_⟩ <;> decide +kernel

/-! ### Dies and pages -/

/-- DiesAndTokens: a notice that is next and one that is not; a full buffer; a polder with a share. -/
theorem met_DiesAndTokens : let next : LinkMsg := .notice 1 [0, 1, 0, 0]
    let late : LinkMsg := .notice 1 [0, 2, 0, 0]
    let at_ (m : LinkMsg) (held : List LinkMsg) : State := { State.reset with dies := [(0, { link := [(1, [m])], held := [(1, held)] })] }
    (lookD (dieOf (at_ next []) 0).link 1 [] = next :: [] ∧ linkTest (at_ next []) 0 next = true ∧ linkTest (at_ late []) 0 late = false ∧
      (lookD (dieOf (at_ late []) 0).held (linkSource late) []).length < 4096 ∧ 4096 ≤ (List.replicate 4096 late).length) ∧
    linkTest (at_ late [next]) 0 next = true ∧
    (let s : State := { State.reset with polders := [(0, { pcfg := 0x0101 })], cores := [(0, {})] }
     (look s.cores 0).isSome = true ∧ (polderOf s 0).share ≠ 0 ∧ (polderOf s 1).share = 0 ∧ sharers s 0 ≠ [] ∧ look s.polders 0 = some { pcfg := 0x0101 }) := by
  refine ⟨?_, ?_, ?_⟩ <;> decide +kernel

/-- Polder 0 with a level-4 leaf for its page 0, on the frame at 64 KiB: the pointers of levels 0 to 3 and a run of sixteen leaves in memory. -/
def tables (leaf : Nat) : State :=
  let p : State := { State.reset with polders := [(0, { pcfg := 1, ps2root := 0x1001 })], device := { State.reset.device with tat := [(0, 7), (128, 7)] } }
  let s := [(0x1000, 0x2001), (0x2000, 0x3001), (0x3000, 0x4001), (0x4000, 0x5001)].foldl (fun s (e : Nat × Nat) => deviceWrite s e.1 8 e.2) p
  (List.range 16).foldl (fun s j => deviceWrite s (0x5000 + 8 * j) 8 (0x10000 + 4096 * j + leaf)) s

/-- PagesMove: an invalidation that may complete; a frame in quarantine; a page decided for, one whose copy is under way, a piece that collapses and one that has. -/
theorem met_PagesMove :
    let s := tables 0x47
    let busy : State := { s with polders := [(0, { polderOf s 0 with tlbiBusy := true })], ctxs := [(0, { tlbiBusy := true })] }
    let rd : State := ((List.range 16).map (fun j => (0x5000 + 8 * j, 0x1_00C3)) ++ [(0x1_0000, 0x2_0000), (0x1_0020, 0x1_0101)]).foldl (fun s (e : Nat × Nat) => deviceWrite s e.1 8 e.2) (tables 0x47)
    ((polderOf busy 0).tlbiBusy = true ∧ coverIdle busy (ptlbiCover busy 0) = true ∧ (ctxOf busy 0).tlbiBusy = true ∧ coverIdle busy (ctlbiCover busy 0) = true) ∧
    (epochOver s 0 = false ∧ epochOver (onDie s 0 (fun d => { d with cyc := 2 ^ 32 })) 0 = true ∧ look ({ s with quar := [(16, false)] } : State).quar 16 = some false ∧ look s.quar 16 = none ∧
      look ({ State.reset with quar := [(16, true)] } : State).quar 16 = some true ∧ isZeroFrame { State.reset with quar := [(16, true)] } 16 = true ∧
      look ({ s with quar := [(5, true)] } : State).quar 5 = some true ∧ isZeroFrame { s with quar := [(5, true)] } 5 = false) ∧
    ((match leafOf s 0 0 with | some l => l.lvl == 4 && !peRdup l.e && !peMig l.e && peC16 l.e && homeDie l.out == 0 && l.out == 0x1_0000 | none => false) = true ∧
      pinned s 0 0 = false ∧ coverIdle s (polderCover s 0 0 65536 false) = true ∧ look ({ s with migrating := [(pageKey 0 0, 1, false, [])] } : State).migrating (pageKey 0 0) = some (1, false, [])) ∧
    (look ({ s with migrating := [(pageKey 0 0, 1, false, [0x800_0000_00])] } : State).migrating (pageKey 0 0) = some (1, false, [0x800_0000_00]) ∧ pageQuiet s 0x1_0000 = true ∧
      look ({ s with migrating := [(pageKey 0 0, 1, true, [0x800_0000_00, 0x800_0004_00])] } : State).migrating (pageKey 0 0) = some (1, true, [0x800_0000_00, 0x800_0004_00])) ∧
    ((match leafOf rd 0 0 with | some l => l.lvl == 4 && peRdup l.e | none => false) = true ∧ (polderOf rd 0).hostMigrate = false ∧ coverIdle rd (polderCover rd 0 0 65536 false) = true) ∧
    ((match leafOf (deviceWrite s 0x4000 8 0x1_0083) 0 0 with | some l => l.lvl == 3 && peRdup l.e && !pieceCollapsed s (replicaPa l.e) 0 | none => false) = true ∧
      bitAt (polderOf s 0).psplit.toNat 0 = false) := by
  refine ⟨?_, ?_, ?_, ?_, ?_, ?_⟩ <;> decide +kernel

/-! ### The fabric -/

/-- A node with an active polder 0 and 4 KiB of polder memory exported at 4 GiB to every node. -/
def node (leaf : Nat := 0x47) : State :=
  let s := tables leaf
  { s with
    device := { s.device with expo := [(1, { base := 0x8000_0001_0000_0000, len := 4096, ipa := 0, attrs := 0x000F_0000 })], hostV := true, hostNode := 5 }
    polders := [(0, { polderOf s 0 with pcfg := 1, psend := 100, prate := [(15, 8533)] })] }

/-- A read request from node 7 to the first line of the export, and a write of its first sector. -/
def rdreq : Packet := { kind := kRdreq, cls := 1, src := 7, off := 0x1_0000_0000, cont := 3 }
def wr : Packet := { kind := kWr, cls := 2, src := 7, off := 0x1_0000_0000, len := 1, payload := [5] }

/-- FabricSource: ports that are down, halted and free; a packet in each place; a plane that fails and one that recovers; an entry that pends. -/
theorem met_FabricSource :
    let s := node
    let port (x : Port) : State := { s with fabric := { s.fabric with ports := [(15, x)] } }
    let add : Packet := { kind := kAtomreq, cls := 2, src := 1, dst := 2, len := 1, tyField := 4, off := 64, payload := [1] }
    let plane (w : Word) (x : Port) : State := { s with fabric := { s.fabric with fplane := w, ports := [(15, x)] } }
    let full : Port := { queue := List.replicate 800 { wr with len := 4 } }
    ((portOf (port { down := true }) 15).down = true ∧ (portOf (port { halt := true }) 15).halt = true ∧
      (match nextToSend (port { queue := [wr] }) 15 with | some (.transit p) => p == wr | _ => false) = true ∧
      (match nextToSend (onCore (port { waiting := [(wr, 0, 1)] }) 0 (fun c => { c with tok := 1 })) 15 with | some (.first e) => e == (wr, 0, 1) && !exempt wr | _ => false) = true ∧
      (nextToSend (port { waiting := [(wr, 0, 1)] }) 15).isNone = true ∧ tokenFree (port { waiting := [(wr, 0, 1)] }) (wr, 0, 1) = false ∧
      mayLeaveBut (port { waiting := [(wr, 0, 1)] }) 15 (wr, 0, 1) = true ∧ hasTokens (port { waiting := [(wr, 0, 1)] }) (wr, 0, 1) = false ∧
      mayLeaveBut (port { waiting := [(wr, 0, 1)], used := [(2, 100000)] }) 15 (wr, 0, 1) = false ∧
      (match nextToSend (port { waiting := [({ wr with refill := true }, 0, 1)] }) 15 with | some (.first e) => exempt e.1 | _ => false) = true) ∧
    ((match nextToSend { s with fabric := { s.fabric with retained := [{ pkt := { wr with plane := 3 }, core := 0, op := 1, resend := true, limit := 100 }] } } 3 with
      | some (.again _) => true | _ => false) = true) ∧
    ((portOf (port { queue := [add] }) 15).queue.find? (fun q => combines q add) = some add ∧ (joinQueued (port { queue := [add] }) 15 add add).isSome = true ∧
      (portOf (port {}) 15).queue.find? (fun q => combines q add) = none ∧ trims s {} wr = false ∧ marks s {} wr = false ∧ trims s full wr = true ∧ marks s full wr = true) ∧
    ((portOf (port { nextKey := true }) 15).nextKey = true) ∧
    ((planePorts 3).any (portFails (plane 0xE4 { down := true })) = true ∧ deadBit (plane 0xE4 { down := true }) 3 = false ∧ (planePorts 3).any (portFails s) = false ∧
      deadBit (plane 0x8E4 {}) 3 = true ∧ (∀ q ∈ planePorts 3, (portOf (plane 0x8E4 {}) q).halt = false) ∧ (plane 0x8E4 {}).fabric.deadt ≠ 0) ∧
    (entryPending (plane 0x80E4 {}) 3 = true ∧ planeDrained (plane 0x80E4 {}) (mapOf (plane 0x80E4 {}) 3) = true ∧ leastPlane (plane 0x80E4 {}) = some 0 ∧
      leastPlane (plane 0x8FE4 {}) = none ∧ entryPending s 3 = false) ∧
    (polderOf s 0).hostKeyrot = false := by
  refine ⟨?_, ?_, ?_, ?_, ?_, ?_, ?_⟩ <;> decide +kernel

/-- FabricTarget: what an arrival meets first; packets that are served as they arrive, and refused; a skim with the gap list free and full; a refill for its gap; gaps by age. -/
theorem met_FabricTarget :
    let s := node
    let u := receive (unblock s wr) wr
    let tomb : State := { s with polders := [(0, { polderOf s 0 with tomb := some 5 })] }
    let skim : Packet := { wr with trim := true, cls := 0, len := 0, payload := [] }
    let gap : Gap := { src := 7, plane := 0, stag := 0, polder := 0, kind := kWr, len := 1, limit := 100, line := 0, seq := 0 }
    let at_ (g : Gap) : State := { s with fabric := { s.fabric with gaps := [(0, g)], windows := [(windowKey wr, { next := 1 })] } }
    let served (s : State) (q : Packet) : Bool := match servePacket s q (exportMatch s q.src q.off.toNat) with | some t => t.fabric.held.isEmpty && t.fabric.waiting.isEmpty && t.fabric.gaps.isEmpty | none => false
    (badFrame s { rdreq with reservedSet := true } = true ∧ badFrame s rdreq = false ∧ (polderOf tomb 0).tomb.isSome = true ∧ asks rdreq = true ∧ asks { rdreq with kind := kAck } = false ∧
      isReplay { s with fabric := { s.fabric with windows := [(windowKey wr, { next := 1 })] } } { wr with sealed := true } = true ∧
      isReplay s { wr with sealed := true } = false ∧ openSeal s { wr with sealed := true } = none) ∧
    (rdreq.kind = kRdreq ∧ (polderOf s 0).tomb = none ∧ isReplay s rdreq = false ∧ openSeal s rdreq = some rdreq ∧ s.fabric.held = [] ∧
      mustHold s [] { pkt := rdreq, seq := s.fabric.gapSeq } = false ∧ served s rdreq = true) ∧
    (badFrame s wr = false ∧ isReplay s wr = false ∧ openSeal s wr = some wr ∧ u.fabric.held = [] ∧ mustHold u [] { pkt := wr, seq := u.fabric.gapSeq } = false ∧ served u wr = true ∧
      blocked (rxOf s wr) wr = false ∧ wasReceived (rxOf s wr) wr.stag = false) ∧
    (exportMatch s 7 0x1_0000_1000 = none ∧ (exportMatch s 7 0x1_0000_0FFF).isSome = true ∧ (exportMatch { s with device := State.reset.device } 0 0).any (fun e => e.2.kind == 2) = true) ∧
    (tagMiss s rdreq 0 = false ∧ tagMiss s { rdreq with tck := true, tag := 1 } 0x1_0000 = true) ∧
    (badFrame s skim = false ∧ openSeal s skim = some skim ∧ freeKey s.fabric.gaps 512 = some 0 ∧ freeKey ((List.range 512).map (fun i => (i, gap))) 512 = none) ∧
    (openSeal (at_ gap) { wr with refill := true } = some { wr with refill := true } ∧
      (at_ gap).fabric.gaps.find? (fun e => e.2.src == 7 && e.2.plane == 0 && e.2.stag == 0 && e.2.kind == kWr) = some (0, gap) ∧ gap.age < gap.limit ∧
      tagBefore 0 (rxOf (at_ gap) wr).next = true ∧ tagBefore 0 (rxOf s wr).next = false) ∧
    (gap.limit ≤ ({ gap with age := 100 } : Gap).age ∧ look (at_ gap).fabric.gaps 0 = some gap) ∧
    (nextGap (at_ gap) 7 = some (0, gap) ∧ ftrimField (at_ gap) 16 ≤ lookD (at_ gap).fabric.paced 7 (ftrimField (at_ gap) 16) ∧
      refillsOut (at_ gap) < fieldOf (at_ gap).fabric.ftrim 24 6) := by
  refine ⟨?_, ?_, ?_, ?_, ?_, ?_, ?_, ?_, ?_⟩ <;> decide +kernel

/-- FabricTarget, what performs: an atomic of four bytes, and a stage whose set is open on its line. -/
theorem met_FabricTarget_served :
    let s : State := { node with sets := [(0, { openMerge with lines := [0x100] })] }
    let add : Packet := { kind := kAtomreq, cls := 2, src := 7, off := 0x1_0000_0000, len := 1, tyField := 4, payload := [5] }
    let hd : Word := BitVec.ofNat 64 (2 ^ 32)
    (tagMiss s add 0x1_0000 = false ∧ 4 ≤ add.tyField.toNat ∧ add.tyField.toNat < 8 ∧ add.op = 0 ∧ (servePacket s add (exportMatch s add.src add.off.toNat)).isSome = true) ∧
    (setIdKey (handleSet hd) = 0 ∧ handleGen hd = 1 ∧ stageRule s 0 1 (some 0) 1 [0x1_0000] = none ∧ (openSet s 0 1).isSome = true ∧
      stageRule s 0 1 (some 0) 2 [0x1_0000] = some 3 ∧ holds (claimSlot { openMerge with lines := [0x100] } 1 none) 1 = true) := by
  refine ⟨?_, ?_⟩ <;> decide +kernel

/-- FabricAnswers: a response to its continuation, whole and trimmed; an answer to a retained packet; a continuation whose time is over; answers of the host. -/
theorem met_FabricAnswers :
    let k : OpKind := .remoteRead false [{ lane := 0, space := .fabric, va := 0xC000_0000_0000_0000, pa := 0, n := 8 }]
    let x : Continuation := { used := true, op := 1, dst := 7, limit := 100 }
    let s := withOps [k] (.v 9) (fun c => { c with conts := [(3, x)], ccyc := 100 })
    let rsp : Packet := { kind := kRdrsp, cls := 3, src := 7, cont := 3, len := 1, payload := [5] }
    let r : Retained := { pkt := { wr with src := 0, dst := 7 }, core := 0, op := 1, limit := 100 }
    let held : State := { s with fabric := { s.fabric with retained := [r] } }
    let ack : Packet := { kind := kAck, src := 7 }
    let host (b : Bool) : State := { s with device := { s.device with hostV := true, hostNode := 7 }, xlreqs := [(4, { core := 0, ctx := 0, va := 0, acc := 1, sent := 0, limit := 100, timedOut := b })] }
    let xl (op : Nat) : Packet := { kind := kXlrsp, cls := 1, src := 7, len := 1, payload := [BitVec.ofNat 512 (op + 4 * 2 ^ 32)] }
    (rsp.kind = kRdrsp ∧ badFrame s rsp = false ∧ (polderOf s 0).tomb = none ∧ isReplay s rsp = false ∧ openSeal s rsp = some rsp ∧ contOf s rsp = some (0, 3, x) ∧
      opOf s 0 1 = some { anOp k with dest := .v 9 } ∧ contOf s { rsp with gen := 63 } = none) ∧
    (badFrame held ack = false ∧ openSeal held ack = some ack ∧ ack.cls = 0 ∧ ack.ck = false ∧ retainedFor held ack = some r) ∧
    (x.used = true ∧ x.sent.toNat + x.limit ≤ (coreOf s 0).ccyc.toNat ∧ (coreOf (withOps [k] (.v 9) (fun c => { c with ccyc := 99 })) 0).ccyc.toNat < x.sent.toNat + x.limit) ∧
    (badFrame (host false) (xl 2) = false ∧ openSeal (host false) (xl 2) = some (xl 2) ∧ ((host false).xlreqs.find? (fun e => e.1 % 2 ^ 32 == xlField (xl 2) 4 4)).isSome = true ∧
      xlField (xl 2) 0 1 = 2 ∧ xlField (xl 1) 0 1 ≠ 2) ∧
    (xlinvCtxs (host false) { xl 3 with kind := kXlinv } ≠ [] ∧ (∀ c ∈ xlinvCtxs (host false) { xl 3 with kind := kXlinv }, (ctxOf (host false) c).xlinv = none)) := by
  refine ⟨?_, ?_, ?_, ?_, ?_⟩ <;> decide +kernel

/-! ### Launches, boot, translation -/

/-- Context 0 of an active polder that owns core 0, with a record of one team of one group in queue 0. -/
def launching (r : BitVec 1024) (l : AMap Launch := []) : State :=
  let s := { baseState with cores := [(0, { vbnd := [(0, 65536)] })], launches := l, device := { State.reset.device with lock := true } }
  { s with ctxs := [(0, { ctxOf s 0 with ctxcfg := 1, queues := [(0, { records := [(0, r, 0)], next := 1 })] })] }

/-- A record whose first check fails: all bits set. -/
def badRecord : BitVec 1024 := BitVec.allOnes 1024

/-- LaunchesAndTeams: a launch port write, a full queue, heads that pass no check; a launch with a cluster to place; a saved team; a draining team; a core that its polder lends. -/
theorem met_LaunchesAndTeams :
    let s := launching badRecord
    let l : Launch := { ctx := 0, queue := 0, seq := 0, record := badRecord, accepted := 0 }
    let full : LaunchQueue := { records := (List.range 64).map (fun n => (n, 0, n)) }
    let drain : State := { withGroup id (fun t => { t with st := .draining }) with cur := none }
    let gone (x : Polder) : State := { State.reset with cores := [(0, { idled := true })], polders := [(0, x)] }
    let lend (x : Polder) : State := lookedAt (gone x) 0
    (s.device.lock = true ∧ queueFull (queueOf (ctxOf s 0) 0) = false ∧ queueFull full = true ∧ (0x380 : BitVec 20).toNat % 128 = 0 ∧ (0x381 : BitVec 20).toNat % 128 ≠ 0) ∧
    (headOf s 0 0 = some (0, badRecord, 0) ∧ dispatches s 0 = true ∧ launchOf s 0 0 0 = none ∧ headStatus s 0 0 0 badRecord = some 1) ∧
    (headCand State.reset 0 0 = none ∧ vacatedCands State.reset = []) ∧
    ((launchOf (launching 0 [(0, { l with record := 0 })]) 0 0 0).isSome = true ∧ (headCand (launching 0 [(0, { l with record := 0 })]) 0 0).isSome = true ∧
      vacatedCands (launching 0 [(0, { l with record := 0 })]) = []) ∧
    (teamOf (coreOf drain 0) 0 = some { probeTeam 0 0 with st := .draining } ∧ stillHanded drain 0 = false ∧ teamOf (coreOf spot 0) 0 = some (probeTeam 0 0) ∧
      (probeTeam 0 0).st ≠ .draining) ∧
    ((coreOf State.reset 0).idled = false ∧ (coreOf (gone { cores := 1 }) 0).idled = true ∧ ownerOf (lend { cores := 1, psvc := 0x100_0000 }) 0 = some 0 ∧
      (coreOf (lend { cores := 1 }) 0).teams = [] ∧ lends (polderOf (lend { cores := 1, psvc := 0x100_0000 }) 0) = true ∧
      minCores (polderOf (lend { cores := 1, psvc := 0x100_0000 }) 0) < heldCores (polderOf (lend { cores := 1, psvc := 0x100_0000 }) 0) ∧ lends (polderOf (lend { cores := 1 }) 0) = false ∧
      heldCores (polderOf (lend { cores := 1, psvc := 0x100_0001 }) 0) ≤ minCores (polderOf (lend { cores := 1, psvc := 0x100_0001 }) 0)) := by
  refine ⟨?_, ?_, ?_, ?_, ?_, ?_⟩ <;> decide +kernel

/-- BootAndPower: a die at each stage; an attestation in progress; a fence of a subarray asked for. (Whether an image is good rests on constants of which the
spec gives no value, so no witness can say it of one.) -/
theorem met_BootAndPower : let at_ (d : Nat) (w : Word) (s : State) : State := setDie s d { dieOf s d with bstat := w }
    let s := State.reset
    (stageOf s 3 = 0 ∧ stageOf (at_ 0 1 s) 0 = 1 ∧ stageOf (at_ 0 2 s) 0 = 2 ∧ stageOf (at_ 0 3 s) 0 = 3 ∧ stageOf (at_ 3 3 (at_ 0 4 s)) 0 = 4 ∧ stageOf (at_ 3 3 s) 0 ≠ 4 ∧
      stageOf (at_ 3 3 s) 3 = 3) ∧
    ((dieOf (setDie s 0 { attBusy := true }) 0).attBusy = true ∧ (dieOf (setDie s 0 { attBusy := true }) 0).attSpoiled = false ∧
      (dieOf (noteReport (setDie s 0 { attBusy := true }) 0x0200_0000_0000 8 1) 0).attSpoiled = true ∧
      (dieOf (noteReport (setDie s 0 { attBusy := true }) 0x0200_0000_0000 8 0) 0).attSpoiled = false ∧ (dieOf s 0).attBusy = false) ∧
    ((coreOf s 0).fenceReq = none ∧ (coreOf { s with cores := [(0, { fenceReq := some 3 })] } 0).fenceReq = some 3 ∧ (coreOf s 0).vacates = [] ∧
      (∀ y ∈ ctxsOn (coreOf spot 0), vestDoubled spot 0 y ≤ vbnd spot 0 y) ∧
      (∃ y, y ∈ ctxsOn (coreOf spot 0) ∧ ¬ vestDoubled { spot with cores := put spot.cores 0 { coreOf spot 0 with vbnd := [] } } 0 y ≤
        vbnd { spot with cores := put spot.cores 0 { coreOf spot 0 with vbnd := [] } } 0 y)) ∧
    (isHbm 0 = true ∧ isHostWindow 0x200_0000_0000 = true ∧ isHbm 0x3FF_FFFF_FFFF = false ∧ isHostWindow 0x3FF_FFFF_FFFF = false) := by
  refine ⟨?_, ?_, ⟨?_, ?_, ?_, ?_, 0, ?_, ?_⟩, ?_⟩ <;> decide +kernel

/-- TableWalks: a TLB entry that covers and serves; none; the forms; the bits of an entry; a stage-2 walk that ends in memory, with its rights and without. -/
theorem met_TableWalks :
    let s := tables 0x07
    let l (s : State) : Bool := match walkFrom (fun s pa _ => (s, .inl pa)) causeXlate2 true 0 5 0 s (fieldOf 0x1001 12 40 * 4096) with
      | (_, .inl l) => rangePopulated (peAddr l.e) (2 ^ leafBits l.lvl) && !peRdup l.e | _ => false
    ((tlbOf mem 0).find? (fun t => t.covers 0 0x8000_0000_0000_0000 && t.serves accRead && !rangeQuarantined mem t.pa (2 ^ sizeBits t.size))).isSome = true ∧
    ((tlbOf mem 0).find? (fun t => t.covers 0 0xC000_0000_0000_0000 && t.serves accRead && !rangeQuarantined mem t.pa (2 ^ sizeBits t.size)) = none ∧ isUpper 0x8F00_0000_0000_0000 = true ∧ isUpper 0x9000_0000_0000_0000 = false ∧
      isLower 0x9000_0000_0000_0000 = false ∧ bitAt (ctxOf State.reset 0).cs1root.toNat 0 = false) ∧
    (peV 0 = false ∧ peV 1 = true ∧ malformed 1 4 true = true ∧ malformed 3 1 true = true ∧ malformed 1 3 true = false ∧ malformed 0x1007 4 true = false ∧ malformed 0x2003 3 true = true ∧
      peLeaf 1 = false ∧ peLeaf 0x1007 = true ∧ peC16 0x1007 = false) ∧
    (2 ^ 52 ≤ 2 ^ 52 ∧ 2 ^ 52 - 1 < 2 ^ 52 ∧ bitAt (polderOf State.reset 0).ps2root.toNat 0 = false ∧ bitAt (polderOf s 0).ps2root.toNat 0 = true) ∧
    (l s = true ∧ accRead.writes = false ∧ accWrite.writes = true ∧ peW 0x1_0007 = true ∧ peW 0x1_0003 = false ∧ peX 0x1_0007 = false ∧ peD 0x1_0027 = true ∧ peMig 0x1_0027 = false ∧
      rangeQuarantined s 0x1_0000 4096 = false ∧ rangeQuarantined { s with quar := [(16, true)] } 0x1_0FFF 1 = true ∧ rangePopulated 0x1_0000 4096 = true ∧ rangePopulated 0x200_0000_0000 (2 ^ 30) = false) := by
  refine ⟨?_, ?_, ?_, ?_, ?_⟩ <;> decide +kernel

/-- AccessChecks: an address of each form and alignment; scratch at its end and past it; windows; the checks of a place in memory, one by one; a walk's fault. -/
theorem met_AccessChecks :
    let q : Need := { acc := accRead, n := 8 }
    let i := who mem
    let up : Word := 0x8000_0000_0000_0000
    let w (g : Group) : Group := { g with sclwin := 1, window := some { eb := up, sb := up, elen := 4096 } }
    let tagged (n : Nat) : State := { mem with ctxs := [(0, { ctxcfg := BitVec.ofNat 64 (1 + 4 * n) })], poison := [(0, true)] }
    ((up + 1).toNat % q.n ≠ 0 ∧ up.toNat % q.n = 0 ∧ isUpper up = true ∧ isFabricVa 0xC000_0000_0000_0000 = true ∧ ({ q with fabricOk := false } : Need).fabricOk = false ∧ isLower 8 = true ∧
      ({ q with lowerOk := false } : Need).lowerOk = false ∧ isUpper 0x4000_0000_0000_0000 = false) ∧
    ((scratchPlace (coreOf mem 0) 0 i.tm 32760).isSome = true ∧ scratchPlace (coreOf mem 0) 0 i.tm 32768 = none ∧ scratchPlace (coreOf mem 0) 0 i.tm 65536 = none) ∧
    (firstFault mem i q up = none ∧ windowOf i.g false = none ∧ ((windowOf (w i.g) false).any (fun x => windowCovers x up && !windowCovers x (up + 4096))) = true) ∧
    (isHostWindow 0x200_0000_0000 = true ∧ memGrants mem 0 0x200_0000_0000 q.right = true ∧ memGrants State.reset 0 0x200_0000_0000 q.right = false ∧ isHostWindow 0 = false ∧
      memGrants mem 0 0 q.right = true ∧ memGrants State.reset 0 0 q.right = false) ∧
    ((ctxOf (tagged 2) 0).tagmode = 2 ∧ (ctxOf (tagged 1) 0).tagmode = 1 ∧ tagSeen (tagged 2) 0 0 q (up + 2 ^ 56) 0 ≠ vaTag (up + 2 ^ 56) ∧ tagSeen (tagged 2) 0 0 q up 0 = vaTag up ∧
      poisonSeen (tagged 0) 0 0 q up 0 = true ∧ poisonSeen mem 0 0 q up 0 = false) ∧
    (servedBy (coreOf mem 0) 0 q up = none ∧ [((pageOfVa up), ({ cause := causeXlate } : XFault))].find? (fun w => w.1 == pageOfVa up) = some (pageOfVa up, { cause := causeXlate })) := by
  refine ⟨?_, ?_, ?_, ?_, ?_, ?_⟩ <;> decide +kernel

/-- EventsComplete, and what else the statements of events ask: intervals that are due, pages that wait and frames that fit, ports and packets, tokens at the port. -/
theorem met_EventsComplete :
    let s := node
    let rich (k : OpKind) : State := onCore { withSet openMerge [k] with device := (withSet openMerge).device } 0 (fun c => { c with tok := 1 })
    let es : List (Mask × Word × Nat × BitVec 32) := [(1, 0x8000_0000_0000_0000, 0, 1)]
    let st : OpKind := .stage set0 1 1 es []
    let port (x : Port) : State := { s with fabric := { s.fabric with ports := [(15, x)], cyc := 1024 } }
    let one : Packet := { kind := kAtomreq, cls := 2, src := 1, dst := 2, len := 1, tyField := 4, off := 64, payload := [1] }
    let held : State := onCore { tables 0x47 with migrating := [(pageKey 0 0, 1, false, [])] } 0 (fun c => { c with groups := [(0, { probeGroup 0 with entries := [{ entry with st := .parkedFault, hold := .page 0 }] })] })
    (Granted s (ctl 0x10_00D0 5) (.ctx 0 0xD0) ∧ fieldOf 0x8000_0000_0000_0000 61 3 = 4 ∧ fieldOf 0x4000_0000_0000_0000 61 3 = 2 ∧ fieldOf 0x2000_0000_0000_0000 61 3 = 1) ∧
    ((coreOf (withOps [] .none (fun c => { c with ccyc := 1024 })) 0).refillAt.toNat + 1024 ≤ (coreOf (withOps [] .none (fun c => { c with ccyc := 1024 })) 0).ccyc.toNat ∧
      (dieOf (onDie s 0 (fun d => { d with cyc := 1024 })) 0).flowAt.toNat + 1024 ≤ (dieOf (onDie s 0 (fun d => { d with cyc := 1024 })) 0).cyc.toNat ∧ rateDue (port {}) 15 = true ∧ rateDue s 15 = false) ∧
    (mustFollow (coreOf (rich st) 0) 1 (anOp st) = false ∧ portOpen (rich st) 0 0 (.op 1) = true ∧ nextLine es ≠ [] ∧ (anOp st).tagmode = 0 ∧ portOpen (withSet openMerge [st]) 0 0 (.op 1) = false ∧
      signalFree (withSet openMerge) 0 openMerge = true ∧ signalFree (onDie (withSet openMerge) 0 (fun d => { d with awaiting := [2 ^ 31] })) 0 { openMerge with signal := 2 ^ 39 } = false) ∧
    (pageWaits held 0 0 = true ∧ pageWaits (tables 0x47) 0 0 = false ∧ framesFit (tables 0x47) 1 false [0x2_0000_0000] = true ∧ look held.migrating (pageKey 0 0) = some (1, false, [])) ∧
    ((∀ q ∈ (portOf (port { queue := [wr] }) 15).queue, combines q one = false) ∧ rdreq.cls.toNat < 2 ∧ trims s {} rdreq = false ∧ marks s {} rdreq = false ∧
      look s.fabric.paced 7 = none ∧ badFrame s { one with reservedSet := true } = true) := by
  unfold Granted
  refine ⟨?_, ?_, ?_, ?_, ?_⟩ <;> decide +kernel

/-! ### Single steps, with values worked out by hand from the rules -/

/-- The group after an instruction on a machine whose v2, v3 and v4 hold a value in every lane. -/
def after (i : Instr) (a b : Word) (c : Word := 0) (h : Group → Group := id) : Group :=
  match exec i (withGroup (fun g => h { g with v := [(2, .uni a), (3, .uni b), (4, .uni c)] })) with
  | .next t => (groupAt (coreOf t 0) 0).getD (probeGroup 9)
  | _ => probeGroup 9

def out (i : Instr) (a b : Word) (c : Word := 0) : Word := vLane (after i a b c) 1 0

/-- R287: both halves wrap by themselves; R287 with `.sat`: both clamp. -/
theorem test_iadd : out (.iadd form) 0x7FFFFFFF_FFFFFFFF 0x00000001_00000001 = 0x80000000_00000000 ∧
    out (.iadd { form with md := 1 }) 0x7FFFFFFF_FFFFFFFF 0x00000001_00000001 = 0x7FFFFFFF_00000000 ∧
    out (.isub { form with ty := .n8, md := 1 }) 0x00_05 0x01_03 = 0x00_02 := by decide +kernel

/-- R287: the high half of an exact product, signed and unsigned. -/
theorem test_imulh : out (.imulh { form with ty := .i64 }) (BitVec.allOnes 64) 2 = BitVec.allOnes 64 ∧ out (.imulh { form with ty := .n64 }) (BitVec.allOnes 64) 2 = 1 := by
  decide +kernel

/-- R288: a carry out of bit 63. -/
theorem test_iaddc : let g := after (.iaddc { form with ty := .n64, c := .p 1 }) (BitVec.allOnes 64) 0 0 (fun g => { g with p := [(1, 1)] })
    vLane g 1 0 = 0 ∧ vLane g 1 1 = BitVec.allOnes 64 ∧ pReg g 1 = 1 := by decide +kernel

/-- R293: counts of the width and more; a rotation by its remainder; a funnel shift. -/
theorem test_shift : out (.shl { form with ty := .b32 }) 0x00000001_00000001 0x0000001F_00000020 = 0x80000000_00000000 ∧
    out (.sar form) 0x80000000_40000000 0x00000040_0000001E = 0xFFFFFFFF_00000001 ∧ out (.rot { form with ty := .b32 }) 0x80000001 33 = 0x00000003 ∧
    out (.fshf { form with ty := .n32, c := .v 4 }) 1 0x80000000 31 = 3 := by decide +kernel

/-- R294: the lookup of c, b, a: the majority, 0xE8. R281: PLOP of p0 and not p1. -/
theorem test_lut : out (.blut { form with ty := .b64, c := .v 4, ext := .sm 0xE8 0 0 }) 0b0011 0b0101 0b1001 = 0b0001 ∧
    pReg (after (.plop { none' with d := .p 2, a := .p 0, b := .p 1, c := .k .zero, ext := .sm 0b00000010 0 0 }) 0 0 0 (fun g => { g with p := [(0, 0b1100), (1, 0b1010)] })) 2 = 0b0100 := by
  decide +kernel

/-- R295, R296: counts at 0, a signed field, a field that reaches past the top. -/
theorem test_bits : out (.clz { form with ty := .n32 }) 0x00000000_00010000 0 = 0x00000020_0000000F ∧ out (.brev { form with ty := .n8 }) 0x01 0 = 0x80 ∧
    out (.bfx { form with ty := .i32 }) 0x000000F0 0x0404 = 0xFFFFFFFF ∧ out (.bfi { form with ty := .b32, c := .v 4 }) 0 0xFF 0x081C = 0xF0000000 := by decide +kernel

/-- R297, R298, R300, R301. -/
theorem test_widths : out (.idot { form with ty := .i8, c := .v 4 }) 0x01FF0203 0x01010101 10 = 15 ∧ out (.lea { form with ty := .i64, md := 3 }) 0x81FF_FFFF_FFFF_FFF8 1 = 0x8100_0000_0000_0000 ∧
    out (.tags { form with ty := .b64 }) 0x8100_0000_0000_0001 0x1F = 0x8F00_0000_0000_0001 ∧ out (.unpk { form with ty := .i16, md := 1 }) 0x8000_7FFF_0000_0000 0 = 0xFFFF8000_00007FFF := by
  decide +kernel

/-- R299, R312, R238: a saturating conversion sets ASTAT.SAT of its lanes. -/
theorem test_saturation : (after (.f2i { form with ty := .i32, a := .v 2, b := .none, md := 0b0010000 }) 0x7F800000_40200000 0).astat = 0xFFFFFFFF_00000000 ∧
    out (.f2i { form with ty := .i32, b := .none, md := 0b0010000 }) 0x7F800000_40200000 0 = 0x7FFFFFFF_00000002 := by decide +kernel

/-- R305, R235 to R237: 1 + 2^-24 to even, a fused product, −0 and +0, a NaN. -/
theorem test_float : out (.fadd { form with ty := .f32 }) 0x3F800000_3F800001 0x33800000_33800000 = 0x3F800000_3F800002 ∧
    out (.ffma { form with ty := .f64, c := .v 4 }) 0x3FF0000000000001 0x3FF0000000000001 0xBFF0000000000002 = 0x3970000000000000 ∧
    out (.fmin { form with ty := .f32 }) 0x80000000 0 = 0x80000000 ∧ out (.fsub { form with ty := .f16 }) 0x7C00 0x7C00 % 2 ^ 16 = 0x7E00 := by decide +kernel

/-- R306: an unordered comparison. R307: the class of a zero. -/
theorem test_float_predicates : pReg (after (.fsetp { form with ty := .f64, d := .p 1, md := 0 }) 0x7FF8000000000000 0x7FF8000000000000) 1 = 0 ∧
    pReg (after (.icmp { form with ty := .i64, d := .p 1, md := 2 }) (BitVec.allOnes 64) 0) 1 = BitVec.allOnes 32 := by decide +kernel

/-- R311: FP32 to FP16, rounding to even at the halfway point; R312: an integer to FP32. -/
theorem test_convert : out (.cvtf { form with ty := .f16, b := .none, md := 0b0010000 }) 0x3F801000 0 % 2 ^ 16 = 0x3C00 ∧
    out (.i2f { form with ty := .f32, b := .none, md := 0b0101000 }) 0x01000001 0 % 2 ^ 32 = 0x4B800000 := by decide +kernel

/-- The group after an instruction whose v2 holds the number of its lane, and v3 a value. -/
def afterLanes (i : Instr) (b : Word) : Group :=
  match exec i (withGroup (fun g => { g with v := [(2, .full ((List.range 32).map (BitVec.ofNat 64 ·))), (3, .uni b)] })) with
  | .next t => (groupAt (coreOf t 0) 0).getD (probeGroup 9)
  | _ => probeGroup 9

/-- R317, R319: an exchange by xor, one from below with a fill, a broadcast. R263: a source modifier that reverses segments of 8. -/
theorem test_lanes : vLane (afterLanes (.lxch { form with ty := .b64, md := 0b0010111 }) 1) 1 6 = 7 ∧ vLane (afterLanes (.lxch { form with ty := .b64, c := .k .ones, md := 0b0010101 }) 2) 1 1 = BitVec.allOnes 64 ∧
    vLane (afterLanes (.lbc { form with ty := .b64 }) 31) 1 0 = 31 ∧ vLane (afterLanes (.orBits { form with ty := .b64, ext := .sm 0 0 0b100_011_00000_0 }) 0) 1 9 = 14 := by
  decide +kernel

/-- R320, R321, R322: a sum, an exclusive scan, the lanes that match. -/
theorem test_reductions : vLane (afterLanes (.redc { form with ty := .n64, b := .none }) 0) 1 5 = 496 ∧ vLane (afterLanes (.scan { form with ty := .n64, b := .none, md := 0b1010000 }) 0) 1 31 = 496 ∧
    vLane (afterLanes (.scan { form with ty := .n64, b := .none, md := 0b1011000 }) 0) 1 31 = 465 ∧ vLane (afterLanes (.matchLanes { form with ty := .b64, b := .none }) 0) 1 4 = 16 := by
  decide +kernel

/-- R273: BRA of lanes 0 and 1 by 0xD0, the others going on to the header at the next multiple of 8. -/
theorem test_branch : (match exec (.bra { none' with ty := .i64, guard := 0, ext := .lit 0xD0 }) (withGroup (fun g => { g with p := [(0, 3)] })) with
    | .next t => ((groupAt (coreOf t 0) 0).map (fun g => g.entries.map (fun e => (e.mask, e.pc, e.left)))).getD []
    | _ => []) = [(3, probeAddr + 0xD0, 0), (0xFFFF_FFFC, probeAddr + 8, 0)] := by decide +kernel

/-- R258, R259: both halves read before either writes: v2 := v2 + v3, v3 := v2. -/
theorem test_pair : let h (vd vs : BitVec 7) : PHalf := { gneg := false, guard := 7, lus := false, vs := vs, vd := vd }
    let g := after (.iaddI64P (h 2 3) .movB64 (h 3 2)) 5 7
    vLane g 2 0 = 12 ∧ vLane g 3 0 = 5 := by decide +kernel

/-- R249, R250: the word of IADD.i32 v1, v2, v3 after reset issues; its clause ends, and the entry stands past the pad parcel
(R260), where a header is expected. -/
theorem test_step : (match step (State.reset.withFetchWord 32 0b0_0_0_0000011_0000010_0000001_000000_00) with
    | .next t => ((groupAt (coreOf t 0) 0).map (fun g => (g.begun, g.entries.map (fun e => (e.pc, e.left))))).getD (false, [])
    | _ => (false, [])) = (true, [(probeAddr + 8, 0)]) := by decide +kernel

/-- R84: the first byte of die 1, the last of die 0, the end of a die's HBM. -/
theorem test_places : homeDie 0x80_0000_0000 = 1 ∧ homeDie 0x7F_FFFF_FFFF = 0 ∧ isHbm 0x4E_FFFF_FFFF = true ∧ isHbm 0x4F_0000_0000 = false := by decide +kernel

/-- R61: a write and a read of KMARGIN; a core's clock off the grid is refused, and DERR holds its offset. -/
theorem test_window : (match exec (.registerWrite (ctl 0x20_0000 501)) State.reset with | .next t => (t.device.derrV, t.device.derrOff) | _ => (false, 0)) = (true, 0x20_0000) ∧
    (match exec (.registerWrite (ctl 0x20_0000 525)) State.reset with | .next t => (coreOf t 0).mhz | _ => 0) = 525 := by decide +kernel


end Sys2Proof.Tests
end

section
/-! PROOF. Package reset, the rails and the heat, the boot of a base die, its attestation, the fence of a subarray and the bytes of a control
core: what each event does (R90, R192, R405, R412 to R420), and what package reset leaves (R415). -/

namespace Sys2Proof.Machine

/-! ### A die changed -/

@[simp] theorem dieOf_onDie_self (s : State) (d : Nat) (f : Die → Die) : dieOf (onDie s d f) d = f (dieOf s d) := lookD_put_self _ _ _ _
@[simp] theorem onDie_cores (s : State) (d : Nat) (f : Die → Die) : (onDie s d f).cores = s.cores := rfl
@[simp] theorem onDie_device (s : State) (d : Nat) (f : Die → Die) : (onDie s d f).device = s.device := rfl

/-! ### Package reset (R415) -/

@[simp] theorem coreOf_reset (k : Nat) : coreOf State.reset k = {} := rfl
@[simp] theorem ctxOf_reset (c : Nat) : ctxOf State.reset c = {} := rfl
@[simp] theorem polderOf_reset (p : Nat) : polderOf State.reset p = {} := rfl
@[simp] theorem dieOf_reset (d : Nat) : dieOf State.reset d = {} := rfl

/-- R72: a bank of a core that nothing has written. -/
theorem bankOf_untouched (b : Nat) : bankOf {} b = resetBank b := rfl

theorem resetBank_mode_of_lt {b : Nat} (h : b < 20) : (resetBank b).mode = .cache := by simp [resetBank, h]

theorem resetBank_mode_of_ge {b : Nat} (h : 20 ≤ b) : (resetBank b).mode = .scratch := by simp [resetBank, Nat.not_lt.mpr h]

/-- A reset bank is nobody's, whichever half it stands in. -/
theorem resetBank_free (b : Nat) : (resetBank b).owner = 63 ∧ (resetBank b).slot = 0 ∧ (resetBank b).lent = false := by
  unfold resetBank
  split <;> exact ⟨rfl, rfl, rfl⟩

/-- R180: only masters 64 and 65 have rights before a table is written. -/
theorem tatByte_reset (kind m : Nat) : tatByte State.reset kind m = if m = 64 ∨ m = 65 then 0x0F else 0 := by
  simp [tatByte, State.reset, lookD, look]

theorem frontiersNormal_reset : FrontiersNormal State.reset := fun _ h => nomatch h

/-! ### Power (R414) -/

/-- PPOWER as a sample leaves it. -/
def sampled (s : State) (tmax : BitVec 16) (watts : BitVec 13) : State :=
  onDevice s (fun x => { x with ppower := BitVec.ofNat 64 (tmax.toNat * 2 ^ 48 + watts.toNat) })

section Power

variable {tmax : BitVec 16} (watts : BitVec 13) (s : State)

theorem exec_powerSample_cool (h : tmax.toNat < 105) : exec (.powerSample tmax watts) s = .next (sampled s tmax watts) := by
  have h115 : ¬ 115 ≤ tmax.toNat := by omega
  have h105 : ¬ 105 ≤ tmax.toNat := by omega
  simp only [exec_powerSample, execPowerSample, h115, h105, if_false]
  rfl

theorem exec_powerSample_hot (h : 105 ≤ tmax.toNat) (h' : tmax.toNat < 115) : exec (.powerSample tmax watts) s =
    .next { sampled s tmax watts with
      throttle := s.throttle ||| BitVec.ofNat 4 (2 ^ ((Config.freeValue s.fresh).toNat % 4)), fresh := s.fresh + 1 } := by
  unfold sampled
  rw [exec_powerSample, execPowerSample]
  dsimp only
  rw [if_neg (Nat.not_le.mpr h'), if_pos h, onDevice_throttle, onDevice_fresh]

theorem exec_powerSample_trip (h : 115 ≤ tmax.toNat) :
    exec (.powerSample tmax watts) s = .next { sampled s tmax watts with resetAsserted := true } := by
  simp only [exec_powerSample, execPowerSample, h, if_true]
  rfl

end Power

/-! ### Boot (R416 to R418) -/

section Boot

variable {s : State} {d : BitVec 2} (b : BootPlan)

theorem exec_boot_firmware_bad (h : stageOf s d.toNat = 0) {e : Nat} (he : imageError b.firmware = some e) :
    exec (.boot d b) s = .next (setStage (extendMeas s d.toNat 0 Config.romBytes) d.toNat 0xF e) := by
  simp only [exec_boot, execBoot, h, he, if_true]

theorem exec_boot_firmware_good (h : stageOf s d.toNat = 0) (hi : imageError b.firmware = none) :
    exec (.boot d b) s =
      .next (setStage (extendMeas (extendMeas s d.toNat 0 Config.romBytes) d.toNat 1 b.firmware.body) d.toNat 1 0) := by
  simp only [exec_boot, execBoot, h, hi, if_true]

theorem exec_boot_microcode_absent (h : stageOf s d.toNat = 1) (hm : b.microcode = none) :
    exec (.boot d b) s = .next (setStage s d.toNat 2 0) := by
  simp [exec_boot, execBoot, h, hm]

theorem exec_boot_microcode_good (h : stageOf s d.toNat = 1) {i : SignedImage} {xs : BitVec 8} (hm : b.microcode = some (i, xs))
    (hi : imageError i = none) :
    exec (.boot d b) s =
      .next (setStage (onDevice (extendMeas s d.toNat 2 i.body) (fun y => loadExtension y xs)) d.toNat 2 0) := by
  simp [exec_boot, execBoot, h, hm, hi]

theorem exec_boot_microcode_bad (h : stageOf s d.toNat = 1) {i : SignedImage} {xs : BitVec 8} {e : Nat}
    (hm : b.microcode = some (i, xs)) (he : imageError i = some e) : exec (.boot d b) s = .next (setStage s d.toNat 0xF e) := by
  simp [exec_boot, execBoot, h, hm, he]

theorem exec_boot_hbm_bad (h : stageOf s d.toNat = 2) {e : BitVec 8} (he : b.hbm = some e) :
    exec (.boot d b) s = .next (setStage s d.toNat 0xF e.toNat) := by
  simp [exec_boot, execBoot, h, he]

theorem exec_boot_hbm_good (h : stageOf s d.toNat = 2) (hb : b.hbm = none) :
    exec (.boot d b) s = .next (setStage (trainDie s d.toNat b) d.toNat 3 0) := by
  simp [exec_boot, execBoot, h, hb]

/-- The last stage of die 0, which writes DSPILL once (R416). -/
theorem exec_boot_last_first (h : stageOf s d.toNat = 3) (hd : d.toNat = 0) :
    let w := if s.device.spilled then s else (writeDevice s 64 0x018 b.spillMib).getD (refuseWrite s 0x018)
    exec (.boot d b) s = .next (setStage (extendMeas w d.toNat 3 (measuredBytes w)) d.toNat 4 0) := by
  rw [hd] at h
  simp [exec_boot, execBoot, hd, h]

/-- The other dies follow die 0. -/
theorem exec_boot_last_follows (h : stageOf s d.toNat = 3) (hd : d.toNat ≠ 0) (h0 : stageOf s 0 = 4) :
    exec (.boot d b) s = .next (setStage (extendMeas s d.toNat 3 (measuredBytes s)) d.toNat 4 0) := by
  simp [exec_boot, execBoot, h, hd, h0]

theorem exec_boot_last_waits (h : stageOf s d.toNat = 3) (hd : d.toNat ≠ 0) (h0 : stageOf s 0 ≠ 4) : exec (.boot d b) s = .next s := by
  simp [exec_boot, execBoot, h, hd, h0]

end Boot

/-- R417: an image is accepted when its key, its security version and its signature are. -/
theorem imageError_eq_none_iff (i : SignedImage) : imageError i = none ↔ shake256 i.key 32 = Config.rootKeyHash ∧
    Config.minSecurityVersion.toNat ≤ i.secver.toNat ∧ Config.ed448Verify i.key (shake256 i.body 64) i.sig = true := by
  unfold imageError
  by_cases hkey : shake256 i.key 32 = Config.rootKeyHash
  · by_cases hver : i.secver.toNat < Config.minSecurityVersion.toNat
    · simp [hkey, hver, Nat.not_le.mpr hver]
    · simp [hkey, hver, Nat.not_lt.mp hver]
  · simp [hkey]

/-! ### The version that a microcode image leaves (R1) -/

/-- MINOR of a device once an extension set that defines opcodes is loaded. -/
def raisedMinor (y : Device) (xs : BitVec 8) : Nat := max (bitsAt y.version.toNat 16 8) (1 + Config.extensionMinor xs % 255)

theorem loadExtension_eq (y : Device) (xs : BitVec 8) : loadExtension y xs = { y with
    xset := xs
    version := if xs = 0 then y.version else
      BitVec.ofNat 32 (2 ^ 24 * bitsAt y.version.toNat 24 8 + 2 ^ 16 * raisedMinor y xs + bitsAt y.version.toNat 0 16) } := rfl

theorem loadExtension_zero_version (y : Device) : (loadExtension y 0).version = y.version := by simp [loadExtension_eq]

theorem raisedMinor_lt (y : Device) (xs : BitVec 8) : raisedMinor y xs < 2 ^ 8 := by
  have hold : bitsAt y.version.toNat 16 8 < 2 ^ 8 := Nat.mod_lt _ (by decide)
  have hnew : Config.extensionMinor xs % 255 < 255 := Nat.mod_lt _ (by decide)
  unfold raisedMinor
  omega

/-- The three fields of the version after an extension set is loaded that defines opcodes, from the low bits up. -/
def versionFields (y : Device) (xs : BitVec 8) : List (Nat × Nat) :=
  [(16, bitsAt y.version.toNat 0 16), (8, raisedMinor y xs), (8, bitsAt y.version.toNat 24 8)]

theorem versionFields_fits (y : Device) (xs : BitVec 8) : Fits (versionFields y xs) := by
  have hpatch : bitsAt y.version.toNat 0 16 < 2 ^ 16 := Nat.mod_lt _ (by decide)
  have hmajor : bitsAt y.version.toNat 24 8 < 2 ^ 8 := Nat.mod_lt _ (by decide)
  simp only [Fits, versionFields, List.forall_mem_cons]
  exact ⟨hpatch, raisedMinor_lt y xs, hmajor, fun _ h => nomatch h⟩

theorem loadExtension_version_packed {xs : BitVec 8} (y : Device) (h : xs ≠ 0) :
    (loadExtension y xs).version.toNat = packed (versionFields y xs) := by
  have hlt : packed (versionFields y xs) < 2 ^ 32 := packed_lt (versionFields_fits y xs)
  have heq : 2 ^ 24 * bitsAt y.version.toNat 24 8 + 2 ^ 16 * raisedMinor y xs + bitsAt y.version.toNat 0 16 = packed (versionFields y xs) := by
    simp only [packed, versionFields]
    omega
  rw [loadExtension_eq]
  simp only [h, if_false, BitVec.toNat_ofNat, heq, Nat.mod_eq_of_lt hlt]

/-- R1: MAJOR and PATCH stay; MINOR becomes the raised one. -/
theorem loadExtension_version_fields {xs : BitVec 8} (y : Device) (h : xs ≠ 0) : let v := (loadExtension y xs).version.toNat
    bitsAt v 24 8 = bitsAt y.version.toNat 24 8 ∧ bitsAt v 16 8 = raisedMinor y xs ∧ bitsAt v 0 16 = bitsAt y.version.toNat 0 16 := by
  have hv := loadExtension_version_packed y h
  have hf := versionFields_fits y xs
  exact ⟨bits_of_packed hv hf [(16, _), (8, _)] [] rfl rfl, bits_of_packed hv hf [(16, _)] [(8, _)] rfl rfl,
    bits_of_packed hv hf [] [(8, _), (8, _)] rfl rfl⟩

theorem loadExtension_law (y : Device) (xs : BitVec 8) : let z := loadExtension y xs
    z = { y with xset := xs, version := z.version } ∧ (xs = 0 → z.version = y.version) ∧
    bitsAt z.version.toNat 24 8 = bitsAt y.version.toNat 24 8 ∧ bitsAt y.version.toNat 16 8 ≤ bitsAt z.version.toNat 16 8 ∧
    bitsAt z.version.toNat 0 16 = bitsAt y.version.toNat 0 16 ∧ (xs ≠ 0 → 1 ≤ bitsAt z.version.toNat 16 8) := by
  by_cases h : xs = 0
  · subst h
    simp [loadExtension_eq]
  · obtain ⟨hmajor, hminor, hpatch⟩ := loadExtension_version_fields y h
    have hold : bitsAt y.version.toNat 16 8 ≤ raisedMinor y xs := Nat.le_max_left _ _
    have hone : 1 ≤ raisedMinor y xs := Nat.le_trans (Nat.le_add_right 1 _) (Nat.le_max_right _ _)
    exact ⟨rfl, fun h0 => absurd h0 h, hmajor, by rw [hminor]; exact hold, hpatch, fun _ => by rw [hminor]; exact hone⟩

/-! ### Attestation (R420) -/

/-- A report changes memory alone. -/
theorem writeReport_memory_only (s : State) (d off : Nat) (bs : List Byte) : ∃ m, writeReport s d off bs = { s with mem := m } := by
  unfold writeReport
  generalize bs.zip (List.range bs.length) = l
  induction l generalizing s with
  | nil => exact ⟨s.mem, rfl⟩
  | cons e r ih =>
    rw [List.foldl_cons]
    split
    · obtain ⟨m, hm⟩ := ih (homeWrite s (0x0200_0000_0000 + d * 0x10_0000 + off + e.2) 1 e.1.toNat)
      exact ⟨m, hm⟩
    · exact ih s

@[simp] theorem writeReport_cores (s : State) (d off : Nat) (bs : List Byte) : (writeReport s d off bs).cores = s.cores := by
  obtain ⟨m, hm⟩ := writeReport_memory_only s d off bs
  rw [hm]

@[simp] theorem writeReport_device (s : State) (d off : Nat) (bs : List Byte) : (writeReport s d off bs).device = s.device := by
  obtain ⟨m, hm⟩ := writeReport_memory_only s d off bs
  rw [hm]

/-- BUSY falls and DONE rises. -/
def attested (y : Die) : Die := { y with attBusy := false, attDone := true, attSpoiled := false }

/-- The state with the report of a die written, as what became of its place since GO has it. -/
def reported (s : State) (d : Nat) : State :=
  let x := dieOf s d
  let body := reportBody s d
  if x.attSpoiled then { writeReport s d (x.attGoOff.toNat * 64) (freeReport s.fresh) with fresh := s.fresh + 66 }
  else writeReport s d (x.attGoOff.toNat * 64) (body ++ padBytes 114 (Config.ed448Sign body) ++ padBytes 14 [])

section Report

variable {s : State} {d : Nat}

theorem reported_unspoiled (h : (dieOf s d).attSpoiled = false) : reported s d = writeReport s d ((dieOf s d).attGoOff.toNat * 64)
    (reportBody s d ++ padBytes 114 (Config.ed448Sign (reportBody s d)) ++ padBytes 14 []) := by
  simp [reported, h]

theorem reported_spoiled (h : (dieOf s d).attSpoiled = true) : reported s d =
    { writeReport s d ((dieOf s d).attGoOff.toNat * 64) (freeReport s.fresh) with fresh := s.fresh + 66 } := by
  simp [reported, h]

theorem reported_keeps : (reported s d).cores = s.cores ∧ (reported s d).device = s.device := by
  cases hs : (dieOf s d).attSpoiled
  · simp [reported_unspoiled hs]
  · simp [reported_spoiled hs]

end Report

theorem exec_attestDone_busy {s : State} {d : BitVec 2} (h : (dieOf s d.toNat).attBusy = true) :
    exec (.attestDone d) s = .next (onDie (reported s d.toNat) d.toNat attested) := by
  simp only [exec_attestDone, execAttestDone, h, if_true]
  rfl

theorem exec_attestDone_idle {s : State} {d : BitVec 2} (h : (dieOf s d.toNat).attBusy = false) : exec (.attestDone d) s = .next s := by
  simp [exec_attestDone, execAttestDone, h]

/-! ### Fences of a subarray (R192) -/

section Fence

variable {s : State} {k : BitVec 9} {b : BitVec 2}

theorem exec_selfTestFenceRequest_first (h : (coreOf s k.toNat).fenceReq = none) :
    exec (.selfTestFenceRequest k b) s = .next (onCore s k.toNat (fun c => { c with fenceReq := some b })) := by
  simp [exec_selfTestFenceRequest, execSelfTestFenceRequest, onCore, h]

/-- A core whose subarray `b` is fenced. -/
def fenced (b : BitVec 2) (c : CoreState) : CoreState :=
  { c with
    fenceReq := none
    suba := c.suba ||| BitVec.ofNat 4 (2 ^ b.toNat)
    teams := c.teams.map (fun t => (t.1, { t.2 with mfence := true }))
    ops := c.ops.map (fun o => (o.1, if o.2.eng = 2 then { o.2 with charge := 2 * o.2.charge } else o.2)) }

theorem exec_subarrayFence_made (hr : (coreOf s k.toNat).fenceReq = some b) (hv : (coreOf s k.toNat).vacates = [])
    (hf : ∀ y ∈ ctxsOn (coreOf s k.toNat), vestDoubled s k.toNat y ≤ vbnd s k.toNat y) :
    exec (.subarrayFence k) s = .next (onCore s k.toNat (fenced b)) := by
  have hall : (ctxsOn (coreOf s k.toNat)).all (fun y => decide (vestDoubled s k.toNat y ≤ vbnd s k.toNat y)) = true := by
    simpa using hf
  have hgo : (!(coreOf s k.toNat).vacates.isEmpty ||
      !(ctxsOn (coreOf s k.toNat)).all (fun y => decide (vestDoubled s k.toNat y ≤ vbnd s k.toNat y))) = false := by
    rw [hall, hv]
    rfl
  simp only [exec_subarrayFence, execSubarrayFence, hr, hgo]
  rfl

theorem exec_subarrayFence_unfit {y : BitVec 10} (hy : y ∈ ctxsOn (coreOf s k.toNat)) (hf : ¬ vestDoubled s k.toNat y ≤ vbnd s k.toNat y) :
    exec (.subarrayFence k) s = .next s := by
  have hall : (ctxsOn (coreOf s k.toNat)).all (fun y => decide (vestDoubled s k.toNat y ≤ vbnd s k.toNat y)) = false :=
    List.all_eq_false.mpr ⟨y, hy, by simpa using hf⟩
  cases hr : (coreOf s k.toNat).fenceReq <;> simp [exec_subarrayFence, execSubarrayFence, hr, hall]

theorem exec_subarrayFence_vacating (hv : (coreOf s k.toNat).vacates ≠ []) : exec (.subarrayFence k) s = .next s := by
  cases hr : (coreOf s k.toNat).fenceReq <;> simp [exec_subarrayFence, execSubarrayFence, hr, hv]

end Fence

/-! ### The bytes of a control core (R405) -/

section ControlCore

variable (s : State) {pa : BitVec 42} (b : Byte)

theorem exec_controlCoreWrite_hbm (h : isHbm pa.toNat = true) :
    exec (.controlCoreWrite pa [b]) s = .next (deviceWrite (noteArgs s [(pa.toNat, 1)]) pa.toNat 1 b.toNat) := by
  simp [exec_controlCoreWrite, execControlCoreWrite, h]

theorem exec_controlCoreWrite_window (h : isHbm pa.toNat = false) (hw : isHostWindow pa.toNat = true) :
    let w := deviceWrite (noteArgs s [(pa.toNat, 1)]) pa.toNat 1 b.toNat
    exec (.controlCoreWrite pa [b]) s = .next (if (dieOf w (windowDie pa.toNat)).attBy = 64 then noteReport w pa.toNat 1 1 else w) := by
  simp [exec_controlCoreWrite, execControlCoreWrite, h, hw]

theorem exec_controlCoreWrite_unpopulated (h : isHbm pa.toNat = false) (hw : isHostWindow pa.toNat = false) :
    exec (.controlCoreWrite pa [b]) s = .next (noteArgs s [(pa.toNat, 1)]) := by
  simp [exec_controlCoreWrite, execControlCoreWrite, h, hw]

end ControlCore

end Sys2Proof.Machine

namespace Sys2Proof.Proofs

open Sys2Proof Sys2Proof.Machine

/-- Settles O57: each event by its own equation, stage by stage and case by case; the version's fields by their packing. -/
theorem bootAndPower : Obligations.BootAndPower := by
  intro s d
  refine ⟨fun _ => rfl, rfl, rfl, ?power, ?boot, loadExtension_law, imageError_eq_none_iff, ?attested, exec_attestDone_idle, ?fences, ?bytes⟩
  case power =>
    intro tmax watts
    exact ⟨exec_powerSample_cool watts s, exec_powerSample_hot watts s, exec_powerSample_trip watts s⟩
  case boot =>
    intro b
    refine ⟨fun h => ⟨fun _ => exec_boot_firmware_bad b h, exec_boot_firmware_good b h⟩,
      fun h => ⟨exec_boot_microcode_absent b h, fun _ _ => exec_boot_microcode_good b h, fun _ _ _ => exec_boot_microcode_bad b h⟩,
      fun h => ⟨fun _ => exec_boot_hbm_bad b h, exec_boot_hbm_good b h⟩,
      exec_boot_last_first b, fun h hd => ⟨exec_boot_last_follows b h hd, exec_boot_last_waits b h hd⟩⟩
  case attested =>
    intro h
    obtain ⟨hcores, hdevice⟩ := reported_keeps (s := s) (d := d.toNat)
    exact ⟨_, exec_attestDone_busy h, by simp [attested], by simp [attested], hcores, hdevice,
      fun hs => congrArg (onDie · d.toNat attested) (reported_unspoiled hs), fun hs => congrArg (onDie · d.toNat attested) (reported_spoiled hs)⟩
  case fences =>
    intro k b
    exact ⟨exec_selfTestFenceRequest_first, fun hr hv => ⟨exec_subarrayFence_made hr hv, fun ⟨_, hy, hf⟩ => exec_subarrayFence_unfit hy hf⟩,
      exec_subarrayFence_vacating⟩
  case bytes =>
    intro pa b
    exact ⟨exec_controlCoreWrite_hbm s b, exec_controlCoreWrite_window s b, exec_controlCoreWrite_unpopulated s b⟩

/-- Settles O17: every part reads its reset value, for nothing is listed after reset. -/
theorem resetState : Obligations.ResetState := by
  refine ⟨rfl, rfl, rfl, rfl, rfl, rfl, rfl, rfl, rfl, rfl, rfl, rfl, ?cores, fun _ => rfl, fun _ => ⟨rfl, rfl, rfl⟩, fun _ => ⟨rfl, rfl, rfl⟩,
    tatByte_reset, rfl, memory_reset_wf, frontiersNormal_reset, exec_packageReset⟩
  intro k
  rw [coreOf_reset]
  exact ⟨rfl, rfl, rfl, rfl, rfl, rfl, rfl, rfl, fun _ => resetBank_mode_of_lt, fun _ h _ => resetBank_mode_of_ge h, fun b _ => resetBank_free b⟩

end Sys2Proof.Proofs
end

section
/-! PROOF. The frontiers that every step settles (R19), the entry into a clause (R18, R260), and the checks of an issue (R21, R270). -/

namespace Sys2Proof.Machine

/-! ### The step settles every frontier (R19) -/

theorem frontiersNormal_settle (s : State) : FrontiersNormal (settle s) := by
  intro c hc g hg
  obtain ⟨c', _, rfl⟩ := List.mem_map.mp hc
  obtain ⟨g', _, rfl⟩ := List.mem_map.mp hg
  exact isNormal_normalise g'.2.entries

theorem step_settles (s : State) : step s = .next (settle (pumpFabric (act exec s))) := rfl

/-! ### Clause headers (R18, R260) -/

theorem exec_clause_issuing {s : State} {i : Issuer} (hi : issuer s = some i) (h : Header) : exec (.clause h) s = .next (
    if i.e.left != 0 then trapAtIssue s i (encodingTrap i causeIllenc subClause)
    else if !flagsClear i.g h.wait.toNat then held s
    else onIssuing s i (fun g => { g with entries := g.entries.map (fun e => if e.mask = i.e.mask then enterBody e h else e) })) := by
  rw [exec_clause, execClause, whenIssuing, hi]

theorem bitAt_eq_testBit (w n : Nat) : bitAt w n = w.testBit n := by
  rw [bitAt, Nat.testBit_eq_decide_div_mod_eq]
  rfl

theorem flagsClear_iff (g : Group) (w : Nat) : flagsClear g w = true ↔ ∀ n, n < 12 → w.testBit n = true → flagOf g n = 0 := by
  have himp (b : Bool) (p : Prop) : (b = false ∨ p) ↔ (b = true → p) := by cases b <;> simp
  simp only [flagsClear, List.all_eq_true, List.mem_range, Bool.or_eq_true, Bool.not_eq_true', beq_iff_eq, bitAt_eq_testBit, himp]

/-- The flags of a mask are not all 0 when one of them is not. -/
theorem flagsClear_eq_false {g : Group} {w : Nat} (h : ∃ n, n < 12 ∧ w.testBit n = true ∧ flagOf g n ≠ 0) : flagsClear g w = false := by
  obtain ⟨n, hn, hw, hf⟩ := h
  rw [Bool.eq_false_iff]
  exact fun hc => hf ((flagsClear_iff g w).mp hc n hn hw)

theorem exec_clause_enters {s : State} {i : Issuer} (hi : issuer s = some i) (h : Header) (hl : i.e.left = 0) (hf : flagsClear i.g h.wait.toNat = true) :
    exec (.clause h) s = .next (onIssuing s i (fun g => { g with entries := g.entries.map (fun e => if e.mask = i.e.mask then enterBody e h else e) })) := by
  simp [exec_clause_issuing hi, hl, hf]

theorem exec_clause_held {s : State} {i : Issuer} (hi : issuer s = some i) (h : Header) (hl : i.e.left = 0) (hf : flagsClear i.g h.wait.toNat = false) :
    exec (.clause h) s = .next s := by
  simp [exec_clause_issuing hi, hl, hf, held]

theorem exec_clause_breach {s : State} {i : Issuer} (hi : issuer s = some i) (h : Header) (hl : i.e.left ≠ 0) :
    exec (.clause h) s = .next (trapAtIssue s i (encodingTrap i causeIllenc subClause)) := by
  simp [exec_clause_issuing hi, hl]

/-! ### The checks of an issue, one lemma for each outcome (R21, R270) -/

/-- What an issue waits for: a resource, its flag at 63, or a result. -/
def Plan.waits (s : State) (i : Issuer) (p : Plan) : Prop :=
  p.ready = false ∨ flagAtLimit i.g p.flag = true ∨ mustWait (coreOf s i.k) i.g p = true

section Gate

variable {s : State} {i : Issuer} {p : Plan}

theorem Plan.waits_iff : (!p.ready || flagAtLimit i.g p.flag || mustWait (coreOf s i.k) i.g p) = true ↔ p.waits s i := by
  simp [Plan.waits, or_assoc]

theorem gate_waits (h : p.waits s i) : gate s i p = .stop s := by
  rw [gate, if_pos (Plan.waits_iff.mpr h), held]

theorem gate_unmapped {n : Nat} {m : Mask} (h : ¬ p.waits s i) (hu : (ctxOf s i.ctx).ureg = true) (hn : unmapped i.g p = some (n, m)) :
    gate s i p = .stop (trapAtIssue s i { cause := causeUreg, addr := BitVec.ofNat 64 n, lanes := m }) := by
  rw [gate, if_neg (mt Plan.waits_iff.mp h)]
  simp only [hu, hn, if_true]

/-- The checks behind UREG, in their order. -/
def gateMapped (s : State) (i : Issuer) (p : Plan) : Verdict :=
  if poisonedLanes i.g p != 0 then .stop (trapAtIssue s i { cause := causeEcc, lanes := poisonedLanes i.g p })
  else if overFootprint i p then .stop (trapAtIssue s i { cause := causeRegfp, lanes := p.active })
  else
    match (hazardTrap (coreOf s i.k) i.g p).or p.early with
    | some tr => .stop (trapAtIssue s i tr)
    | none =>
      if neverFits s i.k i.g.ctx (teamBytes (coreOf s i.k) i.t i.tm) p.engine (p.charge s i.k) (p.delta i.g) then
        .stop (trapAtIssue (countVnever s i.ctx p.active) i { cause := causeVnever, lanes := p.active, resumable := false })
      else if !admits s i.k i.g.ctx p.engine (p.charge s i.k) (p.delta i.g) (sluiceBound s i.k i.g.ctx) then .stop (refuse s i p)
      else .pass

theorem gate_mapped (h : ¬ p.waits s i) (hu : (ctxOf s i.ctx).ureg = true → unmapped i.g p = none) : gate s i p = gateMapped s i p := by
  have hm : (if (ctxOf s i.ctx).ureg then unmapped i.g p else none) = none := by
    split
    · exact hu ‹_›
    · rfl
  rw [gate, if_neg (mt Plan.waits_iff.mp h)]
  simp only [hm]
  rfl

theorem gateMapped_poisoned (h : poisonedLanes i.g p ≠ 0) :
    gateMapped s i p = .stop (trapAtIssue s i { cause := causeEcc, lanes := poisonedLanes i.g p }) := by
  rw [gateMapped, if_pos (bne_iff_ne.mpr h)]

theorem gateMapped_footprint (h : poisonedLanes i.g p = 0) (hf : overFootprint i p = true) :
    gateMapped s i p = .stop (trapAtIssue s i { cause := causeRegfp, lanes := p.active }) := by
  simp [gateMapped, h, hf]

theorem gateMapped_hazard {tr : Trap} (h : poisonedLanes i.g p = 0) (hf : overFootprint i p = false)
    (ht : (hazardTrap (coreOf s i.k) i.g p).or p.early = some tr) : gateMapped s i p = .stop (trapAtIssue s i tr) := by
  simp [gateMapped, h, hf, ht]

/-- With no trap left, VNEVER and then the bound of the sluice decide (R193, R195). -/
theorem gateMapped_sluice (h : poisonedLanes i.g p = 0) (hf : overFootprint i p = false) (ht : hazardTrap (coreOf s i.k) i.g p = none)
    (he : p.early = none) : gateMapped s i p =
      if neverFits s i.k i.g.ctx (teamBytes (coreOf s i.k) i.t i.tm) p.engine (p.charge s i.k) (p.delta i.g) then
        .stop (trapAtIssue (countVnever s i.ctx p.active) i { cause := causeVnever, lanes := p.active, resumable := false })
      else if !admits s i.k i.g.ctx p.engine (p.charge s i.k) (p.delta i.g) (sluiceBound s i.k i.g.ctx) then .stop (refuse s i p)
      else .pass := by
  simp [gateMapped, h, hf, ht, he]

end Gate

end Sys2Proof.Machine

namespace Sys2Proof.Proofs

open Sys2Proof Sys2Proof.Machine

/-- Settles O16: a step ends by settling, and what `normalise` gives is normal, whatever the step did before. -/
theorem frontiersKept : Obligations.FrontiersKept := fun s _ => ⟨_, step_settles s, frontiersNormal_settle _⟩

/-- Settles O26: the three outcomes of a header are disjoint in the place of the entry and in the flags of the wait mask. -/
theorem clauseEntered : Obligations.ClauseEntered := by
  intro h s i hi
  refine ⟨fun hl hf => ?enters, fun hl hf => exec_clause_held hi h hl (flagsClear_eq_false hf), exec_clause_breach hi h⟩
  have hg := holds_of_issuer hi
  refine ⟨_, _, exec_clause_enters hi h hl ((flagsClear_iff _ _).mpr hf), ?_, onlyGroup_onIssuing (onlyGroup_refl (issuer_slot hi).2.1) hg _,
    (holds_onIssuing hg _ rfl rfl).1, rfl⟩
  rw [onIssuing_eq hg, onCore_cur]

/-- Settles O29: the checks one after another, each lemma with the earlier checks passed. -/
theorem issueChecks : Obligations.IssueChecks := by
  intro s i p
  refine ⟨gate_waits, fun hw _ _ => gate_unmapped hw, fun hw hu hp => (gate_mapped hw hu).trans (gateMapped_poisoned hp), fun hw hu hp => ?_⟩
  rw [gate_mapped hw hu]
  refine ⟨gateMapped_footprint hp, fun hf _ => gateMapped_hazard hp hf, fun hf ht he => ?_⟩
  rw [gateMapped_sluice hp hf ht he]
  exact ⟨fun hn => if_pos hn, fun hn ha => by rw [if_neg hn, if_pos (by simpa using ha)], fun hn ha => by rw [if_neg hn, if_neg (by simpa using ha)]⟩

end Sys2Proof.Proofs
end

section
/-! PROOF. The end of an issue with no trap, and the barriers of a team and of a cluster (R28, R29). -/

namespace Sys2Proof.Machine

/-! ### Instructions that reach their effect, and the end of an issue -/

theorem onIssue_reaches {s : State} {i : Issuer} {f : Fx} {transfer : Bool} (h : Reaches s i f transfer) (effect : Issuer → Mask → State) :
    onIssue s f transfer effect = .next (effect i (i.active f)) := by
  rw [onIssue, whenIssuing, h.issuing]
  simp only [h.legal]
  rw [if_neg (by simpa using h.active), if_neg (by simp [h.clean])]

/-- The end of an issue with no trap, the lanes going where the parts say. -/
theorem endIssue_issued {base s : State} {i : Issuer} {g : Group} (h : OnlyGroup base s i) (hg : Holds s i g) (he : g.entries = i.g.entries)
    (parts : List Entry) : Issued base (endIssue s i true parts []) i parts { replaceEntry g i.e parts with begun := true } := by
  obtain ⟨_, rfl, hissued, hcur, hh⟩ := endIssue_noTraps hg true parts
  refine ⟨hissued, hcur, onlyGroup_endIssue h hg true parts, hh.1, ?_⟩
  unfold replaceEntry
  rw [he]

/-- The same of an instruction that changes nothing before it. -/
theorem endIssue_issued_of_issuer {s : State} {i : Issuer} (h : issuer s = some i) (parts : List Entry) :
    Issued s (endIssue s i true parts []) i parts { replaceEntry i.g i.e parts with begun := true } :=
  endIssue_issued (onlyGroup_refl (issuer_slot h).2.1) (holds_of_issuer h) rfl parts

/-! ### Barriers (R28, R29) -/

theorem maskOfLanes_lanesIn (m : Mask) : maskOfLanes (lanesIn m) = m := by
  refine mask_ext fun l hl => ?_
  rw [maskOfLanes, inMask_maskWhere _ l hl, Bool.eq_iff_iff, List.contains_iff_mem, mem_lanesIn]
  exact and_iff_right hl

theorem lanesIn_ne_nil {m : Mask} (h : m ≠ 0) : lanesIn m ≠ [] := by
  intro hn
  apply h
  rw [← maskOfLanes_lanesIn m, hn]
  decide

theorem eraseDups_map_const {α β : Type} [BEq β] [LawfulBEq β] {l : List α} (h : l ≠ []) (b : β) : (l.map (fun _ => b)).eraseDups = [b] := by
  obtain ⟨x, r, rfl⟩ := List.exists_cons_of_ne_nil h
  have hnone : (r.map (fun _ => b)).filter (fun y => !y == b) = [] := by simp
  rw [List.map_cons, List.eraseDups_cons, hnone, List.eraseDups_nil]

/-- Lanes that all wait for one generation stand in one entry. -/
theorem barEntries_const {i : Issuer} {m : Mask} (h : m ≠ 0) (b n : Nat) :
    barEntries i m b (fun _ => n) = [{ i.onward m with st := .waitingBarrier, hold := .barrier b n }] := by
  have hl : (lanesIn m).zipIdx ≠ [] := by simpa using lanesIn_ne_nil h
  have hall : (lanesIn m).zipIdx.filter (fun _ => n == n) = (lanesIn m).zipIdx := by simp
  unfold barEntries
  simp only [eraseDups_map_const hl, List.map_cons, List.map_nil, hall, List.zipIdx_map_fst, maskOfLanes_lanesIn]

/-- A BAR that passes its checks. -/
theorem barrierOp_issues {s : State} {i : Issuer} {f : Fx} (h : Issues s i f false (lanePlan i f 0 inFull)) (arrives waits : Bool) :
    barrierOp s f arrives waits = .next (
      let b := f.modAt 2 4
      let n := barCount i.g f
      let gen (j : Nat) : Nat := if arrives then arrivalGen (coreOf s i.k) i.tm b n j else (barrierOf i.tm b).gen
      let t := endIssue s i true (if waits then barEntries i (i.active f) b gen ++ [i.onward (i.others (i.active f))] else [i.onward i.e.mask]) []
      if arrives then onCore t i.k (fun c => arrive c i.t b (countMask (i.active f)) n) else t) := by
  have hp : gate s i (fxPlan i f (i.active f) 0 false) = .pass := h.passes
  rw [barrierOp, onIssue_effect h, passing_pass hp]

/-- BAR.wait: the active lanes wait for the running generation, in one entry. -/
theorem exec_barWait_issues {s : State} {i : Issuer} {f : Fx} (h : Issues s i f false (lanePlan i f 0 inFull)) :
    exec (.barWait f) s = .next (endIssue s i true [{ i.onward (i.active f) with
      st := .waitingBarrier, hold := .barrier (f.modAt 2 4) (barrierOf i.tm (f.modAt 2 4)).gen }, i.onward (i.others (i.active f))] []) := by
  rw [exec_barWait, execBarWait, barrierOp_issues h]
  simp only [Bool.false_eq_true, if_false, if_true, barEntries_const h.active, List.singleton_append]

theorem exec_cbar_reaches {s : State} {i : Issuer} {f : Fx} (h : Reaches s i f false) :
    let x := barrierOf i.tm 16
    let y := { x with arrived := x.arrived + countMask (i.active f), open_ := true }
    exec (.cbar f) s = .next (clusterCheck (onCore (endIssue s i true
      [{ i.onward (i.active f) with st := .waitingBarrier, hold := .barrier 16 x.gen }, i.onward (i.others (i.active f))] []) i.k
        (fun c => { c with teams := alter c.teams i.t (fun t => { t with bars := put t.bars 16 y }) })) i.tm.launch i.tm.cluster) := by
  rw [exec_cbar, execCbar, onIssue_reaches h]

theorem barrierOf_put (tm : Team) (b : Nat) (x : Barrier) : barrierOf { tm with bars := put tm.bars b x } b = x := lookD_put_self _ _ _ _

@[simp] theorem groups_setTeam (c : CoreState) (t : Nat) (tm : Team) : (setTeam c t tm).groups = c.groups := rfl
@[simp] theorem teamLive_setTeam (c : CoreState) (t : Nat) (tm : Team) (uid : Nat) : teamLive (setTeam c t tm) uid = teamLive c uid := rfl
@[simp] theorem teamOf_wakeBarrier (c : CoreState) (uid b gen t : Nat) : teamOf (wakeBarrier c uid b gen) t = teamOf c t := rfl

theorem groups_wakeBarrier (c : CoreState) (uid b gen : Nat) : (wakeBarrier c uid b gen).groups = c.groups.map (fun x =>
    if x.2.uid = uid then
      (x.1, { x.2 with entries := x.2.entries.map (fun e =>
        if e.st = .waitingBarrier && e.hold = .barrier b gen then { e with st := .ready, hold := .none } else e) })
    else x) := rfl

section Check

variable {c : CoreState} {t : Nat} {tm : Team} {b : Nat} (named : Option Nat)

/-- A generation that is closed, or that falls short of its count, goes on. -/
theorem barrierCheck_waits (ht : teamOf c t = some tm) (h : (barrierOf tm b).open_ = false ∨ (barrierOf tm b).arrived < expected c tm (barrierOf tm b))
    (n : Nat) : barrierCheck c t b named n = c := by
  cases n with
  | zero => rfl
  | succ n =>
    have hno : ((barrierOf tm b).open_ && expected c tm (barrierOf tm b) ≤ (barrierOf tm b).arrived && (barrierOf tm b).arrived != 0) = false := by
      rcases h with h | h
      · simp [h]
      · simp [Nat.not_le.mpr h]
    rw [barrierCheck, ht]
    simp only [hno, Bool.false_eq_true, if_false]

/-- A generation that has just its count completes: the next one has no arrival, and those that waited are ready. -/
theorem barrierCheck_completes (ht : teamOf c t = some tm) (ho : (barrierOf tm b).open_ = true) (h0 : (barrierOf tm b).arrived ≠ 0)
    (he : expected c tm (barrierOf tm b) = (barrierOf tm b).arrived) (n : Nat) : barrierCheck c t b named (n + 1) =
      wakeBarrier (setTeam c t { tm with bars := put tm.bars b { gen := (barrierOf tm b).gen + 1 } }) tm.uid b (barrierOf tm b).gen := by
  have hyes : ((barrierOf tm b).open_ && expected c tm (barrierOf tm b) ≤ (barrierOf tm b).arrived && (barrierOf tm b).arrived != 0) = true := by
    simp [ho, he, h0]
  rw [barrierCheck, ht]
  simp only [hyes, if_true]
  simp only [he, Nat.sub_self, bne_self_eq_false, if_true]
  refine barrierCheck_waits named (tm := { tm with bars := put tm.bars b { gen := (barrierOf tm b).gen + 1 } }) ?_ (.inl ?_) n
  · rw [teamOf_wakeBarrier, teamOf_setTeam_self]
  · rw [barrierOf_put]

end Check

section Arrivals

variable {c : CoreState} {t : Nat} {tm : Team} {b n : Nat} {named : Option Nat}

/-- The barrier with the arrivals of an instruction counted. -/
def arrivedAt (tm : Team) (b n : Nat) (named : Option Nat) : Barrier :=
  { barrierOf tm b with
    arrived := (barrierOf tm b).arrived + n
    expect := if (barrierOf tm b).open_ then (barrierOf tm b).expect else named
    open_ := true }

theorem arrive_eq (ht : teamOf c t = some tm) (hn : n ≠ 0) : arrive c t b n named =
    barrierCheck (setTeam c t { tm with bars := put tm.bars b (arrivedAt tm b n named) }) t b named ((barrierOf tm b).arrived + n + 1) := by
  simp only [arrive, ht, hn, if_false]
  rfl

theorem arrive_short (ht : teamOf c t = some tm) (hn : n ≠ 0)
    (h : (arrivedAt tm b n named).arrived < (arrivedAt tm b n named).expect.getD (teamLive c tm.uid)) :
    arrive c t b n named = setTeam c t { tm with bars := put tm.bars b (arrivedAt tm b n named) } := by
  rw [arrive_eq ht hn]
  refine barrierCheck_waits named (teamOf_setTeam_self _ _ _) (.inr ?_) _
  rwa [barrierOf_put]

theorem arrive_full (ht : teamOf c t = some tm) (hn : n ≠ 0)
    (h : (arrivedAt tm b n named).arrived = (arrivedAt tm b n named).expect.getD (teamLive c tm.uid)) :
    arrive c t b n named = wakeBarrier (setTeam (setTeam c t { tm with bars := put tm.bars b (arrivedAt tm b n named) }) t
      { tm with bars := put (put tm.bars b (arrivedAt tm b n named)) b { gen := (barrierOf tm b).gen + 1 } }) tm.uid b (barrierOf tm b).gen := by
  have hb := barrierOf_put tm b (arrivedAt tm b n named)
  rw [arrive_eq ht hn, barrierCheck_completes named (teamOf_setTeam_self _ _ _)]
  · rw [hb]
    rfl
  · rw [hb]
    rfl
  · rw [hb]
    exact Nat.ne_of_gt (Nat.add_pos_right _ (Nat.pos_of_ne_zero hn))
  · rw [hb]
    exact h.symm

end Arrivals

end Sys2Proof.Machine

namespace Sys2Proof.Proofs

open Sys2Proof Sys2Proof.Machine

/-- Settles O22: the BAR variants are one operation; a generation's check runs once when it falls short, and once more when it completes. -/
theorem barriers : Obligations.Barriers := by
  refine ⟨fun f s i => ⟨fun h => ⟨barrierOp_issues h true true, barrierOp_issues h true false, _, _, exec_barWait_issues h,
    endIssue_issued_of_issuer h.issuing _, rfl⟩, exec_cbar_reaches⟩, fun c t tm b n named ht hn => ⟨fun hshort => ?_, fun hfull => ?_⟩⟩
  · rw [arrive_short ht hn hshort]
    exact ⟨rfl, _, teamOf_setTeam_self _ _ _, barrierOf_put _ _ _⟩
  · rw [arrive_full ht hn hfull]
    exact ⟨⟨_, teamOf_setTeam_self _ _ _, lookD_put_self _ _ _ _⟩, rfl⟩

end Sys2Proof.Proofs
end

section
/-! PROOF. Launch records, placement, drains and cores that move (R9 to R17, R34 to R36, R116 to R122). -/

namespace Sys2Proof.Machine

/-! ### Launch ports (R116) -/

section Port

variable {s : State} {off : BitVec 20} {size : Nat} (data : BitVec 1024)

/-- A record that is written to a port goes to the queue that the port's offset names. -/
theorem exec_launchPortWrite_enqueues (hz : size = 128) (ha : off.toNat % 128 = 0) (hl : s.device.lock = true) :
    exec (.launchPortWrite off size data) s = .next (enqueueRecord s (off.toNat / 0x400) (off.toNat % 0x400 / 0x80) data).1 := by
  have hform : (size != 128 || off.toNat % 128 != 0) = false := by simp [hz, ha]
  rw [exec_launchPortWrite, execLaunchPortWrite, launchPort, hform, hl]
  simp only [Bool.not_true, Bool.false_eq_true, if_false]
  split <;> rename_i he <;> rw [he]

theorem enqueueRecord_room {c q : Nat} (h : queueFull (queueOf (ctxOf s c) q) = false) : (enqueueRecord s c q data).1 =
    { onQueue s c q (fun x => { x with records := x.records ++ [(x.next, data, s.nextAccept)], next := x.next + 1 }) with
      nextAccept := s.nextAccept + 1 } := by
  rw [enqueueRecord, h]
  rfl

theorem enqueueRecord_full {c q : Nat} (h : queueFull (queueOf (ctxOf s c) q) = true) :
    (enqueueRecord s c q data).1 = onQueue s c q (fun x => { x with ovf := 1 }) := by
  rw [enqueueRecord, h]
  rfl

theorem exec_launchPortWrite_refused (h : size ≠ 128 ∨ off.toNat % 128 ≠ 0 ∨ s.device.lock = false) :
    exec (.launchPortWrite off size data) s = .next s := by
  rw [exec_launchPortWrite, execLaunchPortWrite, launchPort]
  split
  · rfl
  · rename_i hform
    have hlock : s.device.lock = false := by
      simp only [Bool.or_eq_true, bne_iff_ne, not_or] at hform
      exact (h.resolve_left hform.1).resolve_left hform.2
    rw [hlock]
    rfl

end Port

/-! ### The check of a head (R118) -/

section Head

variable {s : State} {c : BitVec 10} {q : BitVec 3} {seq acc : Nat} {r : BitVec 1024}

variable (hh : headOf s c.toNat q.toNat = some (seq, r, acc)) (hd : dispatches s c.toNat = true) (hl : launchOf s c.toNat q.toNat seq = none)

include hh hd hl

theorem exec_recordHeadCheck_launches (hs : headStatus s c.toNat q.toNat seq r = none) : exec (.recordHeadCheck c q) s = .next { s with
    launches := put s.launches s.nextLaunch { ctx := c, queue := q.toNat, seq := seq, record := r, accepted := acc }
    nextLaunch := s.nextLaunch + 1 } := by
  simp [exec_recordHeadCheck, execRecordHeadCheck, hh, hd, hl, hs]

theorem exec_recordHeadCheck_retires {st : Nat} (hs : headStatus s c.toNat q.toNat seq r = some st) : exec (.recordHeadCheck c q) s = .next (
    retireRecord (popHead (if st = 5 then reportCtx s
      { cause := causeStamp, kind := 6, ctx := c.toNat, polder := (ctxOf s c.toNat).polder, seq := seq } else s) c.toNat q.toNat) c.toNat q.toNat seq st) := by
  simp [exec_recordHeadCheck, execRecordHeadCheck, hh, hd, hl, hs]

end Head

/-! ### Placements (R16, R36, R119) -/

section Place

variable {s : State} {c : BitVec 10} {q : BitVec 3} (r : Rect)

theorem exec_clusterPlace_first {x : Cand} (hx : headCand s c.toNat q.toNat = some x) (hv : vacatedCands s = []) (hp : canPlace s x r = true)
    (hf : isFirst s x = true) : exec (.clusterPlace c q r) s = .next (placeCluster s x r []) := by
  simp [exec_clusterPlace, execClusterPlace, hx, hv, hp, hf]

theorem exec_clusterPlace_none (hx : headCand s c.toNat q.toNat = none) (hv : vacatedCands s = []) : exec (.clusterPlace c q r) s = .next s := by
  simp [exec_clusterPlace, execClusterPlace, hx, hv]

variable {launch cluster : Nat} {x : Cand}

theorem exec_teamResume_waits (hx : (vacatedCands s).find? (fun x => x.rank == 0 && x.launch == launch && x.cluster == cluster) = some x)
    (h : canPlace s x r = false ∨ isFirst s x = false) : exec (.teamResume launch cluster r) s = .next s := by
  have hno : (!canPlace s x r || !isFirst s x) = true := by simpa using h
  simp only [exec_teamResume, execTeamResume, hx, hno, if_true]

/-- A cluster of one saved team: placed once the host has answered the translations of its kept operations. -/
theorem exec_teamResume_one (hx : (vacatedCands s).find? (fun x => x.rank == 0 && x.launch == launch && x.cluster == cluster) = some x)
    (hp : canPlace s x r = true) (hf : isFirst s x = true) {e : Nat × Nat} {im : SavedTeam} (hm : x.members = [e]) (hi : imageAt s x e = some im) :
    exec (.teamResume launch cluster r) s = .next (let u := translateImage s (candCore x r e) im
      if u.2.2 then placeCluster u.1 x r [(e, u.2.1)] else u.1) := by
  have hyes : (!canPlace s x r || !isFirst s x) = false := by simp [hp, hf]
  simp only [exec_teamResume, execTeamResume, hx, hyes, hm, hi, List.foldl_cons, List.foldl_nil, Bool.false_eq_true, if_false, List.nil_append,
    Bool.true_and]

end Place

/-! ### Drains (R34) -/

section Drain

variable {s : State} {k : BitVec 9} {team : BitVec 5} {tm : Team}

theorem exec_teamDrainDone_over (ht : teamOf (coreOf s k.toNat) team.toNat = some tm) (hd : tm.st = .draining) (hn : stillHanded s tm.uid = false) :
    exec (.teamDrainDone k team) s = .next (teamCompleted (endTeam s k.toNat team.toNat tm.uid) tm.launch) := by
  simp [exec_teamDrainDone, execTeamDrainDone, ht, hd, hn]

theorem exec_teamDrainDone_waits (ht : teamOf (coreOf s k.toNat) team.toNat = some tm) (h : tm.st ≠ .draining ∨ stillHanded s tm.uid = true) :
    exec (.teamDrainDone k team) s = .next s := by
  have hno : (tm.st = .draining && !stillHanded s tm.uid) = false := by
    rcases h with h | h <;> simp [h]
  simp only [exec_teamDrainDone, execTeamDrainDone, ht, hno, Bool.false_eq_true, if_false]

end Drain

/-! ### New groups (R14, R74) -/

section NewGroup

variable (s : State) (ctx : Nat) (r : BitVec 1024) (uid gid t : Nat)

theorem newGroup_s0 : sReg (newGroup s ctx r uid gid t) 0 = lrArgptr r :=
  (lookD_putD_ne _ _ _ (by decide)).trans (lookD_putD_self _ _ _ _)

theorem newGroup_s1 : sReg (newGroup s ctx r uid gid t) 1 = BitVec.ofNat 64 (lrArgsize r) := lookD_putD_self _ _ _ _

theorem newGroup_s_above {n : Nat} (h : 1 < n) : sReg (newGroup s ctx r uid gid t) n = 0 :=
  (lookD_putD_ne _ _ _ (by omega)).trans (lookD_putD_ne _ _ _ (by omega))

theorem newGroup_normal : isNormal (newGroup s ctx r uid gid t).entries = true := by
  simp [newGroup, isNormal]

end NewGroup

/-! ### Border moves (R122) -/

section Border

variable {s : State} {k : BitVec 9} {a : Nat}

theorem exec_borderMove_unnoted (h : (coreOf s k.toNat).idled = false) : exec (.borderMove k) s = .next s := by
  simp [exec_borderMove, execBorderMove, h]

/-- What keeps a core with its polder: a team, a polder that does not lend, or one at its minimum with a record queued. -/
def staysWith (u : State) (k a : Nat) : Prop :=
  (coreOf u k).teams ≠ [] ∨ lends (polderOf u a) = false ∨ (heldCores (polderOf u a) ≤ minCores (polderOf u a) ∧ hasQueued u a = true)

/-- A core that a completion has noted is looked at. -/
theorem exec_borderMove_looks (hi : (coreOf s k.toNat).idled = true) (ho : ownerOf (lookedAt s k.toNat) k.toNat = some a) :
    exec (.borderMove k) s = .next (
      if !(coreOf (lookedAt s k.toNat) k.toNat).teams.isEmpty || !lends (polderOf (lookedAt s k.toNat) a) ||
        (heldCores (polderOf (lookedAt s k.toNat) a) ≤ minCores (polderOf (lookedAt s k.toNat) a) && hasQueued (lookedAt s k.toNat) a)
      then lookedAt s k.toNat else moveCore (lookedAt s k.toNat) k.toNat a) := by
  simp only [exec_borderMove, execBorderMove, hi, ho, Bool.not_true, Bool.false_eq_true, if_false]

theorem exec_borderMove_stays (hi : (coreOf s k.toNat).idled = true) (ho : ownerOf (lookedAt s k.toNat) k.toNat = some a)
    (h : staysWith (lookedAt s k.toNat) k.toNat a) : exec (.borderMove k) s = .next (lookedAt s k.toNat) := by
  rw [exec_borderMove_looks hi ho, if_pos]
  simpa [staysWith, or_assoc] using h

theorem exec_borderMove_moves (hi : (coreOf s k.toNat).idled = true) (ho : ownerOf (lookedAt s k.toNat) k.toNat = some a)
    (h : ¬ staysWith (lookedAt s k.toNat) k.toNat a) : exec (.borderMove k) s = .next (moveCore (lookedAt s k.toNat) k.toNat a) := by
  rw [exec_borderMove_looks hi ho, if_neg]
  simpa [staysWith, or_assoc] using h

theorem moveCore_received {u : State} {k a b : Nat} (h : receiver u a = some b) : moveCore u k a = (List.range 64).foldl (fun t slot => slotUpdate u slot t k)
    (setOwner (setOwner (scrubCore u k) a k false) b k true) := by
  rw [moveCore, h]

end Border

end Sys2Proof.Machine

namespace Sys2Proof.Proofs

open Sys2Proof Sys2Proof.Machine

/-- Settles O56: each event by its own equation, a case of it for each clause; a new group by its registers. -/
theorem launchesAndTeams : Obligations.LaunchesAndTeams := by
  refine ⟨fun s => ⟨?ports, ?heads, fun c q x r => exec_clusterPlace_first r, fun c q r => exec_clusterPlace_none r, ?resumes, ?drains⟩,
    fun s => ⟨?groups, fun k => exec_borderMove_unnoted, ?borders⟩⟩
  case ports =>
    intro off size data
    refine ⟨fun hz ha hl => ?_, exec_launchPortWrite_refused data⟩
    rw [exec_launchPortWrite_enqueues data hz ha hl]
    exact ⟨fun h => congrArg _ (enqueueRecord_room data h), fun h => congrArg _ (enqueueRecord_full data h)⟩
  case heads =>
    intro c q seq r acc hh hd hl
    refine ⟨exec_recordHeadCheck_launches hh hd hl, fun st hs h5 => ?_, fun hs => ?_⟩
    · rw [exec_recordHeadCheck_retires hh hd hl hs, if_neg h5]
    · rw [exec_recordHeadCheck_retires hh hd hl hs, if_pos rfl]
  case resumes =>
    intro launch cluster r x hx
    refine ⟨exec_teamResume_waits r hx, fun hp hf e im hm hi => ?_⟩
    rw [exec_teamResume_one r hx hp hf hm hi]
    exact ⟨fun h => congrArg _ (if_pos h), fun h => congrArg _ (if_neg (by simp [h]))⟩
  case drains =>
    intro k team tm ht
    exact ⟨exec_teamDrainDone_over ht, exec_teamDrainDone_waits ht⟩
  case groups =>
    intro ctx r uid gid t
    exact ⟨rfl, rfl, rfl, rfl, rfl, newGroup_s0 .., newGroup_s1 .., fun _ hn => newGroup_s_above (h := hn) .., rfl, rfl, rfl, newGroup_normal ..⟩
  case borders =>
    intro k a hi ho
    refine ⟨exec_borderMove_stays hi ho, fun ht hl hm b hb => ?_⟩
    have hgo : ¬ staysWith (lookedAt s k.toNat) k.toNat a := by
      rintro (h | h | ⟨hheld, hq⟩)
      · exact h ht
      · simp [hl] at h
      · rcases hm with hm | hm
        · exact absurd hheld (Nat.not_le.mpr hm)
        · simp [hm] at hq
    rw [exec_borderMove_moves hi ho hgo, moveCore_received hb]

end Sys2Proof.Proofs
end

section
/-! PROOF. Taking a trap (R31, R350, R404): the address that the record of a WATCH trap holds. -/

namespace Sys2Proof.Machine

/-! ### A watched access whose lowest lane does not have the lowest address

R350 and R404 part the two addresses of a WATCH trap: TADDR is the address of the lowest matching lane (`Trap.addr`), and the record's ADDR
is the lowest matching address of all lanes (`Trap.low`). -/

/-- Lanes 0 and 1 of a watched access, lane 1 at the lower address. -/
def watchCrossed : Trap := { cause := causeWatch, addr := 8, low := some 0, lanes := 3, next := true }

/-- A group of context 0 whose lanes 0 and 1 have made the access; no launch is known, so its traps are reported. -/
def watchIssuer : Issuer :=
  { k := 0, slot := 0, g := probeGroup 1, e := { mask := 3, pc := probeAddr, left := 2 }, t := 0, tm := probeTeam 1 0, len := 8 }

/-- Context 0 has a fault ring at 4096, behind which a record is held already: the next one is held too (R130). -/
def watchState : State := { State.reset with ctxs := [(0, { cfrq := 4096, held := [0] })] }

/-- The ADDR fields of the records that context 0 holds back. -/
def heldAddrs (s : State) : List Nat := (ctxOf s 0).held.map (fun r => bitsAt r.toNat 128 64)

/-- The record has the lowest address of the lanes, and not TADDR. -/
theorem heldAddrs_takeTrap_watch : heldAddrs (takeTrap watchState watchIssuer watchCrossed).1 = [0, 0] := by decide +kernel

end Sys2Proof.Machine

namespace Sys2Proof.Proofs

open Sys2Proof Sys2Proof.Machine

/-- Refutes O24: the statement gives every record the trap's TADDR, where the record of a WATCH trap holds the lowest address of the lanes
(`Trap.low`, R350, R404). Lanes 0 and 1 of the counterexample match at 8 and 0: TADDR is 8, and the record's ADDR is 0. -/
theorem not_trapTaken : ¬ Obligations.TrapTaken := by
  intro h
  have htaken := (h watchState watchIssuer watchCrossed rfl).1 (.inr (.inl rfl))
  have hrecord := heldAddrs_takeTrap_watch.symm.trans (congrArg (fun a => heldAddrs a.1) htaken)
  exact absurd hrecord (by decide +kernel)

end Sys2Proof.Proofs
end

section
/-! PROOF. JOIN and EXIT (R27, R34, R276, R277): whom a JOIN waits for, and what the exit of lanes may complete. -/

namespace Sys2Proof.Machine

/-! ### JOIN (R27, R276) -/

/-- The lanes that a JOIN waits for. -/
def joinAwaited (g : Group) : Mask := if g.service.isSome then serviceLanes g else liveLanes g

theorem joinCheck_waits {g : Group} (h : joinAwaited g = 0 ∨ joinAwaited g &&& ~~~ joinLanes g ≠ 0) : joinCheck g = g := by
  have hno : (joinAwaited g != 0 && joinAwaited g &&& ~~~ joinLanes g == 0) = false := by
    rcases h with h | h
    · rw [h]
      rfl
    · rw [beq_eq_false_iff_ne.mpr h, Bool.and_false]
  exact if_neg (Bool.eq_false_iff.mp hno)

theorem joinCheck_releases {g : Group} (h0 : joinAwaited g ≠ 0) (h : joinAwaited g &&& ~~~ joinLanes g = 0) :
    joinCheck g = releaseJoin g (joinAwaited g) :=
  if_pos (Bool.and_eq_true_iff.mpr ⟨bne_iff_ne.mpr h0, beq_iff_eq.mpr h⟩)

theorem joinCheck_cases (g : Group) : joinCheck g = g ∨ joinCheck g = releaseJoin g (joinAwaited g) := by
  by_cases h : joinAwaited g = 0 ∨ joinAwaited g &&& ~~~ joinLanes g ≠ 0
  · exact .inl (joinCheck_waits h)
  · rw [not_or, not_not] at h
    exact .inr (joinCheck_releases h.1 h.2)

theorem joinCheck_frame (g : Group) : joinCheck g = { g with entries := (joinCheck g).entries } := by
  rcases joinCheck_cases g with h | h <;> rw [h]
  rfl

theorem joinCheck_uid (g : Group) : (joinCheck g).uid = g.uid := by rw [joinCheck_frame]
theorem joinCheck_gid (g : Group) : (joinCheck g).gid = g.gid := by rw [joinCheck_frame]

theorem releaseJoin_entries (g : Group) (m : Mask) : (releaseJoin g m).entries =
    (splitAt g.entries m).map (fun e => if e.st = .waitingJoin ∧ e.mask &&& m ≠ 0 then e.pass else e) := by
  simp [releaseJoin]

/-- The issuing group once its entry has been replaced by the parts. -/
def issuedGroup (i : Issuer) (parts : List Entry) : Group := { replaceEntry i.g i.e parts with begun := true }

/-- The entries that a JOIN leaves: the active lanes wait, the others go on. -/
def joinParts (i : Issuer) (m : Mask) : List Entry :=
  [issuedAge { i.e with mask := m, st := .waitingJoin, skip := i.len }, i.onward (i.others m)]

theorem exec_join_reaches {s : State} {i : Issuer} {f : Fx} (h : Reaches s i f false) : exec (.join f) s = .next (onIssuing (endIssue s i true
    (joinParts i (i.active f)) []) i joinCheck) := by
  rw [exec_join, execJoin, onIssue_reaches h]
  rfl

/-! ### The masks of a split (R19) -/

theorem mem_insertByLane {e x : Entry} {l : List Entry} (h : x ∈ insertByLane e l) : x = e ∨ x ∈ l := by
  induction l with
  | nil => exact .inl (by simpa [insertByLane] using h)
  | cons a r ih =>
    unfold insertByLane at h
    split at h
    · exact List.mem_cons.mp h
    · rcases List.mem_cons.mp h with rfl | h
      · exact .inr List.mem_cons_self
      · exact (ih h).imp_right (List.mem_cons_of_mem _)

/-- What every step of a fold keeps of its result, the fold keeps. -/
theorem foldl_invariant {α β : Type} {P : β → Prop} {f : β → α → β} {l : List α} {b : β} (hb : P b) (hf : ∀ b, ∀ a ∈ l, P b → P (f b a)) :
    P (l.foldl f b) := by
  induction l generalizing b with
  | nil => exact hb
  | cons a r ih => exact ih (hf b a List.mem_cons_self hb) (fun b x hx => hf b x (List.mem_cons_of_mem _ hx))

/-- A split gives places, and leaves the masks of the parts. -/
theorem mask_of_mem_splitParts {P : Mask → Prop} {last : Nat} {e : Entry} {parts : List Entry} (h : ∀ p ∈ parts, P p.mask) :
    ∀ x ∈ splitParts last e parts, P x.mask := by
  unfold splitParts
  split
  · exact h
  · refine foldl_invariant (P := fun a : List Entry × Nat => ∀ x ∈ a.1, P x.mask) (by simp) fun a p hp ha => ?_
    have hsorted : ∀ x ∈ parts.foldl (fun a p => insertByLane p a) [], P x.mask :=
      foldl_invariant (P := fun a : List Entry => ∀ x ∈ a, P x.mask) (by simp)
        fun a p hp ha x hx => (mem_insertByLane hx).elim (fun hxp => hxp ▸ h p hp) (ha x)
    split <;>
      exact fun x hx => (List.mem_append.mp hx).elim (ha x) fun hx => by
        rw [List.mem_singleton.mp hx]
        exact hsorted p hp

/-- What holds of the masks of a frontier, and of every part of a mask of which it holds, holds of the masks of its split. -/
theorem mask_of_mem_splitAt {P : Mask → Prop} (hpart : ∀ a b, P a → P (a &&& b)) {l : List Entry} {m : Mask} (h : ∀ e ∈ l, P e.mask) :
    ∀ x ∈ splitAt l m, P x.mask := by
  refine foldl_invariant (P := fun a : List Entry × Nat => ∀ x ∈ a.1, P x.mask) (by simp) fun a e he ha => ?_
  have hparts : ∀ p ∈ [{ e with mask := e.mask &&& m }, { e with mask := e.mask &&& ~~~ m }], P (Entry.mask p) := by
    simp only [List.forall_mem_cons]
    exact ⟨hpart _ _ (h e he), hpart _ _ (h e he), by simp⟩
  split
  · exact fun x hx => (List.mem_append.mp hx).elim (ha x) fun hx => by
      rw [List.mem_singleton.mp hx]
      exact h e he
  · exact fun x hx => (List.mem_append.mp hx).elim (ha x) (mask_of_mem_splitParts hparts x)

theorem splitAt_nil (m : Mask) : splitAt [] m = [] := rfl

theorem ageOf_mask (e : Entry) (l : List Entry) : (e.ageOf l).mask = e.mask := by
  cases l with
  | nil => rfl
  | cons a r => exact foldl_keeps Entry.mask Entry.ageWith (fun _ _ => rfl) r _

/-! ### A group of which lanes have exited (R34) -/

/-- Lanes of a group have exited: they stand in no entry, and a group that has ended holds no register; one that has not has kept its own. -/
structure LanesExited (base : Group) (m : Mask) (g : Group) : Prop where
  exited : g.exited = base.exited ||| m
  apart : ∀ e ∈ g.entries, e.mask &&& m = 0
  ended : g.ended = true → g.v = [] ∧ g.s = [] ∧ g.p = [] ∧ g.entries = [] ∧ g.service = none
  running : g.ended = false → g.v = base.v ∧ g.s = base.s ∧ g.p = base.p

theorem apart_of_and {m : Mask} (a b : Mask) (h : a &&& m = 0) : a &&& b &&& m = 0 := by
  rw [BitVec.and_assoc, BitVec.and_comm b m, ← BitVec.and_assoc, h]
  exact BitVec.zero_and

theorem serviceLanes_apart {base g : Group} {m : Mask} (h : LanesExited base m g) : serviceLanes g &&& m = 0 := by
  rw [serviceLanes, liveLanes, h.exited]
  ext l hl
  simp only [BitVec.getElem_and, BitVec.getElem_not, BitVec.getElem_or]
  cases m[l] <;> simp

section Exited

variable {base g : Group} {m : Mask}

/-- New entries keep what is said, when they keep clear of the lanes and a group that has ended gets none. -/
theorem LanesExited.withEntries (h : LanesExited base m g) {l : List Entry} (ha : ∀ e ∈ l, e.mask &&& m = 0) (hn : g.entries = [] → l = []) :
    LanesExited base m { g with entries := l } where
  exited := h.exited
  apart := ha
  ended he := by
    obtain ⟨hv, hs, hp, hentries, hservice⟩ := h.ended he
    exact ⟨hv, hs, hp, hn hentries, hservice⟩
  running := h.running

theorem LanesExited.split (h : LanesExited base m g) (k : Mask) : ∀ e ∈ splitAt g.entries k, e.mask &&& m = 0 :=
  mask_of_mem_splitAt (P := fun x => x &&& m = 0) apart_of_and h.apart

theorem LanesExited.joinCheck (h : LanesExited base m g) : LanesExited base m (joinCheck g) := by
  rcases joinCheck_cases g with hj | hj
  · rwa [hj]
  · rw [hj]
    refine h.withEntries (fun e he => ?_) fun hnil => by rw [hnil, splitAt_nil, List.map_nil]
    obtain ⟨x, hx, rfl⟩ := List.mem_map.mp he
    split <;> exact h.split _ x hx

theorem endService_mask (e : Entry) : (endService e).mask = e.mask := by
  unfold endService
  split <;> rfl

theorem LanesExited.finishService (h : LanesExited base m g) : LanesExited base m (finishService g) := by
  unfold Machine.finishService
  split
  · exact h
  · rename_i sv hsv
    split
    · have hrun : g.ended = false := by
        cases he : g.ended
        · rfl
        · simp [(h.ended he).2.2.2.2] at hsv
      have hsplit := h.split (serviceLanes g)
      have hrest (back : Entry → Bool) : ∀ e ∈ ((splitAt g.entries (serviceLanes g)).filter (fun e => !back e)).map
          (fun e => if e.hold == .tret then e.pass else endService e), e.mask &&& m = 0 := by
        intro e he
        obtain ⟨x, hx, rfl⟩ := List.mem_map.mp he
        have hx := hsplit x (List.mem_filter.mp hx).1
        split
        · exact hx
        · rwa [endService_mask]
      refine ⟨h.exited, ?_, fun he => absurd (hrun.symm.trans he) Bool.false_ne_true, h.running⟩
      dsimp only
      split
      · exact hrest _
      · intro e he
        rcases List.mem_append.mp he with he | he
        · exact hrest _ e he
        · rw [List.mem_singleton.mp he, ageOf_mask]
          have hr : (resumeEntry g sv).mask = serviceLanes g := by
            unfold resumeEntry
            dsimp only
            split <;> rfl
          rw [hr]
          exact serviceLanes_apart h
    · exact h

/-- The entries of a group that wait at a barrier for a generation are ready (R28). -/
def wakeGroup (uid b gen : Nat) (g : Group) : Group :=
  if g.uid = uid then { g with entries := g.entries.map (fun e =>
    if e.st = .waitingBarrier && e.hold = .barrier b gen then { e with st := .ready, hold := .none } else e) }
  else g

theorem LanesExited.wakeGroup (h : LanesExited base m g) (uid b gen : Nat) : LanesExited base m (wakeGroup uid b gen g) := by
  unfold Machine.wakeGroup
  split
  · refine h.withEntries (fun e he => ?_) fun hnil => by rw [hnil, List.map_nil]
    obtain ⟨x, hx, rfl⟩ := List.mem_map.mp he
    split <;> exact h.apart x hx
  · exact h

/-- Lanes of a group that stood as `base` exit. -/
theorem lanesExited_exitLanes {h : Group} (he : h.exited = base.exited) (hv : h.v = base.v) (hs : h.s = base.s) (hp : h.p = base.p) (m : Mask) :
    LanesExited base m (exitLanes h m) := by
  have hapart : ∀ e ∈ (dropLanes { h with exited := h.exited ||| m } m).entries, e.mask &&& m = 0 :=
    fun e he => beq_iff_eq.mp (List.mem_filter.mp he).2
  unfold exitLanes endGroup
  dsimp only
  split
  · rename_i hend
    exact ⟨congrArg (· ||| m) he, by simp, fun _ => ⟨rfl, rfl, rfl, rfl, rfl⟩, fun hn => absurd (hend.symm.trans hn) (by simp)⟩
  · rename_i hend
    exact ⟨congrArg (· ||| m) he, hapart, fun hn => absurd hn hend, fun _ => ⟨hv, hs, hp⟩⟩

end Exited

/-! ### What the exit of lanes may complete (R27, R28, R277) -/

theorem look_map_val {α : Type} (l : AMap α) (f : α → α) (k : Nat) : look (l.map (fun e => (e.1, f e.2))) k = (look l k).map f := by
  induction l with
  | nil => rfl
  | cons e r ih =>
    simp only [List.map_cons, look, ih]
    split <;> rfl

theorem groupAt_wakeBarrier (c : CoreState) (uid b gen n : Nat) : groupAt (wakeBarrier c uid b gen) n = (groupAt c n).map (wakeGroup uid b gen) := by
  rw [groupAt, groupAt, groups_wakeBarrier, ← look_map_val]
  congr 2
  funext e
  unfold wakeGroup
  split <;> rfl

/-- The group in a slot of a core is one of which lanes have exited. -/
def ExitedAt (base : Group) (m : Mask) (n : Nat) (c : CoreState) : Prop := ∃ g, groupAt c n = some g ∧ LanesExited base m g

section ExitedAt

variable {base : Group} {m : Mask} {n : Nat} {c : CoreState}

theorem ExitedAt.wakeBarrier (h : ExitedAt base m n c) (uid b gen : Nat) : ExitedAt base m n (wakeBarrier c uid b gen) := by
  obtain ⟨g, hg, he⟩ := h
  exact ⟨_, by rw [groupAt_wakeBarrier, hg, Option.map_some], he.wakeGroup uid b gen⟩

theorem ExitedAt.barrierCheck (h : ExitedAt base m n c) (t b : Nat) (named : Option Nat) (k : Nat) : ExitedAt base m n (barrierCheck c t b named k) := by
  induction k generalizing c with
  | zero => exact h
  | succ k ih =>
    unfold Machine.barrierCheck
    split
    · exact h
    · dsimp only
      split
      · exact ih (ExitedAt.wakeBarrier (c := setTeam c t _) h _ _ _)
      · exact h

theorem ExitedAt.clusterCheck {s : State} {k : Nat} (h : ExitedAt base m n (coreOf s k)) (launch cluster : Nat) :
    ExitedAt base m n (coreOf (clusterCheck s launch cluster) k) := by
  unfold Machine.clusterCheck
  dsimp only
  split
  · refine foldl_invariant (P := fun s : State => ExitedAt base m n (coreOf s k)) h fun s e _ hs => ?_
    by_cases hk : k = e.1
    · rw [← hk, coreOf_onCore_self]
      exact ExitedAt.wakeBarrier (c := setTeam (coreOf s k) _ _) hs _ _ _
    · rwa [coreOf_onCore_ne _ _ hk]
  · exact h

theorem ExitedAt.leaveCheck {s : State} {k : Nat} (h : ExitedAt base m n (coreOf s k)) (uid : Nat) :
    ExitedAt base m n (coreOf (leaveCheck s k uid) k) := by
  rw [Machine.leaveCheck, coreOf_onCore_self]
  split
  · exact h
  · dsimp only
    split <;> exact h

end ExitedAt

/-- What a check of the cluster's barrier leaves of the state: it touches cores alone. -/
theorem clusterCheck_keeps {β : Type} {p : State → β} (hp : ∀ s k f, p (onCore s k f) = p s) (s : State) (launch cluster : Nat) :
    p (clusterCheck s launch cluster) = p s := by
  unfold clusterCheck
  dsimp only
  split
  · exact foldl_keeps p _ (fun _ _ => hp _ _ _) _ _
  · rfl

/-- What follows the exit of lanes touches cores alone. -/
theorem afterExit_keeps {β : Type} {p : State → β} (hp : ∀ s k f, p (onCore s k f) = p s) (s : State) (i : Issuer) : p (afterExit s i) = p s := by
  rw [afterExit, leaveCheck, hp, clusterCheck_keeps hp, hp, onIssuing, onSlot, hp]

theorem exitedAt_afterExit {s : State} {i : Issuer} {g base : Group} {m : Mask} (hg : Holds s i g) (h : LanesExited base m g) :
    ExitedAt base m i.slot (coreOf (afterExit s i) i.k) := by
  unfold afterExit
  refine ExitedAt.leaveCheck (ExitedAt.clusterCheck ?_ _ _) _
  rw [coreOf_onCore_self]
  refine foldl_invariant (P := ExitedAt base m i.slot) ?_ fun c b _ hc => ?_
  · rw [onIssuing_eq hg, coreOf_onCore_self]
    exact ⟨_, groupAt_setGroup_self _ _ _, h.finishService.joinCheck⟩
  · split
    · split
      · exact hc.barrierCheck _ _ _ _
      · exact hc
    · exact hc

theorem exec_exit_reaches {s : State} {i : Issuer} {f : Fx} (h : Reaches s i f false) : exec (.exit f) s = .next (afterExit (drainCheck (onIssuing
    (endIssue s i true [i.onward (i.others (i.active f))] []) i (fun g => exitLanes g (i.active f))) i.k i.t i.g.uid) i) := by
  rw [exec_exit, execExit, onIssue_reaches h]

theorem exitLanes_frame (g : Group) (m : Mask) : (exitLanes g m).uid = g.uid ∧ (exitLanes g m).gid = g.gid := by
  unfold exitLanes endGroup
  dsimp only
  split <;> exact ⟨rfl, rfl⟩

theorem holds_drainCheck {s : State} {i : Issuer} {g : Group} (h : Holds s i g) (t uid : Nat) : Holds (drainCheck s i.k t uid) i g := by
  refine holds_onCore h _ ?_
  split <;> rfl

end Sys2Proof.Machine

namespace Sys2Proof.Proofs

open Sys2Proof Sys2Proof.Machine

/-- Settles O21: a JOIN ends in one check of the group; after an EXIT the lanes stay away from every entry through each check that follows. -/
theorem joinsAndExits : Obligations.JoinsAndExits := by
  refine ⟨fun f s i h => ?join, fun f s i h => ?exit⟩
  case join =>
    intro m _ awaited
    have hissuer := holds_of_issuer h.issuing
    have honly := onlyGroup_endIssue (onlyGroup_refl (issuer_slot h.issuing).2.1) hissuer true (joinParts i m)
    obtain ⟨t, ht, hissued, hcur, hg⟩ := endIssue_noTraps hissuer true (joinParts i m)
    rw [ht] at honly
    have hheld := holds_onIssuing hg joinCheck (joinCheck_uid _) (joinCheck_gid _)
    refine ⟨onIssuing t i joinCheck, joinCheck (issuedGroup i (joinParts i m)), by rw [exec_join_reaches h, ht], hissued, hcur,
      onlyGroup_onIssuing honly hg _, hheld.1, ?_, fun hw => congrArg Group.entries (joinCheck_waits hw), fun h0 hw => ?_⟩
    · rw [joinCheck_frame]
      rfl
    · exact (congrArg Group.entries (joinCheck_releases (g := issuedGroup i (joinParts i m)) h0 hw)).trans (releaseJoin_entries _ _)
  case exit =>
    intro m
    obtain ⟨t, ht, hissued, hcur, hg⟩ := endIssue_noTraps (holds_of_issuer h.issuing) true [i.onward (i.others m)]
    obtain ⟨huid, hgid⟩ := exitLanes_frame (issuedGroup i [i.onward (i.others m)]) m
    have hheld := holds_drainCheck (holds_onIssuing hg (fun g => exitLanes g m) huid hgid) i.t i.g.uid
    obtain ⟨g, hslot, hlanes⟩ := exitedAt_afterExit hheld
      (lanesExited_exitLanes (base := i.g) (h := issuedGroup i [i.onward (i.others m)]) rfl rfl rfl rfl m)
    have hexec := exec_exit_reaches h
    rw [ht] at hexec
    have hkeep {β : Type} (p : State → β) (hp : ∀ s k f, p (onCore s k f) = p s) := afterExit_keeps hp
      (drainCheck (onIssuing t i (fun g => exitLanes g m)) i.k i.t i.g.uid) i
    refine ⟨_, g, hexec, (hkeep State.issued fun _ _ _ => rfl).trans hissued, (hkeep State.cur fun _ _ _ => rfl).trans hcur,
      (hkeep State.mem fun _ _ _ => rfl).trans ?_, hslot, hlanes.exited, hlanes.apart, fun he => ?_, hlanes.running⟩
    · rw [← ht]
      rfl
    · obtain ⟨hv, hs, hp, hentries, _⟩ := hlanes.ended he
      exact ⟨hv, hs, hp, hentries⟩

end Sys2Proof.Proofs
end

section
/-! PROOF. What the translations of an access leave of the state: whatever does not read memory, its tags and poison, the dies, the
polders, the TLBs, the requests to the host, the fabric and the counter of free values. -/

namespace Sys2Proof.Machine

/-- A reading of the state that is blind to the parts which a translation may change. -/
def BlindToWalks {β : Type} (p : State → β) : Prop := ∀ (s : State) mem tags poison dies polders tlb xlreqs nextReq fabric fresh,
  p { s with mem := mem, tags := tags, poison := poison, dies := dies, polders := polders, tlb := tlb, xlreqs := xlreqs, nextReq := nextReq,
             fabric := fabric, fresh := fresh } = p s

theorem blindToWalks_ctxs : BlindToWalks State.ctxs := fun _ _ _ _ _ _ _ _ _ _ _ => rfl

namespace BlindToWalks

variable {β : Type} {p : State → β} (hp : BlindToWalks p)

include hp

theorem applyHome (s : State) (pa n m v : Nat) (t : Option (BitVec 4)) : p (applyHome s pa n m v t) = p s := by
  unfold Machine.applyHome
  refine (foldl_keeps p _ (fun s _ => hp s ..) _ _).trans ?_
  cases t <;> exact hp s ..

theorem deviceWrite (s : State) (pa n v : Nat) : p (deviceWrite s pa n v) = p s := by
  unfold Machine.deviceWrite
  refine (foldl_keeps p _ (fun s e => ?_) _ _).trans (hp.applyHome ..)
  split
  · exact hp s ..
  · rfl

theorem noteWritten (s : State) (q : Nat) (va : Word) (acc : Acc) (pa ipa : Nat) : p (noteWritten s q va acc pa ipa) = p s := by
  unfold Machine.noteWritten
  split
  · exact hp s ..
  · rfl

theorem onPolder (s : State) (q : Nat) (f : Polder → Polder) : p (onPolder s q f) = p s := hp s ..

theorem logDirty (s : State) (q a z : Nat) : p (logDirty s q a z) = p s := by
  unfold Machine.logDirty
  dsimp only
  split
  · rfl
  · split
    · exact hp s ..
    · exact (hp.onPolder ..).trans (hp.deviceWrite ..)

theorem setAd (s : State) (pa : Nat) (w : Bool) : p (setAd s pa w) = p s := by
  unfold Machine.setAd
  dsimp only
  generalize (if bitAt (homeRead s pa 8) 4 then homeRead s pa 8 else homeRead s pa 8 + 16) + _ = x
  split
  · rfl
  · exact hp.deviceWrite ..

theorem walkFrom {at' : State → Nat → Nat → State × (Nat ⊕ XFault)} (h : ∀ s a l, p (at' s a l).1 = p s) (cause : Nat) (st2 : Bool) (a : Nat) :
    ∀ n lvl s t, p (walkFrom at' cause st2 a n lvl s t).1 = p s := by
  intro n
  induction n with
  | zero => intros; rfl
  | succ n ih =>
    intro lvl s t
    unfold Machine.walkFrom
    have hat := h s (t + levelIndex a lvl * 8) lvl
    generalize at' s (t + levelIndex a lvl * 8) lvl = r at hat
    obtain ⟨s', pa | f⟩ := r
    rotate_left
    · exact hat
    · have hfresh : p { s' with fresh := s'.fresh + 1 } = p s := (hp s' ..).trans hat
      dsimp only at hat ⊢
      split
      · exact hat
      · split
        · exact hat
        · split
          · split
            · split
              · exact hfresh
              · split <;> exact hfresh
            · exact hat
          · exact (ih ..).trans hat

theorem stage2 (s : State) (q ipa : Nat) (acc : Acc) (d : Nat) : p (stage2 s q ipa acc d).1 = p s := by
  unfold Machine.stage2
  dsimp only
  split
  · rfl
  split
  · rfl
  have hw := hp.walkFrom (at' := fun s pa _ => (s, .inl pa)) (fun _ _ _ => rfl) causeXlate2 true ipa 5 0 s (fieldOf (polderOf s q).ps2root 12 40 * 4096)
  generalize Machine.walkFrom (fun s pa _ => (s, .inl pa)) causeXlate2 true ipa 5 0 s (fieldOf (polderOf s q).ps2root 12 40 * 4096) = r at hw
  obtain ⟨s', l | f⟩ := r
  rotate_left
  · exact hw
  · dsimp only at hw
    simp only [apply_ite Prod.fst, apply_ite p, hp.setAd, hp.logDirty, hw, ite_self]

theorem walk1 (s : State) (c q : Nat) (va : Word) (acc : Acc) (d : Nat) : p (walk1 s c q va acc d).1 = p s := by
  have hstep : ∀ s ipa lvl, p ((fun s ipa lvl => match Machine.stage2 s q ipa accRead d with
      | (s, .inl o) => (s, Sum.inl o.pa)
      | (s, .inr f) => (s, Sum.inr ({ cause := causeWalk2, sub := f.sub, level := lvl, ipa := ipa } : XFault)) : State → Nat → Nat → State × (Nat ⊕ XFault)) s ipa lvl).1 = p s := by
    intro s ipa lvl
    have h2 := hp.stage2 s q ipa accRead d
    dsimp only
    split <;> (rename_i he; rw [he] at h2; exact h2)
  unfold Machine.walk1
  dsimp only
  split
  · rfl
  split <;> rename_i s' x he
  · exact (congrArg (fun r => p r.1) he).symm.trans (hp.walkFrom hstep ..)
  · have hw : p s' = p s := (congrArg (fun r => p r.1) he).symm.trans (hp.walkFrom hstep ..)
    split
    · exact hw
    split
    · exact hw
    have h2 := hp.stage2 s' q x.out acc d
    split <;> rename_i he2 <;> rw [he2] at h2
    · exact h2.trans hw
    · exact (hp.setAd ..).trans (h2.trans hw)

theorem hostXlate (s : State) (k : Nat) (ctx : BitVec 10) (q : Nat) (va : Word) (acc : Acc) : p (hostXlate s k ctx q va acc).1 = p s := by
  unfold Machine.hostXlate
  split
  · rfl
  split
  · exact hp s ..
  rename_i n r _
  dsimp only
  have hdel : p { s with xlreqs := del s.xlreqs n } = p s := hp s ..
  split
  · exact hdel
  split
  · rfl
  rename_i ipa size w x status _
  split
  · exact hdel
  split
  · exact hdel
  have h2 := hp.stage2 { s with xlreqs := del s.xlreqs n } q (ipa + fieldOf va 0 56 % 2 ^ sizeBits size) acc (dieOfCore k)
  split <;> rename_i he <;> rw [he] at h2
  · exact h2.trans hdel
  · split
    · exact h2.trans hdel
    · exact (hp _ ..).trans (h2.trans hdel)

theorem translate (s : State) (k : Nat) (ctx : BitVec 10) (va : Word) (acc : Acc) : p (translate s k ctx va acc).1 = p s := by
  unfold Machine.translate
  dsimp only
  split
  · exact hp.noteWritten ..
  split
  · have h1 := hp.walk1 s ctx.toNat (ctxOf s ctx.toNat).polder va acc (dieOfCore k)
    split <;> rename_i he <;> rw [he] at h1
    · exact h1
    · exact (hp _ ..).trans ((hp.noteWritten ..).trans h1)
  split
  · exact hp.hostXlate ..
  · rfl

theorem checkAccess (s : State) (k : Nat) (ctx : BitVec 10) (q : Need) (w : List (Word × XFault)) (ps : List (Word × Nat × Nat)) (va : Word) :
    p (checkAccess s k ctx q w ps va).1 = p s := by
  unfold Machine.checkAccess
  split
  · dsimp only
    split <;> rfl
  split
  · split <;> rfl
  split
  · rfl
  split
  · rfl
  have h1 := hp.translate s k ctx va q.acc
  split <;> rename_i he <;> rw [he] at h1 <;> exact h1

theorem probeDeep (s : State) (i : Issuer) (q : Need) (l r : Nat) (a : Word) (pr : Probe) : p (probeDeep s i q l r a pr).1 = p s := by
  unfold Machine.probeDeep
  split
  · split
    · split <;> rfl
    · rfl
  · exact hp.checkAccess ..

theorem probeLane (i : Issuer) (g : Group) (q : Need) (a : State × Probe) (e : Nat × Word) : p (probeLane i g q a e).1 = p a.1 := by
  obtain ⟨s, pr⟩ := a
  unfold Machine.probeLane
  dsimp only
  split
  · rfl
  split
  · exact hp.probeDeep ..
  split
  · rfl
  split
  · rfl
  split
  · split
    · rfl
    · exact hp.probeDeep ..
  split
  · split
    · rfl
    · exact hp.probeDeep ..
  · split
    · exact hp.probeDeep ..
    · exact (hp.probeDeep ..).trans (hp.probeDeep ..)

theorem probe (s : State) (i : Issuer) (g : Group) (q : Need) (m : Mask) (ea : Nat → Word) : p (probe s i g q m ea).1 = p s := by
  unfold Machine.probe
  exact foldl_keeps (fun a : State × Probe => p a.1) (Machine.probeLane i g q) (fun a e => hp.probeLane i g q a e) _ _

end BlindToWalks

end Sys2Proof.Machine
end

section
/-! PROOF. What a new operation reads of the state, and that the write-backs which leave before a fabric access keep it. -/

namespace Sys2Proof.Machine

/-- What a new operation reads of the state. -/
def opView (s : State) : (Nat → Word) × AMap (BitVec 16) × (Nat → Word × Nat × BitVec 4) :=
  (fun c => (ctxOf s c).ctxcfg, s.device.vct, fun k => ((coreOf s k).ccyc, (coreOf s k).nextOp, (coreOf s k).suba))

theorem newOp_of_opView {s t : State} (h : opView t = opView s) (i : Issuer) (p : Plan) (m : Mask) (kind : OpKind) :
    newOp t i p m kind = newOp s i p m kind := by
  simp only [opView, Prod.mk.injEq] at h
  obtain ⟨hctx, hvct, hcore⟩ := h
  have hc := congrFun hctx i.ctx
  have hk := congrFun hcore i.k
  simp only [Prod.mk.injEq] at hk
  obtain ⟨hccyc, hnext, hsuba⟩ := hk
  have hdoubled : doubled (coreOf t i.k) p.cls = doubled (coreOf s i.k) p.cls := by simp only [doubled, hsuba]
  have hcharge : p.charge t i.k = p.charge s i.k := by simp only [Plan.charge, chargeOf, vctCharge, hvct, hdoubled]
  simp only [newOp, hcharge, Ctx.polder, Ctx.tagmode, hc, hccyc, hnext]

theorem blindToWalks_opView : BlindToWalks opView := fun _ _ _ _ _ _ _ _ _ _ _ => rfl

/-- A change of a core that keeps its clock, its number of operations and its sub-array fence. -/
theorem opView_onCore (s : State) (k : Nat) (f : CoreState → CoreState)
    (h : ∀ c, (f c).ccyc = c.ccyc ∧ (f c).nextOp = c.nextOp ∧ (f c).suba = c.suba) : opView (onCore s k f) = opView s := by
  have hk : ∀ j, ((coreOf (onCore s k f) j).ccyc, (coreOf (onCore s k f) j).nextOp, (coreOf (onCore s k f) j).suba) =
      ((coreOf s j).ccyc, (coreOf s j).nextOp, (coreOf s j).suba) := by
    intro j
    by_cases hj : j = k
    · subst hj
      rw [coreOf_onCore_self, (h _).1, (h _).2.1, (h _).2.2]
    · rw [coreOf_onCore_ne _ _ hj]
  simp only [opView, hk]
  rfl

theorem opView_setCtx (s : State) (c : Nat) (x : Ctx) (h : x.ctxcfg = (ctxOf s c).ctxcfg) : opView (setCtx s c x) = opView s := by
  have hc : ∀ j, (ctxOf (setCtx s c x) j).ctxcfg = (ctxOf s j).ctxcfg := by
    intro j
    unfold ctxOf setCtx at *
    by_cases hj : j = c
    · subst hj
      rw [lookD_put_self, h]
    · rw [lookD_put_ne _ _ _ hj]
  simp only [opView, hc]
  rfl

theorem opView_onCtx (s : State) (c : Nat) (f : Ctx → Ctx) (h : ∀ x, (f x).ctxcfg = x.ctxcfg) : opView (onCtx s c f) = opView s :=
  opView_setCtx _ _ _ (h _)

/-! ### Records of a context -/

theorem opView_forwardRecord (s : State) (q : Nat) (r : RecordBytes) : opView (forwardRecord s q r) = opView s := by
  unfold forwardRecord
  split <;> rfl

theorem ctxOf_forwardRecord (s : State) (q : Nat) (r : RecordBytes) (c : Nat) : ctxOf (forwardRecord s q r) c = ctxOf s c := by
  unfold forwardRecord
  split <;> rfl

theorem opView_appendCtx (s : State) (c : Nat) (r : RecordBytes) : opView (appendCtx s c r) = opView s := by
  unfold appendCtx
  dsimp only
  split
  · rfl
  split
  · refine (opView_setCtx _ _ _ ?_).trans (opView_forwardRecord ..)
    rw [ctxOf_forwardRecord]
  · refine (opView_onCtx _ _ _ ?_).trans ((blindToWalks_opView.deviceWrite ..).trans (opView_forwardRecord ..))
    intro x
    rfl

/-! ### Write-backs -/

theorem opView_spoilHome (s : State) (pa : Nat) (bad : Bool) : opView (spoilHome s pa bad) = opView s := by
  unfold spoilHome
  split <;> rfl

theorem opView_noteLast (s : State) (line a : Nat) (v : List Word) : opView (noteLast s line a v) = opView s := by
  unfold noteLast
  split <;> rfl

theorem opView_dieWriteP (s : State) (d pa n mask v : Nat) (tag : Option (BitVec 4)) (bad : Bool) (org : Option Origin) :
    opView (dieWriteP s d pa n mask v tag bad org) = opView s := by
  have happly : ∀ s, opView (spoilHome (applyHome s pa n mask v tag) pa bad) = opView s := fun s =>
    (opView_spoilHome ..).trans (blindToWalks_opView.applyHome ..)
  unfold dieWriteP
  dsimp only
  split
  · rfl
  split
  · exact happly s
  refine (foldl_keeps opView _ (fun s e => ?_) _ _).trans ?_
  · split
    · rfl
    · split <;> rfl
  · split
    · exact (opView_noteLast ..).trans (happly _)
    · rfl

theorem opView_spendTok (s : State) (k : Nat) (ctx : BitVec 10) (n : Nat) : opView (spendTok s k ctx n) = opView s := by
  refine opView_onCore _ _ _ fun c => ?_
  split <;> exact ⟨rfl, rfl, rfl⟩

theorem opView_countEvent (s : State) (k : Nat) (ctx : Option (BitVec 10)) (code n : Nat) : opView (countEvent s k ctx code n) = opView s := by
  unfold countEvent countFor
  dsimp only
  split
  · rfl
  split
  · rfl
  · exact opView_onCore _ _ _ fun c => ⟨rfl, rfl, rfl⟩

theorem opView_performWriteBack (s : State) (k : Nat) (w : WriteBack) (pa : Nat) : opView (performWriteBack s k w pa) = opView s := by
  have hmark : ∀ b : Bool, opView (if b then markWritten s (homeDie pa) w.polder.toNat w.ipa else s) = opView s := fun b => by cases b <;> rfl
  have htake : ∀ s, opView (takeSector s k w.ctx pa) = opView s := fun s => by
    unfold takeSector
    dsimp only
    split
    · exact (blindToWalks_opView.onPolder ..).trans (opView_spendTok ..)
    · exact opView_spendTok ..
  exact (opView_dieWriteP ..).trans ((opView_countEvent ..).trans ((htake _).trans (hmark _)))

theorem opView_portWait (s : State) (k : Nat) (ctx : BitVec 10) (r : PortReq) : opView (portWait s k ctx r) = opView s :=
  opView_onCore _ _ _ fun _ => ⟨rfl, rfl, rfl⟩

theorem opView_sendWriteBack (s : State) (k op : Nat) (w : WriteBack) : opView (sendWriteBack s k op w) = opView s := opView_countEvent ..

theorem opView_landWb (s : State) (k n : Nat) (now : Bool) : opView (landWb s k n now) = opView s := by
  unfold landWb
  dsimp only
  split
  · rfl
  split
  · rfl
  split
  · split
    · rfl
    split
    · exact opView_portWait ..
    · exact (opView_onCore _ _ _ (by intro c; exact ⟨rfl, rfl, rfl⟩)).trans (opView_performWriteBack ..)
  · split
    · rfl
    · exact (opView_onCore _ _ _ (by intro c; exact ⟨rfl, rfl, rfl⟩)).trans (opView_sendWriteBack ..)

theorem opView_landSector (s : State) (k : Nat) (w : WriteBack) (now : Bool) : opView (landSector s k w now) = opView s :=
  foldl_keeps opView _ (fun _ _ => opView_landWb ..) _ _

theorem opView_refuseUncovered (s : State) (k : Nat) (w : WriteBack) (cause sub : Nat) : opView (refuseUncovered s k w cause sub) = opView s :=
  (opView_onCore _ _ _ (by intro c; exact ⟨rfl, rfl, rfl⟩)).trans (opView_appendCtx ..)

theorem opView_sendOff (s : State) (k : Nat) (w : WriteBack) : opView (sendOff s k w) = opView s := by
  unfold sendOff
  dsimp only
  split
  · split
    · exact (opView_onCore _ _ _ (by intro c; exact ⟨rfl, rfl, rfl⟩)).trans (opView_landSector ..)
    · exact (opView_refuseUncovered ..).trans (opView_landSector ..)
  · exact (opView_landWb ..).trans ((opView_onCore _ _ _ (by intro c; exact ⟨rfl, rfl, rfl⟩)).trans (opView_landSector ..))

theorem opView_writeBackNow (s : State) (k key j : Nat) : opView (writeBackNow s k key j) = opView s := by
  unfold writeBackNow
  split
  · rfl
  dsimp only
  split
  · rfl
  · exact (opView_sendOff ..).trans (opView_onCore _ _ _ fun _ => ⟨rfl, rfl, rfl⟩)

theorem opView_homeFirst (s : State) (k : Nat) (ctx : BitVec 10) (home : LineHome) (va : Word) : opView (homeFirst s k ctx home va) = opView s := by
  unfold homeFirst
  refine (opView_landSector ..).trans ?_
  split
  · rfl
  · exact (opView_onCore _ _ _ (by intro c; exact ⟨rfl, rfl, rfl⟩)).trans (opView_writeBackNow ..)

theorem opView_fabricFirst (s : State) (i : Issuer) (accs : List LaneAcc) : opView (fabricFirst s i accs) = opView s :=
  foldl_keeps opView _ (fun _ _ => foldl_keeps opView _ (fun _ _ => opView_homeFirst ..) _ _) _ _

end Sys2Proof.Machine
end

section
/-! PROOF. The merge instructions (R363 to R367): an operation is started, and lanes wait at the instruction for it. -/

namespace Sys2Proof.Machine

theorem ctxOf_applyReleases (s : State) (i : Issuer) (p : Plan) (c : Nat) : ctxOf (applyReleases s i p) c = ctxOf s c := rfl

theorem ctxOf_found (s : State) (i : Issuer) (p : Plan) (q : Need) (m : Mask) (ea : Group → Nat → Word) (c : Nat) :
    ctxOf (found s i p q m ea).1 c = ctxOf s c := by
  have h : (found s i p q m ea).1.ctxs = s.ctxs := by
    unfold found
    rw [blindToWalks_ctxs.probe, readView_state]
  rw [ctxOf, ctxOf, h]

/-! ### The lanes of an issue that wait at their instruction -/

/-- A part without lanes leaves no entry. -/
theorem replaceEntry_empty_last (g : Group) (e x : Entry) {y : Entry} (h : y.mask = 0) : replaceEntry g e [x, y] = replaceEntry g e [x] := by
  simp [replaceEntry, List.filter_cons, h]

theorem endIssue_empty_last (s : State) (i : Issuer) (x : Entry) {y : Entry} (h : y.mask = 0) : endIssue s i true [x, y] [] = endIssue s i true [x] [] := by
  have hg : (fun g => { replaceEntry g i.e [x, y] with begun := true }) = (fun g => { replaceEntry g i.e [x] with begun := true }) := by
    funext g
    rw [replaceEntry_empty_last g i.e x h]
  unfold endIssue takeTraps
  simp only [List.flatMap_nil, List.foldl_nil, List.append_nil, hg]

theorem completeWait_noTraps (s : State) (i : Issuer) (m : Mask) (h : Hold) : completeWait s i m h [] =
    endIssue s i true [issuedAge { i.e with mask := m, hold := h, skip := i.len }, i.onward (i.others m)] [] := by
  have hm : m ||| (0 : Mask) = m := BitVec.or_zero
  simp only [completeWait, List.foldl_nil, and_not_zero, hm]

theorem others_all (i : Issuer) : i.others i.e.mask = 0 := BitVec.and_not_self _

theorem awaitAccept_noTraps (s : State) (i : Issuer) (n : Nat) : awaitAccept s i n [] =
    endIssue s i true [issuedAge { i.e with hold := .accept [n], skip := i.len }] [] := by
  rw [awaitAccept, completeWait_noTraps]
  exact endIssue_empty_last _ _ _ (others_all i)

theorem parkRemote_noTraps (s : State) (i : Issuer) (m : Mask) (n : Nat) : parkRemote s i m n [] =
    endIssue s i true [issuedAge { i.e with mask := m, st := .parkedRemote, hold := .remote n, skip := i.len }, i.onward (i.others m)] [] := by
  have h : trapLanes [] = 0 := rfl
  simp only [parkRemote, h, and_not_zero]

/-! ### The start of an operation that lanes wait for -/

theorem opOf_endIssue {s : State} {i : Issuer} {g : Group} (h : Holds s i g) (parts : List Entry) (n : Nat) :
    opOf (endIssue s i true parts []) i.k n = opOf s i.k n := by
  unfold endIssue takeTraps
  simp only [List.flatMap_nil, List.foldl_nil, List.append_nil]
  refine Eq.trans ?_ (opOf_onIssuing h (fun g => { replaceEntry g i.e parts with begun := true }) n)
  show opOf (markBegun (onIssuing s i (fun g => { replaceEntry g i.e parts with begun := true })) i) i.k n = _
  unfold markBegun opOf
  rw [coreOf_onCore_self]

/-- The operation is in flight when the issue ends, and the lanes stand where the parts say. -/
theorem startOp_startsOpAt {base s : State} {i : Issuer} {g : Group} (hb : OnlyGroup base s i) (hg : Holds s i g)
    (hf : g = { i.g with v := g.v, badV := g.badV, pend := g.pend }) (o : Op) (parts : List Entry) :
    StartsOpAt base i o.flag o parts (fun x => x.v = g.v) (.next (endIssue (startOp s i o).1 i true parts [])) := by
  obtain ⟨hadd, hcount, hop, -⟩ := startOp_spec hb hg o
  have hc := countFlag_frame g o.flag
  have hflags : (countFlag g o.flag).f = (countFlag i.g o.flag).f := by
    rw [hf]
    cases o.flag <;> rfl
  have hentries : (countFlag g o.flag).entries = i.g.entries := by rw [hc, hf]
  refine ⟨_, _, rfl, endIssue_issued hadd hcount hentries parts, ?_, ?_, ?_, ?_, ?_⟩
  · rw [opOf_endIssue hcount, hop]
  · rw [countFlag_frame i.g, ← hflags, hc, hf]
    rfl
  · rw [hc, hf]
    rfl
  · rw [hc, hf]
    rfl
  · rw [hc]
    rfl

theorem StartsOpAt.weaken {base : State} {i : Issuer} {flag : Option Nat} {op : Op} {parts : List Entry} {P Q : Group → Prop} {o : Out}
    (h : StartsOpAt base i flag op parts P o) (hpq : ∀ g, P g → Q g) : StartsOpAt base i flag op parts Q o := by
  obtain ⟨t, g, ho, his, hop, hrest, hp, hs, hv⟩ := h
  exact ⟨t, g, ho, his, hop, hrest, hp, hs, hpq g hv⟩

/-- The same of an instruction that changes nothing before. -/
theorem startOp_startsOpAt_of_issuer {s : State} {i : Issuer} (h : issuer s = some i) (o : Op) (parts : List Entry) :
    StartsOpAt s i o.flag o parts (fun g => g.v = i.g.v) (.next (endIssue (startOp s i o).1 i true parts [])) :=
  startOp_startsOpAt (onlyGroup_refl (issuer_slot h).2.1) (holds_of_issuer h) rfl o parts

/-- The same of an instruction whose operands the translations of its accesses and the releases of its names come before. -/
theorem startOp_startsOpAt_found {s : State} {i : Issuer} (h : issuer s = some i) (p : Plan) (q : Need) (m : Mask) (ea : Group → Nat → Word)
    (o : Op) (parts : List Entry) :
    StartsOpAt (found s i p q m ea).1 i o.flag o parts
      (fun g => ∀ n, look g.v n = if n ∈ released p.rel (p.dst.map (·.1)) then none else look i.g.v n)
      (.next (endIssue (startOp (applyReleases (found s i p q m ea).1 i p) i o).1 i true parts [])) := by
  have hheld := holds_found h p q m ea
  refine (startOp_startsOpAt (onlyGroup_applyReleases (onlyGroup_found h p q m ea) hheld p) (holds_applyReleases hheld p) rfl o parts).weaken ?_
  intro g hv n
  rw [hv, look_releaseNames]

theorem ccyc_applyReleases_found {s : State} {i : Issuer} (h : issuer s = some i) (p : Plan) (q : Need) (m : Mask) (ea : Group → Nat → Word) :
    (coreOf (applyReleases (found s i p q m ea).1 i p) i.k).ccyc = (coreOf s i.k).ccyc := by
  have hcore := (onlyGroup_applyReleases (onlyGroup_found h p q m ea) (holds_found h p q m ea) p).core
  rw [coreOf_of_cores (cores_found s i p q m ea)] at hcore
  have hccyc := congrArg CoreState.ccyc hcore
  exact hccyc

theorem startedOps_eq_opFrames (s : State) (k n : Nat) : startedOps s k n = ((opFrames (coreOf s k)).filter (fun e => n ≤ e.1)).map (·.1) := by
  simp [startedOps, opFrames, List.filter_map, Function.comp_def]

theorem startedOps_of_onlyGroup {s t : State} {i : Issuer} (h : OnlyGroup s t i) (n : Nat) : startedOps t i.k n = startedOps s i.k n := by
  rw [startedOps_eq_opFrames, startedOps_eq_opFrames, h.ops]

/-! ### The instructions on a handle -/

theorem startOp_number {s : State} {i : Issuer} (h : issuer s = some i) (o : Op) : (startOp s i o).2 = nextOp s i :=
  (startOp_spec (onlyGroup_refl (issuer_slot h).2.1) (holds_of_issuer h) o).2.2.2

section Handle

variable (s : State) (f : Fx) (i : Issuer)

/-- The plan of MCLOSE. -/
def closePlan : Plan :=
  let p := mergePlan s f 10 1 i (i.active f)
  { p with ready := p.ready && noStages (coreOf s i.k) i.g && (!(handleOf i.g f).remote || 1 ≤ contsFree (coreOf s i.k)) }

/-- The operations that MCLOSE of a remote handle, and MCLOSE, MABORT and MSTAT of a local one start. -/
def remoteCloseOp : Op :=
  { newOp s i (closePlan s f i) (i.active f) (.remoteClose ((freeConts (coreOf s i.k) 1).headD 0)) with tracker := 1 }

def closeOp : Op :=
  let h := handleOf i.g f
  { newOp s i (closePlan s f i) (i.active f) (.close (handleSet h.word) (handleGen h.word) h.id) with tracker := 1 }

def abortOp : Op :=
  let h := handleOf i.g f
  { newOp s i (mergePlan s f 10 1 i (i.active f)) (i.active f) (.mabort (handleSet h.word) (handleGen h.word) h.id) with
    tracker := 1, dest := .s f.d.num }

def statOp : Op :=
  let h := handleOf i.g f
  { newOp s i (mergePlan s f 8 0 i (i.active f)) (i.active f) (.mstat (handleSet h.word) (handleGen h.word) h.id) with dest := .s f.d.num }

variable {s f i}

theorem exec_mclose_remote (hr : (handleOf i.g f).remote = true) (h : Issues s i f false (closePlan s f i)) :
    exec (.mclose f) s = .next (
      let r := startOp s i (remoteCloseOp s f i)
      let u := takeCont r.1 i.k ((freeConts (coreOf s i.k) 1).headD 0) r.2 [] (closePacket r.1 i.g.ctx (handleOf i.g f))
      awaitAccept (submit u.1 i.k r.2 u.2) i r.2 []) := by
  rw [exec_mclose, execMclose, onIssue_effect h]
  exact congrArg Host.Outcome.next ((passing_pass h.passes _).trans (if_pos hr))

theorem exec_mclose_local (hr : (handleOf i.g f).remote = false) (h : Issues s i f false (closePlan s f i)) :
    exec (.mclose f) s = .next (awaitAccept (startOp s i (closeOp s f i)).1 i (startOp s i (closeOp s f i)).2 []) := by
  rw [exec_mclose, execMclose, onIssue_effect h]
  exact congrArg Host.Outcome.next ((passing_pass h.passes _).trans (if_neg (ne_true_of_eq_false hr)))

theorem exec_mabort_remote (hr : (handleOf i.g f).remote = true) (h : Issues s i f false (mergePlan s f 10 1 i (i.active f))) :
    exec (.mabort f) s = .next (complete s i [remoteTrap (i.active f)]) := by
  rw [exec_mabort, execMabort, onIssue_effect h]
  exact congrArg Host.Outcome.next ((passing_pass h.passes _).trans (if_pos hr))

theorem exec_mabort_local (hr : (handleOf i.g f).remote = false) (h : Issues s i f false (mergePlan s f 10 1 i (i.active f))) :
    exec (.mabort f) s = .next (completeWait (startOp s i (abortOp s f i)).1 i (i.active f) (.accept [(startOp s i (abortOp s f i)).2]) []) := by
  rw [exec_mabort, execMabort, onIssue_effect h]
  exact congrArg Host.Outcome.next ((passing_pass h.passes _).trans (if_neg (ne_true_of_eq_false hr)))

theorem exec_mstat_remote (hr : (handleOf i.g f).remote = true) (h : Issues s i f false (mergePlan s f 8 0 i (i.active f))) :
    exec (.mstat f) s = .next (complete s i [remoteTrap (i.active f)]) := by
  rw [exec_mstat, execMstat, onIssue_effect h]
  exact congrArg Host.Outcome.next ((passing_pass h.passes _).trans (if_pos hr))

theorem exec_mstat_local (hr : (handleOf i.g f).remote = false) (h : Issues s i f false (mergePlan s f 8 0 i (i.active f))) :
    exec (.mstat f) s = .next (parkRemote (startOp s i (statOp s f i)).1 i (i.active f) (startOp s i (statOp s f i)).2 []) := by
  rw [exec_mstat, execMstat, onIssue_effect h]
  exact congrArg Host.Outcome.next ((passing_pass h.passes _).trans (if_neg (ne_true_of_eq_false hr)))

end Handle

/-! ### MOPEN -/

/-- The need of MOPEN's one access. -/
def openNeed : Need := { acc := accRead, n := 64 }

section Open

variable (s : State) (f : Fx) (i : Issuer)

def openPlan : Plan := mergePlan s f 10 1 i (i.active f)

/-- The state in which MOPEN's access is found, and its operation once the names are released. -/
def openBase : State := (found s i (openPlan s f i) openNeed (maskOfLanes [lowestLane (i.active f)]) (fun g => eaAt g f false)).1

def openOp : Op :=
  let l := lowestLane (i.active f)
  { newOp (applyReleases (openBase s f i) i (openPlan s f i)) i (openPlan s f i) (i.active f)
      (.mopen (eaAt (readView s i.g (openPlan s f i).srcs).2 f false l) l) with tracker := 1, dest := .s f.d.num }

variable {s f i}

theorem exec_mopen_clear (h : Issues s i f false (openPlan s f i))
    (hc : Clear s i (openPlan s f i) openNeed (maskOfLanes [lowestLane (i.active f)]) (fun g => eaAt g f false) (fun _ _ => none)) :
    exec (.mopen f) s = .next (
      let t := applyReleases (openBase s f i) i (openPlan s f i)
      let u := (startOp t i (openOp s f i)).1
      completeWait u i (i.active f) (.accept (startedOps u i.k (coreOf t i.k).nextOp)) []) := by
  obtain ⟨hbad, hwait, htags, -⟩ := hc
  rw [exec_mopen, execMopen, onceOp, onIssue_effect h]
  refine congrArg Host.Outcome.next ((passing_pass h.passes _).trans ?_)
  unfold openOp openBase openPlan openNeed at *
  unfold found at *
  dsimp only
  rw [hwait]
  exact finishMem_clear _ hbad htags h.active

theorem opOf_openOp (h : issuer s = some i) : OpOf s i (openOp s f i) (i.active f) (openPlan s f i).flag :=
  ⟨rfl, rfl, rfl, rfl, rfl, rfl, ccyc_applyReleases_found h ..⟩

theorem openOp_startsOpAt (h : Issues s i f false (openPlan s f i))
    (hc : Clear s i (openPlan s f i) openNeed (maskOfLanes [lowestLane (i.active f)]) (fun g => eaAt g f false) (fun _ _ => none)) :
    StartsOpAt (openBase s f i) i (openPlan s f i).flag (openOp s f i)
      [issuedAge { i.e with
          mask := i.active f
          hold := .accept (startedOps (addOp (openBase s f i) i.k (openOp s f i)).1 i.k (nextOp (openBase s f i) i))
          skip := i.len },
        i.onward (i.others (i.active f))]
      (fun g => ∀ n, look g.v n = if n ∈ released (relNames f) [] then none else look i.g.v n) (exec (.mopen f) s) := by
  have hheld : Holds (openBase s f i) i i.g := holds_found h.issuing _ _ _ _
  have honly : OnlyGroup (openBase s f i) (applyReleases (openBase s f i) i (openPlan s f i)) i :=
    onlyGroup_applyReleases (onlyGroup_found h.issuing _ _ _ _) hheld _
  have hadd := (startOp_spec honly (holds_applyReleases hheld _) (openOp s f i)).1
  rw [exec_mopen_clear h hc]
  dsimp only
  rw [completeWait_noTraps, nextOp_of_onlyGroup honly, startedOps_of_onlyGroup hadd]
  exact startOp_startsOpAt_found h.issuing (openPlan s f i) _ _ _ (openOp s f i) _

end Open

/-! ### MSTG -/

section Stage

variable (s : State) (f : Fx) (i : Issuer)

/-- The plan of MSTG. -/
def stagePlan : Plan :=
  let p := mergePlan s f 10 (stageEntries f (i.active f)) i (i.active f)
  { p with ready := p.ready && fabricReady (coreOf s i.k) i.g ((lanesIn (i.active f)).map (stageAddr i.g f)) (stageEntries f (i.active f)) }

/-- What the translations of MSTG leave and find, and the accesses of its lanes. -/
def stageFound : State × Probe := found s i (stagePlan s f i) (stageNeed f) (i.active f) (fun g => stageAddr g f)

def stageAccs : List LaneAcc := ofLanes (i.active f) (stageFound s f i).2.byLane

/-- The elements on this side (`far = false`) or in the fabric window, and the lines of the latter. -/
def stageSide (far : Bool) : List (Mask × Word × Nat × BitVec 32) :=
  stageElems far ((ctxOf s i.g.ctx.toNat).tagmode != 0) (readView s i.g (stagePlan s f i).srcs).2 f (memCount f)
    ((stageAccs s f i).filter (fun a => if far then a.space == .fabric else a.space != .fabric))

def stageLines : List Word := ((stageSide s f i true).map (fun e => taggedLine e.2.1)).eraseDups

def stageMine (w : Word) : List (Mask × Word × Nat × BitVec 32) := (stageSide s f i true).filter (fun e => taggedLine e.2.1 == w)

def stageRemote : List (Nat × Mask) := (stageLines s f i).map (fun w => (w.toNat, (stageMine s f i w).foldl (fun m e => m ||| e.1) 0))

/-- The state in which MSTG's operation starts, and the operation. -/
def stageBase : State :=
  fabricFirst (applyReleases (stageFound s f i).1 i (stagePlan s f i)) i ((stageAccs s f i).filter (·.space == .fabric))

def stageOp (t : State) : Op :=
  let h := handleOf i.g f
  { newOp t i (stagePlan s f i) (i.active f)
      (.stage (handleSet h.word) (handleGen h.word) h.id (stageSide s f i false) (stageRemote s f i)) with
    tracker := (stageSide s f i false).length + (stageRemote s f i).length }

variable {s f i}

theorem exec_mstg_clear (h : Issues s i f false (stagePlan s f i))
    (hc : Clear s i (stagePlan s f i) (stageNeed f) (i.active f) (fun g => stageAddr g f) (fun _ _ => none)) :
    exec (.mstg f) s = .next (
      let r := startOp (stageBase s f i) i (stageOp s f i (stageBase s f i))
      awaitAccept ((stageLines s f i).foldl (fun u w =>
        submit u i.k r.2 (stagePacket u i.g.ctx (handleOf i.g f).word (handleOf i.g f).id w (stageMine s f i w))) r.1) i r.2 []) := by
  obtain ⟨hbad, -, htags, -⟩ := hc
  have hok : i.active f &&& ~~~ trapLanes [] = i.active f := and_not_zero _
  have hne : (i.active f == 0) = false := by simpa using h.active
  have hctx : ctxOf (applyReleases (stageFound s f i).1 i (stagePlan s f i)) i.g.ctx.toNat = ctxOf s i.g.ctx.toNat := by
    rw [ctxOf_applyReleases, stageFound, ctxOf_found]
  have hview : opView (stageBase s f i) = opView (applyReleases (stageFound s f i).1 i (stagePlan s f i)) := opView_fabricFirst ..
  have hop : stageOp s f i (stageBase s f i) = stageOp s f i (applyReleases (stageFound s f i).1 i (stagePlan s f i)) := by
    rw [stageOp, stageOp, newOp_of_opView hview]
  rw [exec_mstg, execMstg, onIssue_effect h, hop]
  refine congrArg Host.Outcome.next ((passing_pass h.passes _).trans ?_)
  unfold stageOp stageBase stageRemote stageMine stageLines stageSide stageAccs
  unfold stageFound stagePlan at *
  unfold found at *
  simp only [traps_nil _ hbad, hok, hne, countTagFaults_nil hbad, hctx, htags, reportTags_nil, Bool.false_eq_true, if_false, if_true]

theorem opOf_stageOp (h : issuer s = some i) :
    OpOf s i (stageOp s f i (applyReleases (stageFound s f i).1 i (stagePlan s f i))) (i.active f) (stagePlan s f i).flag :=
  ⟨rfl, rfl, rfl, rfl, rfl, rfl, ccyc_applyReleases_found h ..⟩

/-- Where no access is of the fabric window, the elements stand on this side, and no packet goes out. -/
theorem exec_mstg_near (h : Issues s i f false (stagePlan s f i))
    (hc : Clear s i (stagePlan s f i) (stageNeed f) (i.active f) (fun g => stageAddr g f) (fun _ _ => none))
    (hnear : ∀ a ∈ stageAccs s f i, a.space ≠ .fabric) :
    stageRemote s f i = [] ∧ StartsOpAt (stageFound s f i).1 i (stagePlan s f i).flag
      (stageOp s f i (applyReleases (stageFound s f i).1 i (stagePlan s f i))) [issuedAge { i.e with hold := .accept [nextOp s i], skip := i.len }]
      (fun g => ∀ n, look g.v n = if n ∈ released (relNames f) [] then none else look i.g.v n) (exec (.mstg f) s) := by
  have hfar : (stageAccs s f i).filter (·.space == .fabric) = [] := List.filter_eq_nil_iff.mpr (by simpa using hnear)
  have hside : stageSide s f i true = [] := by
    unfold stageSide
    simp only [if_true, hfar]
    rfl
  have hlines : stageLines s f i = [] := by rw [stageLines, hside, List.map_nil, List.eraseDups_nil]
  have hbase : stageBase s f i = applyReleases (stageFound s f i).1 i (stagePlan s f i) := by
    rw [stageBase, hfar]
    rfl
  have hheld : Holds (stageFound s f i).1 i i.g := holds_found h.issuing _ _ _ _
  have honly := onlyGroup_applyReleases (onlyGroup_found h.issuing (stagePlan s f i) (stageNeed f) (i.active f) (fun g => stageAddr g f)) hheld (stagePlan s f i)
  have hn : ∀ o, (startOp (applyReleases (stageFound s f i).1 i (stagePlan s f i)) i o).2 = nextOp s i := fun o =>
    (startOp_spec honly (holds_applyReleases hheld _) o).2.2.2.trans (nextOp_found s i ..)
  refine ⟨by rw [stageRemote, hlines, List.map_nil], ?_⟩
  rw [exec_mstg_clear h hc, hlines, hbase]
  dsimp only
  rw [List.foldl_nil, awaitAccept_noTraps, hn]
  exact startOp_startsOpAt_found h.issuing (stagePlan s f i) _ _ _ (stageOp s f i _) _

end Stage

end Sys2Proof.Machine

namespace Sys2Proof.Proofs
open Sys2Proof Sys2Proof.Machine

/-- Settles O39: each instruction is its operation started, and the lanes left at the instruction where its issue ends. -/
theorem mergeInstructions : Obligations.MergeInstructions := by
  unfold Obligations.MergeInstructions
  refine ⟨fun f s i => ⟨?_, ?_, ?_, ?_, ?_, ?_, ?_⟩, fun f s i h hc => ⟨?_, ?_⟩⟩
  · intro h hc
    exact ⟨openOp s f i, openOp_startsOpAt h hc, rfl, rfl, rfl, opOf_openOp h.issuing⟩
  · intro hr h
    refine ⟨closeOp s f i, ?_, rfl, rfl, ⟨rfl, rfl, rfl, rfl, rfl, rfl, rfl⟩⟩
    rw [exec_mclose_local hr h, startOp_number h.issuing, awaitAccept_noTraps]
    exact startOp_startsOpAt_of_issuer h.issuing (closeOp s f i) _
  · intro hr h
    exact ⟨_, _, rfl, exec_mclose_remote hr h⟩
  · intro hr h
    refine ⟨abortOp s f i, ?_, rfl, rfl, ⟨rfl, rfl, rfl, rfl, rfl, rfl, rfl⟩⟩
    rw [exec_mabort_local hr h, startOp_number h.issuing, completeWait_noTraps]
    exact startOp_startsOpAt_of_issuer h.issuing (abortOp s f i) _
  · exact exec_mabort_remote
  · intro hr h
    refine ⟨statOp s f i, ?_, rfl, rfl, ⟨rfl, rfl, rfl, rfl, rfl, rfl, rfl⟩⟩
    rw [exec_mstat_local hr h, startOp_number h.issuing, parkRemote_noTraps]
    exact startOp_startsOpAt_of_issuer h.issuing (statOp s f i) _
  · exact exec_mstat_remote
  · intro hnear
    obtain ⟨hremote, hstarts⟩ := exec_mstg_near h hc hnear
    refine ⟨_, hstarts, ?_, ?_, opOf_stageOp h.issuing⟩
    · rw [stageOp, hremote]
      rfl
    · rw [stageOp, hremote]
      rfl
  · exact ⟨(startOp (stageBase s f i) i (stageOp s f i (stageBase s f i))).1, (startOp (stageBase s f i) i (stageOp s f i (stageBase s f i))).2,
      rfl, exec_mstg_clear h hc⟩

end Sys2Proof.Proofs
end

section
/-! PROOF. A step of an instruction whose fetch has waited at the port (R20, R205). -/

namespace Sys2Proof.Machine

/-! ### The counterexample

Core 0 is about to issue a NOP, the last instruction of its clause body, whose line is in the instruction cache. Its group's fetch stands in
the queue of the core's port all the same: it missed, and another group's fetch has brought the line since. The step takes the fetch off the
queue before it runs the instruction (`runAt`), which `exec` with the cursor on the entry does not. -/

/-- The word of NOP, its form, and its two parcels. -/
def nopWord : Nat := 0b0000000_0_0_0_0_111_0_0_0_11111111_11111111_11111111_11111111_0000_00000001_0_10

def nopForm : Fx :=
  { ty := .n8, d := .none, a := .none, b := .none, c := .none, lua := false, lub := false, luc := false, guard := 7, gneg := false,
    fen := false, fsel := false, reuse := false, md := 0, ext := .f }

def nopParcels : List Nat := [nopWord % 2 ^ 32, nopWord / 2 ^ 32]

theorem decode_nopParcels : decode (parcelBytes nopParcels) = .ok (.nop nopForm, []) := by decide +kernel

/-- The state, and the same once the headers have been looked at, with the cursor on the entry. -/
def fetchQueued : State := onCore (State.reset.withFetchWord 64 nopWord) 0 (fun c => { c with waits := [(0, .fetch 0)] })

def fetchPeeked : State := peekHeaders (passSlot fetchQueued 0 0) 0 0

def nopEntry : Entry := { mask := BitVec.allOnes 32, pc := probeAddr, left := 1 }

def nopAt : State := pointAt fetchPeeked 0 0 nopEntry.mask 8

def nopIssuer : Issuer := { k := 0, slot := 0, g := probeGroup 0, e := nopEntry, t := 0, tm := probeTeam 0 0, len := 8 }

/-- The NOP issues and changes nothing but its entry. -/
theorem exec_nop_fetchQueued : exec (.nop nopForm) nopAt = .next (complete nopAt nopIssuer []) := by
  have h : Reaches nopAt nopIssuer nopForm false := ⟨by decide +kernel, by decide +kernel, by decide +kernel, by decide +kernel⟩
  rw [exec_nop, execNop, onIssue_reaches h]

theorem codeAt_fetchPeeked : CodeAt (coreOf fetchPeeked 0) (slotGroupCtx fetchPeeked 0 0) nopEntry.pc nopParcels := by
  intro j hj
  refine ⟨?_, { ctx := 0, va := probeAddr, data := BitVec.ofNat 2048 nopWord }, ?_⟩
  · have hall : ∀ j < 2, isUpper (nopEntry.pc + BitVec.ofNat 64 (4 * j)) = true := by decide +kernel
    exact hall j hj
  · have hall : ∀ j < 2, (coreOf fetchPeeked 0).icache.find? (fun x => x.ctx == slotGroupCtx fetchPeeked 0 0 &&
        x.va == vLineOf (nopEntry.pc + BitVec.ofNat 64 (4 * j))) = some { ctx := 0, va := probeAddr, data := BitVec.ofNat 2048 nopWord } ∧
        lineParcel { ctx := 0, va := probeAddr, data := BitVec.ofNat 2048 nopWord } (nopEntry.pc + BitVec.ofNat 64 (4 * j)) = nopParcels.getD j 0 := by
      decide +kernel
    exact hall j hj

/-- The step that the statement describes. -/
def nopTaken : Taken := { before := fetchPeeked, slot := 0, e := nopEntry, after := complete nopAt nopIssuer [], rest := [] }

theorem waits_step_fetchQueued : (coreOf (Out.stateOr (step fetchQueued) fetchQueued) 0).waits = [] := by decide +kernel

theorem waits_nopTaken : (coreOf (settle (pumpFabric (endOffer exec nopTaken 0 0))) 0).waits = [(0, .fetch 0)] := by decide +kernel

end Sys2Proof.Machine

namespace Sys2Proof.Proofs

open Sys2Proof Sys2Proof.Machine

/-- Refutes O15: a step takes the group's fetch off the queue of the core's port (R205) before it runs the instruction, which the statement
leaves in it. In the counterexample a NOP issues whose fetch stands there. -/
theorem not_stepRunsDecoded : ¬ Obligations.StepRunsDecoded := by
  intro h
  have hagenda : firstEvent { fetchQueued with cur := none } (promptEvents { fetchQueued with cur := none } ++
    borderEvents { fetchQueued with cur := none } ++ overdueEvents { fetchQueued with cur := none }) = none := by decide +kernel
  have hstep := (h.1 fetchQueued (complete nopAt nopIssuer []) 0 0 0 nopEntry nopParcels (.nop nopForm) [] [1, 2, 3, 4, 5, 6, 7]
    [(0, 1), (0, 2), (0, 3)] rfl rfl hagenda (by decide +kernel) (by decide +kernel) (by decide +kernel) (by decide) codeAt_fetchPeeked
    decode_nopParcels exec_nop_fetchQueued rfl).1
  have hwaits := waits_step_fetchQueued
  rw [hstep] at hwaits
  exact absurd (waits_nopTaken.symm.trans hwaits) (by decide)

end Sys2Proof.Proofs
end

section
/-! PROOF. Encoding faults (R57, R264, R265), and instructions of which no lane is active (R39). -/

namespace Sys2Proof.Machine

/-! ### Breaches of a clause (R260, R262, R265) -/

section Breach

variable {e : Entry} (fen fsel transfer : Bool)

theorem bodyBreach_header (h : e.left = 0) : bodyBreach e fen fsel transfer = some subClause := if_pos h

theorem flagInvalid_iff : flagInvalid e true fsel = true ↔ (if fsel then e.fbv else e.fav) = false := by
  cases fsel
  · cases h : e.fav <;> simp [flagInvalid, flagNumber, h]
  · cases h : e.fbv <;> simp [flagInvalid, flagNumber, h]

theorem bodyBreach_flag (h : e.left ≠ 0) (hf : (if fsel then e.fbv else e.fav) = false) : bodyBreach e true fsel transfer = some subFlag := by
  rw [bodyBreach, if_neg h, if_pos ((flagInvalid_iff fsel).mpr hf)]

theorem bodyBreach_transfer (h : 1 < e.left) : bodyBreach e false fsel true = some subClause := by
  have hbody : e.left ≠ 0 := Nat.ne_of_gt (Nat.zero_lt_of_lt h)
  have hlast : e.left ≠ 1 := Nat.ne_of_gt h
  simp [bodyBreach, flagInvalid, hbody, hlast]

end Breach

/-! ### Instructions that do not reach their effect -/

section Unreached

variable {s : State} {i : Issuer}

theorem exec_reservedOpcode_issuing (hi : issuer s = some i) (r : Illegal) : exec (.reservedOpcode r) s = .next (
    if i.e.left = 0 then trapAtIssue s i (encodingTrap i causeIllenc r.hdrSub.toNat)
    else trapAtIssue s i (encodingTrap i r.cause.toNat r.sub.toNat)) := by
  rw [exec_reservedOpcode, execReservedOpcode, whenIssuing, hi]

variable {f : Fx} {transfer : Bool} (effect : Issuer → Mask → State) (rel : List Nat)

theorem onIssue_breach (hi : issuer s = some i) {sub : Nat} (hb : bodyBreach i.e f.fen f.fsel transfer = some sub) :
    onIssue s f transfer effect rel = .next (trapAtIssue s i (encodingTrap i causeIllenc sub)) := by
  rw [onIssue, whenIssuing, hi]
  simp only [hb]

theorem onIssue_empty (hi : issuer s = some i) (hb : bodyBreach i.e f.fen f.fsel transfer = none) (ha : i.active f = 0) :
    onIssue s f transfer effect rel = .next (issueEmpty s i rel) := by
  rw [onIssue, whenIssuing, hi]
  simp only [hb, ha, beq_self_eq_true, if_true]

end Unreached

/-! ### The empty write mask (R39) -/

theorem onlyGroup_unlatch {s t : State} {i : Issuer} (h : OnlyGroup s t i) (slot : Nat) (ns : List Nat) :
    OnlyGroup s (onCore t i.k (fun c => unlatch c slot ns)) i := by
  apply onlyGroup_onCore h
  all_goals rw [unlatch_frame]
  · rfl
  · exact fun _ _ => rfl
  · exact fun _ _ => rfl
  · exact fun tm htm => ⟨tm, htm, rfl⟩
  · rfl

theorem holds_unlatch {s : State} {i : Issuer} {g : Group} (h : Holds s i g) (slot : Nat) (ns : List Nat) :
    Holds (onCore s i.k (fun c => unlatch c slot ns)) i g :=
  holds_onCore h _ (by rw [unlatch_frame])

theorem issueEmpty_issued {s : State} {i : Issuer} (hi : issuer s = some i) (rel : List Nat) :
    Issued s (issueEmpty s i rel) i [i.onward i.e.mask] { replaceEntry (releaseNames i.g rel) i.e [i.onward i.e.mask] with begun := true } :=
  have hg := holds_of_issuer hi
  complete_issued (onlyGroup_unlatch (onlyGroup_onIssuing (onlyGroup_refl (issuer_slot hi).2.1) hg _) i.slot rel)
    (holds_unlatch (holds_onIssuing hg (fun g => releaseNames g rel) rfl rfl) i.slot rel) rfl

end Sys2Proof.Machine

namespace Sys2Proof.Proofs

open Sys2Proof Sys2Proof.Machine

/-- Settles O27: the place of the entry decides between the two subcodes of a pattern; each breach by the check that it fails. -/
theorem encodingFaults : Obligations.EncodingFaults := by
  intro s i hi
  refine ⟨fun r hl => ?_, fun r hl => ?_, fun f transfer effect sub hb => onIssue_breach effect _ hi hb, fun fen fsel transfer hl => ?_,
    fun fsel transfer hl hf => ?_, fun hl fsel => ?_⟩
  · rw [exec_reservedOpcode_issuing hi, if_neg hl, encodingTrap]
  · rw [exec_reservedOpcode_issuing hi, if_pos hl, encodingTrap]
  · exact bodyBreach_header fen fsel transfer hl
  · exact bodyBreach_flag fsel transfer hl hf
  · exact bodyBreach_transfer fsel hl

/-- Settles O28: the names are released, and then the issue ends with no trap. -/
theorem emptyMask : Obligations.EmptyMask := by
  intro f transfer effect rel s i hi hb ha
  exact ⟨_, _, onIssue_empty effect rel hi hb ha, issueEmpty_issued hi rel, look_releaseNames i.g rel, rfl, rfl, rfl, rfl⟩

end Sys2Proof.Proofs
end

section
/-! PROOF. The special registers (R52 to R59, R377, R378): what GETSR reads, and what SETSR leaves. -/

namespace Sys2Proof.Machine

theorem Issues.reaches {s : State} {i : Issuer} {f : Fx} {transfer : Bool} {p : Plan} (h : Issues s i f transfer p) : Reaches s i f transfer :=
  ⟨h.issuing, h.legal, h.active, h.clean⟩

theorem Issues.left_ne_zero {s : State} {i : Issuer} {f : Fx} {transfer : Bool} {p : Plan} (h : Issues s i f transfer p) : i.e.left ≠ 0 := by
  intro hl
  have hbreach : bodyBreach i.e f.fen f.fsel transfer = some subClause := if_pos hl
  rw [h.legal] at hbreach
  cases hbreach

/-- What passes the checks waits for no result. -/
theorem mustWait_of_pass {s : State} {i : Issuer} {p : Plan} (h : gate s i p = .pass) : mustWait (coreOf s i.k) i.g p = false := by
  rw [Bool.eq_false_iff]
  intro hw
  rw [gate_waits (.inr (.inr hw))] at h
  cases h

theorem passing_stop {s t : State} {i : Issuer} {p : Plan} (h : gate s i p = .stop t) (effect : State → State) : passing s i p effect = t := by
  rw [passing, h]

/-! ### What an issue that writes registers leaves of the special ones -/

theorem ccyc_of_onlyGroup {s t : State} {i : Issuer} (h : OnlyGroup s t i) : (coreOf t i.k).ccyc = (coreOf s i.k).ccyc :=
  (congrArg CoreState.ccyc h.core :)

/-- The gauge registers aside, a special register stands when an issue has changed its group in nothing but the registers v and s and the
pending names. -/
theorem specialRead_of_onlyGroup {s t : State} {i : Issuer} {g : Group} (h : OnlyGroup s t i) (hs : Holds s i i.g) (hm : teamOf (coreOf s i.k) i.t = some i.tm)
    (hg : Holds t i g) (hf : g = { i.g with v := g.v, badV := g.badV, s := g.s, badS := g.badS, pend := g.pend }) {x : Nat}
    (hx : ¬ (0x20 ≤ x ∧ x ≤ 0x22)) : specialRead t i x = specialRead s i x := by
  obtain ⟨tm, htm, hst⟩ := h.team
  have hteam : tm = { i.tm with st := tm.st } := congrArg (fun y : Team => { y with st := tm.st }) hst
  have hrest : t = { s with cores := t.cores, cur := t.cur, issued := t.issued, fresh := t.fresh } :=
    congrArg (fun y : State => { y with cores := t.cores, cur := t.cur, issued := t.issued, fresh := t.fresh }) h.rest
  have h20 : x ≠ 0x20 := by omega
  have h21 : x ≠ 0x21 := by omega
  have h22 : x ≠ 0x22 := by omega
  unfold specialRead
  simp only [groupNow_of_holds hg, groupNow_of_holds hs, htm, hm, Option.getD_some, ccyc_of_onlyGroup h, h20, h21, h22, if_false]
  rw [hf, hteam, hrest]
  rfl

/-! ### GETSR -/

/-- The end of an instruction that writes its destination once its last-use names are released. -/
theorem writeDest_issued {s : State} {i : Issuer} {f : Fx} {p : Plan} (hi : issuer s = some i) (hp : released p.rel (p.dst.map (·.1)) = goneNames f)
    (uni : Bool) (m : Mask) (val : Nat → Word) :
    ∃ g, Issued s (complete (writeDest (applyReleases s i p) i f.d uni m val) i []) i [i.onward i.e.mask] g ∧
      VectorResult i g f uni m val ∧ ScalarResult i g f m val ∧ g.p = i.g.p ∧ g.astat = i.g.astat ∧ g.besides i.g = i.g := by
  have hg := holds_of_issuer hi
  have hreleased := holds_applyReleases hg p
  rw [hp] at hreleased
  obtain ⟨g, honly, hholds, hframe, hothers, hwritten, hs, hsOthers, -⟩ :=
    writeDest_spec (onlyGroup_applyReleases (onlyGroup_refl (issuer_slot hi).2.1) hg p) hreleased f.d uni m val
  refine ⟨_, complete_issued honly hholds (by rw [hframe]; rfl), vectorResult_of hothers fun n hd hn => ?_, ⟨hs, hsOthers⟩, ?_, ?_, ?_⟩
  · rw [← hwritten n hd hn]
    rfl
  all_goals
    rw [hframe]
    rfl

section Getsr

variable (s : State) (f : Fx) (i : Issuer)

/-- Whether the result of GETSR is in uniform form: LANEID differs from lane to lane. -/
def getsrUniform : Bool := specialIndex i.g f != 0 && isFull i.g (i.active f)

/-- The plan of GETSR, and the word that it reads. -/
def getsrPlan : Plan := specialPlan s f i (i.active f) (getsrUniform f i)

def getsrWord : Word :=
  specialRead (writeDest (applyReleases s i (getsrPlan s f i)) i f.d (getsrUniform f i) (i.active f) (fun _ => 0)) i (specialIndex i.g f)

def getsrValue (l : Nat) : Word := if specialIndex i.g f = 0 then BitVec.ofNat 64 l else getsrWord s f i

variable {s f i}

theorem getsrPlan_gone : released (getsrPlan s f i).rel ((getsrPlan s f i).dst.map (·.1)) = goneNames f := fxPlan_gone i f (i.active f) 14 _

/-- The register that holds the index has been written when the instruction passes its checks. -/
theorem getsr_index_written (h : gate s i (getsrPlan s f i) = .pass) :
    (coreOf s i.k).ops.any (fun e => e.2.uid == i.g.uid && e.2.gid == i.g.gid && (opS e.2).any (opSNames f.b).contains) = false := by
  have hw := mustWait_of_pass h
  rw [mustWait, List.any_eq_false] at hw
  rw [List.any_eq_false]
  intro e he hlate
  refine hw e he ?_
  simp only [Bool.and_eq_true] at hlate ⊢
  refine ⟨hlate.1, Bool.or_eq_true_iff.mpr (.inr ?_)⟩
  obtain ⟨n, hn, hb⟩ := List.any_eq_true.mp hlate.2
  refine List.any_eq_true.mpr ⟨n, hn, ?_⟩
  rw [List.contains_iff_mem] at hb ⊢
  exact List.mem_append_left _ (List.mem_append_left _ (List.mem_append_right _ hb))

theorem exec_getsr_issues (hd : ¬ (specialIndex i.g f = 0 ∧ f.d.isS = true)) (h : Issues s i f false (getsrPlan s f i)) : exec (.getsr f) s = .next (
    complete (writeDest (applyReleases s i (getsrPlan s f i)) i f.d (getsrUniform f i) (i.active f) (getsrValue s f i)) i []) := by
  have hopnd : (i.e.left != 0 && specialIndex i.g f == 0 && f.d.isS) = false := by
    rw [Bool.eq_false_iff]
    intro hb
    simp only [Bool.and_eq_true, beq_iff_eq] at hb
    exact hd ⟨hb.1.2, hb.2⟩
  rw [exec_getsr, execGetsr, whenIssuing, h.issuing]
  simp only [getsr_index_written h.passes, hopnd, Bool.and_false, Bool.false_eq_true, if_false]
  rw [onIssue_effect h, Out.stateOr]
  exact congrArg Host.Outcome.next (passing_pass h.passes _)

/-- The gauge registers aside, the word is the register as it stands before the issue. -/
theorem getsrWord_eq (hi : issuer s = some i) (hx : ¬ (0x20 ≤ specialIndex i.g f ∧ specialIndex i.g f ≤ 0x22)) :
    getsrWord s f i = specialRead s i (specialIndex i.g f) := by
  have hg := holds_of_issuer hi
  obtain ⟨g, honly, hholds, hframe, -⟩ := writeDest_spec (onlyGroup_applyReleases (onlyGroup_refl (issuer_slot hi).2.1) hg (getsrPlan s f i))
    (holds_applyReleases hg _) f.d (getsrUniform f i) (i.active f) (fun _ => 0)
  exact specialRead_of_onlyGroup honly hg (issuer_slot hi).2.1 hholds (by rw [hframe]; rfl) hx

end Getsr

/-! ### SETSR -/

section Setsr

variable (s : State) (f : Fx) (i : Issuer)

/-- SETSR of SCLWIN with V = 1 loads its descriptor. -/
def setsrLoads : Bool := specialIndex i.g f == 0x50 && bitAt (uniformA i.g f).toNat 0

/-- What every SETSR asks for at its issue. -/
def setsrPlan : Plan :=
  let p := specialPlan s f i (i.active f) true
  { p with
    ready := p.ready && !(specialIndex i.g f == 0x50 &&
      (windowOpen (coreOf s i.k) i.g || (bitAt (uniformA i.g f).toNat 0 && fenceOpen (coreOf s i.k) i.g))) }

variable {s f i}

theorem setsrLoads_iff : setsrLoads f i = true ↔ specialIndex i.g f = 0x50 ∧ (uniformA i.g f).getLsbD 0 = true := by
  rw [setsrLoads, Bool.and_eq_true, beq_iff_eq, bitAt_eq_testBit]
  rfl

theorem specialWritable_iff (x : Nat) : specialWritable x = true ↔
    x ∈ [0x23, 0x25, 0x30, 0x31, 0x32, 0x3A, 0x50, 0x51, 0x60, 0x61, 0x80, 0x81, 0x82, 0x83, 0x84, 0x85, 0x86, 0x87, 0x88] := by
  simp only [specialWritable, Bool.or_eq_true, Bool.and_eq_true, decide_eq_true_eq, List.contains_iff_mem, List.mem_cons, List.not_mem_nil, or_false]
  omega

theorem exec_setsr_reaches (h : Reaches s i f false) : exec (.setsr f) s = .next (passing s i
    { setsrPlan s f i with
      cls := if setsrLoads f i then 2 else 14
      early := if specialWritable (specialIndex i.g f) then none else some { cause := causePriv, lanes := i.active f } }
    (fun s => if setsrLoads f i then setWindow s i
        { setsrPlan s f i with
          cls := if setsrLoads f i then 2 else 14
          early := if specialWritable (specialIndex i.g f) then none else some { cause := causePriv, lanes := i.active f } }
        (i.active f) (uniformA i.g f)
      else complete (specialWrite s i (specialIndex i.g f) (uniformA i.g f)) i [])) := by
  have hready (a b w e : Bool) : (a && (w || (a && b && e))) = (a && (w || (b && e))) := by cases a <;> rfl
  rw [exec_setsr, execSetsr, onIssue_reaches h]
  simp only [hready]
  rfl

theorem exec_setsr_writes (hw : specialWritable (specialIndex i.g f) = true) (hl : setsrLoads f i = false) (h : Issues s i f false (setsrPlan s f i)) :
    exec (.setsr f) s = .next (complete (specialWrite s i (specialIndex i.g f) (uniformA i.g f)) i []) := by
  rw [exec_setsr_reaches h.reaches]
  simp only [hw, hl, Bool.false_eq_true, if_false, if_true]
  exact congrArg Host.Outcome.next (passing_pass h.passes _)

theorem exec_setsr_loads (hl : setsrLoads f i = true) (h : Issues s i f false { setsrPlan s f i with cls := 2 }) :
    exec (.setsr f) s = .next (setWindow s i { setsrPlan s f i with cls := 2 } (i.active f) (uniformA i.g f)) := by
  have hw : specialWritable (specialIndex i.g f) = true := by
    rw [(setsrLoads_iff.mp hl).1]
    rfl
  rw [exec_setsr_reaches h.reaches]
  simp only [hw, hl, if_true]
  exact congrArg Host.Outcome.next (passing_pass h.passes _)

theorem exec_setsr_refused {t : State} (hw : specialWritable (specialIndex i.g f) = false) (h : Reaches s i f false)
    (hg : gate s i { setsrPlan s f i with early := some { cause := causePriv, lanes := i.active f } } = .stop t) : exec (.setsr f) s = .next t := by
  have hl : setsrLoads f i = false := by
    rw [Bool.eq_false_iff]
    intro hl
    rw [(setsrLoads_iff.mp hl).1] at hw
    cases hw
  rw [exec_setsr_reaches h]
  simp only [hw, hl, Bool.false_eq_true, if_false]
  exact congrArg Host.Outcome.next (passing_stop hg _)

end Setsr

/-! ### The write of a register -/

theorem writeGroupReg_frame (g : Group) (x : Nat) (v : Word) : (writeGroupReg g x v).uid = g.uid ∧ (writeGroupReg g x v).gid = g.gid := by
  constructor <;> simp only [writeGroupReg, apply_ite Group.uid, apply_ite Group.gid, ite_self]

theorem writeTeamReg_st (t : Team) (x : Nat) (v : Word) : (writeTeamReg t x v).st = t.st := by
  simp only [writeTeamReg, apply_ite Team.st, ite_self]

/-- The issuing entry with its team as SETSR leaves it. -/
def writtenIssuer (i : Issuer) (x : Nat) (v : Word) : Issuer := { i with tm := writeTeamReg i.tm x v }

/-- The end of an issue reads nothing of the team. -/
theorem complete_writtenIssuer (s : State) (i : Issuer) (x : Nat) (v : Word) : complete s (writtenIssuer i x v) [] = complete s i [] := rfl

section Write

variable {s : State} {i : Issuer} (hi : issuer s = some i) (x : Nat) (v : Word)

include hi

theorem holds_specialWrite : Holds (specialWrite s i x v) i (writeGroupReg i.g x v) := by
  obtain ⟨huid, hgid⟩ := writeGroupReg_frame i.g x v
  exact holds_onCore (holds_onIssuing (holds_of_issuer hi) (fun g => writeGroupReg g x v) huid hgid) _ rfl

theorem teamOf_specialWrite : teamOf (coreOf (specialWrite s i x v) i.k) i.t = some (writeTeamReg i.tm x v) := by
  rw [specialWrite, coreOf_onCore_self, teamOf, look_alter, if_pos rfl, onIssuing_eq (holds_of_issuer hi), coreOf_onCore_self]
  exact congrArg (Option.map _) (issuer_slot hi).2.1

/-- The end of SETSR: the group and the team are the old ones with the register written. -/
theorem complete_specialWrite : ∃ tm, (complete (specialWrite s i x v) i []).issued = true ∧ (complete (specialWrite s i x v) i []).cur = none ∧
    (complete (specialWrite s i x v) i []).mem = s.mem ∧
    groupAt (coreOf (complete (specialWrite s i x v) i []) i.k) i.slot =
      some { replaceEntry (writeGroupReg i.g x v) i.e [i.onward i.e.mask] with begun := true } ∧
    teamOf (coreOf (complete (specialWrite s i x v) i []) i.k) i.t = some tm ∧ { tm with st := i.tm.st } = writeTeamReg i.tm x v := by
  have hholds : Holds (specialWrite s i x v) (writtenIssuer i x v) (writeGroupReg i.g x v) := holds_specialWrite hi x v
  obtain ⟨honly, hissued, hcur, hgroup⟩ := complete_spec (onlyGroup_refl (i := writtenIssuer i x v) (teamOf_specialWrite hi x v)) hholds
  rw [complete_writtenIssuer] at honly hissued hcur hgroup
  obtain ⟨tm, htm, hst⟩ := honly.team
  refine ⟨tm, hissued, hcur, rfl, ?_, htm, ?_⟩
  · rw [← others_zero i]
    exact hgroup.1
  · rw [← writeTeamReg_st i.tm x v]
    exact hst

end Write

end Sys2Proof.Machine

namespace Sys2Proof.Proofs

open Sys2Proof Sys2Proof.Machine

/-- Settles O30: GETSR writes its destination once its names are released; SETSR parts by its register, with one plan for all of them. -/
theorem specialRegisters : Obligations.SpecialRegisters := by
  refine ⟨fun f s i => ?_, fun f s i => ⟨fun hw hl h => ?_, fun hl h => ?_, fun hw tr htr h hgate => ?_⟩⟩
  · intro m x uni p w hd h
    obtain ⟨g, hissued, hv, hs, hp, hastat, hrest⟩ := writeDest_issued (p := getsrPlan s f i) h.issuing getsrPlan_gone (getsrUniform f i) (i.active f) (getsrValue s f i)
    exact ⟨_, g, exec_getsr_issues hd h, hissued, hv, hs, getsrWord_eq h.issuing, hp, hastat, hrest⟩
  · obtain ⟨tm, hissued, hcur, hmem, hg, htm, hteam⟩ := complete_specialWrite h.issuing (specialIndex i.g f) (uniformA i.g f)
    refine ⟨_, _, tm, exec_setsr_writes ((specialWritable_iff _).mpr hw) (Bool.eq_false_iff.mpr (mt setsrLoads_iff.mp hl)) h, hissued, hcur, fun a => ?_, hg, rfl, rfl,
      htm, hteam⟩
    rw [hmem]
  · exact exec_setsr_loads (setsrLoads_iff.mpr hl) h
  · subst htr
    exact exec_setsr_refused (Bool.eq_false_iff.mpr (mt (specialWritable_iff _).mp hw)) h hgate

end Sys2Proof.Proofs
end

section
/-! PROOF. FIFOs, bank switches and watchpoints at their issue (R59, R75 to R77, R127, R343, R344, R349). -/

namespace Sys2Proof.Machine

/-! ### Operations with names to come -/

theorem onlyGroup_readView {s t : State} {i : Issuer} (h : OnlyGroup s t i) (g : Group) (ns : List Nat) : OnlyGroup s (readView t g ns).1 i := by
  rw [readView_state]
  exact onlyGroup_fresh h _

theorem holds_readView {s : State} {i : Issuer} {g : Group} (h : Holds s i g) (g' : Group) (ns : List Nat) : Holds (readView s g' ns).1 i g := by
  rw [readView_state]
  exact holds_fresh h _

/-- Names allocated for a result to come: they are pending, and nothing else of the group changes. -/
theorem allocFor_spec {base s : State} {i : Issuer} {g : Group} (h : OnlyGroup base s i) (hg : Holds s i g) (ns : List Nat) (op : Nat) (flag : Option Nat) :
    ∃ g', OnlyGroup base (allocFor s i ns op flag) i ∧ Holds (allocFor s i ns op flag) i g' ∧
      g' = { g with v := g'.v, badV := g'.badV, pend := g'.pend } ∧
      (∀ n ∈ ns, g'.pend.any (fun x => x.name == n && x.op == op && x.flag == flag) = true) ∧ (∀ n, n ∉ ns → look g'.v n = look g.v n) ∧
      ∀ n, opOf (allocFor s i ns op flag) i.k n = opOf s i.k n := by
  rw [allocFor_eq, groupNow_of_holds hg]
  obtain ⟨hstate, hframe, -, hpend, hothers⟩ := pendAll_spec ns op flag (s, g)
  generalize pendAll ns op flag (s, g) = r at *
  have honly : OnlyGroup base r.1 i := by
    rw [hstate]
    exact onlyGroup_fresh h _
  have hholds : Holds r.1 i g := by
    rw [hstate]
    exact holds_fresh hg _
  refine ⟨r.2, onlyGroup_onIssuing honly hholds _, holds_onIssuing hholds (fun _ => r.2) (by rw [hframe]) (by rw [hframe]), hframe, hpend, hothers, fun n => ?_⟩
  rw [opOf_onIssuing hholds, hstate]
  rfl

theorem startOp_number_of_onlyGroup {base s : State} {i : Issuer} {g : Group} (h : OnlyGroup base s i) (hg : Holds s i g) (o : Op) :
    (startOp s i o).2 = nextOp base i := (startOp_spec h hg o).2.2.2

/-- An operation with names to come is in flight when the issue ends, and the lanes stand where the parts say. -/
theorem startOp_startsOpAt_pending {base s : State} {i : Issuer} {p : Plan} (hb : OnlyGroup base s i)
    (hg : Holds s i (releaseNames i.g (released p.rel (p.dst.map (·.1))))) (o : Op) (ns : List Nat) (ho : o.flag = p.flag) (parts : List Entry) :
    StartsOpAt base i p.flag o parts (fun g => Pending i g p ns (nextOp base i))
      (.next (endIssue (allocFor (startOp s i o).1 i ns (nextOp base i) p.flag) i true parts [])) := by
  obtain ⟨hadd, hcount, hop, -⟩ := startOp_spec hb hg o
  rw [ho] at hcount
  obtain ⟨g, honly, hholds, hframe, hpend, hothers, hops⟩ := allocFor_spec hadd hcount ns (nextOp base i) p.flag
  have hflags : countFlag (releaseNames i.g (released p.rel (p.dst.map (·.1)))) p.flag =
      { countFlag i.g p.flag with
        v := (releaseNames i.g (released p.rel (p.dst.map (·.1)))).v
        badV := (releaseNames i.g (released p.rel (p.dst.map (·.1)))).badV
        pend := (releaseNames i.g (released p.rel (p.dst.map (·.1)))).pend } := by
    cases p.flag <;> rfl
  rw [hflags] at hframe hothers
  have hc := countFlag_frame i.g p.flag
  refine ⟨_, _, rfl, endIssue_issued honly hholds (by rw [hframe, hc]) parts, ?_, ?_, ?_, ?_, hpend, fun n hn => ?_⟩
  · rw [opOf_endIssue hholds, hops, hop]
  · rw [hframe]
    rfl
  · rw [hframe, hc]
    rfl
  · rw [hframe, hc]
    rfl
  · exact (hothers n hn).trans (look_releaseNames _ _ _)

/-! ### FIFOs (R127, R343) -/

section Fifo

variable (s : State) (f : Fx) (i : Issuer)

/-- The slot holds a FIFO, or may come to hold one. -/
def SlotTakesFifo : Prop := slotIn (coreOf s i.k) i.t i.tm .fifo (slotArg i.g f) = true ∨ slotInTransition (coreOf s i.k) i.t (slotArg i.g f) = true

def pushPlan : Plan :=
  { cls := 3, active := i.active f, srcs := opNames f.c, rel := relNames f, sNames := sSrcNames f, flag := flagNumber i.e f.fen f.fsel,
    ds := fifoRise (coreOf s i.k) i.t (slotArg i.g f) (countMask (i.active f)), ready := !fenceOpen (coreOf s i.k) i.g }

def popPlan : Plan :=
  { cls := 2, active := i.active f, dst := (opNames f.d).map (fun n => (n, false)), sNames := sSrcNames f,
    flag := flagNumber i.e f.fen f.fsel, ready := !fenceOpen (coreOf s i.k) i.g }

/-- The states in which the two operations start, and the operations. -/
def pushBase : State := applyReleases (readView s i.g (opNames f.c)).1 i (pushPlan s f i)

def pushOp : Op :=
  newOp (pushBase s f i) i (pushPlan s f i) (i.active f)
    (.push (slotArg i.g f) ((lanesIn (i.active f)).map (dataAt (readView s i.g (opNames f.c)).2 f.ty f.c 0)))

def popBase : State := applyReleases s i (popPlan s f i)

def popOp : Op := { newOp (popBase s f i) i (popPlan s f i) (i.active f) (.pop (slotArg i.g f)) with dest := .v f.d.num }

/-- The lanes of a FIFO instruction wait at it until its operation is accepted. -/
def awaitParts : List Entry :=
  [issuedAge { i.e with mask := i.active f, hold := .accept [nextOp s i], skip := i.len }, i.onward (i.others (i.active f))]

variable {s f i}

theorem fifoFault_of_fifo (h : SlotTakesFifo s f i) (m : Mask) : fifoFault (coreOf s i.k) i (slotArg i.g f) m = none :=
  if_pos (Bool.or_eq_true_iff.mpr h)

theorem fifoFault_of_not_fifo (h : ¬ SlotTakesFifo s f i) (m : Mask) :
    fifoFault (coreOf s i.k) i (slotArg i.g f) m = some { cause := causeBank, lanes := m } :=
  if_neg (mt Bool.or_eq_true_iff.mp h)

theorem onlyGroup_pushBase (hi : issuer s = some i) : OnlyGroup s (pushBase s f i) i :=
  onlyGroup_applyReleases (onlyGroup_readView (onlyGroup_refl (issuer_slot hi).2.1) _ _) (holds_readView (holds_of_issuer hi) _ _) _

theorem holds_pushBase (hi : issuer s = some i) : Holds (pushBase s f i) i (releaseNames i.g (released (relNames f) [])) :=
  holds_applyReleases (holds_readView (holds_of_issuer hi) _ _) (pushPlan s f i)

theorem onlyGroup_popBase (hi : issuer s = some i) : OnlyGroup s (popBase s f i) i :=
  onlyGroup_applyReleases (onlyGroup_refl (issuer_slot hi).2.1) (holds_of_issuer hi) _

/-- A new operation is the issuing group's, whatever the issue has done to the registers before. -/
theorem opOf_newOp {t : State} (h : OnlyGroup s t i) (p : Plan) (m : Mask) (kind : OpKind) : OpOf s i (newOp t i p m kind) m p.flag :=
  ⟨rfl, rfl, rfl, rfl, rfl, rfl, ccyc_of_onlyGroup h⟩

theorem exec_pushf_fifo (hf : SlotTakesFifo s f i) (h : Issues s i f false (pushPlan s f i)) : exec (.pushf f) s = .next (
    let r := startOp (pushBase s f i) i (pushOp s f i)
    completeWait r.1 i (i.active f) (.accept [r.2]) []) := by
  rw [exec_pushf, execPushf, onIssue_effect h]
  refine congrArg Host.Outcome.next ((passing_pass h.passes _).trans ?_)
  simp only [fifoFault_of_fifo hf]
  rfl

theorem exec_pushf_not_fifo (hf : ¬ SlotTakesFifo s f i) (h : Issues s i f false (pushPlan s f i)) :
    exec (.pushf f) s = .next (complete (pushBase s f i) i [{ cause := causeBank, lanes := i.active f }]) := by
  rw [exec_pushf, execPushf, onIssue_effect h]
  refine congrArg Host.Outcome.next ((passing_pass h.passes _).trans ?_)
  simp only [fifoFault_of_not_fifo hf]
  rfl

theorem exec_popf_fifo (hf : SlotTakesFifo s f i) (h : Issues s i f false (popPlan s f i)) : exec (.popf f) s = .next (
    let r := startOp (popBase s f i) i (popOp s f i)
    completeWait (allocFor r.1 i (opNames f.d) r.2 (popPlan s f i).flag) i (i.active f) (.accept [r.2]) []) := by
  rw [exec_popf, execPopf, onIssue_effect h]
  refine congrArg Host.Outcome.next ((passing_pass h.passes _).trans ?_)
  simp only [fifoFault_of_fifo hf]
  rfl

theorem exec_popf_not_fifo (hf : ¬ SlotTakesFifo s f i) (h : Issues s i f false (popPlan s f i)) :
    exec (.popf f) s = .next (complete (allocOnly (popBase s f i) i (opNames f.d)) i [{ cause := causeBank, lanes := i.active f }]) := by
  rw [exec_popf, execPopf, onIssue_effect h]
  refine congrArg Host.Outcome.next ((passing_pass h.passes _).trans ?_)
  simp only [fifoFault_of_not_fifo hf]
  rfl

theorem pushf_starts (hf : SlotTakesFifo s f i) (h : Issues s i f false (pushPlan s f i)) :
    StartsOpAt s i (flagNumber i.e f.fen f.fsel) (pushOp s f i) (awaitParts s f i)
      (fun g => ∀ n, look g.v n = if n ∈ released (relNames f) [] then none else look i.g.v n) (exec (.pushf f) s) := by
  have honly := onlyGroup_pushBase (f := f) h.issuing
  have hholds := holds_pushBase (f := f) h.issuing
  rw [exec_pushf_fifo hf h]
  dsimp only
  rw [completeWait_noTraps, startOp_number_of_onlyGroup honly hholds]
  refine (startOp_startsOpAt honly hholds rfl (pushOp s f i) (awaitParts s f i)).weaken fun g hv n => ?_
  rw [hv, look_releaseNames]

theorem popf_starts (hf : SlotTakesFifo s f i) (h : Issues s i f false (popPlan s f i)) :
    StartsOpAt s i (flagNumber i.e f.fen f.fsel) (popOp s f i) (awaitParts s f i)
      (fun g => Pending i g (popPlan s f i) (opNames f.d) (nextOp s i)) (exec (.popf f) s) := by
  have honly := onlyGroup_popBase (f := f) h.issuing
  have hholds := holds_applyReleases (holds_of_issuer h.issuing) (popPlan s f i)
  have hnum : (startOp (popBase s f i) i (popOp s f i)).2 = nextOp s i := startOp_number_of_onlyGroup honly hholds _
  rw [exec_popf_fifo hf h]
  dsimp only
  rw [completeWait_noTraps, hnum]
  exact startOp_startsOpAt_pending honly hholds (popOp s f i) (opNames f.d) rfl (awaitParts s f i)

end Fifo

/-! ### Bank switches (R75, R76, R344) -/

section Bank

variable (s : State) (f : Fx) (i : Issuer)

def bankPlan (ds : Int) : Plan :=
  { cls := 11, active := i.active f, sNames := sSrcNames f, flag := flagNumber i.e f.fen f.fsel, ds := ds,
    ready := !slotInTransition (coreOf s i.k) i.t (slotArg i.g f) }

/-- The mode that the bank is to have. -/
def bankTarget : BankMode := BankMode.ofCode (f.modAt 0 3)

/-- The operation of a switch of bank `b`. -/
def bankOp (b : Nat) : Op :=
  newOp s i (bankPlan s f i (bankDelta (coreOf s i.k) i.t (slotArg i.g f) (bankTarget f))) (i.active f) (.bank b (bankTarget f))

variable {s f i}

theorem exec_bankcfg_switches {b : Nat} (hr : bankRefused (coreOf s i.k) i.t i.tm (slotArg i.g f) (bankTarget f) = false)
    (hb : bankOfSlot (coreOf s i.k) i.t (slotArg i.g f) = some b)
    (h : Issues s i f false (bankPlan s f i (bankDelta (coreOf s i.k) i.t (slotArg i.g f) (bankTarget f)))) :
    exec (.bankcfg f) s = .next (complete (startOp s i (bankOp s f i b)).1 i []) := by
  unfold bankTarget at hr
  rw [exec_bankcfg, execBankcfg, onIssue_effect h]
  simp only [hr, hb]
  exact congrArg Host.Outcome.next (passing_pass h.passes _)

theorem exec_bankcfg_refused (hr : bankRefused (coreOf s i.k) i.t i.tm (slotArg i.g f) (bankTarget f) = true) (h : Issues s i f false (bankPlan s f i 0)) :
    exec (.bankcfg f) s = .next (complete s i [{ cause := causeBank, lanes := i.active f }]) := by
  unfold bankTarget at hr
  rw [exec_bankcfg, execBankcfg, onIssue_effect h]
  simp only [hr]
  exact congrArg Host.Outcome.next (passing_pass h.passes _)

theorem complete_noTraps (s : State) (i : Issuer) : complete s i [] = endIssue s i true [i.onward i.e.mask] [] := by
  rw [complete, List.foldl_nil, others_zero]

/-- The end of an issue whose lanes all go on, an operation started. -/
theorem complete_startsOp (hi : issuer s = some i) (o : Op) :
    StartsOp s i o.flag o (fun g => g.v = i.g.v) (.next (complete (startOp s i o).1 i [])) := by
  rw [complete_noTraps]
  exact startOp_startsOpAt_of_issuer hi o [i.onward i.e.mask]

end Bank

/-! ### Watchpoints (R59, R349) -/

section Watch

variable (f : Fx) (i : Issuer)

def watchPlan : Plan := { cls := 14, active := i.active f, sNames := sSrcNames f }

/-- The field of WATCHCFG that WATCH writes. -/
def watchCfg : Nat := watchField (uniformB i.g f)

/-- The address that WATCH writes: that of its range. -/
def watchAddr : Word :=
  BitVec.ofNat 64 ((uniformA i.g f).toNat / 2 ^ bitsAt (watchCfg f i) 5 6 * 2 ^ bitsAt (watchCfg f i) 5 6)

/-- The group with its watchpoint set. -/
def setWatch (g : Group) : Group :=
  { g with
    watch := putD g.watch (f.modAt 0 2) 0 (watchAddr f i)
    watchcfg := setField g.watchcfg (16 * f.modAt 0 2) 16 (watchCfg f i)
    wmask := putD g.wmask (f.modAt 0 2) 0 (i.active f) }

variable {f i}

theorem exec_watch_issues {s : State} (h : Issues s i f false (watchPlan f i)) : exec (.watch f) s = .next (complete (onIssuing s i (setWatch f i)) i []) := by
  rw [exec_watch, execWatch, onIssue_effect h]
  exact congrArg Host.Outcome.next (passing_pass h.passes _)

end Watch

end Sys2Proof.Machine

namespace Sys2Proof.Proofs

open Sys2Proof Sys2Proof.Machine

/-- Settles O36: an instruction on a FIFO slot is its operation started, its lanes left at it; a switch is its operation started; a
watchpoint is written in the group alone. -/
theorem banksAndWatch : Obligations.BanksAndWatch := by
  intro f s i
  refine ⟨fun hf h => ?_, fun hf h => ?_, exec_pushf_not_fifo, exec_popf_not_fifo, fun b hr hb h => ?_, exec_bankcfg_refused, fun h => ?_⟩
  · exact ⟨pushOp s f i, pushf_starts hf h, rfl, opOf_newOp (onlyGroup_pushBase h.issuing) _ _ _⟩
  · exact ⟨popOp s f i, popf_starts hf h, rfl, rfl, opOf_newOp (onlyGroup_popBase h.issuing) (popPlan s f i) (i.active f) (.pop (slotArg i.g f))⟩
  · refine ⟨bankOp s f i b, ?_, rfl, opOf_newOp (onlyGroup_refl (issuer_slot h.issuing).2.1) _ _ _⟩
    rw [exec_bankcfg_switches hr hb h]
    exact complete_startsOp h.issuing _
  · have hg := holds_of_issuer h.issuing
    refine ⟨_, _, exec_watch_issues h, complete_issued (onlyGroup_onIssuing (onlyGroup_refl (issuer_slot h.issuing).2.1) hg _)
      (holds_onIssuing hg (setWatch f i) rfl rfl) rfl, lookD_putD_self _ _ _ _, fun k hk => ?_, lookD_putD_self _ _ _ _, rfl, rfl⟩
    exact ⟨lookD_putD_ne _ _ _ hk, lookD_putD_ne _ _ _ hk⟩

end Sys2Proof.Proofs
end

section
/-! PROOF. A result that arrives (R45, R191, R277), and the end of an operation that no watched lane waits for. -/

namespace Sys2Proof.Machine

/-! ### Results of class 1 (R191) -/

section Arrives

variable {s : State} {k : BitVec 9} {n : Nat} {o : Op} {ws : List (Nat × Word)} {uni : Bool} (ho : opOf s k.toNat n = some o) (hk : o.kind = .vec ws uni)

include ho hk

theorem exec_vectorResultWrite_v {d : Nat} (hd : o.dest = .v d) :
    let m := maskOfLanes (ws.map (·.1))
    exec (.vectorResultWrite k n) s = .next (finishOp (onGroup s o.uid o.gid (fun g =>
      if awaited g d n then writeName g d uni (if uni then m else m &&& liveLanes g) (laneValue ws) else g)) k.toNat n) := by
  rw [exec_vectorResultWrite, execVectorResultWrite, performVector, ho]
  simp only [hk, hd]

theorem exec_vectorResultWrite_s {d : Nat} (hd : o.dest = .s d) : exec (.vectorResultWrite k n) s = .next (finishOp (onGroup s o.uid o.gid (fun g =>
    setS g d (laneValue ws (lowestLane (maskOfLanes (ws.map (·.1))))))) k.toNat n) := by
  rw [exec_vectorResultWrite, execVectorResultWrite, performVector, ho]
  simp only [hk, hd]

theorem exec_vectorResultWrite_none (hd : o.dest = .none) : exec (.vectorResultWrite k n) s = .next (finishOp s k.toNat n) := by
  rw [exec_vectorResultWrite, execVectorResultWrite, performVector, ho]
  simp only [hk, hd]

end Arrives

/-! ### Late results (R45, R277) -/

section Late

variable {g : Group} {n op : Nat} (m : Mask) (f : Nat → Word)

theorem lateWrite_awaited (h : awaited g n op = true) : lateWrite g n op m f = writeName g n false (m &&& liveLanes g) f := if_pos h

theorem lateWrite_not_awaited (h : awaited g n op = false) : lateWrite g n op m f = g := if_neg (Bool.eq_false_iff.mp h)

theorem inMask_liveLanes (g : Group) (m : Mask) {l : Nat} (hl : l < 32) : inMask (m &&& liveLanes g) l = true ↔
    inMask m l = true ∧ ¬ inMask g.exited l = true := by
  simp [inMask, liveLanes, hl]

theorem vLane_lateWrite (h : awaited g n op = true) {l : Nat} (hl : l < 32) :
    vLane (lateWrite g n op m f) n l = if inMask m l ∧ ¬ inMask g.exited l then f l else vLane g n l := by
  rw [lateWrite_awaited m f h, vLane_writeName g n false _ f l hl]
  simp only [Bool.false_eq_true, if_false, inMask_liveLanes g m hl]

theorem lateWrite_frame : { lateWrite g n op m f with v := g.v, badV := g.badV } = g := by
  cases h : awaited g n op
  · rw [lateWrite_not_awaited m f h]
  · rw [lateWrite_awaited m f h]
    rfl

theorem look_lateWrite_ne {d : Nat} (hd : d ≠ n) : look (lateWrite g n op m f).v d = look g.v d := by
  cases h : awaited g n op
  · rw [lateWrite_not_awaited m f h]
  · rw [lateWrite_awaited m f h, look_writeName_ne g false _ f hd]

end Late

/-! ### A change of a group wherever it lives -/

/-- The groups of a core with one of them changed. -/
def onGroups (uid gid : Nat) (f : Group → Group) (c : CoreState) : CoreState :=
  { c with groups := c.groups.map (fun x => if x.2.uid = uid && x.2.gid = gid then (x.1, f x.2) else x) }

theorem coreOf_onGroup (s : State) (uid gid : Nat) (f : Group → Group) (k : Nat) : coreOf (onGroup s uid gid f) k = onGroups uid gid f (coreOf s k) := by
  have hlook : look (onGroup s uid gid f).cores k = (look s.cores k).map (onGroups uid gid f) := look_map_val s.cores (onGroups uid gid f) k
  rw [coreOf, coreOf, lookD, lookD, hlook]
  cases look s.cores k <;> rfl

theorem opOf_onGroup (s : State) (uid gid : Nat) (f : Group → Group) (k n : Nat) : opOf (onGroup s uid gid f) k n = opOf s k n := by
  rw [opOf, opOf, coreOf_onGroup]
  rfl

/-- A change that leaves groups their names changes the group that is found. -/
theorem findGroup_onGroups {uid gid : Nat} {f : Group → Group} (hf : ∀ g, (f g).uid = g.uid ∧ (f g).gid = g.gid) (c : CoreState) :
    findGroup (onGroups uid gid f c) uid gid = (findGroup c uid gid).map (fun e => (e.1, f e.2)) := by
  unfold findGroup onGroups
  generalize c.groups = l
  induction l with
  | nil => rfl
  | cons e r ih =>
    by_cases he : e.2.uid = uid ∧ e.2.gid = gid
    · simp [he, hf]
    · have hno : (e.2.uid == uid && e.2.gid == gid) = false := by simpa using he
      have hno' : (decide (e.2.uid = uid) && decide (e.2.gid = gid)) = false := by simpa using he
      rw [List.map_cons, List.find?_cons_of_neg (by simp [hno', hno]), List.find?_cons_of_neg (by simp [hno]), ih]

/-! ### No lane that waits to trap with WATCH -/

/-- No entry of a group waits for an access that is watched (R350). -/
def Unwatched (g : Group) : Prop := ∀ e ∈ g.entries, ∀ ops a low, e.hold ≠ .watch ops a low

/-- The same of the group of a core that a pair of numbers names, if there is one. -/
def UnwatchedAt (c : CoreState) (uid gid : Nat) : Prop := ∀ x g, findGroup c uid gid = some (x, g) → Unwatched g

theorem Unwatched.of_entries {g h : Group} (hg : Unwatched g) (he : h.entries = g.entries) : Unwatched h := by
  unfold Unwatched
  rw [he]
  exact hg

theorem UnwatchedAt.onGroups {c : CoreState} {uid gid : Nat} {f : Group → Group} (h : UnwatchedAt c uid gid)
    (hf : ∀ g, (f g).uid = g.uid ∧ (f g).gid = g.gid) (hu : ∀ g, Unwatched g → Unwatched (f g)) : UnwatchedAt (onGroups uid gid f c) uid gid := by
  intro x g hg
  rw [findGroup_onGroups hf, Option.map_eq_some_iff] at hg
  obtain ⟨⟨y, g'⟩, hfound, heq⟩ := hg
  cases heq
  exact hu g' (h _ _ hfound)

theorem Hold.without_eq_watch {h : Hold} {n : Nat} {ops : List Nat} {a low : Word} (hw : h.without n = .watch ops a low) : ∃ ops', h = .watch ops' a low := by
  cases h <;> simp only [Hold.without] at hw <;> cases hw
  exact ⟨_, rfl⟩

theorem unwatched_passAccepted {g : Group} (h : Unwatched g) (n : Nat) : Unwatched (passAccepted g n) := by
  intro e he ops a low hw
  obtain ⟨e', he', rfl⟩ := List.mem_map.mp he
  split at hw
  · cases hw
  · obtain ⟨ops', hw'⟩ := Hold.without_eq_watch hw
    exact h e' he' ops' a low hw'

/-! ### The end of an operation -/

/-- With no lane that waits to trap with WATCH, what follows the end of an operation touches its group alone. -/
theorem opOver_unwatched {s : State} {k uid gid : Nat} (h : UnwatchedAt (coreOf s k) uid gid) (n : Nat) :
    opOver s k n uid gid = onGroup s uid gid (fun g => passAccepted g n) := by
  have hafter : UnwatchedAt (coreOf (onGroup s uid gid (fun g => passAccepted g n)) k) uid gid := by
    rw [coreOf_onGroup]
    exact h.onGroups (fun g => ⟨rfl, rfl⟩) (fun g hg => unwatched_passAccepted hg n)
  unfold opOver
  dsimp only
  generalize onGroup s uid gid (fun g => passAccepted g n) = t at hafter
  cases hfound : findGroup (coreOf t k) uid gid with
  | none => rfl
  | some e =>
    have hnone (p : Entry → Bool) (hp : ∀ x, p x = true → ∃ a low, x.hold = .watch [] a low) : e.2.entries.filter p = [] := by
      refine List.filter_eq_nil_iff.mpr fun x hx hpx => ?_
      obtain ⟨a, low, hw⟩ := hp x hpx
      exact hafter e.1 e.2 hfound x hx [] a low hw
    dsimp only
    rw [hnone]
    · rfl
    · intro x hx
      split at hx
      · exact ⟨_, _, ‹_›⟩
      · cases hx

/-- A part of the state that holds no team: that no core and no saved image is. -/
def BlindToTeams {β : Type} (p : State → β) : Prop := ∀ (s : State) cores saved, p { s with cores := cores, saved := saved } = p s

section Blind

variable {β : Type} {p : State → β} (hp : BlindToTeams p)

include hp

theorem BlindToTeams.onCore (s : State) (k : Nat) (f : CoreState → CoreState) : p (onCore s k f) = p s := hp s _ s.saved

theorem BlindToTeams.onGroup (s : State) (uid gid : Nat) (f : Group → Group) : p (onGroup s uid gid f) = p s := hp s _ _

/-- So the retirement of a flag leaves it. -/
theorem retireFlag_keeps (s : State) (k n : Nat) : p (retireFlag s k n) = p s := by
  unfold retireFlag
  split
  · rfl
  · split
    · rfl
    · rw [hp.onGroup, onOp, hp.onCore]

end Blind

/-- The names that awaited an operation, with no flag to end their wait, await it no more. -/
def endOpPend (n : Nat) (g : Group) : Group := { g with pend := g.pend.filter (fun p => p.op != n || p.flag.isSome) }

theorem finishOp_eq {s : State} {k n : Nat} {o : Op} (ho : opOf s k n = some o) : finishOp s k n =
    opOver (dropOp (onCore (onGroup (retireFlag s k n) o.uid o.gid (endOpPend n)) k (fun c => unlatchOp c o)) k n) k n o.uid o.gid := by
  rw [finishOp, ho]
  rfl

theorem unlatchOp_frame (c : CoreState) (o : Op) : unlatchOp c o = { c with latches := (unlatchOp c o).latches } := by
  unfold unlatchOp
  split
  · exact unlatch_frame _ _ _
  · rfl

theorem findGroup_unlatchOp (c : CoreState) (o : Op) (uid gid : Nat) : findGroup (unlatchOp c o) uid gid = findGroup c uid gid := by
  rw [unlatchOp_frame]
  rfl

theorem opOf_onOp (s : State) (k n m : Nat) (f : Op → Op) : opOf (onOp s k n f) k m = if m = n then (opOf s k m).map f else opOf s k m := by
  rw [opOf, onOp, coreOf_onCore_self]
  exact look_alter _ _ _ _

theorem opOf_retireFlag_ne (s : State) (k n : Nat) {m : Nat} (h : m ≠ n) : opOf (retireFlag s k n) k m = opOf s k m := by
  unfold retireFlag
  split
  · rfl
  · split
    · rfl
    · rw [opOf_onGroup, opOf_onOp, if_neg h]

theorem UnwatchedAt.retireFlag {s : State} {k n : Nat} {o : Op} (ho : opOf s k n = some o) (h : UnwatchedAt (coreOf s k) o.uid o.gid) :
    UnwatchedAt (coreOf (retireFlag s k n) k) o.uid o.gid := by
  rw [Machine.retireFlag, ho]
  dsimp only
  split
  · exact h
  · have hop : UnwatchedAt (coreOf (onOp s k n (fun o => { o with flag := none })) k) o.uid o.gid := by
      rw [onOp, coreOf_onCore_self]
      exact h
    rw [coreOf_onGroup]
    exact hop.onGroups (fun g => ⟨rfl, rfl⟩) (fun g hg => hg.of_entries rfl)

section Finish

variable {s : State} {k n : Nat} {o : Op} (ho : opOf s k n = some o) (h : UnwatchedAt (coreOf s k) o.uid o.gid)

include ho h

/-- The end of an operation with no lane that waits to trap with WATCH. -/
theorem finishOp_unwatched : finishOp s k n = onGroup (dropOp (onCore (onGroup (retireFlag s k n) o.uid o.gid (endOpPend n)) k
    (fun c => unlatchOp c o)) k n) o.uid o.gid (fun g => passAccepted g n) := by
  rw [finishOp_eq ho]
  refine opOver_unwatched ?_ n
  rw [dropOp, coreOf_onCore_self, coreOf_onCore_self, coreOf_onGroup]
  have hpend := (UnwatchedAt.retireFlag ho h).onGroups (f := endOpPend n) (fun g => ⟨rfl, rfl⟩) (fun g hg => hg.of_entries rfl)
  intro x g hg
  exact hpend x g ((findGroup_unlatchOp _ o _ _).symm.trans hg)

theorem finishOp_keeps {β : Type} {p : State → β} (hp : BlindToTeams p) : p (finishOp s k n) = p s := by
  rw [finishOp_unwatched ho h, hp.onGroup, dropOp, hp.onCore, hp.onCore, hp.onGroup, retireFlag_keeps hp]

theorem opOf_finishOp (m : Nat) : opOf (finishOp s k n) k m = if m = n then none else opOf s k m := by
  have hdrop : opOf (finishOp s k n) k m = look (del (coreOf (retireFlag s k n) k).ops n) m := by
    rw [finishOp_unwatched ho h, opOf_onGroup, opOf, dropOp, coreOf_onCore_self, coreOf_onCore_self, unlatchOp_frame, coreOf_onGroup]
    rfl
  rw [hdrop]
  by_cases hm : m = n
  · rw [if_pos hm, hm, look_del_self]
  · rw [if_neg hm, look_del_ne _ hm]
    exact opOf_retireFlag_ne s k n hm

end Finish

end Sys2Proof.Machine

namespace Sys2Proof.Proofs

open Sys2Proof Sys2Proof.Machine

/-- Settles O46: a result is written by where it goes; a late one is a write of its name or none; the end of an operation touches its core's
operations and latches, and its own group. -/
theorem resultsArrive : Obligations.ResultsArrive := by
  refine ⟨fun s k n o ws uni ho hk => ⟨?_, ?_, ?_⟩, fun g n op m f => ⟨?_, ?_, ?_, ?_⟩, fun s k n o ho h => ?_⟩
  · exact fun d hd => exec_vectorResultWrite_v ho hk hd
  · exact fun d hd => exec_vectorResultWrite_s ho hk hd
  · exact exec_vectorResultWrite_none ho hk
  · exact fun h l hl => vLane_lateWrite m f h hl
  · exact lateWrite_not_awaited m f
  · exact fun d hd => look_lateWrite_ne m f hd
  · exact lateWrite_frame m f
  · have hkeeps {β : Type} {p : State → β} (hp : BlindToTeams p) : p (finishOp s k n) = p s := finishOp_keeps ho h hp
    refine ⟨?_, hkeeps (p := State.mem) fun _ _ _ => rfl, hkeeps (p := State.device) fun _ _ _ => rfl, hkeeps (p := State.dies) fun _ _ _ => rfl,
      hkeeps (p := State.fabric) fun _ _ _ => rfl, hkeeps (p := State.ctxs) fun _ _ _ => rfl, hkeeps (p := State.polders) fun _ _ _ => rfl, fun e he => ?_⟩
    · rw [opOf_finishOp ho h, if_pos rfl]
    · rw [opOf_finishOp ho h, if_neg he]

end Sys2Proof.Proofs
end

section
/-! PROOF. Writes of the control window (R61, R181): a granted write does what its register does, whatever event it comes by. -/

namespace Sys2Proof.Machine

/-! ### A write by its event -/

section Granted

variable {s t : State} {w : CtlWrite} {r : Region} {mine : Region → Bool}

/-- A granted write answers its register's state, or leaves its offset in DERR. -/
theorem ctlWrite_granted (h : Granted s w r) : ctlWrite s w = ((writeRegion s w.master.toNat w.data r).getD (refused s w), false) := by
  obtain ⟨hsize, halign, hregion, hgrant⟩ := h
  simp [ctlWrite, hsize, halign, hregion, hgrant]
  rfl

theorem Granted.region (h : Granted s w r) : regionOf w.off.toNat = r := h.2.2.1

/-- An event of the window, whose register the write names, does what the register does. -/
theorem exec_write_taken {i : Instr} (he : exec i s = writeAt s w mine) (h : Granted s w r) (hm : mine r = true)
    (ht : writeRegion s w.master.toNat w.data r = some t) : exec i s = .next t := by
  simp [he, writeAt, h.region, hm, ctlWrite_granted h, ht]

theorem exec_write_refused {i : Instr} (he : exec i s = writeAt s w mine) (h : Granted s w r) (hm : mine r = true)
    (ht : writeRegion s w.master.toNat w.data r = none) : exec i s = .next (refused s w) := by
  simp [he, writeAt, h.region, hm, ctlWrite_granted h, ht]

theorem exec_write_ungranted {i : Instr} (he : exec i s = writeAt s w mine)
    (h : w.size ≠ 8 ∨ w.off.toNat % 8 ≠ 0 ∨ writeGrants s w (regionOf w.off.toNat) = false) : exec i s = .next s := by
  have hs : (ctlWrite s w).1 = s := by
    have hbad : (w.size != 8 || w.off.toNat % 8 != 0 || !writeGrants s w (regionOf w.off.toNat)) = true := by simpa [or_assoc] using h
    simp [ctlWrite, hbad]
  simp [he, writeAt, hs]

end Granted

theorem allow_true (s : State) : allow true s = some s := rfl
theorem allow_false (s : State) : allow false s = none := rfl

theorem allow_of {c : Bool} (s : State) (h : c = true) : allow c s = some s := by rw [h, allow_true]
theorem allow_of_not {c : Bool} (s : State) (h : c = false) : allow c s = none := by rw [h, allow_false]

/-! ### Grants (R181, R419) -/

section Grants

variable {s : State} {w : CtlWrite} {r : Region}

theorem windowGrants_write_of_boot {m : Nat} (e : Bool) (h : bootRegister r = true) : windowGrants s m e true r = e := by simp [windowGrants, h]

theorem windowGrants_write {m : Nat} (e : Bool) (h : bootRegister r = false) :
    windowGrants s m e true r = (tatGrants s 4 m 3 && (m == 64 || m == 66 || ownBlock s m r)) := by simp [windowGrants, h]

theorem writeGrants_le_window (h : windowGrants s w.master.toNat w.viaEntry0 true r = false) : writeGrants s w r = false := by
  simp [writeGrants, h]

/-- Without the configure right nothing is granted but the boot registers that entry 0 reaches (R419). -/
theorem writeGrants_without_right (he : w.viaEntry0 = false) (h : tatGrants s 4 w.master.toNat 3 = false) : writeGrants s w r = false := by
  apply writeGrants_le_window
  cases hb : bootRegister r
  · rw [windowGrants_write _ hb, h, Bool.false_and]
  · rw [windowGrants_write_of_boot _ hb, he]

theorem writeGrants_other_block (he : w.viaEntry0 = false) (h64 : w.master ≠ 64) (h66 : w.master ≠ 66)
    (hown : ownBlock s w.master.toNat r = false) : writeGrants s w r = false := by
  apply writeGrants_le_window
  cases hb : bootRegister r
  · have h64 : w.master.toNat ≠ 64 := fun h => h64 (BitVec.eq_of_toNat_eq h)
    have h66 : w.master.toNat ≠ 66 := fun h => h66 (BitVec.eq_of_toNat_eq h)
    simp [windowGrants_write _ hb, h64, h66, hown]
  · rw [windowGrants_write_of_boot _ hb, he]

/-- R181: masters 64 and 66 reach every descriptor, and others those of their own contexts. -/
theorem writeGrants_ctx {c o : Nat} (h : tatGrants s 4 w.master.toNat 3 = true)
    (hm : w.master = 64 ∨ w.master = 66 ∨ (ctxOf s c).polder = w.master.toNat) : writeGrants s w (.ctx c o) = true := by
  have hb : bootRegister (.ctx c o) = false := rfl
  have hblock : (w.master.toNat == 64 || w.master.toNat == 66 || ownBlock s w.master.toNat (.ctx c o)) = true := by
    rcases hm with hm | hm | hm <;> simp [hm, ownBlock]
  simp only [writeGrants, windowGrants_write _ hb, h, hblock, Bool.and_self]

end Grants

/-! ### Descriptors -/

theorem regionOf_ctx {c o : Nat} (hc : c < 1024) (ho : o < 256) : regionOf (0x10_0000 + o + 0x100 * c) = .ctx c o := by
  simp only [regionOf, Bool.and_eq_true, decide_eq_true_eq]
  rw [if_neg (by omega), if_neg (by omega), if_neg (by omega), if_neg (by omega), if_pos (by omega)]
  congr 1 <;> omega

theorem writeCtx_cvgrace (s : State) (c : Nat) (v : Word) :
    writeCtx s c 0xD0 v = some (setCtx s c { ctxOf s c with cvgrace := BitVec.ofNat 32 (fieldOf v 0 32) }) := rfl

theorem fieldOf_lt (v : Word) (lo len : Nat) : fieldOf v lo len < 2 ^ len := Nat.mod_lt _ (Nat.two_pow_pos len)

theorem windowRead_cvgrace {s : State} {a c : Nat} (h : regionOf a = .ctx c 0xD0) : windowRead s a = BitVec.ofNat 64 (ctxOf s c).cvgrace.toNat := by
  simp only [windowRead, h]
  rfl

end Sys2Proof.Machine

namespace Sys2Proof.Proofs

open Sys2Proof Sys2Proof.Machine

/-- Settles O41: a granted write is its register's, and grants by the region's own case. -/
theorem windowWrites : Obligations.WindowWrites := by
  intro s w
  refine ⟨fun r t h => exec_write_taken (exec_registerWrite w s) h rfl, fun r h => exec_write_refused (exec_registerWrite w s) h rfl, ?readOnly,
    exec_write_ungranted (exec_registerWrite w s), fun r => writeGrants_without_right, fun r => writeGrants_other_block, ?cvgrace⟩
  case readOnly =>
    rintro d o (h | h | h)
    · exact exec_write_taken (exec_registerWrite w s) h rfl rfl
    · exact exec_write_taken (exec_registerWrite w s) h rfl rfl
    · exact exec_write_taken (exec_registerWrite w s) h rfl rfl
  case cvgrace =>
    intro c _ htat hm hsize hoff hc
    have hregion : regionOf w.off.toNat = .ctx c 0xD0 := by rw [hoff]; exact regionOf_ctx (o := 0xD0) hc (by decide)
    have hg : Granted s w (.ctx c 0xD0) := ⟨hsize, by omega, hregion, writeGrants_ctx htat hm⟩
    refine ⟨_, exec_write_taken (exec_registerWrite w s) hg rfl (writeCtx_cvgrace s c w.data), ?_, rfl⟩
    rw [windowRead_cvgrace hregion, ctxOf_setCtx_self, BitVec.toNat_ofNat, Nat.mod_eq_of_lt (fieldOf_lt w.data 0 32)]

end Sys2Proof.Proofs
end

section
/-! PROOF. Writes of the device block, of the entries of R183, of a core's reset, bounds and clock, and of an attestation (R62, R69 to R71, R140,
R180, R182, R183, R415, R420). -/

namespace Sys2Proof.Machine

/-! ### The device block (R62) -/

theorem writeDevice_lock {v : Word} (h : bitAt v.toNat 0 = true) (s : State) (m : Nat) :
    writeDevice s m 0x020 v = allow (m == 64 && allBooted s) (onDevice s (fun d => { d with lock := true })) := if_pos h

/-- The words of the VCT (R182). -/
theorem writeDevice_vct {cls : Nat} (h : cls < 32) (s : State) (m : Nat) (v : Word) :
    writeDevice s m (0x200 + 8 * cls) v = writeVct s m cls v := by
  have hcls : (0x200 + 8 * cls - 0x200) / 8 = cls := by omega
  simp only [writeDevice, Bool.and_eq_true, decide_eq_true_eq]
  iterate 9 rw [if_neg (by omega)]
  rw [if_pos (by omega), hcls]

/-- The target access tables: 128 bytes for each kind (R180). -/
theorem writeDevice_tat {kind first : Nat} (hk : kind < 5) (hf : first < 128) (s : State) (m : Nat) (v : Word) :
    writeDevice s m (0x400 + 128 * kind + first) v = writeTat s kind first v := by
  have hkind : (0x400 + 128 * kind + first - 0x400) / 128 = kind := by omega
  have hfirst : (0x400 + 128 * kind + first) % 128 = first := by omega
  simp only [writeDevice, Bool.and_eq_true, decide_eq_true_eq]
  iterate 10 rw [if_neg (by omega)]
  rw [if_pos (by omega), hkind, hfirst]

theorem master_beq (m : BitVec 7) : (m.toNat == 64) = decide (m = 64) := by
  rw [Bool.eq_iff_iff, beq_iff_eq, decide_eq_true_eq]
  exact ⟨fun h => BitVec.eq_of_toNat_eq h, fun h => h ▸ rfl⟩

theorem writeVct_eq (s : State) (m : BitVec 7) (cls : Nat) (v : Word) : writeVct s m.toNat cls v =
    allow (decide (m = 64 ∧ cls < 15 ∧ vctEngine cls ≠ 0 ∧ vctReset cls ≤ fieldOf v 0 16))
      (onDevice s (fun d => { d with vct := put d.vct cls (BitVec.ofNat 16 (fieldOf v 0 16)) })) := by
  unfold writeVct
  congr 1
  rw [master_beq, Bool.eq_iff_iff]
  simp only [Bool.and_eq_true, bne_iff_ne, decide_eq_true_eq]
  tauto

section Tat

variable {kind first : Nat} (s : State) (v : Word)

/-- The eight entries that a word of a table names (R180). -/
def tatEntries (first : Nat) (v : Word) : List (Nat × Nat) := (List.range 8).map (fun j => (first + j, byteAt v j % 16))

/-- The tables with a word of entries written: those of reserved masters stay 0. -/
def tatAfter (t : AMap (BitVec 8)) (kind : Nat) (es : List (Nat × Nat)) : AMap (BitVec 8) :=
  es.foldl (fun t e => if 68 ≤ e.1 then t else putD t (kind * 128 + e.1) 0 (BitVec.ofNat 8 e.2)) t

theorem tatEntries_master {e : Nat × Nat} (h8 : first % 8 = 0) (h : first ≠ 64) (he : e ∈ tatEntries first v) : e.1 ≠ 64 ∧ e.1 ≠ 65 := by
  simp only [tatEntries, List.mem_map, List.mem_range] at he
  obtain ⟨j, hj, rfl⟩ := he
  dsimp only
  omega

/-- A word without masters 64 and 65 is taken whole. -/
theorem writeTat_taken (h8 : first % 8 = 0) (h : first ≠ 64) :
    writeTat s kind first v = some (onDevice s (fun d => { d with tat := tatAfter d.tat kind (tatEntries first v) })) := by
  have hmaster : ∀ e ∈ tatEntries first v, e.1 ≠ 64 ∧ e.1 ≠ 65 := fun e => tatEntries_master v h8 h
  have hall : (tatEntries first v).all (fun e => (e.1 != 64 && e.1 != 65) || e.2 == 0x0F) = true :=
    List.all_eq_true.mpr fun e he => by simp [hmaster e he]
  have hfold (t : AMap (BitVec 8)) : (tatEntries first v).foldl
      (fun t e => if 68 ≤ e.1 || e.1 = 64 || e.1 = 65 then t else putD t (kind * 128 + e.1) 0 (BitVec.ofNat 8 e.2)) t =
      tatAfter t kind (tatEntries first v) :=
    List.foldl_ext _ _ _ fun t e he => by simp [hmaster e he]
  rw [writeTat, ← tatEntries, allow_of _ hall]
  simp only [hfold]

/-- A word that would take rights of masters 64 or 65 is refused. -/
theorem writeTat_refused (h : byteAt v 0 % 16 ≠ 15 ∨ byteAt v 1 % 16 ≠ 15) : writeTat s kind 64 v = none := by
  refine allow_of_not _ (List.all_eq_false.mpr ?_)
  rcases h with h | h
  · exact ⟨(64, byteAt v 0 % 16), List.mem_map.mpr ⟨0, by decide, rfl⟩, by simpa using h⟩
  · exact ⟨(65, byteAt v 1 % 16), List.mem_map.mpr ⟨1, by decide, rfl⟩, by simpa using h⟩

end Tat

/-- The access tables are master 64's alone to write (R180). -/
theorem writeGrants_tat {s : State} {w : CtlWrite} {o : Nat} (hlo : 0x400 ≤ o) (hhi : o < 0x680) (h : w.master ≠ 64) :
    writeGrants s w (.device o) = false := by
  have h64 : (w.master == 64) = false := beq_eq_false_iff_ne.mpr h
  simp only [writeGrants, hlo, hhi, h64, decide_true, Bool.and_self, Bool.not_true, Bool.or_self, Bool.and_false]

theorem writePlanes_dead {s : State} {v : Word} (h : ∃ e, e < 4 ∧ deadBit s (fieldOf v (2 * e) 2) = true) : writePlanes s v = none := by
  obtain ⟨e, he, hdead⟩ := h
  have hmem : e ∈ [0, 1, 2, 3] := by simp; omega
  exact allow_of_not _ (List.all_eq_false.mpr ⟨e, hmem, by simp [hdead]⟩)

/-- A value of FPLANE that changes no entry changes nothing (R140). -/
theorem writePlanes_same {s : State} {v : Word} (h : ∀ e, e < 4 → deadBit s (fieldOf v (2 * e) 2) = false ∧
    mapOf s e = fieldOf v (2 * e) 2 ∧ entryPending s e = false) : writePlanes s v = some s := by
  have hall : [0, 1, 2, 3].all (fun e => !deadBit s (fieldOf v (2 * e) 2)) = true := by
    refine List.all_eq_true.mpr fun e he => ?_
    have hlt : e < 4 := by simp at he; omega
    simp [(h e hlt).1]
  rw [writePlanes, allow_of _ hall]
  simp [h 0, h 1, h 2, h 3]

/-! ### Attestation (R420) -/

/-- A die whose report is asked for: the nonce and the measurements are taken as they stand. -/
def attestAsked (x : Die) (m : Nat) (v : Word) : Die :=
  { x with
    attDone := x.attDone && !bitAt v.toNat 61, attOff := BitVec.ofNat 14 (fieldOf v 6 14), attBusy := true, attBy := m, attSpoiled := false,
    attGo := (x.attnonce, (List.range 4).map (fun j => lookD x.meas j 0)), attGoOff := BitVec.ofNat 14 (fieldOf v 6 14) }

theorem writeAttctl_go {s : State} {d : Nat} {v : Word} (m : Nat) (hgo : bitAt v.toNat 63 = true) (hidle : (dieOf s d).attBusy = false)
    (hstage : 2 ≤ bitsAt (dieOf s d).bstat.toNat 0 4) : writeAttctl s m d v = some (setDie s d (attestAsked (dieOf s d) m v)) := by
  simp [writeAttctl, hgo, hidle, hstage, allow_true, attestAsked]

theorem writeAttctl_refused {s : State} {d : Nat} {v : Word} (m : Nat) (hgo : bitAt v.toNat 63 = true)
    (h : (dieOf s d).attBusy = true ∨ bitsAt (dieOf s d).bstat.toNat 0 4 < 2) : writeAttctl s m d v = none := by
  have hbad : (!(dieOf s d).attBusy && decide (2 ≤ bitsAt (dieOf s d).bstat.toNat 0 4)) = false := by
    rcases h with h | h
    · simp [h]
    · simp [Nat.not_le.mpr h]
  simp [writeAttctl, hgo, hbad, allow_false]

/-! ### A core's reset and bounds (R70, R415) -/

theorem writeCore_reset {v : Word} (h : bitAt v.toNat 0 = true) (s : State) (m k : Nat) : writeCore s m k 0x010 v =
    allow (m == 64 && (ownerOf s k).isNone && (coreOf s k).teams.isEmpty) (onCore s k (fun c => { c with
      ccyc := 0, refillAt := 0, suba := 0, fenceReq := none, banks := [], l1 := [], icache := [], latches := [], pmcfg := 0, pmfilt := 0, pmc := [] })) := by
  change writeCrst s m k v = _
  simp [writeCrst, h]

theorem writeCore_bound (s : State) (m k slot : Nat) (v : Word) :
    writeCore s m k (0x800 + 0x20 * slot) v = allow ((slotCtx s k slot).isSome && !hwConverts s k) (setBound s k slot v.toNat) := by
  have hslot : (0x800 + 0x20 * slot - 0x800) / 0x20 = slot := by omega
  simp only [writeCore, Bool.and_eq_true, decide_eq_true_eq, hslot]
  iterate 5 rw [if_neg (by omega)]
  rw [if_pos ⟨by omega, by omega⟩]

/-! ### A core's clock (R71) -/

@[simp] theorem hwConverts_onCore (s : State) (j k : Nat) (f : CoreState → CoreState) : hwConverts (onCore s j f) k = hwConverts s k := rfl

/-- A vacate of some context in a valid slot is in its soft or its save stage. -/
def vacating (s : State) (k : Nat) : Prop := ∃ e ∈ validSlots s k, (ctxOf s e.2).phase = 1 ∨ (ctxOf s e.2).phase = 2

/-- Every bound is within the floor at a clock, and every VEST within its bound. -/
def clockFits (s : State) (k mhz : Nat) : Prop := ∀ e ∈ validSlots s k, vbnd s k (BitVec.ofNat 10 e.2) ≤ boundFloor (ctxOf s e.2) mhz ∧
  vest s k (BitVec.ofNat 10 e.2) ≤ vbnd s k (BitVec.ofNat 10 e.2)

/-- A core whose clock a write has set. -/
def clocked (mhz : Nat) (c : CoreState) : CoreState := { c with mhz := BitVec.ofNat 11 mhz }

section Clock

variable {s : State} {k : Nat} {v : Word}

/-- The clocks that no core takes now: out of range or off the grid, in a vacate, or while a lowering is pending. -/
def clockBarred (s : State) (k mhz : Nat) : Prop :=
  mhz < 500 ∨ 1500 < mhz ∨ mhz % 25 ≠ 0 ∨ vacating s k ∨ (coreOf s k).lowering.isSome = true

theorem anyVacating_iff : ((validSlots s k).any (fun e => (ctxOf s e.2).phase == 1 || (ctxOf s e.2).phase == 2) = true) ↔ vacating s k := by
  simp [vacating]

theorem writeCclk_barred (h : clockBarred s k (fieldOf v 0 11)) : writeCclk s k v = none := by
  unfold writeCclk
  by_cases hrange : fieldOf v 0 11 < 500 ∨ 1500 < fieldOf v 0 11 ∨ fieldOf v 0 11 % 25 ≠ 0
  · simp [or_assoc, hrange]
  · obtain ⟨hlo, hhi, hgrid⟩ : ¬ fieldOf v 0 11 < 500 ∧ ¬ 1500 < fieldOf v 0 11 ∧ ¬ fieldOf v 0 11 % 25 ≠ 0 := by simpa [not_or] using hrange
    have hbusy : vacating s k ∨ (coreOf s k).lowering.isSome = true := by
      rcases h with h | h | h | h
      · exact absurd h hlo
      · exact absurd h hhi
      · exact absurd h hgrid
      · exact h
    have hwait : ((validSlots s k).any (fun e => (ctxOf s e.2).phase == 1 || (ctxOf s e.2).phase == 2) || (coreOf s k).lowering.isSome) = true := by
      rw [Bool.or_eq_true, anyVacating_iff]
      exact hbusy
    simp only [hwait, if_true, ite_self]

/-- A clock that nothing bars: taken at once, as a lowering to come, or only when every bound fits. -/
theorem writeCclk_open (h : ¬ clockBarred s k (fieldOf v 0 11)) : writeCclk s k v =
    if (coreOf s k).mhz.toNat ≤ fieldOf v 0 11 || (ownerOf s k).isNone then
      some (if hwConverts s k then convertAll (onCore s k (clocked (fieldOf v 0 11))) k (fieldOf v 0 11) else onCore s k (clocked (fieldOf v 0 11)))
    else if hwConverts s k then
      some (convertAll (onCore s k (fun c => { c with lowering := some (BitVec.ofNat 11 (fieldOf v 0 11)) })) k (fieldOf v 0 11))
    else allow ((validSlots s k).all (fun e => vbnd s k (BitVec.ofNat 10 e.2) ≤ boundFloor (ctxOf s e.2) (fieldOf v 0 11) &&
      vest s k (BitVec.ofNat 10 e.2) ≤ vbnd s k (BitVec.ofNat 10 e.2))) (onCore s k (clocked (fieldOf v 0 11))) := by
  obtain ⟨hlo, hhi, hgrid, hvac, hlow⟩ := by simpa only [clockBarred, not_or] using h
  have hrange : (decide (fieldOf v 0 11 < 500) || decide (1500 < fieldOf v 0 11) || fieldOf v 0 11 % 25 != 0) = false := by
    simpa using ⟨⟨Nat.not_lt.mp hlo, Nat.not_lt.mp hhi⟩, not_not.mp hgrid⟩
  have hwait : ((validSlots s k).any (fun e => (ctxOf s e.2).phase == 1 || (ctxOf s e.2).phase == 2) || (coreOf s k).lowering.isSome) = false := by
    rw [Bool.or_eq_false_iff]
    exact ⟨by simpa using mt anyVacating_iff.mp hvac, by simpa using hlow⟩
  unfold writeCclk
  simp only [hrange, hwait, hwConverts_onCore, Bool.false_eq_true, if_false]
  rfl

theorem writeCclk_raised (h : ¬ clockBarred s k (fieldOf v 0 11)) (hup : (coreOf s k).mhz.toNat ≤ fieldOf v 0 11 ∨ ownerOf s k = none) :
    writeCclk s k v = some (if hwConverts s k then convertAll (onCore s k (clocked (fieldOf v 0 11))) k (fieldOf v 0 11)
      else onCore s k (clocked (fieldOf v 0 11))) := by
  rw [writeCclk_open h, if_pos (by simpa using hup)]

section Lower

variable (h : ¬ clockBarred s k (fieldOf v 0 11)) (hdown : fieldOf v 0 11 < (coreOf s k).mhz.toNat) (howned : ownerOf s k ≠ none)
include h hdown howned

theorem writeCclk_lowered : writeCclk s k v = if hwConverts s k then
      some (convertAll (onCore s k (fun c => { c with lowering := some (BitVec.ofNat 11 (fieldOf v 0 11)) })) k (fieldOf v 0 11))
    else allow ((validSlots s k).all (fun e => vbnd s k (BitVec.ofNat 10 e.2) ≤ boundFloor (ctxOf s e.2) (fieldOf v 0 11) &&
      vest s k (BitVec.ofNat 10 e.2) ≤ vbnd s k (BitVec.ofNat 10 e.2))) (onCore s k (clocked (fieldOf v 0 11))) := by
  have hnot : ¬ (decide ((coreOf s k).mhz.toNat ≤ fieldOf v 0 11) || (ownerOf s k).isNone) = true := by
    simp [Nat.not_le.mpr hdown, howned]
  rw [writeCclk_open h, if_neg hnot]

theorem writeCclk_pending (hw : hwConverts s k = true) : writeCclk s k v =
    some (convertAll (onCore s k (fun c => { c with lowering := some (BitVec.ofNat 11 (fieldOf v 0 11)) })) k (fieldOf v 0 11)) := by
  rw [writeCclk_lowered h hdown howned, if_pos hw]

theorem writeCclk_fits (hw : hwConverts s k = false) (hf : clockFits s k (fieldOf v 0 11)) :
    writeCclk s k v = some (onCore s k (clocked (fieldOf v 0 11))) := by
  rw [writeCclk_lowered h hdown howned, if_neg (by simp [hw])]
  exact allow_of _ (List.all_eq_true.mpr fun e he => by simpa using hf e he)

theorem writeCclk_unfit (hw : hwConverts s k = false) (hf : ¬ clockFits s k (fieldOf v 0 11)) : writeCclk s k v = none := by
  rw [writeCclk_lowered h hdown howned, if_neg (by simp [hw])]
  refine allow_of_not _ (Bool.eq_false_iff.mpr fun hall => hf fun e he => ?_)
  simpa using List.all_eq_true.mp hall e he

end Lower

end Clock

section Lowering

variable {s : State} {k : BitVec 9} {m : BitVec 11}

theorem exec_clockLowerApply_fits (hm : (coreOf s k.toNat).lowering = some m)
    (h : ∀ e ∈ validSlots s k.toNat, vest s k.toNat (BitVec.ofNat 10 e.2) ≤ vbnd s k.toNat (BitVec.ofNat 10 e.2)) :
    exec (.clockLowerApply k) s = .next (onCore s k.toNat (fun c => { c with mhz := m, lowering := none })) := by
  have hall : (validSlots s k.toNat).all (fun e => vest s k.toNat (BitVec.ofNat 10 e.2) ≤ vbnd s k.toNat (BitVec.ofNat 10 e.2)) = true := by
    simpa using h
  simp only [exec_clockLowerApply, execClockLowerApply, hm, hall, if_true]

theorem exec_clockLowerApply_waits
    (h : ∃ e ∈ validSlots s k.toNat, vbnd s k.toNat (BitVec.ofNat 10 e.2) < vest s k.toNat (BitVec.ofNat 10 e.2)) :
    exec (.clockLowerApply k) s = .next s := by
  obtain ⟨e, he, hlt⟩ := h
  have hall : (validSlots s k.toNat).all (fun e => vest s k.toNat (BitVec.ofNat 10 e.2) ≤ vbnd s k.toNat (BitVec.ofNat 10 e.2)) = false :=
    List.all_eq_false.mpr ⟨e, he, by simpa using hlt⟩
  cases hm : (coreOf s k.toNat).lowering <;> simp [exec_clockLowerApply, execClockLowerApply, hm, hall]

end Lowering

/-! ### The events of these writes -/

section Events

variable {s : State} {w : CtlWrite}

/-- R62. -/
theorem exec_dcfgLock_granted (h : Granted s w (.device 0x020)) (hbit : bitAt w.data.toNat 0 = true) :
    (w.master = 64 → allBooted s = true → exec (.dcfgLock w) s = .next (onDevice s (fun d => { d with lock := true }))) ∧
    (w.master ≠ 64 ∨ allBooted s = false → exec (.dcfgLock w) s = .next (refused s w)) := by
  have hmine : (Region.device 0x020 == .device 0x020 && bitAt w.data.toNat 0) = true := by rw [hbit]; rfl
  have hw : writeRegion s w.master.toNat w.data (.device 0x020) = _ := writeDevice_lock hbit s w.master.toNat
  rw [master_beq] at hw
  refine ⟨fun hm hb => exec_write_taken (exec_dcfgLock w s) h hmine (hw.trans (allow_of _ ?_)),
    fun hr => exec_write_refused (exec_dcfgLock w s) h hmine (hw.trans (allow_of_not _ ?_))⟩
  · simp only [hm, hb, decide_true, Bool.and_self]
  · rcases hr with hr | hr
    · simp only [hr, decide_false, Bool.false_and]
    · simp only [hr, Bool.and_false]

/-- R182. -/
theorem exec_vctWrite_granted {cls : Nat} (hcls : cls < 32) (h : Granted s w (.device (0x200 + 8 * cls))) :
    ((w.master = 64 ∧ cls < 15 ∧ vctEngine cls ≠ 0 ∧ vctReset cls ≤ fieldOf w.data 0 16) →
      exec (.vctWrite w) s = .next (onDevice s (fun d => { d with vct := put d.vct cls (BitVec.ofNat 16 (fieldOf w.data 0 16)) }))) ∧
    (¬ (w.master = 64 ∧ cls < 15 ∧ vctEngine cls ≠ 0 ∧ vctReset cls ≤ fieldOf w.data 0 16) →
      exec (.vctWrite w) s = .next (refused s w)) := by
  have hmine : decide ((decide (0x200 ≤ 0x200 + 8 * cls) && decide (0x200 + 8 * cls < 0x300)) = true) = true := by simp; omega
  have hw : writeRegion s w.master.toNat w.data (.device (0x200 + 8 * cls)) = _ := (writeDevice_vct hcls _ _ _).trans (writeVct_eq _ _ _ _)
  exact ⟨fun hok => exec_write_taken (exec_vctWrite w s) h hmine (hw.trans (allow_of _ (decide_eq_true hok))),
    fun hbad => exec_write_refused (exec_vctWrite w s) h hmine (hw.trans (allow_of_not _ (decide_eq_false hbad)))⟩

/-- R180. -/
theorem exec_tatWrite_granted {kind first : Nat} (hk : kind < 5) (hf : first < 128) (h8 : first % 8 = 0)
    (h : Granted s w (.device (0x400 + 128 * kind + first))) :
    (first ≠ 64 → exec (.tatWrite w) s = .next (onDevice s (fun d => { d with tat := tatAfter d.tat kind (tatEntries first w.data) }))) ∧
    (first = 64 → byteAt w.data 0 % 16 ≠ 15 ∨ byteAt w.data 1 % 16 ≠ 15 → exec (.tatWrite w) s = .next (refused s w)) := by
  have hmine : decide ((decide (0x400 ≤ 0x400 + 128 * kind + first) && decide (0x400 + 128 * kind + first < 0x680)) = true) = true := by simp; omega
  have hw : writeRegion s w.master.toNat w.data (.device (0x400 + 128 * kind + first)) = _ := writeDevice_tat hk hf _ _ _
  refine ⟨fun hne => exec_write_taken (exec_tatWrite w s) h hmine (hw.trans (writeTat_taken s w.data h8 hne)), fun he hbad => ?_⟩
  subst he
  exact exec_write_refused (exec_tatWrite w s) h hmine (hw.trans (writeTat_refused s w.data hbad))

/-- R140. -/
theorem exec_fplaneWrite_taken {t : State} (h : Granted s w (.device 0x100)) (ht : writePlanes s w.data = some t) :
    exec (.fplaneWrite w) s = .next t :=
  exec_write_taken (exec_fplaneWrite w s) h rfl ht

theorem exec_fplaneWrite_refused (h : Granted s w (.device 0x100)) (hn : writePlanes s w.data = none) :
    exec (.fplaneWrite w) s = .next (refused s w) :=
  exec_write_refused (exec_fplaneWrite w s) h rfl hn

/-- R183. -/
theorem exec_exportWrite_granted {n o : Nat} (h : Granted s w (.entry n o)) :
    (overlaps s n (entryAfter s n o w.data) = false →
      exec (.exportWrite w) s = .next (onDevice s (fun d => { d with expo := put d.expo n (entryAfter s n o w.data) }))) ∧
    (overlaps s n (entryAfter s n o w.data) = true → exec (.exportWrite w) s = .next (refused s w)) := by
  refine ⟨fun hfree => exec_write_taken (exec_exportWrite w s) h rfl (allow_of _ ?_),
    fun hmeets => exec_write_refused (exec_exportWrite w s) h rfl (allow_of_not _ ?_)⟩
  · rw [hfree]; rfl
  · rw [hmeets]; rfl

/-- R415. -/
theorem exec_coreReset_granted {k : Nat} (h : Granted s w (.core k 0x010)) (hbit : bitAt w.data.toNat 0 = true) :
    (w.master = 64 → ownerOf s k = none → (coreOf s k).teams = [] → exec (.coreReset w) s = .next (onCore s k (fun c => { c with
      ccyc := 0, refillAt := 0, suba := 0, fenceReq := none, banks := [], l1 := [], icache := [], latches := [], pmcfg := 0, pmfilt := 0, pmc := [] }))) ∧
    (w.master ≠ 64 ∨ ownerOf s k ≠ none ∨ (coreOf s k).teams ≠ [] → exec (.coreReset w) s = .next (refused s w)) := by
  have hw : writeRegion s w.master.toNat w.data (.core k 0x010) = _ := writeCore_reset hbit s w.master.toNat k
  rw [master_beq] at hw
  refine ⟨fun hm ho ht => exec_write_taken (exec_coreReset w s) h rfl (hw.trans (allow_of _ ?_)),
    fun hr => exec_write_refused (exec_coreReset w s) h rfl (hw.trans (allow_of_not _ ?_))⟩
  · rw [ho, ht, decide_eq_true hm]; rfl
  · rcases hr with hr | hr | hr
    · simp only [hr, decide_false, Bool.false_and]
    · simp [hr]
    · simp [hr]

/-- R420. -/
theorem exec_attestGo_granted {d : Nat} (h : Granted s w (.baseDie d 0x9A0)) (hgo : bitAt w.data.toNat 63 = true) :
    ((dieOf s d).attBusy = false → 2 ≤ bitsAt (dieOf s d).bstat.toNat 0 4 →
      exec (.attestGo w) s = .next (setDie s d (attestAsked (dieOf s d) w.master.toNat w.data))) ∧
    ((dieOf s d).attBusy = true ∨ bitsAt (dieOf s d).bstat.toNat 0 4 < 2 → exec (.attestGo w) s = .next (refused s w)) := by
  have hmine : ((0x9A0 : Nat) == 0x9A0 && bitAt w.data.toNat 63) = true := by rw [hgo]; rfl
  exact ⟨fun hidle hstage => exec_write_taken (exec_attestGo w s) h hmine (writeAttctl_go _ hgo hidle hstage),
    fun hbad => exec_write_refused (exec_attestGo w s) h hmine (writeAttctl_refused _ hgo hbad)⟩

/-- R70. -/
theorem exec_vbndWrite_granted {k slot : Nat} (h : Granted s w (.core k (0x800 + 0x20 * slot))) :
    ((slotCtx s k slot).isSome = true → hwConverts s k = false → exec (.vbndWrite w) s = .next (setBound s k slot w.data.toNat)) ∧
    ((slotCtx s k slot).isSome = false ∨ hwConverts s k = true → exec (.vbndWrite w) s = .next (refused s w)) := by
  have hmine : (decide (0x800 ≤ 0x800 + 0x20 * slot) && (0x800 + 0x20 * slot) % 0x20 == 0) = true := by simp
  have hw : writeRegion s w.master.toNat w.data (.core k (0x800 + 0x20 * slot)) = _ := writeCore_bound s w.master.toNat k slot w.data
  refine ⟨fun hv hc => exec_write_taken (exec_vbndWrite w s) h hmine (hw.trans (allow_of _ ?_)),
    fun hr => exec_write_refused (exec_vbndWrite w s) h hmine (hw.trans (allow_of_not _ ?_))⟩
  · rw [hv, hc]; rfl
  · rcases hr with hr | hr
    · rw [hr]; rfl
    · rw [hr, Bool.not_true, Bool.and_false]

/-- R71. -/
theorem exec_cclkWrite_taken {k : Nat} {t : State} (h : Granted s w (.core k 0)) (ht : writeCclk s k w.data = some t) :
    exec (.cclkWrite w) s = .next t :=
  exec_write_taken (exec_cclkWrite w s) h rfl ht

theorem exec_cclkWrite_refused {k : Nat} (h : Granted s w (.core k 0)) (hn : writeCclk s k w.data = none) :
    exec (.cclkWrite w) s = .next (refused s w) :=
  exec_write_refused (exec_cclkWrite w s) h rfl hn

end Events

end Sys2Proof.Machine

namespace Sys2Proof.Proofs

open Sys2Proof Sys2Proof.Machine

/-- Settles O42: each register by the lemma on its event. -/
theorem deviceWrites : Obligations.DeviceWrites := by
  refine ⟨fun s w => ⟨exec_dcfgLock_granted, fun cls => exec_vctWrite_granted,
      fun kind first hk hf h8 h _ => exec_tatWrite_granted hk hf h8 h, ?tatOther,
      fun h => ⟨fun t => exec_fplaneWrite_taken h, fun hdead => exec_fplaneWrite_refused h (writePlanes_dead hdead),
        fun hsame => exec_fplaneWrite_taken h (writePlanes_same hsame)⟩,
      fun n o => exec_exportWrite_granted, fun k => exec_coreReset_granted, fun d h hgo => ?attest⟩,
    fun s w k => ⟨fun slot _ => exec_vbndWrite_granted, fun h => ⟨fun hbad => exec_cclkWrite_refused h (writeCclk_barred hbad), ?clock⟩, ?lowering⟩⟩
  case tatOther =>
    intro o hlo hhi hoff hm _
    have hregion : regionOf w.off.toNat = .device o := by
      rw [hoff]
      exact if_pos (by omega)
    exact exec_write_ungranted (exec_tatWrite w s) (Or.inr (Or.inr (hregion ▸ writeGrants_tat hlo hhi hm)))
  case attest =>
    obtain ⟨htaken, hrefused⟩ := exec_attestGo_granted h hgo
    refine ⟨fun x hx => ?_, hrefused⟩
    subst hx
    exact htaken
  case clock =>
    intro hlo hhi hgrid hidle hlow
    have hopen : ¬ clockBarred s k (fieldOf w.data 0 11) := by
      rintro (hbad | hbad | hbad | hbad | hbad)
      · omega
      · omega
      · exact hbad hgrid
      · exact hidle hbad
      · simp [hlow] at hbad
    exact ⟨fun hup => exec_cclkWrite_taken h (writeCclk_raised hopen hup), fun hdown howned =>
      ⟨fun hw => exec_cclkWrite_taken h (writeCclk_pending hopen hdown howned hw),
        fun hw hfits => exec_cclkWrite_taken h (writeCclk_fits hopen hdown howned hw hfits),
        fun hw hfits => exec_cclkWrite_refused h (writeCclk_unfit hopen hdown howned hw hfits)⟩⟩
  case lowering =>
    intro k9 m hk hm
    subst hk
    exact ⟨exec_clockLowerApply_fits hm, exec_clockLowerApply_waits⟩

end Sys2Proof.Proofs
end

section
/-! PROOF. The fields of a register's word, by their bits. -/

namespace Sys2Proof.Machine

theorem testBit_fieldOf (x : Word) (lo len i : Nat) : (fieldOf x lo len).testBit i = (decide (i < len) && x.toNat.testBit (i + lo)) := by
  simp only [fieldOf, bitsAt, Nat.testBit_mod_two_pow, Nat.testBit_div_two_pow]

/-- A field that a register keeps whole. -/
theorem fieldOf_keep {mask lo len : Nat} (v : Word) (h : ∀ i, i < len → (BitVec.ofNat 64 mask).getLsbD (i + lo) = true) :
    fieldOf (keep v mask) lo len = fieldOf v lo len := by
  apply Nat.eq_of_testBit_eq
  intro i
  simp only [testBit_fieldOf, keep, BitVec.testBit_toNat, BitVec.getLsbD_and]
  by_cases hi : i < len
  · rw [h i hi, Bool.and_true]
  · simp [hi]

section SetField

variable {lo len : Nat} (x : Word) (n : Nat)

/-- A word with a field replaced: what is below, the new value, what is above. -/
theorem toNat_setField (h : lo + len ≤ 64) :
    (setField x lo len n).toNat = 2 ^ lo * (2 ^ len * (x.toNat / 2 ^ (lo + len)) + n % 2 ^ len) + x.toNat % 2 ^ lo := by
  have hlow := Nat.div_add_mod x.toNat (2 ^ lo)
  have hmid := Nat.div_add_mod (x.toNat / 2 ^ lo) (2 ^ len)
  rw [Nat.div_div_eq_div_mul, ← Nat.pow_add] at hmid
  have hsum : x.toNat = 2 ^ lo * (2 ^ len * (x.toNat / 2 ^ (lo + len))) + 2 ^ lo * (x.toNat / 2 ^ lo % 2 ^ len) + x.toNat % 2 ^ lo := by
    rw [← Nat.mul_add, hmid, hlow]
  have hhigh : x.toNat / 2 ^ (lo + len) < 2 ^ (64 - (lo + len)) :=
    Nat.div_lt_of_lt_mul (by rw [← Nat.pow_add, Nat.add_sub_cancel' h]; exact x.isLt)
  have hfit : 2 ^ lo * (2 ^ len * (x.toNat / 2 ^ (lo + len)) + n % 2 ^ len) + x.toNat % 2 ^ lo < 2 ^ 64 := by
    have h1 : x.toNat % 2 ^ lo < 2 ^ lo := Nat.mod_lt _ (Nat.two_pow_pos lo)
    have h2 : n % 2 ^ len < 2 ^ len := Nat.mod_lt _ (Nat.two_pow_pos len)
    have hout := Nat.mul_add_lt_mul_of_lt_of_lt (Nat.mul_add_lt_mul_of_lt_of_lt hhigh h2) h1
    rwa [← Nat.pow_add, ← Nat.pow_add, show 64 - (lo + len) + len + lo = 64 by omega] at hout
  rw [setField, BitVec.toNat_ofNat, bitsAt]
  have hval : x.toNat - x.toNat / 2 ^ lo % 2 ^ len * 2 ^ lo + n % 2 ^ len * 2 ^ lo =
      2 ^ lo * (2 ^ len * (x.toNat / 2 ^ (lo + len)) + n % 2 ^ len) + x.toNat % 2 ^ lo := by
    rw [Nat.mul_add, Nat.mul_comm (x.toNat / 2 ^ lo % 2 ^ len), Nat.mul_comm (n % 2 ^ len)]
    omega
  rw [hval, Nat.mod_eq_of_lt hfit]

theorem fieldOf_setField (h : lo + len ≤ 64) : fieldOf (setField x lo len n) lo len = n % 2 ^ len := by
  have hlow : x.toNat % 2 ^ lo / 2 ^ lo = 0 := Nat.div_eq_of_lt (Nat.mod_lt _ (Nat.two_pow_pos lo))
  rw [fieldOf, bitsAt, toNat_setField x n h, Nat.mul_add_div (Nat.two_pow_pos lo), hlow, Nat.add_zero, Nat.mul_add_mod, Nat.mod_mod]

end SetField

end Sys2Proof.Machine
end

section
/-! PROOF. The states of a polder (R64, R93, R153, R168, R422). -/

namespace Sys2Proof.Machine

/-! ### The STATE field -/

theorem state_of_pcfg (x : Polder) (v : Word) : ({ x with pcfg := keep v 0x1F_FF03 } : Polder).state = fieldOf v 0 2 := fieldOf_keep v (by decide)

/-- The polder as a write of PCFG leaves it. -/
def pcfgAfter (s : State) (p : Nat) (v : Word) : Polder := { polderOf s p with pcfg := keep v 0x1F_FF03 }

/-- The shares of the active polders, with one polder's block replaced (R64). -/
def sharesWith (s : State) (p : Nat) (y : Polder) : Nat := sumPolders s p y (fun z => if z.state = 1 then z.share else 0)

theorem pcfgAfter_state (s : State) (p : Nat) (v : Word) : (pcfgAfter s p v).state = fieldOf v 0 2 := state_of_pcfg _ v

section Pcfg

variable {s : State} {p : Nat} {v : Word}

/-- A write of PCFG by the states that it moves between. -/
theorem writePcfg_eq (s : State) (p : Nat) (v : Word) : writePcfg s p v =
    let x := polderOf s p
    let y := pcfgAfter s p v
    let legal := (x.state == y.state && y.state != 3) || (x.state, y.state) == (0, 1) || (x.state, y.state) == (1, 2) || (x.state, y.state) == (3, 0)
    if !legal || (x.tomb.isSome && y.state < 2) || 256 < sharesWith s p y then none
    else if (x.state, y.state) = (0, 1) then
      some (onDevice (setPolder s p y) (fun d => { d with tat := [0, 1, 2, 3].foldl (fun t k => put t (k * 128 + p) 7) d.tat }))
    else if (x.state, y.state) = (1, 2) then some (beginTeardown (setPolder s p y) p)
    else some (setPolder s p y) := rfl

theorem writePcfg_illegal (hne : (polderOf s p).state ≠ (pcfgAfter s p v).state)
    (h01 : ¬ ((polderOf s p).state = 0 ∧ (pcfgAfter s p v).state = 1)) (h12 : ¬ ((polderOf s p).state = 1 ∧ (pcfgAfter s p v).state = 2))
    (h30 : ¬ ((polderOf s p).state = 3 ∧ (pcfgAfter s p v).state = 0)) : writePcfg s p v = none := by
  simp [writePcfg_eq, hne, h01, h12, h30]

theorem writePcfg_overshared (h : 256 < sharesWith s p (pcfgAfter s p v)) : writePcfg s p v = none := by
  simp [writePcfg_eq, h]

theorem writePcfg_entombed (ht : (polderOf s p).tomb ≠ none) (h : (pcfgAfter s p v).state < 2) : writePcfg s p v = none := by
  have ht : (polderOf s p).tomb.isSome = true := Option.isSome_iff_ne_none.mpr ht
  simp [writePcfg_eq, ht, h]

theorem writePcfg_activate (hx : (polderOf s p).state = 0) (hy : (pcfgAfter s p v).state = 1) (ht : (polderOf s p).tomb = none)
    (hfit : sharesWith s p (pcfgAfter s p v) ≤ 256) : writePcfg s p v = some (onDevice (setPolder s p (pcfgAfter s p v))
      (fun d => { d with tat := [0, 1, 2, 3].foldl (fun t k => put t (k * 128 + p) 7) d.tat })) := by
  simp [writePcfg_eq, hx, hy, ht, Nat.not_lt.mpr hfit]

theorem writePcfg_teardown (hx : (polderOf s p).state = 1) (hy : (pcfgAfter s p v).state = 2)
    (hfit : sharesWith s p (pcfgAfter s p v) ≤ 256) : writePcfg s p v = some (beginTeardown (setPolder s p (pcfgAfter s p v)) p) := by
  simp [writePcfg_eq, hx, hy, Nat.not_lt.mpr hfit]

theorem writePcfg_release (hx : (polderOf s p).state = 3) (hy : (pcfgAfter s p v).state = 0) (ht : (polderOf s p).tomb = none)
    (hfit : sharesWith s p (pcfgAfter s p v) ≤ 256) : writePcfg s p v = some (setPolder s p (pcfgAfter s p v)) := by
  simp [writePcfg_eq, hx, hy, ht, Nat.not_lt.mpr hfit]

end Pcfg

section Events

variable {s : State} {w : CtlWrite} {p : Nat}

/-- The registers of a PCFG write that moves its polder from one state to another. -/
def movesState (s : State) (w : CtlWrite) (a b : Nat) : Region → Bool
  | .polder p o => o == 0 && (polderOf s p).state == a && fieldOf w.data 0 2 == b
  | _ => false

theorem pcfgMove_eq (s : State) (w : CtlWrite) (a b : Nat) : pcfgMove s w a b = writeAt s w (movesState s w a b) := rfl

theorem movesState_pcfg {a b : Nat} (hx : (polderOf s p).state = a) (hy : (pcfgAfter s p w.data).state = b) :
    movesState s w a b (.polder p 0) = true := by
  simp [movesState, hx, ← pcfgAfter_state s p w.data, hy]

theorem exec_polderActivate_free (h : Granted s w (.polder p 0)) (hx : (polderOf s p).state = 0) (hy : (pcfgAfter s p w.data).state = 1)
    (ht : (polderOf s p).tomb = none) (hfit : sharesWith s p (pcfgAfter s p w.data) ≤ 256) :
    exec (.polderActivate w) s = .next (onDevice (setPolder s p (pcfgAfter s p w.data))
      (fun d => { d with tat := [0, 1, 2, 3].foldl (fun t k => put t (k * 128 + p) 7) d.tat })) :=
  exec_write_taken ((exec_polderActivate w s).trans (pcfgMove_eq s w _ _)) h (movesState_pcfg hx hy) (writePcfg_activate hx hy ht hfit)

theorem exec_polderActivate_overshared (h : Granted s w (.polder p 0)) (hx : (polderOf s p).state = 0) (hy : (pcfgAfter s p w.data).state = 1)
    (hover : 256 < sharesWith s p (pcfgAfter s p w.data)) : exec (.polderActivate w) s = .next (refused s w) :=
  exec_write_refused ((exec_polderActivate w s).trans (pcfgMove_eq s w _ _)) h (movesState_pcfg hx hy) (writePcfg_overshared hover)

theorem exec_polderTeardown_active (h : Granted s w (.polder p 0)) (hx : (polderOf s p).state = 1) (hy : (pcfgAfter s p w.data).state = 2)
    (hfit : sharesWith s p (pcfgAfter s p w.data) ≤ 256) :
    exec (.polderTeardown w) s = .next (beginTeardown (setPolder s p (pcfgAfter s p w.data)) p) :=
  exec_write_taken ((exec_polderTeardown w s).trans (pcfgMove_eq s w _ _)) h (movesState_pcfg hx hy) (writePcfg_teardown hx hy hfit)

theorem exec_polderRelease_done (h : Granted s w (.polder p 0)) (hx : (polderOf s p).state = 3) (hy : (pcfgAfter s p w.data).state = 0)
    (ht : (polderOf s p).tomb = none) (hfit : sharesWith s p (pcfgAfter s p w.data) ≤ 256) :
    exec (.polderRelease w) s = .next (setPolder s p (pcfgAfter s p w.data)) :=
  exec_write_taken ((exec_polderRelease w s).trans (pcfgMove_eq s w _ _)) h (movesState_pcfg hx hy) (writePcfg_release hx hy ht hfit)

theorem exec_polderRelease_entombed (h : Granted s w (.polder p 0)) (hx : (polderOf s p).state = 3) (hy : (pcfgAfter s p w.data).state = 0)
    (ht : (polderOf s p).tomb ≠ none) : exec (.polderRelease w) s = .next (refused s w) :=
  exec_write_refused ((exec_polderRelease w s).trans (pcfgMove_eq s w _ _)) h (movesState_pcfg hx hy) (writePcfg_entombed ht (by omega))

/-- R153: the tombstone counts two FTIMEOUT of the fabric that the teardown leaves. -/
theorem beginTeardown_tomb (s : State) (p : Nat) :
    (polderOf (beginTeardown s p) p).tomb = some (2 * (teardownAnswer (teardownKill s p) p).fabric.ftimeout.toNat) := by
  rw [beginTeardown, polderOf_onPolder_self]

/-- A block with an invalidation asked for (R168). -/
def ptlbiAsked (x : Polder) (v : Word) : Polder :=
  { x with tlbiBusy := true, tlbiScope := BitVec.ofNat 2 (fieldOf v 61 2), tlbiAddr := BitVec.ofNat 44 (fieldOf v 12 44) }

theorem exec_ptlbiWrite_granted (h : Granted s w (.polder p 0x070)) :
    ((polderOf s p).tlbiBusy = false → fieldOf w.data 61 2 < 2 → exec (.ptlbiWrite w) s = .next (setPolder s p (ptlbiAsked (polderOf s p) w.data))) ∧
    ((polderOf s p).tlbiBusy = true ∨ 2 ≤ fieldOf w.data 61 2 → exec (.ptlbiWrite w) s = .next (refused s w)) := by
  refine ⟨fun hb hs => exec_write_taken (exec_ptlbiWrite w s) h rfl (allow_of _ ?_),
    fun hr => exec_write_refused (exec_ptlbiWrite w s) h rfl (allow_of_not _ ?_)⟩
  · simp [hb, hs]
  · rcases hr with hr | hr
    · simp [hr]
    · simp [Nat.not_lt.mpr hr]

end Events

/-! ### The end of a teardown (R93, R153, R422) -/

section Complete

variable {s : State} (p : Nat)

/-- Quarantine lists frames, and nothing else changes. -/
theorem quarantine_eq (s : State) (fs : List Nat) :
    quarantine s p fs = { s with quar := fs.foldl (fun q f => put q f (polderOf s p).hostScrub) s.quar } := by
  unfold quarantine
  induction fs generalizing s with
  | nil => rfl
  | cons f fs ih =>
    rw [List.foldl_cons, ih]
    rfl

theorem look_foldl_put_of_mem {α : Type} {k : Nat} {x : α} {fs : List Nat} {m : AMap α} (h : k ∈ fs ∨ look m k = some x) :
    look (fs.foldl (fun m f => put m f x) m) k = some x := by
  induction fs generalizing m with
  | nil => simpa using h
  | cons f fs ih =>
    rw [List.foldl_cons]
    apply ih
    rcases h with h | h
    · rcases List.mem_cons.mp h with rfl | h
      · exact Or.inr (look_put_self _ _ _)
      · exact Or.inl h
    · right
      rw [look_put, h, ite_self]

theorem look_filter_none {α : Type} {k : Nat} {q : Nat × α → Bool} (m : AMap α) (h : ∀ x, q (k, x) = false) : look (m.filter q) k = none := by
  induction m with
  | nil => rfl
  | cons e m ih =>
    obtain ⟨j, y⟩ := e
    by_cases hj : j = k
    · subst hj
      rw [List.filter_cons_of_neg (by simp [h]), ih]
    · by_cases hq : q (j, y) = true
      · rw [List.filter_cons_of_pos hq]
        simp [look, hj, ih]
      · rw [List.filter_cons_of_neg hq, ih]

/-- The frames in HBM that a polder's tables map. -/
def mappedFrames (s : State) (x : Polder) : List Nat :=
  if bitAt x.ps2root.toNat 0 then (tableFrames s 5 (fieldOf x.ps2root 12 40 * 4096) 0).filter (fun f => isHbm (f * 4096)) else []

/-- The package with a polder's teardown complete. -/
def tornDown (s : State) (p : Nat) : State :=
  onDevice (onPolder (quarantine s p (mappedFrames s (polderOf s p))) p (fun x => { x with pcfg := setField x.pcfg 0 2 3 }))
    (fun d => { d with tat := d.tat.filter (fun e => e.1 % 128 != p) })

theorem exec_teardownComplete_dying {q : BitVec 6} (h : (polderOf s q.toNat).state = 2) :
    exec (.teardownComplete q) s = .next (tornDown s q.toNat) := by
  simp only [exec_teardownComplete, execTeardownComplete, h, if_true]
  rfl

theorem exec_teardownComplete_other {q : BitVec 6} (h : (polderOf s q.toNat).state ≠ 2) : exec (.teardownComplete q) s = .next s := by
  simp only [exec_teardownComplete, execTeardownComplete, h, if_false]

theorem tornDown_state : (polderOf (tornDown s p) p).state = 3 := by
  rw [tornDown, polderOf_onDevice, polderOf_onPolder_self]
  exact fieldOf_setField _ 3 (by decide)

theorem tatByte_tornDown {p : Nat} (hp : p < 64) (kind : Nat) : tatByte (tornDown s p) kind p = 0 := by
  have h64 : (decide (p = 64) || decide (p = 65)) = false := by simp; omega
  have hnone : look (tornDown s p).device.tat (kind * 128 + p) = none := look_filter_none _ fun x => by simp; omega
  rw [tatByte, lookD, hnone, h64]
  rfl

theorem tornDown_quarantines {p f : Nat} (h : f ∈ mappedFrames s (polderOf s p)) : look (tornDown s p).quar f = some (polderOf s p).hostScrub := by
  rw [tornDown, onDevice_quar, onPolder_quar, quarantine_eq]
  exact look_foldl_put_of_mem (Or.inl h)

theorem exec_tombstoneExpire_ended {q : BitVec 6} (h : (polderOf s q.toNat).tomb = some 0) :
    exec (.tombstoneExpire q) s = .next (onPolder s q.toNat (fun x => { x with tomb := none })) := by
  simp only [exec_tombstoneExpire, execTombstoneExpire, h, if_true]

theorem exec_tombstoneExpire_other {q : BitVec 6} (h : (polderOf s q.toNat).tomb ≠ some 0) : exec (.tombstoneExpire q) s = .next s := by
  simp only [exec_tombstoneExpire, execTombstoneExpire, h, if_false]

end Complete

end Sys2Proof.Machine

namespace Sys2Proof.Proofs

open Sys2Proof Sys2Proof.Machine

/-- Settles O43: the four moves of STATE by their events, the end of a teardown by what it leaves. -/
theorem polderStates : Obligations.PolderStates := by
  intro s w p
  refine ⟨fun h => ⟨exec_polderActivate_free h, fun hx hy hfit => ⟨exec_polderTeardown_active h hx hy hfit, beginTeardown_tomb _ p⟩,
    exec_polderRelease_done h, fun hx hy => exec_polderRelease_entombed h hx hy, exec_polderActivate_overshared h,
    fun hne h01 h12 h30 => exec_write_refused (exec_registerWrite w s) h rfl (writePcfg_illegal hne h01 h12 h30)⟩, exec_ptlbiWrite_granted, ?complete⟩
  rintro q rfl
  refine ⟨fun h => ⟨_, exec_teardownComplete_dying h, tornDown_state _, fun kind _ => tatByte_tornDown q.isLt kind, fun hroot f hf hhbm => ?_⟩,
    exec_teardownComplete_other, exec_tombstoneExpire_ended, exec_tombstoneExpire_other⟩
  apply tornDown_quarantines
  rw [mappedFrames, if_pos hroot]
  exact List.mem_filter.mpr ⟨hf, hhbm⟩

end Sys2Proof.Proofs
end

section
/-! PROOF. Writes of a context's descriptor, and the answers to a fault record (R68, R70, R130, R132, R168). -/

namespace Sys2Proof.Machine

/-! ### CTXCFG (R68) -/

/-- The descriptor as a write of CTXCFG leaves it: the event counters of a slot that becomes valid start at 0. -/
def ctxcfgAfter (x : Ctx) (v : Word) : Ctx :=
  let y : Ctx := { x with ctxcfg := keep v 0xFF_F07F }
  if y.valid && !x.valid then
    { y with tagTrapped := 0, tagReported := 0, watchHits := 0, satEv := 0, divEv := 0, vneverEv := 0, vbtEv := 0 } else y

/-- The package with a descriptor's CTXCFG stored, and the slots that changed hands converted on every core of the two polders. -/
def ctxcfgStored (s : State) (c : Nat) (z : Ctx) : State :=
  ((coresOf s (ctxOf s c).polder ++ coresOf s z.polder).eraseDups).foldl
    (fun t k => slotUpdate s z.slot (slotUpdate s (ctxOf s c).slot t k) k) { s with ctxs := put s.ctxs c z }

section Ctxcfg

variable {s : State} {c : Nat} {v : Word}

theorem writeCtxcfg_refused (h : ({ ctxOf s c with ctxcfg := keep v 0xFF_F07F } : Ctx).tagmode = 3 ∨
    ((ctxOf s c).polder ≠ ({ ctxOf s c with ctxcfg := keep v 0xFF_F07F } : Ctx).polder ∨
      (ctxOf s c).slot ≠ ({ ctxOf s c with ctxcfg := keep v 0xFF_F07F } : Ctx).slot) ∧ 0 < placedTeams s c) : writeCtxcfg s c v = none := by
  unfold writeCtxcfg
  refine if_pos ?_
  simpa using h

theorem writeCtxcfg_stored (htag : ({ ctxOf s c with ctxcfg := keep v 0xFF_F07F } : Ctx).tagmode ≠ 3)
    (h : (ctxOf s c).polder = ({ ctxOf s c with ctxcfg := keep v 0xFF_F07F } : Ctx).polder ∧
      (ctxOf s c).slot = ({ ctxOf s c with ctxcfg := keep v 0xFF_F07F } : Ctx).slot ∨ placedTeams s c = 0) :
    writeCtxcfg s c v = some (ctxcfgStored s c (ctxcfgAfter (ctxOf s c) v)) := by
  unfold writeCtxcfg
  refine if_neg ?_
  rcases h with ⟨hpolder, hslot⟩ | hidle
  · simp [htag, hpolder, hslot]
  · simp [htag, hidle]

end Ctxcfg

section Events

variable {s : State} {w : CtlWrite} {c : Nat}

/-- A register of some descriptor, under a condition on the data. -/
def ctxRegister (o : Nat) (b : Bool) : Region → Bool
  | .ctx _ p => p == o && b
  | _ => false

theorem ctxWrite_eq (s : State) (w : CtlWrite) (o : Nat) (b : Bool) : ctxWrite s w o b = writeAt s w (ctxRegister o b) := rfl

theorem ctxRegister_self (c o : Nat) : ctxRegister o true (.ctx c o) = true := by simp [ctxRegister]

theorem exec_ctxcfgWrite_granted (h : Granted s w (.ctx c 0)) : let y : Ctx := { ctxOf s c with ctxcfg := keep w.data 0xFF_F07F }
    (y.tagmode ≠ 3 → (ctxOf s c).polder = y.polder ∧ (ctxOf s c).slot = y.slot ∨ placedTeams s c = 0 →
      exec (.ctxcfgWrite w) s = .next (ctxcfgStored s c (ctxcfgAfter (ctxOf s c) w.data))) ∧
    (y.tagmode = 3 ∨ ((ctxOf s c).polder ≠ y.polder ∨ (ctxOf s c).slot ≠ y.slot) ∧ 0 < placedTeams s c →
      exec (.ctxcfgWrite w) s = .next (refused s w)) :=
  ⟨fun htag hfree => exec_write_taken ((exec_ctxcfgWrite w s).trans (ctxWrite_eq s w _ _)) h rfl (writeCtxcfg_stored htag hfree),
    fun hbad => exec_write_refused ((exec_ctxcfgWrite w s).trans (ctxWrite_eq s w _ _)) h rfl (writeCtxcfg_refused hbad)⟩

theorem exec_cboundWrite_granted (h : Granted s w (.ctx c 0x10)) : exec (.cboundWrite w) s = .next (writeCbound s c w.data) :=
  exec_write_taken ((exec_cboundWrite w s).trans (ctxWrite_eq s w _ _)) h rfl rfl

/-- R70: the bound is stored, and converted on the cores where the context stands in its slot. -/
theorem writeCbound_eq (s : State) (c : Nat) (v : Word) : writeCbound s c v =
    let t := setCtx s c { ctxOf s c with cbound := BitVec.ofNat 32 (fieldOf v 0 32) }
    (coresOf t (ctxOf s c).polder).foldl (fun u k => if slotCtx u k (ctxOf s c).slot = some c then convertSlot u k (ctxOf s c).slot else u) t := by
  have hpolder : (ctxOf (onCtx s c (fun x => { x with cbound := BitVec.ofNat 32 (fieldOf v 0 32) })) c).polder = (ctxOf s c).polder := by
    rw [ctxOf_onCtx_self]; rfl
  have hslot : (ctxOf (onCtx s c (fun x => { x with cbound := BitVec.ofNat 32 (fieldOf v 0 32) })) c).slot = (ctxOf s c).slot := by
    rw [ctxOf_onCtx_self]; rfl
  unfold writeCbound
  simp only [hpolder, hslot]
  rfl

/-- A descriptor with an invalidation asked for (R168). -/
def ctlbiAsked (x : Ctx) (v : Word) : Ctx :=
  { x with tlbiBusy := true, tlbiScope := BitVec.ofNat 2 (fieldOf v 61 2), tlbiAddr := BitVec.ofNat 44 (fieldOf v 12 44) }

theorem exec_ctlbiWrite_granted (h : Granted s w (.ctx c 0xC0)) :
    ((ctxOf s c).tlbiBusy = false → fieldOf w.data 61 2 < 2 → exec (.ctlbiWrite w) s = .next (setCtx s c (ctlbiAsked (ctxOf s c) w.data))) ∧
    ((ctxOf s c).tlbiBusy = true ∨ 2 ≤ fieldOf w.data 61 2 → exec (.ctlbiWrite w) s = .next (refused s w)) := by
  refine ⟨fun hb hs => exec_write_taken ((exec_ctlbiWrite w s).trans (ctxWrite_eq s w _ _)) h rfl (allow_of _ ?_),
    fun hr => exec_write_refused ((exec_ctlbiWrite w s).trans (ctxWrite_eq s w _ _)) h rfl (allow_of_not _ ?_)⟩
  · simp [hb, hs]
  · rcases hr with hr | hr
    · simp [hr]
    · simp [Nat.not_lt.mpr hr]

/-! ### The ring of a context (R130) -/

theorem exec_faultQueueConsume_ctx (h : Granted s w (.ctx c 0x30)) : exec (.faultQueueConsume w) s =
    .next (drainCtx (setCtx s c { ctxOf s c with cons := BitVec.ofNat 31 (fieldOf w.data 0 31) }) c (ctxOf s c).held.length) :=
  exec_write_taken (exec_faultQueueConsume w s) h rfl rfl

section Drain

variable {r : RecordBytes} {rest : List RecordBytes} (n : Nat)

theorem drainCtx_room (hh : (ctxOf s c).held = r :: rest) (hbase : ringBase (ctxOf s c).cfrq ≠ 0)
    (hroom : ringUsed (ctxOf s c).prod (ctxOf s c).cons < ringSize (ctxOf s c).cfrq) : drainCtx s c (n + 1) =
      drainCtx (onCtx (putRecord s (ctxOf s c).cfrq (ctxOf s c).prod.toNat r) c (fun x => { x with prod := x.prod + 1, held := rest })) c n := by
  simp [drainCtx, hh, hbase, Nat.not_le.mpr hroom]

theorem drainCtx_full (hh : (ctxOf s c).held = r :: rest) (hfull : ringSize (ctxOf s c).cfrq ≤ ringUsed (ctxOf s c).prod (ctxOf s c).cons) :
    drainCtx s c (n + 1) = s := by
  simp [drainCtx, hh, hfull]

end Drain

/-! ### The answer to a record (R132) -/

section Resume

variable {v t : Word}

/-- The package with a token used up. -/
def tokenUsed (s : State) (t : Word) : State := { s with tokens := s.tokens.filter (fun e => e.1 != t) }

theorem writeCresume_known {kind : Nat} (h : s.tokens.find? (fun e => e.1 == v &&& ~~~ 1) = some (v &&& ~~~ 1, kind, c)) :
    writeCresume s c v = some (if !bitAt v.toNat 0 then retryToken (tokenUsed s (v &&& ~~~ 1)) kind (v &&& ~~~ 1)
      else if kind = 1 then failCopy (tokenUsed s (v &&& ~~~ 1)) (v &&& ~~~ 1) else killContext (tokenUsed s (v &&& ~~~ 1)) c) := by
  simp only [writeCresume, h, bne_self_eq_false, Bool.false_eq_true, if_false]
  rfl

theorem writeCresume_unknown (h : (∀ e ∈ s.tokens, e.1 ≠ v &&& ~~~ 1) ∨
    ∃ kind c', c' ≠ c ∧ s.tokens.find? (fun e => e.1 == v &&& ~~~ 1) = some (v &&& ~~~ 1, kind, c')) : writeCresume s c v = none := by
  rcases h with h | ⟨kind, c', hne, h⟩
  · have hnone : s.tokens.find? (fun e => e.1 == v &&& ~~~ 1) = none := List.find?_eq_none.mpr (by simpa using h)
    simp only [writeCresume, hnone]
  · simp only [writeCresume, h, bne_iff_ne.mpr hne, if_true]

theorem exec_resumeRetry_known {kind : Nat} (hg : Granted s w (.ctx c 0x38)) (hbit : bitAt w.data.toNat 0 = false)
    (h : s.tokens.find? (fun e => e.1 == w.data &&& ~~~ 1) = some (w.data &&& ~~~ 1, kind, c)) :
    exec (.resumeRetry w) s = .next (retryToken (tokenUsed s (w.data &&& ~~~ 1)) kind (w.data &&& ~~~ 1)) := by
  have hmine : ctxRegister 0x38 (!bitAt w.data.toNat 0) (.ctx c 0x38) = true := by rw [hbit]; exact ctxRegister_self c 0x38
  refine exec_write_taken ((exec_resumeRetry w s).trans (ctxWrite_eq s w _ _)) hg hmine ((writeCresume_known h).trans ?_)
  rw [hbit]
  rfl

theorem exec_resumeFail_known {kind : Nat} (hg : Granted s w (.ctx c 0x38)) (hbit : bitAt w.data.toNat 0 = true)
    (h : s.tokens.find? (fun e => e.1 == w.data &&& ~~~ 1) = some (w.data &&& ~~~ 1, kind, c)) : exec (.resumeFail w) s =
      .next (if kind = 1 then failCopy (tokenUsed s (w.data &&& ~~~ 1)) (w.data &&& ~~~ 1) else killContext (tokenUsed s (w.data &&& ~~~ 1)) c) := by
  have hmine : ctxRegister 0x38 (bitAt w.data.toNat 0) (.ctx c 0x38) = true := by rw [hbit]; exact ctxRegister_self c 0x38
  refine exec_write_taken ((exec_resumeFail w s).trans (ctxWrite_eq s w _ _)) hg hmine ((writeCresume_known h).trans ?_)
  rw [hbit]
  rfl

theorem exec_resume_unknown (hg : Granted s w (.ctx c 0x38)) (h : writeCresume s c w.data = none) :
    (bitAt w.data.toNat 0 = false → exec (.resumeRetry w) s = .next (refused s w)) ∧
    (¬ bitAt w.data.toNat 0 = false → exec (.resumeFail w) s = .next (refused s w)) := by
  refine ⟨fun hbit => ?_, fun hbit => ?_⟩
  · have hmine : ctxRegister 0x38 (!bitAt w.data.toNat 0) (.ctx c 0x38) = true := by rw [hbit]; exact ctxRegister_self c 0x38
    exact exec_write_refused ((exec_resumeRetry w s).trans (ctxWrite_eq s w _ _)) hg hmine h
  · have hmine : ctxRegister 0x38 (bitAt w.data.toNat 0) (.ctx c 0x38) = true := by rw [Bool.of_not_eq_false hbit]; exact ctxRegister_self c 0x38
    exact exec_write_refused ((exec_resumeFail w s).trans (ctxWrite_eq s w _ _)) hg hmine h

end Resume

end Events

/-- Reading a list whose every value has been changed alike. -/
theorem look_map {α : Type} (m : AMap α) (f : α → α) (k : Nat) : look (m.map (fun e => (e.1, f e.2))) k = (look m k).map f := by
  induction m with
  | nil => rfl
  | cons e m ih =>
    by_cases h : e.1 = k
    · simp [look, h]
    · simp [look, h, ih]

theorem lookD_map {α : Type} (m : AMap α) (f : α → α) (k : Nat) (d : α) (h : f d = d) :
    lookD (m.map (fun e => (e.1, f e.2))) k d = f (lookD m k d) := by
  rw [lookD, look_map, lookD]
  cases look m k with
  | none => exact h.symm
  | some x => rfl

/-- A core with the write-backs that wait on a token to be tried again. -/
def wbsRetried (t : Word) (x : CoreState) : CoreState :=
  { x with
    wbs := x.wbs.map (fun e => (e.1, e.2.retry t))
    ops := x.ops.map (fun o => (o.1, reopen (x.wbs.map (fun e => (e.1, e.2.retry t))) o)) }

theorem coreOf_retryWb (s : State) (t : Word) (k : Nat) : coreOf (retryWb s t) k = wbsRetried t (coreOf s k) := lookD_map s.cores (wbsRetried t) k {} rfl

section Answers

variable (t : Word)

theorem retry_of_waiting {x : WriteBack} (h : ∃ e ∈ x.tokens, e.2 = t) : (x.retry t).refused = false := by
  have hany : x.tokens.any (fun e => e.2 == t) = true := by simpa using h
  rw [WriteBack.retry, if_pos hany]

theorem retry_of_other {x : WriteBack} (h : ∀ e ∈ x.tokens, e.2 ≠ t) : x.retry t = x := by
  have hany : ¬ x.tokens.any (fun e => e.2 == t) = true := by
    rw [List.any_eq_true]
    exact fun ⟨e, he, heq⟩ => h e he (beq_iff_eq.mp heq)
  rw [WriteBack.retry, if_neg hany]

theorem readyToken_masks (g : Group) : (readyToken t g).entries.map (·.mask) = g.entries.map (·.mask) := by
  rw [readyToken, List.map_map]
  refine List.map_congr_left fun e _ => ?_
  rw [Function.comp_apply]
  split <;> rfl

theorem readyToken_entries (g : Group) {e : Entry} (he : e ∈ (readyToken t g).entries) :
    e.token = 0 ∧ e.st = .ready ∨ e ∈ g.entries ∧ e.token ≠ t := by
  rw [readyToken] at he
  obtain ⟨e', he', rfl⟩ := List.mem_map.mp he
  by_cases h : e'.token = t
  · rw [if_pos h]
    exact Or.inl ⟨rfl, rfl⟩
  · rw [if_neg h]
    exact Or.inr ⟨he', h⟩

end Answers

end Sys2Proof.Machine

namespace Sys2Proof.Proofs

open Sys2Proof Sys2Proof.Machine

/-- R132: RETRY of a refused write-back. -/
theorem retryWb_leaves (s : State) (t : Word) : (retryWb (tokenUsed s t) t).mem = s.mem ∧ (retryWb (tokenUsed s t) t).tokens = (tokenUsed s t).tokens ∧
    (∀ k, (coreOf (retryWb (tokenUsed s t) t) k).groups = (coreOf s k).groups ∧
      (coreOf (retryWb (tokenUsed s t) t) k).wbs = (coreOf s k).wbs.map (fun e => (e.1, e.2.retry t))) ∧
    (retryWb (tokenUsed s t) t).saved.map (·.wbs) = s.saved.map (fun x => x.wbs.map (fun e => (e.1, e.2.retry t))) := by
  refine ⟨rfl, rfl, fun k => ?_, List.map_map⟩
  rw [coreOf_retryWb]
  exact ⟨rfl, rfl⟩

/-- Settles O44: each register of the descriptor by the lemma on its event, and the answers to a record by its kind. -/
theorem contextWrites : Obligations.ContextWrites := by
  refine ⟨fun s w c => ⟨exec_ctxcfgWrite_granted, fun h => (exec_cboundWrite_granted h).trans (congrArg _ (writeCbound_eq s c w.data)),
    exec_ctlbiWrite_granted, fun h => ⟨exec_faultQueueConsume_ctx h, fun hheld => ?consumed⟩,
    fun r rest n hh hbase => ⟨drainCtx_room n hh hbase, drainCtx_full n hh⟩⟩, fun s w c h => ⟨fun kind hk => ⟨?retry, ?retryWb, ?failCopy, ?fail⟩,
      fun x => ⟨retry_of_waiting _, retry_of_other _⟩, fun g => ⟨readyToken_masks _ g, rfl, fun e => readyToken_entries _ g⟩,
      fun hbad => exec_resume_unknown h (writeCresume_unknown hbad)⟩⟩
  case consumed =>
    have hlen : (ctxOf s c).held.length = 0 := by rw [hheld]; rfl
    rw [exec_faultQueueConsume_ctx h, hlen]
    rfl
  case retry =>
    intro hbit hne
    rw [exec_resumeRetry_known h hbit hk, retryToken, if_neg hne]
    rfl
  case retryWb =>
    rintro hbit rfl
    exact ⟨_, exec_resumeRetry_known h hbit hk, retryWb_leaves s _⟩
  case failCopy =>
    rintro hbit rfl
    exact exec_resumeFail_known h (Bool.of_not_eq_false hbit) hk
  case fail =>
    intro hbit hne
    rw [exec_resumeFail_known h (Bool.of_not_eq_false hbit) hk, if_neg hne]
    rfl

end Sys2Proof.Proofs
end

section
/-! PROOF. The end of a soft stage at which the kill of its context ends the stages as well (R128, R130, R198, R200, R203). -/

namespace Sys2Proof.Machine

/-! ### The counterexample

Context 0 is in the soft stage of a vacate on core 0, and has no fault ring. The lanes of its one group have made a watched store, which is on
its way to its home. The soft stage ends: the store is handed off, with which it counts as completed (R128, R200), so its lanes take WATCH
(R350). Their record finds no ring, and the context is killed (R130): its stages on the core end with it (R203), and no t_e is left to read. -/

/-- The store of the group, in flight to its home. -/
def watchedStore : Op :=
  { uid := 0, gid := 0, ctx := 0, polder := 0, lanes := BitVec.allOnes 32, pc := probeAddr, seq := 1
    kind := .homeStore [{ lane := 0, space := .hbm, va := probeAddr, pa := 0, n := 8 }] none }

/-- The lanes that wait for the store to perform. -/
def watchingGroup : Group :=
  { probeGroup 0 with entries := [{ mask := BitVec.allOnes 32, pc := probeAddr, left := 1, hold := .watch [1] probeAddr probeAddr, skip := 8 }] }

/-- The vacate's stages, begun at once, with no cycle of grace. -/
def softStage : VacateStage := { arrived := 0, begun := true }

/-- The package, with the traps of the launch reported (R31). -/
def watchedVacate : State :=
  onCore { State.reset.withFetchWord 64 0 with
    ctxs := [(0, { ctxcfg := 1, busy := true, phase := 1, hold := true, pending := [0] })]
    launches := [(0, { probeLaunch with record := 0 })] } 0
    (fun c => { c with groups := [(0, watchingGroup)], ops := [(1, watchedStore)], nextOp := 2, vacates := [(0, softStage)] })

theorem vacateOf_watchedVacate : vacateOf (coreOf watchedVacate 0) 0 = some softStage := by decide +kernel

theorem softStageOver_watchedVacate : softStageOver watchedVacate 0 0 softStage = true := by decide +kernel

/-- The context is killed, and its stages are gone. -/
theorem softStageEnd_kills : let t := Out.stateOr (exec (.softStageEnd 0 0) watchedVacate) watchedVacate
    (ctxOf t 0).phase = 4 ∧ vacateOf (coreOf t 0) 0 = none := by decide +kernel

end Sys2Proof.Machine

namespace Sys2Proof.Proofs

open Sys2Proof Sys2Proof.Machine

/-- Refutes O60: the statement gives softStageEnd a stage of the context that has t_e, whenever the test of R198 holds. The end of the stage
hands off what the teams have in flight (R200), and the lanes of a watched access then take WATCH; with no fault ring that kills their context
(R130), whose stages end (R203). -/
theorem not_eventsComplete : ¬ Obligations.EventsComplete := by
  rintro ⟨-, hcores, -⟩
  obtain ⟨-, -, -, -, -, -, -, -, -, -, -, -, hstages, -⟩ := hcores watchedVacate 0 0
  obtain ⟨hsoft, -⟩ := hstages softStage vacateOf_watchedVacate
  obtain ⟨t, y, ht, hy, -⟩ := hsoft rfl rfl softStageOver_watchedVacate
  obtain ⟨-, hgone⟩ := softStageEnd_kills
  rw [ht] at hgone
  exact absurd (hgone.symm.trans hy) (by simp)

end Sys2Proof.Proofs
end

section
/-! PROOF. Translation (R159 to R164): the levels of a walk, the leaf that ends it, and the TLB before it. -/

namespace Sys2Proof.Machine

/-! ### A level of a walk (R161, R162, R164) -/

section Level

variable {at' : State → Nat → Nat → State × (Nat ⊕ XFault)} {s u : State} {a lvl t pa : Nat} (cause : Nat) {st2 : Bool} (n : Nat)

variable (h : at' s (t + levelIndex a lvl * 8) lvl = (u, .inl pa))

include h

theorem walkFrom_invalid (hv : peV (homeRead u pa 8) = false) :
    walkFrom at' cause st2 a (n + 1) lvl s t = (u, .inr { cause := cause, sub := subInvalid, level := lvl, ipa := a }) := by
  rw [walkFrom, h]
  simp [hv]

theorem walkFrom_malformed (hv : peV (homeRead u pa 8) = true) (hm : malformed (homeRead u pa 8) lvl st2 = true) :
    walkFrom at' cause st2 a (n + 1) lvl s t = (u, .inr { cause := cause, sub := subEntry, level := lvl, ipa := a }) := by
  rw [walkFrom, h]
  simp [hv, hm]

theorem walkFrom_pointer (hv : peV (homeRead u pa 8) = true) (hm : malformed (homeRead u pa 8) lvl st2 = false)
    (hl : peLeaf (homeRead u pa 8) = false) :
    walkFrom at' cause st2 a (n + 1) lvl s t = walkFrom at' cause st2 a n (lvl + 1) u (peAddr (homeRead u pa 8)) := by
  rw [walkFrom, h]
  simp [hv, hm, hl]

theorem walkFrom_leaf (hv : peV (homeRead u pa 8) = true) (hm : malformed (homeRead u pa 8) lvl st2 = false)
    (hl : peLeaf (homeRead u pa 8) = true) (hc : peC16 (homeRead u pa 8) = false) :
    walkFrom at' cause st2 a (n + 1) lvl s t = (u, .inl
      { entryPa := pa, e := homeRead u pa 8, lvl := lvl, out := peAddr (homeRead u pa 8) + a % 2 ^ leafBits lvl
        size := sizeCode lvl (homeRead u pa 8) }) := by
  rw [walkFrom, h]
  simp [hv, hm, hl, hc]

end Level

/-! ### Malformed entries (R162) -/

/-- The breaches of R162 that no other bit of the entry excuses. -/
def breaksForm (e lvl : Nat) (st2 : Bool) : Prop :=
  (peLeaf e = true ∧ lvl < 2) ∨ (peLeaf e = false ∧ lvl = 4) ∨ bitsAt e 52 12 ≠ 0 ∨ (st2 = false ∧ (peRdup e = true ∨ peMig e = true)) ∨
    (peMig e = true ∧ peLeaf e = false) ∨ (peLeaf e = true ∧ peRdup e = false ∧ peAddr e % 2 ^ leafBits lvl ≠ 0)

theorem malformed_of_breaksForm {e lvl : Nat} {st2 : Bool} (h : breaksForm e lvl st2) : malformed e lvl st2 = true := by
  unfold malformed
  rcases h with ⟨hl, h⟩ | ⟨hl, h⟩ | h | ⟨hs, hr | hm⟩ | ⟨hm, hl⟩ | ⟨hl, hr, h⟩ <;> simp [*]

/-! ### Stage 2 (R93, R164, R165) -/

section Stage2

variable {s : State} {p ipa : Nat} (acc : Acc) (d : Nat)

theorem stage2_form (h : 2 ^ 52 ≤ ipa) : stage2 s p ipa acc d = (s, .inr { cause := causeXlate2, sub := subForm, ipa := ipa }) := if_pos h

theorem stage2_no_root (h : ipa < 2 ^ 52) (hr : bitAt (polderOf s p).ps2root.toNat 0 = false) :
    stage2 s p ipa acc d = (s, .inr { cause := causeXlate2, sub := subInvalid, ipa := ipa }) := by
  rw [stage2, if_neg (Nat.not_le.mpr h), if_pos (by simp [hr])]

/-- The stage-2 walk of an IPA ends at a leaf of one page, which is not read-duplicate. -/
def WalksTo (s : State) (p ipa : Nat) (l : Leaf) : Prop :=
  ipa < 2 ^ 52 ∧ bitAt (polderOf s p).ps2root.toNat 0 = true ∧
    walkFrom (fun s pa _ => (s, .inl pa)) causeXlate2 true ipa 5 0 s (fieldOf (polderOf s p).ps2root 12 40 * 4096) = (s, .inl l) ∧ peRdup l.e = false

/-- The checks of the leaf in the order of R165, and the address that it gives. -/
theorem stage2_leaf {l : Leaf} (h : WalksTo s p ipa l) : stage2 s p ipa acc d =
    if rangePopulated (peAddr l.e) (2 ^ leafBits l.lvl) = false then (s, .inr { cause := causeAccess, sub := 1, level := l.lvl, ipa := ipa })
    else if acc.writes = true ∧ peW l.e = false then (s, .inr { cause := causePerm, sub := 1, level := l.lvl, ipa := ipa })
    else if acc.fetch = true ∧ peX l.e = false then (s, .inr { cause := causePerm, sub := 2, level := l.lvl, ipa := ipa })
    else if rangeQuarantined s (peAddr l.e) (2 ^ leafBits l.lvl) = true then
      (s, .inr { cause := causeXlate2, sub := subQuar, level := l.lvl, ipa := ipa })
    else if acc.writes = true ∧ peMig l.e = true then
      (s, .inr { cause := causeXlate2, sub := subRdupw, level := l.lvl, ipa := ipa, hold := .page (ipa / 65536 * 65536) })
    else (setAd (if acc.writes = true ∧ peD l.e = false then logDirty s p (ipa / 2 ^ sizeBits l.size * 2 ^ sizeBits l.size) l.size else s)
      l.entryPa acc.writes, .inl
      { pa := l.out, w := peW l.e, x := peX l.e, size := l.size, dirty := acc.writes || peD l.e, rdup := false, mig := peMig l.e }) := by
  obtain ⟨hipa, hroot, hwalk, hrd⟩ := h
  rw [stage2, if_neg (Nat.not_le.mpr hipa), if_neg (by simp [hroot]), hwalk]
  simp [hrd, leafRange]

section Populated

variable {acc} {l : Leaf} (h : WalksTo s p ipa l)

include h

theorem stage2_unpopulated (hp : rangePopulated (peAddr l.e) (2 ^ leafBits l.lvl) = false) :
    stage2 s p ipa acc d = (s, .inr { cause := causeAccess, sub := 1, level := l.lvl, ipa := ipa }) := by
  rw [stage2_leaf acc d h, if_pos hp]

variable (hp : rangePopulated (peAddr l.e) (2 ^ leafBits l.lvl) = true)

include hp

theorem stage2_unwritable (hw : acc.writes = true) (hr : peW l.e = false) :
    stage2 s p ipa acc d = (s, .inr { cause := causePerm, sub := 1, level := l.lvl, ipa := ipa }) := by
  rw [stage2_leaf acc d h]
  simp [hp, hw, hr]

theorem stage2_unfetchable (hw : acc.writes = false) (hf : acc.fetch = true) (hr : peX l.e = false) :
    stage2 s p ipa acc d = (s, .inr { cause := causePerm, sub := 2, level := l.lvl, ipa := ipa }) := by
  rw [stage2_leaf acc d h]
  simp [hp, hw, hf, hr]

theorem stage2_quarantined (hw : acc.writes = false) (hf : acc.fetch = false) (hq : rangeQuarantined s (peAddr l.e) (2 ^ leafBits l.lvl) = true) :
    stage2 s p ipa acc d = (s, .inr { cause := causeXlate2, sub := subQuar, level := l.lvl, ipa := ipa }) := by
  rw [stage2_leaf acc d h]
  simp [hp, hw, hf, hq]

variable (hq : rangeQuarantined s (peAddr l.e) (2 ^ leafBits l.lvl) = false)

include hq

theorem stage2_reads (hw : acc.writes = false) (hf : acc.fetch = false) : stage2 s p ipa acc d = (setAd s l.entryPa false,
    .inl { pa := l.out, w := peW l.e, x := peX l.e, size := l.size, dirty := peD l.e, rdup := false, mig := peMig l.e }) := by
  rw [stage2_leaf acc d h]
  simp [hp, hw, hf, hq]

/-- A write of a page that is dirty already: D is set, and nothing is logged. -/
theorem stage2_writes (hw : acc.writes = true) (hr : peW l.e = true) (hd : peD l.e = true) (hf : acc.fetch = false ∨ peX l.e = true)
    (hm : peMig l.e = false) : stage2 s p ipa acc d = (setAd s l.entryPa true,
    .inl { pa := l.out, w := true, x := peX l.e, size := l.size, dirty := true, rdup := false, mig := false }) := by
  have hx : ¬ (acc.fetch = true ∧ peX l.e = false) := by rcases hf with hf | hf <;> simp [hf]
  rw [stage2_leaf acc d h]
  simp [hp, hw, hr, hd, hx, hq, hm]

end Populated

end Stage2

/-! ### The TLB, and the walk behind it (R93, R166, R177) -/

section Translate

variable {s : State} {k : Nat} {ctx : BitVec 10} {va : Word} {acc : Acc}

theorem noteWritten_eq (s : State) (p : Nat) (va : Word) (acc : Acc) (pa ipa : Nat) : noteWritten s p va acc pa ipa =
    if acc.writes = true ∧ isUpper va = true ∧ isHbm pa = true then markWritten s (homeDie pa) p ipa else s := by
  simp [noteWritten, and_assoc]

theorem translate_hit {t : TlbEntry} (h : tlbHit s k ctx va acc = some t) : let off := fieldOf va 0 56 % 2 ^ sizeBits t.size
    translate s k ctx va acc = (noteWritten s (ctxOf s ctx.toNat).polder va acc (t.pa + off) (t.ipa + off), .ok (t.pa + off) (t.ipa + off)) := by
  rw [translate, h]

variable (h : tlbHit s k ctx va acc = none)

include h

theorem translate_of_no_half (hu : isUpper va = false) (hl : isLower va = false) :
    translate s k ctx va acc = (s, .fault { cause := causeXlate, sub := subForm }) := by
  rw [translate, h]
  simp [hu, hl]

theorem translate_lower (hu : isUpper va = false) (hl : isLower va = true) :
    translate s k ctx va acc = hostXlate s k ctx (ctxOf s ctx.toNat).polder va acc := by
  rw [translate, h]
  simp [hu, hl]

theorem translate_walked (hu : isUpper va = true) {u : State} {x : Xl}
    (hw : walk1 s ctx.toNat (ctxOf s ctx.toNat).polder va acc (dieOfCore k) = (u, .inl x)) : translate s k ctx va acc =
    (tlbInsert (noteWritten u (ctxOf s ctx.toNat).polder va acc x.pa x.ipa) k (tlbEntryOf ctx va x), .ok x.pa x.ipa) := by
  rw [translate, h]
  simp [hu, hw]

theorem translate_walk_fault (hu : isUpper va = true) {u : State} {f : XFault}
    (hw : walk1 s ctx.toNat (ctxOf s ctx.toNat).polder va acc (dieOfCore k) = (u, .inr f)) : translate s k ctx va acc = (u, .fault f) := by
  rw [translate, h]
  simp [hu, hw]

end Translate

theorem walk1_no_root {s : State} {c : Nat} (h : bitAt (ctxOf s c).cs1root.toNat 0 = false) (p : Nat) (va : Word) (acc : Acc) (d : Nat) :
    walk1 s c p va acc d = (s, .inr { cause := causeXlate, sub := subInvalid }) := by
  rw [walk1, if_pos (by simp [h])]

end Sys2Proof.Machine

namespace Sys2Proof.Proofs

open Sys2Proof Sys2Proof.Machine

/-- Settles O58: each outcome of a translation, of a level of a walk and of a stage-2 leaf by its own equation. -/
theorem tableWalks : Obligations.TableWalks := by
  refine fun s => ⟨fun k ctx va acc => ⟨fun t ht => translate_hit ht, fun hmiss => ⟨translate_of_no_half hmiss, fun hu hr => ?_,
      fun hu u x => translate_walked hmiss hu, fun hu u f => translate_walk_fault hmiss hu, translate_lower hmiss⟩, noteWritten_eq s _ va acc⟩,
    fun at' cause st2 a n lvl t u pa h => ⟨walkFrom_invalid cause n h, walkFrom_malformed cause n h, walkFrom_pointer cause n h,
      walkFrom_leaf cause n h⟩,
    fun e lvl st2 => malformed_of_breaksForm, by decide,
    fun p ipa acc d => ⟨stage2_form acc d, stage2_no_root acc d, fun hipa hroot l hwalk hrd => ?_⟩⟩
  · exact translate_walk_fault hmiss hu (walk1_no_root hr _ va acc _)
  · have h : WalksTo s p ipa l := ⟨hipa, hroot, hwalk, hrd⟩
    exact ⟨stage2_unpopulated d h, fun hp => ⟨stage2_unwritable d h hp, stage2_unfetchable d h hp, stage2_quarantined d h hp,
      fun hw hf hq => stage2_reads d h hp hq hw hf, fun hw hr hd hf hq => stage2_writes d h hp hq hw hr hd hf⟩⟩

end Sys2Proof.Proofs
end

section
/-! PROOF. The checks of a lane access in the order of R331: alignment and spaces, the scale window, then the place it reaches (R82, R91, R94,
R181, R243, R330, R404). -/

namespace Sys2Proof.Machine

/-! ### The forms of an address (R159) -/

theorem isFabricVa_of_isUpper {a : Word} (h : isUpper a = true) : isFabricVa a = false := by
  simp_all [isUpper, isFabricVa]

theorem isUpper_of_isLower {a : Word} (h : isLower a = true) : isUpper a = false := by
  simp_all [isUpper, isLower]

theorem isFabricVa_of_isLower {a : Word} (h : isLower a = true) : isFabricVa a = false := by
  simp_all [isLower, isFabricVa]

theorem spaceFault_fabric {q : Need} {a : Word} (ha : isFabricVa a = true) (hq : q.fabricOk = false) :
    spaceFault q a = some { cause := causeAccess, sub := subSpace } := by
  simp [spaceFault, ha, hq]

theorem spaceFault_lower {q : Need} {a : Word} (ha : isLower a = true) (hq : q.lowerOk = false) :
    spaceFault q a = some { cause := causeAccess, sub := subSpace } := by
  simp [spaceFault, isFabricVa_of_isLower ha, isUpper_of_isLower ha, ha, hq]

theorem spaceFault_of_no_space (q : Need) {a : Word} (hf : isFabricVa a = false) (hu : isUpper a = false) (hl : isLower a = false) :
    spaceFault q a = some { cause := causeXlate, sub := subForm } := by
  simp [spaceFault, hf, hu, hl]

theorem spaceFault_upper (q : Need) {a : Word} (ha : isUpper a = true) : spaceFault q a = none := by
  simp [spaceFault, isFabricVa_of_isUpper ha, ha]

/-! ### ALIGN and the spaces -/

section First

variable (s : State) (i : Issuer) {q : Need} {a : Word}

theorem firstFault_misaligned (h : a.toNat % q.n ≠ 0) : firstFault s i q a = some { cause := causeAlign } := if_pos (by simpa using h)

variable (h : a.toNat % q.n = 0)

include h

theorem firstFault_scratch (hq : q.scratch = true) : firstFault s i q a =
    if (scratchPlace (coreOf s i.k) i.t i.tm a).isNone then some { cause := causeBank } else none := by
  simp [firstFault, h, hq]

theorem firstFault_scratch_iff (hq : q.scratch = true) :
    firstFault s i q a = some { cause := causeBank } ↔ scratchPlace (coreOf s i.k) i.t i.tm a = none := by
  rw [firstFault_scratch s i h hq]
  cases scratchPlace (coreOf s i.k) i.t i.tm a <;> simp

theorem firstFault_memory (hq : q.scratch = false) : firstFault s i q a = spaceFault q a := by
  simp [firstFault, h, hq]

end First

/-! ### The lane -/

section Lane

variable {s : State} {i : Issuer} {q : Need} {a : Word} (g : Group) (p : Probe) (l : Nat)

theorem probeLane_first {f : XFault} (h : firstFault s i q a = some f) : probeLane i g q (s, p) (l, a) = (s, p.fail l a f) := by
  simp only [probeLane, h]

variable (h : firstFault s i q a = none)

include h

theorem probeLane_uncovered {sh : Nat} (hbx : q.bx = some sh)
    (hw : windowOf g q.scratch = none ∨ ∃ w, windowOf g q.scratch = some w ∧ windowCovers w a = false) :
    probeLane i g q (s, p) (l, a) = (s, p.fail l a { cause := causeSclw }) := by
  rcases hw with hw | ⟨w, hw, hc⟩
  · simp only [probeLane, h, hbx, hw]
  · simp only [probeLane, h, hbx, hw, hc, Bool.not_false, if_true]

theorem probeLane_plain (hbx : q.bx = none) : probeLane i g q (s, p) (l, a) = probeDeep s i q l 0 a p := by
  simp only [probeLane, h, hbx]

end Lane

section Scratch

variable {s : State} {i : Issuer} {q : Need} {a : Word} {b : Nat} (p : Probe) (l reg : Nat)

variable (hq : q.scratch = true) (hb : scratchPlace (coreOf s i.k) i.t i.tm a = some b)

include hq hb

theorem probeDeep_scratch_sound (h : ¬ (q.acc.writes = false ∧ scratchBadWord (coreOf s i.k) b q.n = true)) : probeDeep s i q l reg a p =
    (s, { p with accs := p.accs ++ [{ lane := l, reg := reg, space := .scratch, va := a, pa := b, ipa := 0, n := q.n }] }) := by
  have hno : (!q.acc.writes && scratchBadWord (coreOf s i.k) b q.n) = false := by simpa using h
  simp [probeDeep, hq, hb, hno, Probe.note]

theorem probeDeep_scratch_poisoned (h : q.acc.writes = false ∧ scratchBadWord (coreOf s i.k) b q.n = true) :
    probeDeep s i q l reg a p = (s, p.fail l a { cause := causeEcc }) := by
  simp [probeDeep, hq, hb, h]

end Scratch

/-! ### The place of a translated access -/

section Judge

variable {s : State} {k : Nat} {ctx : BitVec 10} {q : Need} {va : Word} {pa ipa : Nat} {miss : Bool}

section HostWindow

variable (h : isHostWindow pa = true)

include h

theorem judge_host_barred (hq : q.hostOk = false) : judge s k ctx q va pa ipa miss = { found := .bad { cause := causeAccess, sub := subSpace } } := by
  simp [judge, h, hq]

theorem judge_host_ungranted (hq : q.hostOk = true) (hg : memGrants s (ctxOf s ctx.toNat).polder pa q.right = false) :
    judge s k ctx q va pa ipa miss = { found := .bad { cause := causeAccess } } := by
  simp [judge, h, hq, hg]

theorem judge_host_granted (hq : q.hostOk = true) (hg : memGrants s (ctxOf s ctx.toNat).polder pa q.right = true) :
    judge s k ctx q va pa ipa miss = { found := .ok .host pa ipa } := by
  simp [judge, h, hq, hg]

end HostWindow

/-- An access that reaches its home needs the right of its target. -/
def needsRight (s : State) (k : Nat) (q : Need) (miss : Bool) : Bool := atHome (coreOf s k) q || (miss && !q.acc.writes)

/-- The tag that a compared access sees is not its address's. -/
def tagMismatch (s : State) (k : Nat) (ctx : BitVec 10) (q : Need) (va : Word) (pa : Nat) : Bool :=
  q.tagged && (ctxOf s ctx.toNat).tagmode != 0 && tagSeen s k ctx q va pa != vaTag va

theorem tagMismatch_iff : tagMismatch s k ctx q va pa = true ↔
    q.tagged = true ∧ (ctxOf s ctx.toNat).tagmode ≠ 0 ∧ tagSeen s k ctx q va pa ≠ vaTag va := by
  simp [tagMismatch, and_assoc]

/-- The data that an access takes is poisoned. -/
def takesPoison (s : State) (k : Nat) (ctx : BitVec 10) (q : Need) (va : Word) (pa : Nat) : Bool :=
  q.data && (!q.acc.writes || q.acc.atomic) && poisonSeen s k ctx q va pa

theorem takesPoison_iff : takesPoison s k ctx q va pa = true ↔
    q.data = true ∧ (q.acc.writes = false ∨ q.acc.atomic = true) ∧ poisonSeen s k ctx q va pa = true := by
  simp [takesPoison, and_assoc]

section Memory

variable (h : isHostWindow pa = false)

include h

theorem judge_ungranted (ht : ¬ (needsRight s k q miss = true → memGrants s (ctxOf s ctx.toNat).polder pa q.right = true)) :
    judge s k ctx q va pa ipa miss = { found := .bad { cause := causeAccess } } := by
  obtain ⟨hr, hg⟩ := Classical.not_imp.mp ht
  rw [judge, if_neg (by simp [h]), if_pos (by simpa [needsRight, hg] using hr)]

variable (ht : needsRight s k q miss = true → memGrants s (ctxOf s ctx.toNat).polder pa q.right = true)

include ht

/-- Past the table: the tag in trap mode, then poison; a mismatch in report mode is noted. -/
theorem judge_granted : judge s k ctx q va pa ipa miss =
    if tagMismatch s k ctx q va pa && (ctxOf s ctx.toNat).tagmode = 2 then { found := .bad { cause := causeTag } }
    else if takesPoison s k ctx q va pa then { found := .bad { cause := causeEcc } }
    else { found := .ok .hbm pa ipa, mismatch := tagMismatch s k ctx q va pa } := by
  have hno : ¬ (needsRight s k q miss && !memGrants s (ctxOf s ctx.toNat).polder pa q.right) = true := by simpa using ht
  exact (if_neg (by simp [h])).trans (if_neg hno)

theorem judge_traps_tag (hm : tagMismatch s k ctx q va pa = true) (h2 : (ctxOf s ctx.toNat).tagmode = 2) :
    judge s k ctx q va pa ipa miss = { found := .bad { cause := causeTag } } := by
  rw [judge_granted h ht, if_pos (by simp [hm, h2])]

variable (hm : ¬ (tagMismatch s k ctx q va pa = true ∧ (ctxOf s ctx.toNat).tagmode = 2))

include hm

theorem judge_poisoned (hp : takesPoison s k ctx q va pa = true) : judge s k ctx q va pa ipa miss = { found := .bad { cause := causeEcc } } := by
  rw [judge_granted h ht, if_neg (by simpa using hm), if_pos hp]

theorem judge_passes (hp : ¬ takesPoison s k ctx q va pa = true) :
    judge s k ctx q va pa ipa miss = { found := .ok .hbm pa ipa, mismatch := tagMismatch s k ctx q va pa } := by
  rw [judge_granted h ht, if_neg (by simpa using hm), if_neg hp]

end Memory

end Judge

/-! ### An access whose page has been looked up for another lane (R404) -/

section Pages

variable {s : State} {k : Nat} {ctx : BitVec 10} {q : Need} {a : Word} {walks : List (Word × XFault)}

variable (hf : isFabricVa a = false) (hs : servedBy (coreOf s k) ctx q a = none)

include hf hs

theorem checkAccess_walked (pages : List (Word × Nat × Nat)) {w : Word × XFault} (h : walks.find? (fun w => w.1 == pageOfVa a) = some w) :
    checkAccess s k ctx q walks pages a = (s, { found := .bad w.2, walked := true }) := by
  simp [checkAccess, hf, hs, h]

theorem checkAccess_paged {pages : List (Word × Nat × Nat)} {t : Word × Nat × Nat} (hw : walks.find? (fun w => w.1 == pageOfVa a) = none)
    (h : pages.find? (fun w => w.1 == pageOfVa a) = some t) :
    checkAccess s k ctx q walks pages a = (s, judge s k ctx q a (t.2.1 + a.toNat % 4096) (t.2.2 + a.toNat % 4096) true) := by
  simp [checkAccess, hf, hs, hw, h]

end Pages

end Sys2Proof.Machine

namespace Sys2Proof.Proofs

open Sys2Proof Sys2Proof.Machine

/-- Settles O59: the checks of a lane in their order, then those of the place that its address gives. -/
theorem accessChecks : Obligations.AccessChecks := by
  refine fun s i q a => ⟨firstFault_misaligned s i, firstFault_scratch_iff s i, fun ha hq => ?spaces, fun g p l f => probeLane_first g p l,
    fun g p l sh h hbx => probeLane_uncovered g p l h hbx, fun g p l b h hbx hq hb => ?scratch, fun ctx pa ipa miss => ?place,
    fun ctx walks pages f hf hs hw => checkAccess_walked hf hs pages hw, fun ctx walks pages t hf hs hw hp => checkAccess_paged hf hs hw hp⟩
  case spaces =>
    rw [firstFault_memory s i ha hq]
    exact ⟨spaceFault_fabric, spaceFault_lower, spaceFault_of_no_space q, spaceFault_upper q⟩
  case scratch =>
    rw [probeLane_plain g p l h hbx]
    exact ⟨probeDeep_scratch_sound p l 0 hq hb, probeDeep_scratch_poisoned p l 0 hq hb⟩
  case place =>
    dsimp only
    rw [← tagMismatch_iff, ← takesPoison_iff]
    refine ⟨fun h hq => ?_, fun h hq hg => ?_, fun h hq hg => ?_, fun h ht => ?_, fun h ht hm h2 => ?_, fun h ht hm hp => ?_, fun h ht hm hp => ?_⟩
    · rw [judge_host_barred h hq]
    · rw [judge_host_ungranted h hq hg]
    · rw [judge_host_granted h hq hg]
    · rw [judge_ungranted h ht]
    · rw [judge_traps_tag h ht hm h2]
    · rw [judge_poisoned h ht hm hp]
    · rw [judge_passes h ht hm hp]
      exact ⟨rfl, Iff.rfl⟩

end Sys2Proof.Proofs
end

section
/-! PROOF. Pages (R93, R169, R173, R175, R178, R179): what each of their events does, once for each of its outcomes. -/

namespace Sys2Proof.Machine

/-! ### Invalidations (R169) -/

section Invalidation

variable {s : State} {c : Cover} (done : State → State)

theorem carryOut_over (hs : coverIdle s c = true) (ht : coverIdle (invalidate s c) c = true) : carryOut s c done = done (invalidate s c) := by
  simp [carryOut, hs, ht]

theorem carryOut_begun (hs : coverIdle s c = true) (ht : coverIdle (invalidate s c) c = false) : carryOut s c done = invalidate s c := by
  simp [carryOut, hs, ht]

theorem carryOut_waits (hs : coverIdle s c = false) : carryOut s c done = s := by
  simp [carryOut, hs]

theorem exec_invalidationComplete_polder {n : BitVec 10} {p : Nat} (hp : n.toNat % 64 = p) (hb : (polderOf s p).tlbiBusy = true) :
    exec (.invalidationComplete true n) s = .next (carryOut s (ptlbiCover s p) (fun t => onPolder t p (fun x => { x with tlbiBusy := false }))) := by
  rw [exec_invalidationComplete, execInvalidationComplete]
  simp only [hp, hb, if_true]

theorem exec_invalidationComplete_ctx {n : BitVec 10} (hb : (ctxOf s n.toNat).tlbiBusy = true) : exec (.invalidationComplete false n) s =
    .next (finishXlinv (carryOut s (ctlbiCover s n) (fun t => onCtx t n.toNat (fun x => { x with tlbiBusy := false }))) n) := by
  rw [exec_invalidationComplete, execInvalidationComplete]
  simp only [hb, if_true, Bool.false_eq_true, if_false]

end Invalidation

/-! ### Quarantine (R93) -/

section Quarantine

variable {s : State} {f : BitVec 40}

theorem isZeroFrame_iff (s : State) (f : Nat) : isZeroFrame s f = true ↔ ∀ i, i < 64 → homeRead s (f * 4096 + 64 * i) 64 = 0 := by
  simp [isZeroFrame]

/-- A frame leaves quarantine, zeroed by the device unless the host has done so. -/
def frameCleared (s : State) (f : Nat) (host : Bool) : State :=
  let t := uncacheFrame (untagFrame (if host then s else zeroFrame s f) f) f
  { t with quar := del t.quar f }

theorem exec_quarantineClear_clears {host : Bool} (hq : look s.quar f.toNat = some host) (hz : host = true → isZeroFrame s f.toNat = true) :
    exec (.quarantineClear f) s = .next (frameCleared s f.toNat host) := by
  have hno : (host && !isZeroFrame s f.toNat) = false := by cases host <;> simp_all
  simp only [exec_quarantineClear, execQuarantineClear, hq, hno, Bool.false_eq_true, if_false, frameCleared]

theorem exec_quarantineClear_waits (hq : look s.quar f.toNat = some true) (hz : isZeroFrame s f.toNat = false) :
    exec (.quarantineClear f) s = .next s := by
  simp [exec_quarantineClear, execQuarantineClear, hq, hz]

theorem exec_quarantineClear_free (hq : look s.quar f.toNat = none) : exec (.quarantineClear f) s = .next s := by
  simp only [exec_quarantineClear, execQuarantineClear, hq]

theorem frameCleared_quar (s : State) (f : Nat) (host : Bool) : (frameCleared s f host).quar = del s.quar f := by cases host <;> rfl

theorem frameCleared_tags (s : State) (f : Nat) (host : Bool) : (frameCleared s f host).tags = clearSectors s.tags (f * 4096) 4096 := by
  cases host <;> rfl

theorem frameCleared_mem (s : State) (f : Nat) (host : Bool) :
    (frameCleared s f host).mem = if host then s.mem else clearRange s.mem (f * 4096) 4096 := by
  cases host <;> rfl

theorem mem_clearRange {m : List Host.Cell} {a n : Nat} {c : Host.Cell} : c ∈ clearRange m a n ↔ c ∈ m ∧ ¬ (a ≤ c.1 ∧ c.1 < a + n) := by
  simp only [clearRange, List.mem_filter, Bool.not_eq_true', Bool.and_eq_false_iff, decide_eq_false_iff_not, not_and_or]

theorem mem_clearSectors {α : Type} {m : AMap α} {a n : Nat} {e : Nat × α} :
    e ∈ clearSectors m a n ↔ e ∈ m ∧ ¬ (a ≤ e.1 * 64 ∧ e.1 * 64 < a + n) := by
  simp only [clearSectors, List.mem_filter, Bool.not_eq_true', Bool.and_eq_false_iff, decide_eq_false_iff_not, not_and_or]

theorem mem_frameCleared {s : State} {f : Nat} {host : Bool} {c : Host.Cell} (h : ¬ (f * 4096 ≤ c.1 ∧ c.1 < f * 4096 + 4096)) :
    c ∈ (frameCleared s f host).mem ↔ c ∈ s.mem := by
  rw [frameCleared_mem]
  cases host
  · exact mem_clearRange.trans (and_iff_left h)
  · exact Iff.rfl

end Quarantine

/-! ### Epochs (R178) -/

section Epoch

variable {s : State} {d : BitVec 2}

theorem exec_epochEnd_running (h : epochOver s d.toNat = false) : exec (.epochEnd d) s = .next s := if_pos (by rw [h]; rfl)

theorem exec_epochEnd_over (h : epochOver s d.toNat = true) : exec (.epochEnd d) s = .next (let t := decideAll s d.toNat
    setDie t d.toNat { dieOf t d.toNat with
      heat := (dieOf t d.toNat).heat.map (fun e => (e.1, { e.2 with counts := e.2.counts.map (· / 2), written := false }))
      epochAt := (dieOf t d.toNat).epochAt + BitVec.ofNat 64 (2 ^ fieldOf s.device.migcfg 0 5) }) := if_neg (by rw [h]; decide)

end Epoch

/-! ### Migration and replication (R173, R179) -/

section Page

variable {s : State} {p : BitVec 6} {page : BitVec 36} {l : Leaf}

/-- A leaf of level 4 is no leaf to split. -/
theorem splitLeaf_page (hl : l.lvl = 4) (s : State) (p : Nat) : splitLeaf s p l = some s := by simp [splitLeaf, hl]

theorem leafSpan_page (hl : l.lvl = 4) (ipa : Nat) : leafSpan l ipa = (ipa, 65536) := by simp [leafSpan, hl]

variable (hleaf : leafOf s p.toNat (page.toNat * 65536) = some l)

include hleaf

/-- R179, steps 1 and 2: the page's leaves take MIG. -/
theorem exec_pageMigrate_marks {d e : BitVec 2} {rep : Bool} {frames : List (BitVec 40)}
    (hdec : look s.migrating (pageKey p.toNat page.toNat) = some (e, rep, [])) (hfit : framesFit s e rep frames = true) (hlvl : l.lvl = 4)
    (hrd : peRdup l.e = false) (hmig : peMig l.e = false) (hrun : peC16 l.e = true) (hpin : pinned s p.toNat (page.toNat * 65536) = false)
    (hdie : homeDie l.out = d.toNat) (hidle : coverIdle s (polderCover s p.toNat (page.toNat * 65536) 65536 false) = true) :
    exec (.pageMigrate d e p page rep frames) s = .next (
      let u := rewriteRun s (runBase l) (fun _ x => if bitAt x 8 then x else x + 256)
      let v := invalidate u (polderCover u p.toNat (page.toNat * 65536) 65536 false)
      { v with migrating := put v.migrating (pageKey p.toNat page.toNat) (e, rep, frames) }) := by
  simp [exec_pageMigrate, execPageMigrate, hdec, hleaf, leafSpan_page hlvl, splitLeaf_page hlvl, hfit, hrd, hmig, hlvl, hpin, hdie, hidle, hrun]

section Copied

variable {t : BitVec 2} {f : BitVec 40} {more : List (BitVec 40)}

theorem exec_migrationCopyDone_waits {rep : Bool} (hdec : look s.migrating (pageKey p.toNat page.toNat) = some (t, rep, f :: more))
    (h : pageQuiet s (l.out / 65536 * 65536) = false ∨ coverIdle s (polderCover s p.toNat (page.toNat * 65536) 65536 false) = false) :
    exec (.migrationCopyDone p page) s = .next s := by
  have hwait : (!pageQuiet s (l.out / 65536 * 65536) || !coverIdle s (polderCover s p.toNat (page.toNat * 65536) 65536 false)) = true := by simpa using h
  simp only [exec_migrationCopyDone, execMigrationCopyDone, hdec, hleaf, hwait, if_true]

theorem exec_migrationCopyDone_moves (hdec : look s.migrating (pageKey p.toNat page.toNat) = some (t, false, f :: more))
    (hq : pageQuiet s (l.out / 65536 * 65536) = true) (hi : coverIdle s (polderCover s p.toNat (page.toNat * 65536) 65536 false) = true) :
    exec (.migrationCopyDone p page) s = .next (
      let ipa := page.toNat * 65536
      let old := l.out / 65536 * 65536
      let u := rewriteRun (copyPage s old (frameAt f)) (runBase l) (fun j e => frameAt f + 4096 * j + (1 + 2 + bitsAt e 2 4 * 4 + 64))
      let v := quarantine (invalidate u (polderCover u p.toNat ipa 65536 false)) p.toNat (pageFrames old)
      wakePage { v with migrating := del v.migrating (pageKey p.toNat page.toNat) } ipa) := by
  simp only [exec_migrationCopyDone, execMigrationCopyDone, hdec, hleaf, hq, hi, Bool.not_true, Bool.or_self, Bool.false_eq_true, if_false]

theorem exec_migrationCopyDone_replicates {r : BitVec 40}
    (hdec : look s.migrating (pageKey p.toNat page.toNat) = some (t, true, f :: r :: more))
    (hq : pageQuiet s (l.out / 65536 * 65536) = true) (hi : coverIdle s (polderCover s p.toNat (page.toNat * 65536) 65536 false) = true) :
    exec (.migrationCopyDone p page) s = .next (
      let ipa := page.toNat * 65536
      let old := l.out / 65536 * 65536
      let a := writeReplica (copyPage s old (frameAt f)) (frameAt r) (homeDie old) old t.toNat (frameAt f)
      let u := rewriteRun a (runBase l) (fun _ e => frameAt r / 4096 * 4096 + frameAt r % 4096 / 64 % 8 * 2 ^ 9 + 128 + (1 + 2 + bitsAt e 2 4 * 4 + 64))
      let v := invalidate u (polderCover u p.toNat ipa 65536 false)
      wakePage { v with migrating := del v.migrating (pageKey p.toNat page.toNat) } ipa) := by
  simp only [exec_migrationCopyDone, execMigrationCopyDone, hdec, hleaf, hq, hi, Bool.not_true, Bool.or_self, Bool.false_eq_true, if_false, if_true, List.headD_cons]

end Copied

/-! ### Collapse (R175, R176) -/

section Collapse

variable (w : BitVec 2)

theorem exec_pieceCollapse_unasked (h : pageWaits s p.toNat (page.toNat * 65536) = false ∨ peMig l.e = true) :
    exec (.pieceCollapse w p page) s = .next s := by
  have hno : (!pageWaits s p.toNat (page.toNat * 65536) || peMig l.e) = true := by simpa using h
  simp only [exec_pieceCollapse, execPieceCollapse, hleaf, hno, if_true]

variable (hw : pageWaits s p.toNat (page.toNat * 65536) = true) (hm : peMig l.e = false)

include hw hm

theorem exec_pieceCollapse_single (hrd : peRdup l.e = false) : exec (.pieceCollapse w p page) s = .next (wakePage s (page.toNat * 65536)) := by
  simp [exec_pieceCollapse, execPieceCollapse, hleaf, hw, hm, hrd]

variable (hrd : peRdup l.e = true)

include hrd

theorem exec_pieceCollapse_busy
    (hi : coverIdle s (polderCover s p.toNat (leafSpan l (page.toNat * 65536)).1 (leafSpan l (page.toNat * 65536)).2 false) = false) :
    exec (.pieceCollapse w p page) s = .next s := by
  simp [exec_pieceCollapse, execPieceCollapse, hleaf, hw, hm, hrd, hi]

variable (hi : coverIdle s (polderCover s p.toNat (leafSpan l (page.toNat * 65536)).1 (leafSpan l (page.toNat * 65536)).2 false) = true)

include hi

theorem exec_pieceCollapse_collapsed (hc : pieceCollapsed s (replicaPa l.e) (page.toNat * 65536) = true) :
    exec (.pieceCollapse w p page) s = .next (wakePage s (page.toNat * 65536)) := by
  simp [exec_pieceCollapse, execPieceCollapse, hleaf, hw, hm, hrd, hi, hc]

variable (hc : pieceCollapsed s (replicaPa l.e) (page.toNat * 65536) = false)

include hc

/-- A level-3 leaf with no frame offered for its split: the lanes try again, and take the fault. -/
theorem exec_pieceCollapse_unsplit (hlvl : l.lvl = 3) (hs : bitAt (polderOf s p.toNat).psplit.toNat 0 = false) :
    exec (.pieceCollapse w p page) s = .next (wakePage s (page.toNat * 65536)) := by
  have hsplit : splitLeaf s p.toNat l = none := by simp [splitLeaf, hlvl, hs]
  simp [exec_pieceCollapse, execPieceCollapse, hleaf, hw, hm, hrd, hi, hc, hsplit]

theorem exec_pieceCollapse_maps (hlvl : l.lvl = 4) : exec (.pieceCollapse w p page) s = .next (
    let ipa := page.toNat * 65536
    let r := replicaPa l.e
    let j := pieceOf s r ipa
    let own := if bitAt (replicaMask s r) w.toNat then w.toNat else lowestCopy s r
    let off := ipa % 2 ^ replicaBits s r / 65536 * 65536
    let byte := homeRead s (r + 0x28 + j / 2) 1
    let a := deviceWrite s (r + 0x28 + j / 2) 1 (byte - bitsAt byte (4 * (j % 2)) 4 * 2 ^ (4 * (j % 2)) + (8 + own) * 2 ^ (4 * (j % 2)))
    let b := deviceWrite a (r + 0x22) 1 (replicaRefs a r - 1)
    let c := rewriteRun b (runBase l) (fun n e => replicaPage s r own + off + 4096 * n + (1 + 2 + 4 + 64) + bitsAt e 3 1 * 8 + bitsAt e 4 1 * 16 + bitsAt e 5 1 * 32)
    wakePage (quarantine (invalidate c (polderCover c p.toNat ipa 65536 false)) p.toNat
      (((List.range 4).filter (fun d => d != own && bitAt (replicaMask s r) d)).flatMap (fun d => pageFrames (replicaPage s r d + off)))) ipa) := by
  rw [leafSpan_page hlvl] at hi
  simp only [exec_pieceCollapse, execPieceCollapse, hleaf, leafSpan_page hlvl, splitLeaf_page hlvl, hw, hm, hrd, hi, hc, Bool.not_true, Bool.or_self,
    Bool.false_eq_true, if_false, if_true]

end Collapse

end Page

end Sys2Proof.Machine

namespace Sys2Proof.Proofs

open Sys2Proof Sys2Proof.Machine

/-- Settles O52: each event on a page, an outcome at a time. -/
theorem pagesMove : Obligations.PagesMove := by
  refine fun s p page => ⟨fun n hn hb => ?polder, fun c hb => ?context, fun f => ⟨?cleared, exec_quarantineClear_waits, isZeroFrame_iff s f.toNat,
      exec_quarantineClear_free⟩, fun d => ⟨exec_epochEnd_running, exec_epochEnd_over⟩,
    fun d e rep frames l hl hdec hfit hlvl hrd hmig hrun hpin hdie hidle => exec_pageMigrate_marks hl hdec hfit hlvl hrd hmig hrun hpin hdie hidle,
    fun t f more l hdec hl => ⟨exec_migrationCopyDone_waits hl hdec, exec_migrationCopyDone_moves hl hdec⟩,
    fun t f r more l hdec hl => exec_migrationCopyDone_replicates hl hdec,
    fun w l hl => exec_pieceCollapse_unasked hl w, fun w l hl hw hm hrd => ⟨exec_pieceCollapse_collapsed hl w hw hm hrd, fun hi hc hlvl => ?maps,
      exec_pieceCollapse_unsplit hl w hw hm hrd, exec_pieceCollapse_busy hl w hw hm hrd⟩,
    fun w l hl hw hm hrd => exec_pieceCollapse_single hl w hw hm hrd⟩
  case polder =>
    rw [exec_invalidationComplete_polder hn hb]
    exact ⟨fun hs ht => congrArg _ (carryOut_over _ hs ht), fun hs ht => congrArg _ (carryOut_begun _ hs ht),
      fun hs => congrArg _ (carryOut_waits _ hs)⟩
  case context =>
    rw [exec_invalidationComplete_ctx hb]
    refine ⟨fun hs ht => ?_, fun hs ht => ?_, fun hs => ?_⟩
    · rw [carryOut_over _ hs ht]
    · rw [carryOut_begun _ hs ht]
    · rw [carryOut_waits _ hs]
  case cleared =>
    intro hq
    obtain ⟨host, hlook, hzero⟩ : ∃ host, look s.quar f.toNat = some host ∧ (host = true → isZeroFrame s f.toNat = true) := by
      rcases hq with hq | ⟨hq, hz⟩
      · exact ⟨false, hq, by simp⟩
      · exact ⟨true, hq, fun _ => hz⟩
    refine ⟨_, exec_quarantineClear_clears hlook hzero, ?_, fun g hg => ?_, fun e he => ?_, fun hdev c hc => ?_, fun c hc => mem_frameCleared hc⟩
    · rw [frameCleared_quar, look_del_self]
    · rw [frameCleared_quar, look_del_ne _ hg]
    · rw [frameCleared_tags] at he
      exact (mem_clearSectors.mp he).2
    · obtain rfl : host = false := Option.some.inj (hlook.symm.trans hdev)
      rw [frameCleared_mem] at hc
      exact (mem_clearRange.mp hc).2
  case maps =>
    refine exec_pieceCollapse_maps hl w hw hm hrd ?_ hc hlvl
    rw [leafSpan_page hlvl]
    exact hi

end Sys2Proof.Proofs
end

section
/-! PROOF. Bank switches, FIFO operations, matrix operations and the beats of copies (R75, R76, R83, R92, R123, R124, R127, R341, R359, R360). -/

namespace Sys2Proof.Machine

theorem put_put {α : Type} (m : AMap α) (k : Nat) (x y : α) : put (put m k x) k y = put m k y := by
  induction m with
  | nil => simp [put]
  | cons e r ih =>
    obtain ⟨j, z⟩ := e
    by_cases hlt : k < j
    · simp [put, hlt]
    · by_cases he : k = j
      · simp [put, he]
      · simp [put, hlt, he, ih]

theorem onCore_onCore (s : State) (k : Nat) (f g : CoreState → CoreState) : onCore (onCore s k f) k g = onCore s k (fun c => g (f c)) := by
  rw [onCore, coreOf_onCore_self, onCore, onCore, setCore, setCore, setCore, put_put]

/-! ### A switch of a bank that is no CACHE bank (R75, R76) -/

theorem switchBank_uncached {s : State} {k b : Nat} {tgt : BankMode} (ht : (bankOf (coreOf s k) b).mode ≠ tgt)
    (hc : (bankOf (coreOf s k) b).mode ≠ .cache) : switchBank s k b tgt = (let x := bankOf (coreOf s k) b
      onCore s k (fun c => setBank (loseSlot c x) b { mode := tgt, owner := x.owner, slot := x.slot, lent := tgt == .cache, home := x.home })) := by
  simp only [switchBank, ht, hc, if_false, onCore_onCore]

/-- The operations of a core stay, each with what it has lost. -/
theorem mem_loseSlot {c : CoreState} {e : Nat × Op} (x : Bank) (h : e ∈ c.ops) : ∃ e' ∈ (loseSlot c x).ops, e'.1 = e.1 ∧
    { e'.2 with lost := e.2.lost } = e.2 ∧ e'.2.lost =
      if (teamOf c x.owner).any (fun t => t.uid == e.2.uid) && copyUses e.2 x.slot then x.slot :: e.2.lost else e.2.lost := by
  refine ⟨_, List.mem_map_of_mem h, ?_⟩
  split <;> exact ⟨rfl, rfl, rfl⟩

/-! ### What a beat meets on its way (R67, R92, R341) -/

theorem portLeave_fresh (s : State) (k : Nat) (r : PortReq) : (portLeave s k r).fresh = s.fresh := by
  unfold portLeave
  split <;> rfl

theorem beatTags_matched {o : Op} {bad : Bool} (h : o.tagmode = 0 ∨ bad = false) (s : State) (k n ch done : Nat) (va : Word) (acc : Acc) :
    beatTags s k n o ch done va acc bad = (s, true) := if_pos (by rcases h with h | h <;> simp [h])

/-- Only a copy within scratch, or within memory, can have words in both its ranges. -/
theorem inSource_crossing {fs : Bool} {dst : Nat} (h : fs = true ∧ dst ≠ 1 ∨ fs = false ∧ dst ≠ 0) (sa : Word) (len : Nat) (a : Word) :
    inSource fs dst sa len a = false := by
  rcases h with ⟨rfl, h⟩ | ⟨rfl, h⟩ <;> simp [inSource, h]

theorem inSource_scratch {sa a : Word} {len : Nat} : inSource true 1 sa len a = true ↔ sa.toNat ≤ a.toNat ∧ a.toNat < sa.toNat + len := by
  simp [inSource]

theorem ite_eq_false_swap {α : Type} (c : Bool) (x y : α) : (if c = false then x else y) = if c = true then y else x := by cases c <;> rfl

/-- A beat within scratch or to a FIFO needs no token, and one across the port finds it open. -/
theorem port_admits {fs : Bool} {dst : Nat} {x : Bool} (h : fs = true ∧ dst ≠ 0 ∨ x = true) : (!(fs && dst != 0) && !x) = false := by
  rcases h with ⟨rfl, h⟩ | rfl <;> simp [*]

section Overlap

variable {fs : Bool} {dst len done b : Nat} {sa da : Word} (s : State) (v : Nat)

theorem overlapped_apart (h : ∀ j < b / 8, inSource fs dst sa len (da + BitVec.ofNat 64 (done + 8 * j)) = false) :
    overlapped s fs dst sa da len done b v = (s, v) := by
  have hnone : (List.range (b / 8)).filter (fun j => inSource fs dst sa len (da + BitVec.ofNat 64 (done + 8 * j))) = [] := by
    simpa [List.filter_eq_nil_iff] using h
  simp only [overlapped, hnone, List.isEmpty_nil, if_true]

theorem overlapped_crossing (h : fs = true ∧ dst ≠ 1 ∨ fs = false ∧ dst ≠ 0) : overlapped s fs dst sa da len done b v = (s, v) :=
  overlapped_apart s v fun _ _ => inSource_crossing h ..

/-- A beat whose words all lie in both ranges: each takes a free value. -/
theorem overlapped_within (hb : 8 ≤ b) (h : ∀ j < b / 8, inSource fs dst sa len (da + BitVec.ofNat 64 (done + 8 * j)) = true) :
    overlapped s fs dst sa da len done b v = ({ s with fresh := s.fresh + 8 },
      (List.range (b / 8)).foldl (fun w j => overlayBytes w 8 (8 * j) 0xFF (Config.freeValue (s.fresh + j)).toNat) v) := by
  have hall : (List.range (b / 8)).filter (fun j => inSource fs dst sa len (da + BitVec.ofNat 64 (done + 8 * j))) = List.range (b / 8) := by
    simpa [List.filter_eq_self] using h
  have hsome : (List.range (b / 8)).isEmpty = false := by
    rw [List.isEmpty_eq_false_iff, Ne, List.range_eq_nil]
    omega
  simp only [overlapped, hall, hsome, Bool.false_eq_true, if_false]

end Overlap

theorem appendFifo_bank {c : CoreState} {o : Op} {slot b : Nat} (h : fifoBank c o slot = some b) (m v : Nat) : appendFifo c o slot m v =
    setBank c b { bankOf c b with
      queue := (bankOf c b).queue ++ (List.range (m / 8)).map (fun i => BitVec.ofNat 64 (v / 2 ^ (64 * i) % 2 ^ 64))
      reserved := (bankOf c b).reserved - m / 8 } := by
  unfold fifoBank at h
  simp only [appendFifo, h, bitsAt]

section Op

variable {s : State} {k : BitVec 9} {n : Nat} {o : Op} (ho : opOf s k.toNat n = some o)

include ho

/-! ### Bank switches (R75, R76) -/

section Bank

variable {b : Nat} {tgt : BankMode} (hk : o.kind = .bank b tgt)

include hk

theorem exec_bankTransitionComplete_switches (h : canSwitch s k.toNat n = true) :
    exec (.bankTransitionComplete k n) s = .next (finishOp (switchBank s k.toNat b tgt) k.toNat n) := by
  simp only [exec_bankTransitionComplete, execBankTransitionComplete, ho, hk, h, if_true]

theorem exec_bankTransitionComplete_waits (h : canSwitch s k.toNat n = false) : exec (.bankTransitionComplete k n) s = .next s := by
  simp only [exec_bankTransitionComplete, execBankTransitionComplete, ho, hk, h, Bool.false_eq_true, if_false]

end Bank

/-! ### FIFO operations (R83, R127) -/

section Fifo

omit ho in
theorem exec_fifoOpAccept_waits (h : canAccept s k.toNat n = false) : exec (.fifoOpAccept k n) s = .next s := by
  simp only [exec_fifoOpAccept, execFifoOpAccept, acceptFifo, h, Bool.not_false, if_true]

section Accepted

variable {slot b : Nat} (hs : fifoSlot o = some slot) (hb : fifoBank (coreOf s k.toNat) o slot = some b) (h : canAccept s k.toNat n = true)

include hs hb h

theorem exec_fifoOpAccept_left (hm : (bankOf (coreOf s k.toNat) b).mode ≠ .fifo) :
    exec (.fifoOpAccept k n) s = .next (fifoTrap s k.toNat n o causeBank 0) := by
  simp [exec_fifoOpAccept, execFifoOpAccept, acceptFifo, h, ho, hs, hb, hm]

variable (hm : (bankOf (coreOf s k.toNat) b).mode = .fifo)

include hm

theorem exec_fifoOpAccept_push {sl : Nat} {xs : List Word} (hk : o.kind = .push sl xs) : exec (.fifoOpAccept k n) s = .next (
    finishOp (onCore s k.toNat (fun c => setBank c b { bankOf (coreOf s k.toNat) b with
      queue := (bankOf (coreOf s k.toNat) b).queue ++ xs })) k.toNat n) := by
  simp [exec_fifoOpAccept, execFifoOpAccept, acceptFifo, h, ho, hs, hb, hm, hk]

/-- The first poisoned word that a pop of `m` words would take. -/
def poisonedWord (x : Bank) (m : Nat) : Option Nat := (List.range m).find? (fun j => x.bad.contains ((x.head + j) % 4096))

variable {sl : Nat} (hk : o.kind = .pop sl)

include hk

theorem exec_fifoOpAccept_pop {d : Nat} (hd : o.dest = .v d) (hp : poisonedWord (bankOf (coreOf s k.toNat) b) (countMask o.lanes) = none) :
    exec (.fifoOpAccept k n) s = .next (let x := bankOf (coreOf s k.toNat) b
      let m := countMask o.lanes
      finishOp (onGroup (onCore s k.toNat (fun c => setBank c b { x with queue := x.queue.drop m, head := (x.head + m) % 4096 })) o.uid o.gid
        (fun g => lateWrite g d n o.lanes (laneValue ((lanesIn o.lanes).zip (x.queue.take m))))) k.toNat n) := by
  unfold poisonedWord at hp
  simp only [exec_fifoOpAccept, execFifoOpAccept, acceptFifo, h, ho, hs, hb, hm, hk, hp, hd, Option.getD_some, Bool.not_true, bne_self_eq_false,
    Bool.false_eq_true, if_false]

theorem exec_fifoOpAccept_poisoned {j : Nat} (hp : poisonedWord (bankOf (coreOf s k.toNat) b) (countMask o.lanes) = some j) :
    exec (.fifoOpAccept k n) s = .next (let x := bankOf (coreOf s k.toNat) b
      fifoTrap (onCore s k.toNat (fun c => setBank c b { x with bad := x.bad.filter (· != (x.head + j) % 4096) })) k.toNat n o causeEcc 0) := by
  unfold poisonedWord at hp
  simp only [exec_fifoOpAccept, execFifoOpAccept, acceptFifo, h, ho, hs, hb, hm, hk, hp, Option.getD_some, Bool.not_true, bne_self_eq_false,
    Bool.false_eq_true, if_false]

end Accepted

/-- What a FIFO operation on a slot gives as FIFO's subcode when it times out (R127). -/
def timesOutAs (o : Op) (sl sub : Nat) : Prop := (∃ xs, o.kind = .push sl xs ∧ sub = 1) ∨ (o.kind = .pop sl ∧ sub = 2)

theorem exec_fifoTimeout_over {sl sub : Nat} (hk : timesOutAs o sl sub) (hl : opLeaves (coreOf s k.toNat) o.uid = false)
    (h : 2 ^ 20 ≤ ((coreOf s k.toNat).ccyc - o.start).toNat) : exec (.fifoTimeout k n) s = .next (fifoTrap s k.toNat n o causeFifo sub) := by
  rcases hk with ⟨xs, hk, rfl⟩ | ⟨hk, rfl⟩ <;>
    simp only [exec_fifoTimeout, execFifoTimeout, ho, fifoSlot, hk, hl, h, Option.isSome_some, Bool.not_false, decide_true, Bool.and_self, if_true]

theorem exec_fifoTimeout_early (h : ((coreOf s k.toNat).ccyc - o.start).toNat < 2 ^ 20) : exec (.fifoTimeout k n) s = .next s := by
  have hno : ((fifoSlot o).isSome && !opLeaves (coreOf s k.toNat) o.uid && 2 ^ 20 ≤ ((coreOf s k.toNat).ccyc - o.start).toNat) = false := by
    rw [decide_eq_false (Nat.not_le.mpr h), Bool.and_false]
  simp only [exec_fifoTimeout, execFifoTimeout, ho, hno, Bool.false_eq_true, if_false]

end Fifo

/-! ### Matrix operations (R359, R360) -/

section Matrix

variable {wide z : Bool} {fmt : BitVec 16} {d : Nat} {av bv cv : List (List Word)} {x : List Nat} {bad : Bool}

variable (hk : o.kind = .mma wide z fmt d av bv cv x bad)

include hk

theorem exec_mmaComplete_waits (h : behindMatrix (coreOf s k.toNat) n o d = true) : exec (.mmaComplete k n) s = .next s := by
  simp only [exec_mmaComplete, execMmaComplete, performMatrix, ho, hk, h, if_true]

theorem exec_mmaComplete_writes (h : behindMatrix (coreOf s k.toNat) n o d = false) {t : MatType} (hb : bad = false) (ht : formatType fmt = some t) :
    exec (.mmaComplete k n) s = .next (finishOp (onGroup { s with fresh := s.fresh + 1024 } o.uid o.gid (fun g => (List.range 32).foldl (fun g' r =>
      lateWrite g' (d + r) n (BitVec.allOnes 32) (fun l => matLane t wide z av bv cv (vLane g (d + r) l) r l)) g)) k.toNat n) := by
  simp only [exec_mmaComplete, execMmaComplete, performMatrix, ho, hk, h, writeMatrix, hb, ht, Bool.false_eq_true, if_false]

end Matrix

/-! ### Copies (R92, R123, R124) -/

section Copy

variable {ch dst len done : Nat} {fs : Bool} {sa da : Word}

theorem exec_copyComplete_over {p : Option Word} (hk : o.kind = .copy ch fs dst sa da len done p) (h : done = len) :
    exec (.copyComplete k n) s = .next (finishOp s k.toNat n) := by
  simp only [exec_copyComplete, execCopyComplete, finishCopy, ho, hk, h, if_true]

theorem exec_copyComplete_running {p : Option Word} (hk : o.kind = .copy ch fs dst sa da len done p) (h : done ≠ len) :
    exec (.copyComplete k n) s = .next s := by
  simp only [exec_copyComplete, execCopyComplete, finishCopy, ho, hk, h, if_false]

theorem exec_copyBeat_paused {p : Option Word} (hk : o.kind = .copy ch fs dst sa da len done p) (h : p ≠ none) :
    exec (.copyBeat k n) s = .next s := by
  obtain ⟨t, rfl⟩ := Option.ne_none_iff_exists'.mp h
  simp only [exec_copyBeat, execCopyBeat, performBeat, ho, hk]

section Beat

variable (hk : o.kind = .copy ch fs dst sa da len done none) (hc : canBeat s k.toNat n = true)

include hk hc

theorem exec_copyBeat_port (hm : fs = false ∨ dst = 0) (hp : portOpen s k.toNat o.ctx (.op n) = false) :
    exec (.copyBeat k n) s = .next (portWait s k.toNat o.ctx (.op n)) := by
  have hside : (!(fs && dst != 0)) = true := by rcases hm with rfl | rfl <;> simp
  simp only [exec_copyBeat, execCopyBeat, performBeat, ho, hk, hc, hside, hp, Bool.not_true, Bool.not_false, Bool.and_self, Bool.false_eq_true,
    if_false, if_true]

theorem exec_copyBeat_source_fails (hfs : fs = true) (hp : dst ≠ 0 ∨ portOpen s k.toNat o.ctx (.op n) = true) {f : XFault}
    (hx : scratchSide (coreOf (portLeave s k.toNat (.op n)) k.toNat) o (sa + BitVec.ofNat 64 done) (beatLen true dst sa da len done) true = .bad f) :
    exec (.copyBeat k n) s = .next (copyFail (portLeave s k.toNat (.op n)) k.toNat n o ch done f (sa + BitVec.ofNat 64 done) accRead) := by
  subst hfs
  simp only [exec_copyBeat, execCopyBeat, performBeat, ho, hk, hc, port_admits (hp.imp_left (And.intro rfl)), hx, Bool.not_true, Bool.false_eq_true,
    if_false, if_true]

theorem exec_copyBeat_memory_fails (hfs : fs = false) (hp : portOpen s k.toNat o.ctx (.op n) = true) {t : State} {f : XFault}
    (hx : memSide (portLeave s k.toNat (.op n)) k.toNat o (sa + BitVec.ofNat 64 done) accRead = (t, .bad f)) :
    exec (.copyBeat k n) s = .next (copyFail t k.toNat n o ch done f (sa + BitVec.ofNat 64 done) accRead) := by
  subst hfs
  simp only [exec_copyBeat, execCopyBeat, performBeat, ho, hk, hc, port_admits (.inr hp), hx, Bool.not_true, Bool.false_eq_true, if_false]

end Beat

/-! ### Beats that deliver

Each passes the source's side for any `dst`, and takes its own `dst` only then: a literal in the matches that follow makes the kernel's check deep. -/

section Sides

variable {src dest : Word} {b a ia a' ia' : Nat} {s0 t : State} (hs0 : s0 = portLeave s k.toNat (.op n)) (hsrc : src = sa + BitVec.ofNat 64 done)
  (hdest : dest = da + BitVec.ofNat 64 done)

section Scratch

variable (hk : o.kind = .copy ch true dst sa da len done none) (hc : canBeat s k.toNat n = true) (hb : b = beatLen true dst sa da len done)
  (hx : scratchSide (coreOf s0 k.toNat) o src b true = .at_ a ia)

include hs0 hsrc hk hc hb hx

/-- From scratch to the end of a FIFO. -/
theorem exec_copyBeat_to_fifo (hd : dst = 2) (hy : fifoSide (coreOf s0 k.toNat) o da.toNat = .at_ a' ia')
    (hf : sideFollows (coreOf s0 k.toNat) n o true false src a b = false) : exec (.copyBeat k n) s = .next (delivered (onCore s0 k.toNat (fun c =>
      appendFifo c o da.toNat b (scratchBytes (coreOf s0 k.toNat) o a (b / 8)))) k.toNat n o ch b) := by
  subst hs0 hsrc hb
  have hd0 : dst ≠ 0 := by omega
  simp only [exec_copyBeat, execCopyBeat, performBeat, ho, hk, hc, port_admits (.inl ⟨rfl, hd0⟩), hx, Bool.not_true, Bool.false_eq_true, if_false,
    if_true]
  subst hd
  simp [hy, hf, beatTags_matched, overlapped_crossing]

include hdest

/-- From scratch to scratch: the words of the source, as the overlap of the ranges leaves them. -/
theorem exec_copyBeat_in_scratch (hd : dst = 1) (hy : scratchSide (coreOf s0 k.toNat) o dest b false = .at_ a' ia')
    (hf : sideFollows (coreOf s0 k.toNat) n o true false src a b = false) (hf' : sideFollows (coreOf s0 k.toNat) n o true true dest a' b = false) :
    exec (.copyBeat k n) s = .next (let x := overlapped s0 true 1 sa da len done b (scratchBytes (coreOf s0 k.toNat) o a (b / 8))
      delivered (onCore x.1 k.toNat (fun c => putScratch c o a' (b / 8) x.2)) k.toNat n o ch b) := by
  subst hs0 hsrc hdest hb
  have hd0 : dst ≠ 0 := by omega
  simp only [exec_copyBeat, execCopyBeat, performBeat, ho, hk, hc, port_admits (.inl ⟨rfl, hd0⟩), hx, Bool.not_true, Bool.false_eq_true, if_false,
    if_true]
  subst hd
  simp [hy, hf, hf', beatTags_matched]

/-- From scratch to memory: the context's dirty bytes leave first, and the sectors are counted and taken. -/
theorem exec_copyBeat_to_memory (hd : dst = 0) (hp : portOpen s k.toNat o.ctx (.op n) = true)
    (hy : memSide s0 k.toNat o dest accCopyDst = (t, .at_ a' ia'))
    (hf : sideFollows (coreOf t k.toNat) n o true false src a b = false) (hf' : sideFollows (coreOf t k.toNat) n o false true dest a' b = false)
    {u h : State} (hu : u = rangeFirst t k.toNat o.ctx a' dest b) (hh : homeAnswers u k.toNat a' b = true)
    (htag : o.tagmode = 0 ∨ tagDiffers u a' b dest = false)
    (hcount : h = if isUpper dest then markWritten (beatHeat u k.toNat o a' ia' b) (homeDie a') o.polder.toNat ia' else u) :
    exec (.copyBeat k n) s = .next (let g := (beatSectors a' b).foldl (fun s x => takeSector s k.toNat o.ctx x) h
      delivered (noteArgs (beatWrite g k.toNat o dest ia' a' b (scratchBytes (coreOf h k.toNat) o a (b / 8))) [(a', b)]) k.toNat n o ch b) := by
  subst hs0 hsrc hdest hb hu hcount
  simp only [exec_copyBeat, execCopyBeat, performBeat, ho, hk, hc, port_admits (.inr hp), hx, Bool.not_true, Bool.false_eq_true, if_false, if_true]
  subst hd
  simp [hy, hf, hf', hh, htag, beatTags_matched, overlapped_crossing]

end Scratch

section Memory

variable (hk : o.kind = .copy ch false dst sa da len done none) (hc : canBeat s k.toNat n = true) (hb : b = beatLen false dst sa da len done)
  (hd : dst = 1 ∨ dst = 2) (hp : portOpen s k.toNat o.ctx (.op n) = true) (hx : memSide s0 k.toNat o src accRead = (t, .at_ a ia))
  (hy : (if dst = 1 then scratchSide (coreOf t k.toNat) o dest b false else fifoSide (coreOf t k.toNat) o da.toNat) = .at_ a' ia')
  (hf : sideFollows (coreOf t k.toNat) n o false false src a b = false)
  (hf' : dst = 1 → sideFollows (coreOf t k.toNat) n o true true dest a' b = false) {u : State} (hu : u = rangeFirst t k.toNat o.ctx a src b)
  (hh : homeAnswers u k.toNat a b = true)

include hs0 hsrc hdest hk hc hb hd hp hx hy hf hf' hu hh

theorem exec_copyBeat_poisoned (h : ∃ x ∈ beatSectors a b, isPoisoned u x = true) :
    exec (.copyBeat k n) s = .next (copyFail u k.toNat n o ch done { cause := causeEcc } src accRead) := by
  subst hs0 hsrc hdest hb hu
  simp only [exec_copyBeat, execCopyBeat, performBeat, ho, hk, hc, port_admits (.inr hp), hx, Bool.not_true, Bool.false_eq_true, if_false]
  rcases hd with rfl | rfl
  · replace hf' := hf' rfl
    rw [if_pos rfl] at hy
    simp [hy, hf, hf', hh, h]
  · rw [if_neg (by decide)] at hy
    simp [hy, hf, hh, h]

/-- From memory to scratch or to the end of a FIFO. -/
theorem exec_copyBeat_from_memory (h : ∀ x ∈ beatSectors a b, isPoisoned u x = false) (htag : o.tagmode = 0 ∨ tagDiffers u a b src = false)
    {h' : State} (hcount : h' = if isUpper src then beatHeat u k.toNat o a ia b else u) :
    exec (.copyBeat k n) s = .next (let g := (beatSectors a b).foldl (fun s x => takeSector s k.toNat o.ctx x) h'
      delivered (onCore g k.toNat (fun c => if dst = 1 then putScratch c o a' (b / 8) (homeRead h' a b) else appendFifo c o da.toNat b (homeRead h' a b)))
        k.toNat n o ch b) := by
  have hsound : (beatSectors a b).any (isPoisoned u) = false := by simpa using h
  subst hs0 hsrc hdest hb hu hcount
  simp only [exec_copyBeat, execCopyBeat, performBeat, ho, hk, hc, port_admits (.inr hp), hx, Bool.not_true, Bool.false_eq_true, if_false]
  rcases hd with rfl | rfl
  · replace hf' := hf' rfl
    rw [if_pos rfl] at hy
    simp [hy, hf, hf', hh, hsound, htag, beatTags_matched, overlapped_crossing, ite_eq_false_swap]
  · rw [if_neg (by decide)] at hy
    simp [hy, hf, hh, hsound, htag, beatTags_matched, overlapped_crossing, ite_eq_false_swap]

end Memory

end Sides

end Copy

end Op

end Sys2Proof.Machine

namespace Sys2Proof.Proofs

open Sys2Proof Sys2Proof.Machine

/-- Settles O49: each event by its own equation, and the beats of a copy by where they come from and go. -/
theorem enginesComplete : Obligations.EnginesComplete := by
  refine ⟨fun s k n o ho => ⟨fun b tgt hk => ⟨exec_bankTransitionComplete_switches ho hk, exec_bankTransitionComplete_waits ho hk,
      switchBank_uncached, fun x e he => mem_loseSlot x he⟩,
    fun slot b hs hb => ⟨exec_fifoOpAccept_waits, exec_fifoOpAccept_left ho hs hb, fun h hm sl xs hk => exec_fifoOpAccept_push ho hs hb h hm hk,
      fun h hm sl d hk hd => ⟨exec_fifoOpAccept_pop ho hs hb h hm hk hd, fun j => exec_fifoOpAccept_poisoned ho hs hb h hm hk⟩⟩,
    fun hl h => ⟨fun sl xs hk => exec_fifoTimeout_over ho (.inl ⟨xs, hk, rfl⟩) hl h, fun sl hk => exec_fifoTimeout_over ho (.inr ⟨hk, rfl⟩) hl h⟩,
    exec_fifoTimeout_early ho⟩,
    fun s k n o ho => ⟨fun wide z fmt d av bv cv x bad hk => ⟨exec_mmaComplete_waits ho hk, fun h t => exec_mmaComplete_writes ho hk h⟩,
      fun ch fs dst sa da len done p hk => ⟨exec_copyComplete_over ho hk, exec_copyComplete_running ho hk, exec_copyBeat_paused ho hk,
        ?scratch, ?fromMemory, ?toMemory, ?toFifo, fun c b m v h => appendFifo_bank h m v, ?port, ?sourceFails, ?memoryFails⟩⟩⟩
  case scratch =>
    rintro rfl hc rfl rfl a a' ia ia' b hx hy hf hf'
    dsimp only [b] at *
    have hbeat := exec_copyBeat_in_scratch ho rfl rfl rfl hk hc rfl hx rfl hy hf hf'
    refine ⟨fun h => ?_, fun hb h => ?_⟩
    · rw [hbeat, overlapped_apart _ _ fun j hj => Bool.eq_false_iff.mpr fun hin => h j hj (inSource_scratch.mp hin)]
    · rw [hbeat, hb, overlapped_within _ _ (by decide) fun j hj => inSource_scratch.mpr (h j hj), portLeave_fresh]
  case fromMemory =>
    rintro rfl hc rfl hd hp t a ia a' ia' b hx hy hf hf' u hh
    exact ⟨exec_copyBeat_poisoned ho rfl rfl rfl hk hc rfl hd hp hx hy hf hf' rfl hh,
      fun h htag => exec_copyBeat_from_memory ho rfl rfl rfl hk hc rfl hd hp hx hy hf hf' rfl hh h htag rfl⟩
  case toMemory =>
    rintro rfl hc rfl rfl hp t a ia a' ia' b hx hy hf hf' u hh htag
    exact exec_copyBeat_to_memory ho rfl rfl rfl hk hc rfl hx rfl hp hy hf hf' rfl hh htag rfl
  case toFifo =>
    rintro rfl hc rfl rfl a ia a' ia' b hx hy hf
    exact exec_copyBeat_to_fifo ho rfl rfl hk hc rfl hx rfl hy hf
  case port =>
    rintro rfl hc
    exact exec_copyBeat_port ho hk hc
  case sourceFails =>
    rintro rfl hc hfs hp f
    exact exec_copyBeat_source_fails ho hk hc hfs hp
  case memoryFails =>
    rintro rfl hc hfs hp t f
    exact exec_copyBeat_memory_fails ho hk hc hfs hp

end Sys2Proof.Proofs
end

section
/-! PROOF. Stages, slots, closes, measures, commits and signal updates of merge sets, and the answers of their coordinators (R98, R102 to R109,
R111, R114, R364, R367, R409). -/

namespace Sys2Proof.Machine

section Op

variable {s : State} {k : BitVec 9} {n : Nat} {o : Op} (ho : opOf s k.toNat n = some o)

/-! ### Stages (R102 to R104) -/

section Stage

variable (s k n o)

/-- The state in which the next line of a stage reaches its home: off the port's queue, the core's dirty bytes of its sectors sent before it. -/
def stageArrival (es : List (Mask × Word × Nat × BitVec 32)) : State :=
  (nextLine es).foldl (fun s e => homeFirst s k.toNat o.ctx (.phys (lineOf e.2.2.1)) e.2.1) (portLeave s k.toNat (.op n))

/-- Its elements whose tags differ at the home, when the context checks tags. -/
def stageMismatches (es : List (Mask × Word × Nat × BitVec 32)) : List (Mask × Word × Nat × BitVec 32) :=
  if o.tagmode = 0 then [] else tagElems (stageArrival s k n o es) (nextLine es)

/-- The rule of R104 that it breaks. -/
def stageBreach (set : SetId) (gen : Nat) (id : BitVec 16) (es : List (Mask × Word × Nat × BitVec 32)) : Option Nat :=
  stageRule (stageArrival s k n o es) (setIdKey set) gen (some o.polder.toNat) id.toNat ((nextLine es).map (·.2.2.1))

/-- It goes to its home: nothing of its group is before it, and its core's port is open. -/
def stageGoes : Prop := mustFollow (coreOf s k.toNat) n o = false ∧ portOpen s k.toNat o.ctx (.op n) = true

variable {s k n o}
variable {set : SetId} {gen : Nat} {id : BitVec 16} {es : List (Mask × Word × Nat × BitVec 32)} {r : List (Nat × Mask)}
variable (hk : o.kind = .stage set gen id es r) (hn : nextLine es ≠ [])

theorem stage_untagged (h : ¬ (o.tagmode = 2 ∧ stageMismatches s k n o es ≠ [])) :
    (decide (o.tagmode = 2) && !(stageMismatches s k n o es).isEmpty) = false := by simpa using h

include ho hk hn

theorem exec_stageAccept_follows (h : mustFollow (coreOf s k.toNat) n o = true) : exec (.stageAccept k n) s = .next s := by
  simp only [exec_stageAccept, execStageAccept, performStage, ho, hk, List.isEmpty_eq_false_iff.mpr hn, h, Bool.false_eq_true, if_false, if_true]

theorem exec_stageAccept_port (h : mustFollow (coreOf s k.toNat) n o = false) (hp : portOpen s k.toNat o.ctx (.op n) = false) :
    exec (.stageAccept k n) s = .next (portWait s k.toNat o.ctx (.op n)) := by
  simp only [exec_stageAccept, execStageAccept, performStage, ho, hk, List.isEmpty_eq_false_iff.mpr hn, h, hp, Bool.false_eq_true, Bool.not_false, if_false,
    if_true]

variable (hg : stageGoes s k n o)

include hg

theorem exec_stageAccept_tagged (hm : o.tagmode = 2) (hb : stageMismatches s k n o es ≠ []) : let bad := stageMismatches s k n o es
    exec (.stageAccept k n) s = .next (dropElems (failLater (countTagTrap (stageArrival s k n o es) o.ctx.toNat (countMask (elemLanes bad))) k.toNat n o
      { cause := causeTag, addr := elemLow bad, lanes := elemLanes bad, acc := 4 }) k.toNat n bad) := by
  obtain ⟨hf, hp⟩ := hg
  have htag : (decide (o.tagmode = 2) && !(stageMismatches s k n o es).isEmpty) = true := by simp [hm, hb]
  simp only [exec_stageAccept, execStageAccept, performStage, ho, hk, List.isEmpty_eq_false_iff.mpr hn, hf, hp, Bool.not_true, Bool.false_eq_true, if_false]
  exact congrArg _ (if_pos htag)

variable (ht : ¬ (o.tagmode = 2 ∧ stageMismatches s k n o es ≠ []))

include ht

theorem exec_stageAccept_refused {sub : Nat} (hr : stageBreach s k n o set gen id es = some sub) :
    exec (.stageAccept k n) s = .next (dropElems (failLater (stageArrival s k n o es) k.toNat n o
      { cause := causeMerge, sub := sub, addr := elemLow (nextLine es), lanes := elemLanes (nextLine es), acc := 4 }) k.toNat n (nextLine es)) := by
  obtain ⟨hf, hp⟩ := hg
  have htag := stage_untagged ht
  simp only [stageMismatches, stageBreach, stageArrival] at htag hr ⊢
  simp only [exec_stageAccept, execStageAccept, performStage, ho, hk, List.isEmpty_eq_false_iff.mpr hn, hf, hp, htag, hr, Bool.not_true,
    Bool.false_eq_true, if_false]

variable (hr : stageBreach s k n o set gen id es = none) {m : MergeSet} (hm : openSet (stageArrival s k n o es) (setIdKey set) gen = some m)

include hr hm

theorem exec_stageAccept_accepted (hb : stageBehind (stageArrival s k n o es) k.toNat n o m id.toNat (nextLine es) = false)
    (hh : holds (claimSlot m id.toNat (some o.ctx.toNat)) id.toNat = true) : exec (.stageAccept k n) s = .next (dropElems
      (setSet (spendTok (reportElems (stageArrival s k n o es) k.toNat o (stageMismatches s k n o es)) k.toNat o.ctx
          (((nextLine es).map (fun e => sectorOf e.2.2.1)).eraseDups).length) (setIdKey set)
        (acceptStage (claimSlot m id.toNat (some o.ctx.toNat)) id.toNat ((nextLine es).map (fun e => (e.2.2.1, e.2.2.2))))) k.toNat n (nextLine es)) := by
  obtain ⟨hf, hp⟩ := hg
  have htag := stage_untagged ht
  simp only [stageMismatches, stageBreach, stageArrival] at htag hr hm hb ⊢
  simp only [exec_stageAccept, execStageAccept, performStage, ho, hk, List.isEmpty_eq_false_iff.mpr hn, hf, hp, htag, hr, hm, hb, hh, Bool.not_true, Bool.or_self,
    Bool.false_eq_true, if_false]

theorem exec_stageAccept_waits (h : stageBehind (stageArrival s k n o es) k.toNat n o m id.toNat (nextLine es) = true ∨
    holds (claimSlot m id.toNat (some o.ctx.toNat)) id.toNat = false) : exec (.stageAccept k n) s = .next (stageArrival s k n o es) := by
  obtain ⟨hf, hp⟩ := hg
  have htag := stage_untagged ht
  have hwait : (stageBehind (stageArrival s k n o es) k.toNat n o m id.toNat (nextLine es) ||
    !holds (claimSlot m id.toNat (some o.ctx.toNat)) id.toNat) = true := by simpa using h
  simp only [stageMismatches, stageBreach, stageArrival] at htag hr hm hwait ⊢
  simp only [exec_stageAccept, execStageAccept, performStage, ho, hk, List.isEmpty_eq_false_iff.mpr hn, hf, hp, htag, hr, hm, hwait, Bool.not_true,
    Bool.false_eq_true, if_false, if_true]

end Stage

/-! ### Closes (R105) -/

section Close

/-- What the coordinator makes of a close. -/
def closeOutcome (s : State) (k n : Nat) (o : Op) (set : SetId) (gen : Nat) (id : BitVec 16) : State :=
  match closeRule s (setIdKey set) gen (some o.polder.toNat) id.toNat with
  | some sub => failLater s k n o { cause := causeMerge, sub := sub, lanes := o.lanes }
  | none =>
    match openSet s (setIdKey set) gen with
    | some m => setSet s (setIdKey set) (closeContrib m id.toNat)
    | none => s

variable {set : SetId} {gen : Nat} {id : BitVec 16} (hk : o.kind = .close set gen id)

variable (s k n o) in
/-- A stage of the group that was issued before the close is still in flight. -/
def stageBefore : Prop := ∃ e ∈ (coreOf s k.toNat).ops, e.1 < n ∧ e.2.uid = o.uid ∧ e.2.gid = o.gid ∧ ∃ a b c d x, e.2.kind = .stage a b c d x

include ho hk

theorem exec_closeAccept_waits (h : stageBefore s k n o) : exec (.closeAccept k n) s = .next s := by
  obtain ⟨e, he, hlt, hu, hg, a, b, c, d, x, hs⟩ := h
  simp only [exec_closeAccept, execCloseAccept, performClose, ho, hk]
  rw [if_pos (List.any_eq_true.mpr ⟨e, he, by simp [hlt, hu, hg, hs]⟩)]

theorem exec_closeAccept_goes (h : ¬ stageBefore s k n o) :
    exec (.closeAccept k n) s = .next (finishOp (closeOutcome s k.toNat n o set gen id) k.toNat n) := by
  simp only [exec_closeAccept, execCloseAccept, performClose, ho, hk]
  rw [if_neg]
  · rfl
  · intro hany
    obtain ⟨e, he, hstage⟩ := List.any_eq_true.mp hany
    simp only [Bool.and_eq_true, decide_eq_true_eq, beq_iff_eq] at hstage
    obtain ⟨⟨⟨hlt, hu⟩, hg⟩, hs⟩ := hstage
    split at hs
    · exact h ⟨e, he, hlt, hu, hg, _, _, _, _, _, ‹_›⟩
    · cases hs

theorem exec_closeAccept_refused (h : ¬ stageBefore s k n o) {sub : Nat} (hr : closeRule s (setIdKey set) gen (some o.polder.toNat) id.toNat = some sub) :
    exec (.closeAccept k n) s = .next (finishOp (failLater s k.toNat n o { cause := causeMerge, sub := sub, lanes := o.lanes }) k.toNat n) := by
  rw [exec_closeAccept_goes ho hk h, closeOutcome, hr]

theorem exec_closeAccept_closes (h : ¬ stageBefore s k n o) {m : MergeSet} (hr : closeRule s (setIdKey set) gen (some o.polder.toNat) id.toNat = none)
    (hm : openSet s (setIdKey set) gen = some m) :
    exec (.closeAccept k n) s = .next (finishOp (setSet s (setIdKey set) (closeContrib m id.toNat)) k.toNat n) := by
  rw [exec_closeAccept_goes ho hk h, closeOutcome, hr, hm]

end Close

end Op

/-! ### Slots (R102) -/

section Slot

variable {s : State} {set : SetId} {slice : BitVec 8} {id : BitVec 16}

theorem exec_slotRequest_claims {m : MergeSet} {ctx : Nat} (hm : look s.sets (setIdKey set) = some m)
    (hw : stageWaits s set slice.toNat id.toNat = some ctx) :
    exec (.slotRequest set slice id) s = .next (setSet s (setIdKey set) (claimSlot m id.toNat (some ctx))) := by
  simp only [exec_slotRequest, execSlotRequest, hm, hw]

theorem exec_slotRequest_unasked (hw : stageWaits s set slice.toNat id.toNat = none) : exec (.slotRequest set slice id) s = .next s := by
  cases hl : look s.sets (setIdKey set) <;> simp only [exec_slotRequest, execSlotRequest, hl, hw]

end Slot

section Open

variable {s : State} {set : SetId} {m : MergeSet} (hm : look s.sets (setIdKey set) = some m) (ho : m.st = .opened)

include hm ho

theorem onOpen_opened (f : MergeSet → MergeSet) : onOpen s set f = setSet s (setIdKey set) (f m) := by
  simp only [onOpen, hm, ho, if_true]

/-! ### Measures (R106, R107) -/

theorem exec_measureRequest_answers {slice : BitVec 8} {id : BitVec 16} (hc : (contribOf m id.toNat).st = .closed)
    (ha : slice.toNat ∈ (contribOf m id.toNat).asked) : let x := contribOf m id.toNat
    exec (.measureRequest set slice id) s = .next (setSet s (setIdKey set) (setContrib m id.toNat
      { x with asked := x.asked.filter (· != slice.toNat), partials := put x.partials slice.toNat (BitVec.ofNat 64 (partialSum m id.toNat slice.toNat)) })) := by
  simp [exec_measureRequest, execMeasureRequest, onOpen_opened hm ho, measureSlice, hc, ha]

theorem exec_measureComplete_opened (id : BitVec 16) : exec (.measureComplete set id) s = .next (setSet s (setIdKey set) (measureDone m id.toNat)) := by
  rw [exec_measureComplete, execMeasureComplete, onOpen_opened hm ho]

omit hm ho

section Measured

variable {id : Nat} (hc : (contribOf m id).st = .closed) (ha : (contribOf m id).asked = [])

include hc ha

theorem measureDone_finite (hf : notFinite fmtF64 (sigmaOf m (contribOf m id)) = false) : let x := contribOf m id
    measureDone m id = { setContrib m id { x with st := .measured, scale := scaleOf m.lambda (sigmaOf m x) } with measured := m.measured ++ [id] } := by
  simp [measureDone, hc, ha, hf]

theorem measureDone_rejects (hf : notFinite fmtF64 (sigmaOf m (contribOf m id)) = true) (hr : m.rank = false) :
    measureDone m id = retireId m id .rejected := by
  simp [measureDone, hc, ha, hf, hr]

theorem measureDone_marks (hf : notFinite fmtF64 (sigmaOf m (contribOf m id)) = true) (hr : m.rank = true) :
    measureDone m id = freeSlot (setContrib m id { contribOf m id with st := .measured, scale := 0, marked := true }) id := by
  simp [measureDone, hc, ha, hf, hr]

end Measured

/-! ### Commits (R108, R409) -/

include hm ho

theorem exec_commitIssue_commits {id : Nat} (hn : nextTurn m = some id) (hk : (contribOf m id).marked = false) :
    exec (.commitIssue set) s = .next (setSet s (setIdKey set) (commitId m id)) := by
  simp [exec_commitIssue, execCommitIssue, onOpen_opened hm ho, hn, hk]

theorem exec_commitIssue_rejects {id : Nat} (hn : nextTurn m = some id) (hk : (contribOf m id).marked = true) :
    exec (.commitIssue set) s = .next (setSet s (setIdKey set) (retireId m id .rejected)) := by
  simp [exec_commitIssue, execCommitIssue, onOpen_opened hm ho, hn, hk]

theorem exec_commitApply_applies {slice : BitVec 8} (hs : slice.toNat ∈ slicesOf m) : exec (.commitApply set slice) s = .next (
    noteArgs (commitSlice s (setIdKey set) m slice.toNat) ((nextElems m slice.toNat).map (fun e => (e.1, 4)))) := by
  simp [exec_commitApply, execCommitApply, hm, ho, hs]

omit hm ho

theorem commitSlice_next {key slice id : Nat} {scale : BitVec 32} (hc : m.commits[lookD m.applied slice 0]? = some (id, scale)) :
    let m' : MergeSet := { m with applied := put m.applied slice (lookD m.applied slice 0 + 1) }
    commitSlice s key m slice = setSet (applyCommit s m (key / 1280) scale (bermPoison m id) (nextElems m slice)) key
      (if appliedAll m' (lookD m.applied slice 0) then freeSlot m' id else m') := by
  simp only [commitSlice, hc]

theorem nextElems_next {slice id : Nat} {scale : BitVec 32} (hc : m.commits[lookD m.applied slice 0]? = some (id, scale)) : nextElems m slice =
    if holds m id then (lookD m.berms (slotOf m id) []).filter (fun e => homeSlice e.1 == slice) else [] := by
  simp only [nextElems, hc]

/-! ### Signal updates (R109) -/

include hm

theorem exec_signalUpdate_due (hf : signalFree s (setIdKey set) m = false) : exec (.signalUpdate set) s = .next s := by
  simp only [exec_signalUpdate, execSignalUpdate, hm, hf, Bool.not_false, Bool.or_true, if_true]

include ho

section Free

variable (hf : signalFree s (setIdKey set) m = true) {id : Nat} {rest : List (Nat × Bool)}

include hf

theorem exec_signalUpdate_committed (hs : m.signals = (id, true) :: rest) (ha : appliedAll m ((contribOf m id).seq.getD 0) = true) :
    exec (.signalUpdate set) s = .next (endSet (signalAdd s (setIdKey set) m 1) (setIdKey set) { m with signals := rest }) := by
  simp [exec_signalUpdate, execSignalUpdate, hm, ho, hf, hs, ha]

theorem exec_signalUpdate_unapplied (hs : m.signals = (id, true) :: rest) (ha : appliedAll m ((contribOf m id).seq.getD 0) = false) :
    exec (.signalUpdate set) s = .next s := by
  simp [exec_signalUpdate, execSignalUpdate, hm, ho, hf, hs, ha]

theorem exec_signalUpdate_rejected (hs : m.signals = (id, false) :: rest) :
    exec (.signalUpdate set) s = .next (endSet (signalAdd s (setIdKey set) m (2 ^ 32 + 1)) (setIdKey set) { m with signals := rest }) := by
  simp [exec_signalUpdate, execSignalUpdate, hm, ho, hf, hs]

end Free

end Open

theorem endSet_running {m : MergeSet} (h : m.signals ≠ [] ∨ allRetired m = false) (t : State) (key : Nat) : endSet t key m = setSet t key m :=
  if_neg (by simpa [imp_iff_not_or] using h)

theorem endSet_ends {m : MergeSet} (hs : m.signals = []) (hr : allRetired m = true) (t : State) (key : Nat) :
    endSet t key m = setSet { t with nextEnd := t.nextEnd + 1 } key { m with
      st := if m.aborting then .aborted else .complete, slots := [], berms := [], badSlots := [], measured := [], ended := t.nextEnd } :=
  if_pos (by rw [hs, hr]; rfl)

section Answer

variable {s : State} {k : BitVec 9} {n : Nat} {o : Op} (ho : opOf s k.toNat n = some o)

/-! ### MSTAT (R114) -/

section Stat

variable {set : SetId} {gen id p : Nat} {m : MergeSet}

theorem statAt_unheld (h : heldSet s set gen = none) : statAt s set gen id = .inl 0 := by
  simp only [statAt, h]

variable (h : heldSet s set gen = some m)

include h

theorem statAt_set (hw : id = 0xFFFF) : statAt s set gen id = .inl (setWord m) := by
  simp only [statAt, h, hw, if_true]

theorem statAt_contributor (hw : id ≠ 0xFFFF) (hi : id < m.expect) : statAt s set gen id = .inl (contribWord m id) := by
  simp only [statAt, h, hw, Nat.not_le.mpr hi, if_false]

theorem statAt_out_of_range (hw : id ≠ 0xFFFF) (hi : m.expect ≤ id) : statAt s set gen id = .inr 3 := by
  simp only [statAt, h, hw, hi, if_false, if_true]

/-! ### MABORT (R111, R367) -/

omit h in
theorem abortAt_unheld (h : heldSet s set gen = none) : abortAt s set gen id p = (s, .inr 1) := by
  simp only [abortAt, h]

theorem abortAt_foreign (hp : m.polder.toNat ≠ p) : abortAt s set gen id p = (s, .inr 2) := by
  simp [abortAt, h, hp]

variable (hp : m.polder.toNat = p)

include hp

theorem abortAt_set (hw : id = 0xFFFF) : abortAt s set gen id p =
    if m.st = .opened ∧ allRetired m = false then (setSet s (setIdKey set) (abortSet m), .inl 0) else (s, .inl 1) := by
  simp [abortAt, h, hp, hw]

theorem abortAt_out_of_range (hw : id ≠ 0xFFFF) (hi : m.expect ≤ id) : abortAt s set gen id p = (s, .inr 3) := by
  simp [abortAt, h, hp, hw, hi]

theorem abortAt_contributor (hw : id ≠ 0xFFFF) (hi : id < m.expect) : abortAt s set gen id p =
    if m.st = .opened ∧ abortable m id = true then (setSet s (setIdKey set) (abortId m id), .inl 0) else (s, .inl 1) := by
  simp [abortAt, h, hp, hw, Nat.not_le.mpr hi]

end Stat

include ho

theorem exec_coordinatorAnswer_mstat {set : SetId} {gen : Nat} {id : BitVec 16} (hk : o.kind = .mstat set gen id) :
    exec (.coordinatorAnswer k n) s = .next (answerCore s k.toNat n o (statAt s set gen id.toNat)) := by
  simp only [exec_coordinatorAnswer, execCoordinatorAnswer, ho, hk]

theorem exec_coordinatorAnswer_mabort {set : SetId} {gen : Nat} {id : BitVec 16} (hk : o.kind = .mabort set gen id) {t : State} {r : Word ⊕ Nat}
    (h : abortAt s set gen id.toNat o.polder.toNat = (t, r)) : exec (.coordinatorAnswer k n) s = .next (answerCore t k.toNat n o r) := by
  simp only [exec_coordinatorAnswer, execCoordinatorAnswer, ho, hk, h]

theorem exec_coordinatorAnswer_mabort_ite {set : SetId} {gen : Nat} {id : BitVec 16} (hk : o.kind = .mabort set gen id) {c : Prop} [Decidable c] {t u : State}
    {r w : Word ⊕ Nat} (h : abortAt s set gen id.toNat o.polder.toNat = if c then (t, r) else (u, w)) :
    exec (.coordinatorAnswer k n) s = .next (if c then answerCore t k.toNat n o r else answerCore u k.toNat n o w) := by
  by_cases hc : c
  · rw [if_pos hc] at h ⊢
    exact exec_coordinatorAnswer_mabort ho hk h
  · rw [if_neg hc] at h ⊢
    exact exec_coordinatorAnswer_mabort ho hk h

theorem exec_coordinatorAnswer_mopen {addr : Word} {x : Nat} (hk : o.kind = .mopen addr x) :
    exec (.coordinatorAnswer k n) s = .next (performMopen s k.toNat n o addr) := by
  simp only [exec_coordinatorAnswer, execCoordinatorAnswer, ho, hk]

/-! ### MOPEN (R97, R98, R364) -/

omit ho

section Descriptor

variable {addr : Word} {t : State} {pa ipa : Nat} (ht : translate s k.toNat o.ctx addr accRead = (t, .ok pa ipa))
  (hf : rangeFollows (coreOf t k.toNat) n o false (2, pa, 64) = false) (hw : isHostWindow pa = true ∨ canFill t (dieOfCore k.toNat) pa = true)

include ht hf hw

theorem performMopen_port (hp : portOpen t k.toNat o.ctx (.op n) = false) : performMopen s k.toNat n o addr = portWait t k.toNat o.ctx (.op n) := by
  have hfill : (!isHostWindow pa && !canFill t (dieOfCore k.toNat) pa) = false := by rcases hw with h | h <;> simp [h]
  simp only [performMopen, ht, hf, hfill, hp, Bool.not_false, Bool.false_eq_true, if_false, if_true]

variable (t k o addr pa ipa) in
/-- The state in which the descriptor's sector has reached the die of the core. -/
def descriptorRead : State :=
  let u := takeSector (homeFirst t k.toNat o.ctx (.phys (lineOf pa)) addr) k.toNat o.ctx pa
  fillCopy (if isUpper addr && isHbm pa then countHeat u (homeDie pa) (dieOfCore k.toNat) o.polder.toNat ipa else u) (dieOfCore k.toNat) pa

theorem performMopen_badDesc (hp : portOpen t k.toNat o.ctx (.op n) = true)
    (hb : badDesc (dieRead (descriptorRead k o addr t pa ipa) (dieOfCore k.toNat) pa 64) = true) :
    performMopen s k.toNat n o addr = mopenResult (descriptorRead k o addr t pa ipa) k.toNat n o (mopenFail 3) := by
  have hfill : (!isHostWindow pa && !canFill t (dieOfCore k.toNat) pa) = false := by rcases hw with h | h <;> simp [h]
  simp only [descriptorRead] at hb ⊢
  simp only [performMopen, ht, hf, hfill, hp, hb, Bool.not_true, Bool.false_eq_true, if_false, if_true]

end Descriptor

section Record

variable (o) in
/-- The set that a descriptor opens, its generation still to come. -/
def describedSet (d : Nat) (t : TPages) (sig sigIpa : Nat) : MergeSet :=
  { st := .opened, polder := o.polder, ctx := o.ctx, lines := t.lines, ipas := t.ipas, lambda := BitVec.ofNat 32 (descField d 12 4),
    expect := descField d 16 2, width := descField d 18 1, rank := descField d 19 1 = 1, signal := sig, signalIpa := sigIpa }

/-- The die of T's first line, and the slice, the coordinator's. -/
def firstDie (t : TPages) : Nat := homeDie ((t.lines.headD 0) * 256)
def firstSlice (t : TPages) : Nat := homeSlice ((t.lines.headD 0) * 256)

/-- T lies on one die, with no page read-duplicate (R98 step 4). -/
def placedOnOneDie (t : TPages) : Prop := t.dup = false ∧ ∀ l ∈ t.lines, isHbm (l * 256) = true ∧ homeDie (l * 256) = firstDie t

variable (s o) in
/-- The set is within its polder's quota in slice `j` (R98 step 5). -/
def withinQuota (d : Nat) (t : TPages) (sig sigIpa j : Nat) : Prop :=
  let lines := setLinesIn (setKey (firstDie t) (firstSlice t) 0) (describedSet o d t sig sigIpa) j
  lines = 0 ∨ quotaUsed s o.polder.toNat (firstDie t) j + lines ≤ quotaOf s o.polder.toNat (firstDie t)

variable {d : Nat} {t : TPages} {sig sigIpa : Nat}

theorem misplaced_iff : (t.dup || t.lines.any (fun l => !isHbm (l * 256) || homeDie (l * 256) != firstDie t)) = true ↔ ¬ placedOnOneDie t := by
  simp only [placedOnOneDie, Bool.or_eq_true, List.any_eq_true, Bool.not_eq_true', bne_iff_ne]
  grind

theorem openRecord_misplaced (h : ¬ placedOnOneDie t) : openRecord s o d t sig sigIpa = (s, mopenFail 4) := if_pos (misplaced_iff.mpr h)

variable (h : placedOnOneDie t)

theorem overQuota_iff : ((List.range 160).any (fun i => quotaOf s o.polder.toNat (firstDie t) < quotaUsed s o.polder.toNat (firstDie t) i +
      setLinesIn (setKey (firstDie t) (firstSlice t) 0) (describedSet o d t sig sigIpa) i &&
      0 < setLinesIn (setKey (firstDie t) (firstSlice t) 0) (describedSet o d t sig sigIpa) i)) = true ↔
    ∃ j, j < 160 ∧ ¬ withinQuota s o d t sig sigIpa j := by
  simp only [withinQuota, List.any_eq_true, List.mem_range, Bool.and_eq_true, decide_eq_true_eq]
  exact exists_congr fun j => and_congr_right fun _ => by omega

include h

theorem openRecord_overQuota (hq : ∃ j, j < 160 ∧ ¬ withinQuota s o d t sig sigIpa j) : openRecord s o d t sig sigIpa = (s, mopenFail 1) :=
  (if_neg (mt misplaced_iff.mp (not_not_intro h))).trans (if_pos (overQuota_iff.mpr hq))

variable (hq : ∀ j, j < 160 → withinQuota s o d t sig sigIpa j)

include hq

theorem openRecord_recordless (hr : freeRecord s (firstDie t) (firstSlice t) = none) : openRecord s o d t sig sigIpa = (s, mopenFail 2) := by
  have hfits := mt overQuota_iff.mp fun ⟨j, hj, hover⟩ => hover (hq j hj)
  refine (if_neg (mt misplaced_iff.mp (not_not_intro h))).trans ((if_neg hfits).trans ?_)
  rw [firstDie, firstSlice] at hr
  simp only [hr]

theorem openRecord_opens {key : Nat} (hr : freeRecord s (firstDie t) (firstSlice t) = some key) : let gen := (lookD s.sets key {}).gen + 1
    openRecord s o d t sig sigIpa = (setSet s key { describedSet o d t sig sigIpa with gen := gen },
      BitVec.ofNat 64 (gen.toNat * 2 ^ 32 + firstDie t * 2 ^ 16 + firstSlice t * 2 ^ 8 + key % 8)) := by
  have hfits := mt overQuota_iff.mp fun ⟨j, hj, hover⟩ => hover (hq j hj)
  refine (if_neg (mt misplaced_iff.mp (not_not_intro h))).trans ((if_neg hfits).trans ?_)
  rw [firstDie, firstSlice] at hr
  simp only [hr]
  rfl

end Record

end Answer

end Sys2Proof.Machine

namespace Sys2Proof.Proofs

open Sys2Proof Sys2Proof.Machine

/-- Settles O50: each event of a set by its own equation; an answer of the coordinator by what the record gives. -/
theorem mergeSets : Obligations.MergeSets := by
  refine ⟨fun s k n o ho => ⟨fun set gen id es r hk hn => ⟨exec_stageAccept_follows ho hk hn, exec_stageAccept_port ho hk hn,
        fun hg ht => exec_stageAccept_tagged ho hk hn hg ht.1 ht.2, fun sub hg ht => exec_stageAccept_refused ho hk hn hg ht,
        fun m hg ht hr hm => ⟨exec_stageAccept_accepted ho hk hn hg ht hr hm, exec_stageAccept_waits ho hk hn hg ht hr hm⟩⟩,
      fun set gen id hk => ⟨exec_closeAccept_waits ho hk, fun h sub => exec_closeAccept_refused ho hk h, fun h m => exec_closeAccept_closes ho hk h⟩,
      fun set slice id => ⟨fun m ctx => exec_slotRequest_claims, exec_slotRequest_unasked⟩, fun m id ctx => rfl⟩,
    fun s set m hm ho => ⟨fun slice id => exec_measureRequest_answers hm ho,
      fun id hc ha => ?measured,
      fun id hn => ⟨exec_commitIssue_commits hm ho hn, exec_commitIssue_rejects hm ho hn⟩, fun slice id scale hs hc => ?applied,
      exec_signalUpdate_due hm, fun id rest hf hs => ⟨exec_signalUpdate_committed hm ho hf hs, exec_signalUpdate_unapplied hm ho hf hs⟩,
      fun id rest hf hs => exec_signalUpdate_rejected hm ho hf hs, fun h t => endSet_running h t _, fun hs hr t => endSet_ends hs hr t _⟩,
    fun s k n o ho => ⟨fun set gen id hk => ?stat, fun set gen id hk => ?abort, fun addr x => exec_coordinatorAnswer_mopen ho,
      fun addr x t pa ipa hk ht hf hw => ?descriptor, fun d t sig sigIpa => ?record⟩⟩
  case measured =>
    rw [exec_measureComplete_opened hm ho]
    refine ⟨fun hf => ?_, fun hf hr => ?_, fun hf hr => ?_⟩
    · rw [measureDone_finite hc ha hf]
    · rw [measureDone_rejects hc ha hf hr]
    · rw [measureDone_marks hc ha hf hr]
  case applied =>
    rw [exec_commitApply_applies hm ho hs, commitSlice_next hc, nextElems_next hc]
  case stat =>
    rw [exec_coordinatorAnswer_mstat ho hk]
    refine ⟨fun h => ?_, fun m h => ⟨fun hw => ?_, fun hi hw => ?_, fun hi hw => ?_⟩⟩
    · rw [statAt_unheld h]
      exact rfl
    · rw [statAt_set h (congrArg BitVec.toNat hw)]
      exact rfl
    · rw [statAt_contributor h (by bv_omega) hi]
      exact rfl
    · rw [statAt_out_of_range h (by bv_omega) hi]
      exact rfl
  case abort =>
    refine ⟨fun h => exec_coordinatorAnswer_mabort ho hk (abortAt_unheld h), fun m h =>
      ⟨fun hp => ?_, fun hp hw => ?_, fun hp hw hi => ?_, fun hp hw hi => ?_⟩⟩
    · exact exec_coordinatorAnswer_mabort ho hk (abortAt_foreign h (mt BitVec.eq_of_toNat_eq hp))
    · exact exec_coordinatorAnswer_mabort_ite ho hk (abortAt_set h (congrArg BitVec.toNat hp) (congrArg BitVec.toNat hw))
    · exact exec_coordinatorAnswer_mabort ho hk (abortAt_out_of_range h (congrArg BitVec.toNat hp) (by bv_omega) hi)
    · exact exec_coordinatorAnswer_mabort_ite ho hk (abortAt_contributor h (congrArg BitVec.toNat hp) (by bv_omega) hi)
  case descriptor =>
    rw [exec_coordinatorAnswer_mopen ho hk]
    exact ⟨fun hp => congrArg _ (performMopen_port ht hf hw hp), fun hp hb => congrArg _ (performMopen_badDesc ht hf hw hp hb)⟩
  case record =>
    refine ⟨fun h => openRecord_misplaced ?_, fun hd hl => ⟨openRecord_overQuota ⟨hd, hl⟩, openRecord_recordless ⟨hd, hl⟩,
      fun key hq hr => openRecord_opens ⟨hd, hl⟩ hq hr⟩⟩
    rintro ⟨hd, hl⟩
    rcases h with h | ⟨l, hmem, h | h⟩
    · simp [hd] at h
    · simp [(hl l hmem).1] at h
    · exact h (hl l hmem).2

end Sys2Proof.Proofs
end

section
/-! PROOF. What an arrival meets first, what a target makes of a packet, and its gaps and refills (R102, R105, R110, R136, R137, R141, R143,
R145 to R151, R153, R156, R184). -/

namespace Sys2Proof.Machine

section Arrival

variable {s : State} {p q : Packet} {kind : BitVec 8}

/-! ### Malformed packets (R136, R137) -/

theorem exec_malformedPacket_bad (h : badFrame s p = true) : exec (.malformedPacket p) s = .next (bumpCounter s 6 1) := by
  rw [exec_malformedPacket, execMalformedPacket, if_pos h, discard]

theorem exec_malformedPacket_good (h : badFrame s p = false) : exec (.malformedPacket p) s = .next s := by
  rw [exec_malformedPacket, execMalformedPacket, h, if_neg Bool.false_ne_true]

theorem badFrame_of_breach (h : p.reservedSet = true ∨ maskReserved p = true ∨ p.dst ≠ s.fabric.node ∨ kindRule p.kind = none) : badFrame s p = true := by
  rcases h with h | h | h | h <;> simp [badFrame, h]

/-- A well-formed packet has the class of its kind, and a trimmed one class 0. -/
theorem cls_of_goodFrame (h : badFrame s p = false) {c lo hi : Nat} (hr : kindRule p.kind = some (c, lo, hi)) :
    p.cls.toNat = if p.trim then 0 else c := by
  simp only [badFrame, hr, Bool.or_eq_false_iff] at h
  obtain ⟨⟨-, hc⟩, -⟩ := h
  cases ht : p.trim
  · simp only [ht, Bool.false_eq_true, if_false, Bool.or_eq_false_iff] at hc
    simpa using hc.1.1.1
  · simp only [ht, if_true, Bool.or_eq_false_iff] at hc
    simp [show p.cls = 0 by simpa using hc.2]

/-! ### Tombstones, replays, seals (R153, R156) -/

theorem absorbPacket_asks (h : asks p = true) : absorbPacket s p = sendAnswer (bumpCounter s 9 1) p (answerOf p kNack stTomb) := if_pos h

theorem absorbPacket_silent (h : asks p = false) : absorbPacket s p = bumpCounter s 9 1 := if_neg (by simp [h])

theorem arrivePacket_bad (f : State → Packet → State) (h : badFrame s p = true) : arrivePacket s p kind f = bumpCounter s 6 1 := if_pos (by simp [h])

section Good

variable (hk : p.kind = kind) (hb : badFrame s p = false) (f : State → Packet → State)

include hk hb

theorem arrivePacket_entombed (h : (polderOf s p.polder.toNat).tomb.isSome = true) : arrivePacket s p kind f = absorbPacket s p := by
  simp [arrivePacket, hk, hb, h]

variable (ht : (polderOf s p.polder.toNat).tomb = none)

include ht

theorem arrivePacket_replay (h : isReplay s p = true) : arrivePacket s p kind f = s := by
  simp [arrivePacket, hk, hb, ht, h]

variable (hr : isReplay s p = false)

include hr

theorem arrivePacket_unsealed (h : openSeal s p = none) : arrivePacket s p kind f = sendAnswer s p (answerOf p kNack stSeal) := by
  simp [arrivePacket, hk, hb, ht, hr, h]

theorem arrivePacket_opened (h : openSeal s p = some q) : arrivePacket s p kind f = if maskBits q then discard s else
    f (if q.cls == 3 || ((kindRule q.kind).map (·.1)) == some 3 then receive s q else s) q := by
  simp [arrivePacket, hk, hb, ht, hr, h]

end Good

/-- Opening a seal changes the payload alone. -/
theorem openSeal_frame (h : openSeal s p = some q) : q = { p with payload := q.payload } := by
  unfold openSeal at h
  split at h
  · rw [Option.some.inj h]
  · split at h
    · cases h
    · obtain ⟨fl, -, rfl⟩ := Option.map_eq_some_iff.mp h
      rfl

theorem Arrives.kind_eq (h : Arrives s p kind q) : q.kind = kind := by
  obtain ⟨hk, -, -, -, ho, -⟩ := h
  rw [openSeal_frame ho, ← hk]

theorem Arrives.cls_toNat (h : Arrives s p kind q) {c lo hi : Nat} (hr : kindRule kind = some (c, lo, hi)) : q.cls.toNat = if p.trim then 0 else c := by
  obtain ⟨rfl, hb, -, -, ho, -⟩ := h
  rw [openSeal_frame ho]
  exact cls_of_goodFrame hb hr

/-- What arrives goes on to its kind's operation; one of class 3 is received before (R141). -/
theorem Arrives.arrivePacket_eq (h : Arrives s p kind q) {c lo hi : Nat} (hr : kindRule kind = some (c, lo, hi)) (f : State → Packet → State) :
    arrivePacket s p kind f = f (if c = 3 then receive s q else s) q := by
  have hkind := h.kind_eq
  have hcls := h.cls_toNat hr
  obtain ⟨hk, hb, ht, hrep, ho, hm⟩ := h
  rw [arrivePacket_opened hk hb f ht hrep ho, hm, if_neg Bool.false_ne_true, hkind, hr]
  by_cases hc : c = 3
  · simp [hc]
  · have h3 : q.cls ≠ 3 := fun h3 => by
      rw [h3] at hcls
      split at hcls
      · cases hcls
      · exact hc hcls.symm
    rw [beq_eq_false_iff_ne.mpr h3]
    simp [hc]

end Arrival

/-! ### A packet that nothing holds back (R147, R148) -/

theorem releaseOne_single (s : State) (data : Bool) (h : Held) (hd : (h.pkt.cls == 2) = data) (hm : mustHold s [] h = false) :
    releaseOne s data [] [h] = servePacket (unhold s h) h.pkt h.entry := by
  simp only [releaseOne, hd, hm, bne_self_eq_false, Bool.or_self, Bool.false_eq_true, if_false]
  cases servePacket (unhold s h) h.pkt h.entry <;> rfl

theorem releaseOne_other (s : State) (data : Bool) (h : Held) (hd : ((h.pkt.cls == 2) != data) = true) : releaseOne s data [] [h] = none := by
  simp only [releaseOne, hd, Bool.true_or, if_true]

section Alone

variable {s t : State} {h : Held}

/-- A packet held alone, which need not be, performs when what is held is looked through. -/
theorem pumpFabric_single (hs : s.fabric.held = [h]) (hm : mustHold s [] h = false) (hv : servePacket (unhold s h) h.pkt h.entry = some t)
    (hw : t.fabric.waiting = []) : pumpFabric s = t := by
  have hrelease : (releaseOne s true [] [h]).or (releaseOne s false [] [h]) = some t := by
    cases hd : h.pkt.cls == 2
    · rw [releaseOne_other s true h (by rw [hd]; rfl), releaseOne_single s false h hd hm, hv]
      rfl
    · rw [releaseOne_single s true h hd hm, hv]
      rfl
  simp [pumpFabric, pumpHeld, hs, hrelease, hw]

theorem unhold_alone (hs : s.fabric.held = []) (hg : h.gap = none) : unhold (onFabric s (fun f => { f with held := f.held ++ [h] })) h = s := by
  have herase : (s.fabric.held ++ [h]).erase h = s.fabric.held := by simp [hs]
  simp only [unhold, onFabric, hg, herase, Option.elim_none]

end Alone

section Target

variable {s t : State} {p q : Packet} {kind : BitVec 8}

variable (s q) in
/-- How a packet that arrives is held. -/
def heldOnArrival : Held := { pkt := q, seq := s.fabric.gapSeq, behind := behindGap s q, entry := exportMatch s q.src q.off.toNat }

theorem holdPacket_serves (h : Serves s q t) : holdPacket s q = t := by
  obtain ⟨hheld, hmust, hserve, hnone, hwait⟩ := h
  have hpump : pumpFabric (onFabric s (fun f => { f with held := f.held ++ [heldOnArrival s q] })) = t :=
    pumpFabric_single (h := heldOnArrival s q) (by simp [onFabric, hheld]) hmust (by rw [unhold_alone hheld rfl]; exact hserve) hwait
  unfold heldOnArrival at hpump
  simp only [holdPacket, hpump, hnone, List.contains_nil, Bool.and_false, Bool.false_eq_true, if_false]

theorem pumpRefills_gapless (h : s.fabric.gaps = []) : pumpRefills s = s := by rw [pumpRefills, h, List.foldl_nil]

theorem arriveData_serves (h : Serves (receive (unblock s q) q) q t) (hg : t.fabric.gaps = []) (hb : blocked (rxOf s q) q = false)
    (hr : wasReceived (rxOf s q) q.stag = false) : arriveData s q = t := by
  simp only [arriveData, hb, hr, holdPacket_serves h, pumpRefills_gapless hg, Bool.false_eq_true, if_false]

theorem dataEvent_serves {lo hi : Nat} (hk : kindRule kind = some (2, lo, hi)) (ht : p.trim = false) (hf : p.refill = false)
    (h : Serves (receive (unblock s q) q) q t) (hg : t.fabric.gaps = []) (hb : blocked (rxOf s q) q = false)
    (hr : wasReceived (rxOf s q) q.stag = false) (ha : Arrives s p kind q) : dataEvent p kind s = .next t := by
  have harrive : arrivePacket s p kind arriveData = t := (ha.arrivePacket_eq hk arriveData).trans (arriveData_serves h hg hb hr)
  simp only [dataEvent, ht, hf, harrive, Bool.or_self, Bool.false_eq_true, if_false]

/-- A request of class 1: its event is its arrival. -/
theorem requestEvent_serves {i : Instr} (he : exec i s = .next (arrivePacket s p kind holdPacket)) {lo hi : Nat} (hk : kindRule kind = some (1, lo, hi))
    (h : Serves s q t) (ha : Arrives s p kind q) : exec i s = .next t := by
  have harrive : arrivePacket s p kind holdPacket = t := (ha.arrivePacket_eq hk holdPacket).trans (holdPacket_serves h)
  rw [he, harrive]

/-! ### The entry of the offset (R153, R183, R184) -/

section Export

variable {n : Nat} {e : ExportEntry} (hk : q.kind ≠ kMclose)

include hk

theorem servePacket_unexported : servePacket s q none = some (nackWith s q stNoexport) := by
  simp [servePacket, hk]

theorem servePacket_denied (hr : e.right (rightOf q.kind) = false) : servePacket s q (some (n, e)) = some (nackWith s q stDenied) := by
  simp [servePacket, hk, hr]

variable (hr : e.right (rightOf q.kind) = true)

include hr

theorem servePacket_inactive (h0 : e.kind = 0) (hs : (polderOf s e.polder).state ≠ 1) :
    servePacket s q (some (n, e)) = some (nackWith s q stNoexport) := by
  simp [servePacket, hk, hr, h0, exportServe, hs]

theorem servePacket_launch (h1 : e.kind = 1) : servePacket s q (some (n, e)) = some (launchServe s q e) := by
  simp [servePacket, hk, hr, h1]

theorem servePacket_control (h2 : e.kind = 2) : servePacket s q (some (n, e)) = some (controlServe s q n e) := by
  simp [servePacket, hk, hr, h2]

end Export

/-! ### Memory (R91, R102, R110, R143) -/

section Memory

variable {polder pa : Nat}

theorem memoryServe_tagRefused (hm : tagMiss s q (pa / 256 * 256) = true) (hr : q.tref = true) :
    memoryServe s q polder pa = some (nackWith s q stTag) := by
  simp [memoryServe, hm, hr]

variable (hm : tagMiss s q (pa / 256 * 256) = false)

include hm

theorem memoryServe_rdreq (hk : q.kind = kRdreq) : memoryServe s q polder pa = some (respondWith (serveLine s polder (pa / 256 * 256) 4) q kRdrsp 0
    ((List.range 4).map (fun i => BitVec.ofNat 512 (homeRead s (pa / 256 * 256 + 64 * i) 64)))) := by
  simp [memoryServe, hm, hk]

theorem memoryServe_wr (hk : q.kind = kWr) : let w := payloadWrite q.masked q.payload
    memoryServe s q polder pa = some (ackWith ((maskSectors w.1).foldl (fun s i => dieWrite (serveLine s polder (pa / 256 * 256) 1) (homeDie pa)
      (pa / 256 * 256 + 64 * i) 64 (bitsAt w.1 (64 * i) 64) (bitsAt w.2 (512 * i) 512) none) s) q stApplied) := by
  simp [memoryServe, hm, hk, kWr, kRdreq, kGetreq, kAtomreq, kMstage]

section Stage

variable (hk : q.kind = kMstage)

variable (q pa) in
/-- The elements that a stage packet carries: those that its mask names, at their addresses in the line. -/
def packetElems : List (Nat × BitVec 32) :=
  let w := payloadWrite q.masked q.payload
  ((List.range 64).filter (fun i => bitsAt w.1 (4 * i) 4 != 0)).map (fun i => (pa / 256 * 256 + 4 * i, BitVec.ofNat 32 (bitsAt w.2 (32 * i) 32)))

variable (s q polder pa) in
/-- The rule of R104 that it breaks. -/
def packetBreach : Option Nat :=
  stageRule s (setIdKey (handleSet q.handle)) (handleGen q.handle) (some polder) q.cid.toNat ((packetElems q pa).map (·.1))

include hk

theorem memoryServe_stage_refused {sub : Nat} (hr : packetBreach s q polder pa = some sub) :
    memoryServe s q polder pa = some (nackWith s q (BitVec.ofNat 8 (0x10 + sub))) := by
  simp only [packetBreach, packetElems] at hr
  simp [-List.map_map, memoryServe, hm, hk, hr, kRdreq, kGetreq, kAtomreq, kMstage]

variable (hr : packetBreach s q polder pa = none) {m : MergeSet} (ho : openSet s (setIdKey (handleSet q.handle)) (handleGen q.handle) = some m)

include hr ho

theorem memoryServe_stage_joins (hh : holds (claimSlot m q.cid.toNat none) q.cid.toNat = true) : memoryServe s q polder pa = some (ackWith
    (setSet s (setIdKey (handleSet q.handle)) (acceptStage (claimSlot m q.cid.toNat none) q.cid.toNat (packetElems q pa))) q stApplied) := by
  simp only [packetBreach, packetElems] at hr ⊢
  simp [-List.map_map, memoryServe, hm, hk, hr, ho, hh, kRdreq, kGetreq, kAtomreq, kMstage]

theorem memoryServe_stage_waits (hh : holds (claimSlot m q.cid.toNat none) q.cid.toNat = false) : memoryServe s q polder pa = none := by
  simp only [packetBreach, packetElems] at hr
  simp [-List.map_map, memoryServe, hm, hk, hr, ho, hh, kRdreq, kGetreq, kAtomreq, kMstage]

end Stage

end Memory

theorem berm_stageElem_self (m : MergeSet) (id a : Nat) (v : BitVec 32) :
    lookD (lookD (stageElem m id a v).berms (slotOf m id) []) a 0 =
      BitVec.ofNat 32 (addF fmtF32 .rne (lookD (lookD m.berms (slotOf m id) []) a 0).toNat v.toNat) := by
  simp only [stageElem, lookD_put_self]

theorem berm_stageElem_ne (m : MergeSet) (id : Nat) {a b : Nat} (v : BitVec 32) (h : b ≠ a) :
    look (lookD (stageElem m id a v).berms (slotOf m id) []) b = look (lookD m.berms (slotOf m id) []) b := by
  simp only [stageElem, lookD_put_self, look_put_ne _ _ h]

/-! ### Integer atomics (R339) -/

theorem readN_lt (m : List Host.Cell) (n a : Nat) : Memory.readN m a n < 2 ^ (8 * n) := by
  induction n generalizing a with
  | zero => simp [Memory.readN]
  | succ n ih =>
    have hrest := ih (a + 1)
    have hbyte := (Memory.read m a).isLt
    rw [Memory.readN, Nat.mul_succ, Nat.pow_add]
    omega

theorem homeRead_serveLine (s : State) (p line n pa w : Nat) : homeRead (serveLine s p line n) pa w = homeRead s pa w := by
  unfold serveLine
  split <;> rfl

section Atomic

variable {t : Nat} (hlo : 4 ≤ t) (hhi : t < 8)

include hlo hhi

theorem atomicBytes_integer : atomicBytes (Ty.ofCode t) = if t < 6 then 4 else 8 := by
  interval_cases t <;> rfl

/-- The addition of an integer type wraps at its width. -/
theorem atomicNew_add_integer (old x new : Nat) : atomicNew 0 (Ty.ofCode t) old x new = (old + x) % 2 ^ (8 * atomicBytes (Ty.ofCode t)) := by
  rw [← Nat.add_mod_mod]
  interval_cases t <;> rfl

theorem atomicAt_add_integer (s : State) (d : Nat) (a : LaneAcc) (hn : a.n = atomicBytes (Ty.ofCode t)) : atomicAt s d 0 (Ty.ofCode t) [a] =
    (dieWrite s d a.pa a.n (2 ^ a.n - 1) ((homeRead s a.pa a.n + a.data.toNat) % 2 ^ (8 * a.n)) none,
      [(a.lane, BitVec.ofNat 64 (homeRead s a.pa a.n))]) := by
  simp only [atomicAt, atomicLanes, List.foldl_cons, List.foldl_nil, List.nil_append, atomicNew_add_integer hlo hhi, hn]

end Atomic

theorem memoryServe_atomicAdd {polder pa : Nat} (hm : tagMiss s q (pa / 256 * 256) = false) (hk : q.kind = kAtomreq) (hlo : 4 ≤ q.tyField.toNat)
    (hhi : q.tyField.toNat < 8) (hop : q.op = 0) : let n := if q.tyField.toNat < 6 then 4 else 8
    memoryServe s q polder pa = some (respondWith (ackWith (dieWrite (serveLine s polder (pa / 256 * 256) 1) (homeDie pa) pa n (2 ^ n - 1)
      ((homeRead s pa n + bitsAt (q.payload.headD 0).toNat 0 64) % 2 ^ (8 * n)) none) q stApplied) q kAtomrsp 0 [BitVec.ofNat 512 (homeRead s pa n)]) := by
  intro n
  have hn : atomicBytes (Ty.ofCode q.tyField.toNat) = n := atomicBytes_integer hlo hhi
  have hlt : homeRead s pa n < 2 ^ 64 := lt_of_lt_of_le (readN_lt _ _ _) (Nat.pow_le_pow_right (by decide) (by grind))
  have hold : (BitVec.ofNat 64 (homeRead s pa n)).toNat = homeRead s pa n := (BitVec.toNat_ofNat ..).trans (Nat.mod_eq_of_lt hlt)
  have hdata : (BitVec.ofNat 64 (bitsAt (q.payload.headD 0).toNat 0 64)).toNat = bitsAt (q.payload.headD 0).toNat 0 64 :=
    (BitVec.toNat_ofNat ..).trans (Nat.mod_mod ..)
  have hadd := atomicAt_add_integer hlo hhi (serveLine s polder (pa / 256 * 256) 1) (homeDie pa)
  have hread : (kAtomreq == kRdreq || kAtomreq == kGetreq) = false := rfl
  have hcode : q.op.toNat = 0 := congrArg BitVec.toNat hop
  simp only [memoryServe, hm, hk, hread, hcode, hadd, hn, homeRead_serveLine, hold, hdata, beq_self_eq_true, Bool.false_and, Bool.false_eq_true, if_false,
    if_true, List.head?_cons, Option.map_some, Option.getD_some]

/-! ### Closes (R105, R110) -/

variable (q) in
/-- The handle and the id that a close carries (log 12). -/
def closeHandle : Word := BitVec.ofNat 64 (bitsAt (q.payload.headD 0).toNat 0 64)
variable (q) in
def closeId : Nat := bitsAt (q.payload.headD 0).toNat 64 16

theorem servePacket_close {m : MergeSet} (hk : q.kind = kMclose) (hm : openSet s (setIdKey (handleSet (closeHandle q))) (handleGen (closeHandle q)) = some m)
    (ha : mergeAdmits s m.polder.toNat q.src = true) (hi : closeId q < m.expect)
    (hc : (contribOf m (closeId q)).st = .idle ∨ (contribOf m (closeId q)).st = .staging) (entry : Option (Nat × ExportEntry)) :
    servePacket s q entry = some (ackWith (setSet s (setIdKey (handleSet (closeHandle q))) (closeContrib m (closeId q))) q stApplied) := by
  have hrule : closeRule s (setIdKey (handleSet (closeHandle q))) (handleGen (closeHandle q)) (some m.polder.toNat) (closeId q) = none := by
    rcases hc with hc | hc <;> simp [closeRule, hm, Nat.not_le.mpr hi, hc]
  simp only [closeHandle, closeId] at hm hrule ⊢
  simp only [servePacket, hk, closeServe, hm, ha, hrule, Option.map_some, Option.getD_some, beq_self_eq_true, if_true]

/-! ### Skims (R145, R150, R151) -/

section Skim

theorem exec_skim_data (ht : p.trim = true) (hk : p.kind = kWr ∨ p.kind = kAtomreq ∨ p.kind = kPuts ∨ p.kind = kMstage) (h : Arrives s p p.kind q) :
    exec (.skim p) s = .next (recordSkim s q) := by
  obtain ⟨lo, hi, hrule⟩ : ∃ lo hi, kindRule p.kind = some (2, lo, hi) := by rcases hk with hk | hk | hk | hk <;> rw [hk] <;> exact ⟨_, _, rfl⟩
  have harrive : arrivePacket s p p.kind recordSkim = recordSkim s q := h.arrivePacket_eq hrule recordSkim
  have hdata : (p.kind == kWr || p.kind == kAtomreq || p.kind == kPuts || p.kind == kMstage) = true := by simpa [or_assoc] using hk
  have hnot : (p.kind == kRdrsp || p.kind == kGetrsp) = false := by rcases hk with hk | hk | hk | hk <;> rw [hk] <;> rfl
  simp only [exec_skim, execSkim, ht, hdata, hnot, harrive, Bool.not_true, Bool.false_eq_true, if_false, if_true]

theorem exec_skim_response (ht : p.trim = true) (hk : p.kind = kRdrsp ∨ p.kind = kGetrsp) (h : Arrives s p p.kind q) :
    exec (.skim p) s = .next (respondTo (noteMark (receive s q) q) q) := by
  obtain ⟨lo, hi, hrule⟩ : ∃ lo hi, kindRule p.kind = some (3, lo, hi) := by rcases hk with hk | hk <;> rw [hk] <;> exact ⟨_, _, rfl⟩
  have harrive : arrivePacket s p p.kind takeResponse = takeResponse (receive s q) q := h.arrivePacket_eq hrule takeResponse
  have hresponse : (p.kind == kRdrsp || p.kind == kGetrsp) = true := by simpa using hk
  simp only [exec_skim, execSkim, ht, hresponse, harrive, takeResponse, Bool.not_true, Bool.false_eq_true, if_false, if_true]

variable (hb : blocked (rxOf s q) q = false) (hr : wasReceived (rxOf s q) q.stag = false)

include hb hr

variable (s q) in
/-- The gap that a skim is recorded as. -/
def skimGap : Gap :=
  { src := q.src, plane := q.plane, stag := q.stag, polder := q.polder, kind := q.kind, len := q.len, limit := s.fabric.ftimeout.toNat,
    line := BitVec.ofNat 34 (q.off.toNat / 256), seq := s.fabric.gapSeq, die := q.inDie }

theorem recordSkim_recorded {i : Nat} (hf : freeKey s.fabric.gaps 512 = some i) : recordSkim s q = pumpRefills (bumpCounter (ackWith
    (onFabric (receive (unblock s q) q) (fun f => { f with gaps := put f.gaps i (skimGap s q), gapSeq := f.gapSeq + 1 })) { q with cls := 2 } stGap) 1 1) := by
  simp only [recordSkim, hb, hr, hf, skimGap, Bool.false_eq_true, if_false]

theorem recordSkim_full (hf : freeKey s.fabric.gaps 512 = none) : recordSkim s q = rejectPacket (setRx s q { rxOf s q with block := true, btag := q.stag }) q := by
  simp only [recordSkim, hb, hr, hf, Bool.false_eq_true, if_false]

end Skim

/-! ### Refills (R147, R186) -/

section Refill

variable (s q) in
/-- The gap that a refill fills. -/
def gapOf : Option (Nat × Gap) :=
  s.fabric.gaps.find? (fun e => e.2.src == q.src && e.2.plane == q.plane && e.2.stag == q.stag && e.2.kind == q.kind && !e.2.filled)

theorem exec_refill_meets (hf : p.refill = true) (ht : p.trim = false) (h : Arrives s p p.kind q) (hk : ∃ a b, kindRule q.kind = some (2, a, b)) :
    exec (.refill p) s = .next (meetRefill s q) := by
  obtain ⟨a, b, hk⟩ := hk
  rw [h.kind_eq] at hk
  rw [exec_refill, execRefill, hf, ht, h.arrivePacket_eq hk meetRefill]
  rfl

theorem meetRefill_unmatched (hg : gapOf s q = none) : meetRefill s q = s := by
  rw [gapOf] at hg
  simp only [meetRefill, hg]

variable {i : Nat} {g : Gap} (hg : gapOf s q = some (i, g)) (ha : g.age < g.limit)

include hg ha

theorem meetRefill_unexported (hx : exportMatch s q.src q.off.toNat = none) : meetRefill s q = nackWith s q stNoexport := by
  rw [gapOf] at hg
  simp [meetRefill, hg, Nat.not_le.mpr ha, hx]

variable {x : Nat × ExportEntry} (hx : exportMatch s q.src q.off.toNat = some x)

include hx

theorem meetRefill_fills (hb : tagBefore q.stag (rxOf s q).next = true) : meetRefill s q = applyRefill s i g q (some x) := by
  rw [gapOf] at hg
  simp [meetRefill, hg, Nat.not_le.mpr ha, hx, hb]

theorem meetRefill_waits (hb : tagBefore q.stag (rxOf s q).next = false) :
    meetRefill s q = { s with fabric := { s.fabric with gaps := put s.fabric.gaps i { g with refill := some (q, some x) } } } := by
  rw [gapOf] at hg
  simp [meetRefill, hg, Nat.not_le.mpr ha, hx, hb, onFabric]

end Refill

end Target

/-! ### Gaps by age (R149), and what is asked for again (R146, R151) -/

section Ask

variable {s : State}

theorem exec_gapExpire_over {i : BitVec 9} {g : Gap} (hg : look s.fabric.gaps i.toNat = some g) (ha : g.limit ≤ g.age) (hf : g.filled = false) :
    exec (.gapExpire i) s = .next (pumpFabric (bumpCounter (nackGap s i.toNat g stGapto) 4 1)) := by
  simp [exec_gapExpire, execGapExpire, hg, ha, hf]

theorem exec_gapExpire_stays {i : BitVec 9} {g : Gap} (hg : look s.fabric.gaps i.toNat = some g) (h : g.age < g.limit ∨ g.filled = true) :
    exec (.gapExpire i) s = .next s := by
  have hstay : (decide (g.limit ≤ g.age) && !g.filled) = false := by rcases h with h | h <;> simp [h]
  simp only [exec_gapExpire, execGapExpire, hg, hstay, Bool.false_eq_true, if_false]

variable {src : BitVec 14}

theorem exec_refillRequestSend_barred (h : (∃ n m, look s.fabric.paced src.toNat = some (n, m) ∧ n < m) ∨ fieldOf s.fabric.ftrim 24 6 ≤ refillsOut s) :
    exec (.refillRequestSend src) s = .next s := by
  have hbar : (!paceFree s src || fieldOf s.fabric.ftrim 24 6 ≤ refillsOut s) = true := by
    rcases h with ⟨n, m, hl, hlt⟩ | h
    · simp [paceFree, hl, hlt]
    · simp [h]
  simp only [exec_refillRequestSend, execRefillRequestSend, hbar, if_true]

section Due

variable (hp : ∀ n m, look s.fabric.paced src.toNat = some (n, m) → m ≤ n) (ho : refillsOut s < fieldOf s.fabric.ftrim 24 6)

include hp

theorem paceFree_of_due : paceFree s src = true := by
  unfold paceFree
  cases hl : look s.fabric.paced src.toNat with
  | none => rfl
  | some e => exact decide_eq_true (hp e.1 e.2 hl)

include ho

theorem exec_refillRequestSend_gap {i : Nat} {g : Gap} (hg : nextGap s src = some (i, g)) : exec (.refillRequestSend src) s = .next (submitAt
    { s with fabric := { s.fabric with paced := put s.fabric.paced src.toNat (0, ftrimField s 16), gaps := put s.fabric.gaps i { g with requested := true } } }
    g.die.toNat g.plane.toNat (refillRequest g) 0 0) := by
  simp [exec_refillRequestSend, execRefillRequestSend, paceFree_of_due hp, Nat.not_le.mpr ho, hg, onFabric]

variable (hg : nextGap s src = none)

include hg

theorem exec_refillRequestSend_response {k e : Nat} {x : Continuation} (hx : skimmedCont s src = some (k, e, x)) : exec (.refillRequestSend src) s = .next (
    reissue { s with fabric := { s.fabric with paced := put s.fabric.paced src.toNat (0, ftrimField s 16) } } k e x) := by
  simp [exec_refillRequestSend, execRefillRequestSend, paceFree_of_due hp, Nat.not_le.mpr ho, hg, hx, onFabric]

theorem exec_refillRequestSend_nothing (hx : skimmedCont s src = none) : exec (.refillRequestSend src) s = .next s := by
  simp [exec_refillRequestSend, execRefillRequestSend, paceFree_of_due hp, Nat.not_le.mpr ho, hg, hx]

end Due

end Ask

end Sys2Proof.Machine

namespace Sys2Proof.Proofs

open Sys2Proof Sys2Proof.Machine

/-- Settles O54: an arrival by what it meets first, a packet by the entry of its offset and its kind, a gap and a refill by their own equations. -/
theorem fabricTarget : Obligations.FabricTarget := by
  refine ⟨fun s p => ⟨exec_malformedPacket_bad, exec_malformedPacket_good, fun kind f hk => ⟨arrivePacket_bad f,
        fun hb ht => ⟨arrivePacket_entombed hk hb f ht, absorbPacket_asks, absorbPacket_silent⟩,
        fun hb ht => ⟨arrivePacket_replay hk hb f ht, arrivePacket_unsealed hk hb f ht, ?reserved⟩⟩,
      fun b hb h => hb.symm.trans (badFrame_of_breach h)⟩,
    fun s p q => ⟨fun t h _ => ⟨requestEvent_serves (exec_rdreq p s) rfl h, requestEvent_serves (exec_getreq p s) rfl h,
        requestEvent_serves (exec_mclosePacket p s) rfl h⟩,
      fun t h _ hg ht hf hb hr => ⟨dataEvent_serves rfl ht hf h hg hb hr, dataEvent_serves rfl ht hf h hg hb hr,
        dataEvent_serves rfl ht hf h hg hb hr, dataEvent_serves rfl ht hf h hg hb hr⟩,
      servePacket_unexported,
      fun hk n e => ⟨servePacket_denied hk, servePacket_inactive hk, servePacket_launch hk, servePacket_control hk⟩,
      fun polder pa => ⟨memoryServe_tagRefused, fun hm => ⟨memoryServe_rdreq hm, memoryServe_atomicAdd hm,
        fun hk => ⟨fun sub => memoryServe_stage_refused hm hk, fun m hr ho => ⟨memoryServe_stage_joins hm hk hr ho, memoryServe_stage_waits hm hk hr ho⟩⟩,
        memoryServe_wr hm⟩⟩,
      fun m id a v => ⟨berm_stageElem_self m id a v, fun b => berm_stageElem_ne m id v⟩,
      fun m hk hm ha hi hc => servePacket_close hk hm ha hi hc⟩,
    fun s p q => ⟨exec_skim_data, exec_skim_response, fun hb hr => ⟨fun i => recordSkim_recorded hb hr, recordSkim_full hb hr⟩, fun hf ht h hk => ?refill,
      fun i g hg => ⟨exec_gapExpire_over hg, exec_gapExpire_stays hg⟩,
      fun src => ⟨exec_refillRequestSend_barred, fun hp ho => ⟨fun i g => exec_refillRequestSend_gap hp ho,
        fun k e x hg hx => exec_refillRequestSend_response hp ho hg hx,
        exec_refillRequestSend_nothing hp ho⟩⟩⟩⟩
  case reserved =>
    rintro hr ⟨q, ho, hm⟩
    rw [arrivePacket_opened hk hb f ht hr ho, if_pos hm, Machine.discard]
  case refill =>
    rw [exec_refill_meets hf ht h hk]
    exact ⟨fun hg => congrArg _ (meetRefill_unmatched hg), fun i g hg ha => ⟨fun hx => congrArg _ (meetRefill_unexported hg ha hx),
      fun x hx => ⟨fun hb => congrArg _ (meetRefill_fills hg ha hx hb), fun hb => congrArg _ (meetRefill_waits hg ha hx hb)⟩⟩⟩

end Sys2Proof.Proofs
end

section
/-! PROOF. Copies at their issue (R123, R126, R127, R341, R342). -/

namespace Sys2Proof.Machine

/-! ### COPY, COPYF and WPTR -/

section Copies

variable {s : State} {f : Fx} {i : Issuer}

/-- The trap of the check that a copy has failed. -/
def copyTrap (m : Mask) (x : Nat × Nat × Word) : Trap := { cause := x.1, sub := x.2.1, addr := x.2.2, lanes := m }

theorem exec_copy_queues (hf : copyFault (coreOf s i.k) i.t i.tm (copyArgs i.g f) = none)
    (h : Issues s i f false (copyPlan s f i (i.active f) 5 (copyArgs i.g f).len (copyRise s i (copyArgs i.g f) (copyArgs i.g f).len))) :
    exec (.copy f) s = .next (
      let a := copyArgs i.g f
      let p := copyPlan s f i (i.active f) 5 a.len (copyRise s i a a.len)
      complete (writeDest (queueCopy s i p a a.len (i.active f)) i f.d true (i.active f)
        (fun _ => BitVec.ofNat 64 ((channelEnd (coreOf s i.k) i.tm a.ch + a.len) % 2 ^ 63))) i []) := by
  rw [exec_copy, execCopy, onIssue_effect h]
  simp only [hf]
  exact congrArg Host.Outcome.next (passing_pass h.passes _)

theorem exec_copy_faults {x : Nat × Nat × Word} (hf : copyFault (coreOf s i.k) i.t i.tm (copyArgs i.g f) = some x)
    (h : Issues s i f false (copyPlan s f i (i.active f) 5 0 0)) :
    exec (.copy f) s = .next (complete s i [copyTrap (i.active f) x]) := by
  rw [exec_copy, execCopy, onIssue_effect h]
  simp only [hf]
  exact congrArg Host.Outcome.next (passing_pass h.passes _)

theorem exec_copyf_queues (hf : copyFault (coreOf s i.k) i.t i.tm (copyArgs i.g f) = none)
    (h : Issues s i f false (copyPlan s f i (i.active f) 14 0 0)) :
    exec (.copyf f) s = .next (
      let a := copyArgs i.g f
      let n := copyPrefix s i a
      let p := copyPlan s f i (i.active f) 5 n (copyRise s i a n)
      complete (writeDest (if n = 0 then s else queueCopy s i p a n (i.active f)) i f.d true (i.active f) (fun _ => BitVec.ofNat 64 n)) i []) := by
  rw [exec_copyf, execCopyf, onIssue_effect h]
  refine congrArg Host.Outcome.next ((passing_pass h.passes _).trans ?_)
  simp only [hf]

theorem exec_copyf_faults {x : Nat × Nat × Word} (hf : copyFault (coreOf s i.k) i.t i.tm (copyArgs i.g f) = some x)
    (h : Issues s i f false (copyPlan s f i (i.active f) 14 0 0)) :
    exec (.copyf f) s = .next (complete s i [copyTrap (i.active f) x]) := by
  rw [exec_copyf, execCopyf, onIssue_effect h]
  refine congrArg Host.Outcome.next ((passing_pass h.passes _).trans ?_)
  simp only [hf]
  rfl

theorem exec_wptr_issues (h : Issues s i f false { active := i.active f, sNames := opSNames f.d }) :
    exec (.wptr f) s = .next (complete (writeDest s i f.d true (i.active f) (fun _ => channelWord i.tm (f.modAt 0 3))) i []) := by
  rw [exec_wptr, execWptr, onIssue_effect h]
  exact congrArg Host.Outcome.next (passing_pass h.passes _)

/-- The end of an instruction that writes its destination and releases no name. -/
theorem writeDest_issued_of_issuer (hi : issuer s = some i) (uni : Bool) (m : Mask) (val : Nat → Word) :
    ∃ g, Issued s (complete (writeDest s i f.d uni m val) i []) i [i.onward i.e.mask] g ∧ ScalarResult i g f m val ∧
      g.p = i.g.p ∧ g.astat = i.g.astat ∧ g.besides i.g = i.g := by
  obtain ⟨g, honly, hholds, hframe, -, -, hs, hsOthers, -⟩ :=
    writeDest_spec (onlyGroup_refl (issuer_slot hi).2.1) (holds_of_issuer hi) f.d uni m val
  refine ⟨_, complete_issued honly hholds (by rw [hframe]), ⟨hs, hsOthers⟩, ?_, ?_, ?_⟩
  all_goals
    rw [hframe]
    rfl

end Copies

/-! ### A copy queued on its channel (R123, R127) -/

/-- The issuing core of an operation just started. -/
theorem coreOf_startOp {s : State} {i : Issuer} {g : Group} (h : Holds s i g) (o : Op) : coreOf (startOp s i o).1 i.k =
    { setGroup (coreOf s i.k) i.slot (countFlag g o.flag) with
      ops := put (coreOf s i.k).ops (nextOp s i) o
      nextOp := nextOp s i + 1 } := by
  simp only [startOp, addOp, onIssuing_eq h, coreOf_onCore_self, coreOf_setCore_self]
  rfl

section Queued

variable (s : State) (i : Issuer) (p : Plan) (a : CopyArgs) (n : Nat) (m : Mask)

/-- The team with STOP of the copy's channel clear. -/
def restartChannel (tm : Team) : Team := { tm with chans := put tm.chans a.ch { channelOf tm a.ch with stop := false } }

/-- The core with the words of a FIFO kept free for the copy. -/
def reserveWords (c : CoreState) : CoreState :=
  if a.dst = 2 then
    match bankOfSlot c i.t a.da.toNat with
    | some b => setBank c b { bankOf c b with reserved := (bankOf c b).reserved + n / 8 }
    | none => c
  else c

/-- The state in which the operation of a copy starts, and the operation. -/
def copyBase : State :=
  onCore s i.k (fun c => reserveWords i a n { c with teams := alter c.teams i.t (restartChannel a) })

def copyOp : Op := newOp (copyBase s i a n) i p m (.copy a.ch a.fromScratch a.dst a.sa a.da n 0 none)

variable {s i p a n m}

theorem queueCopy_eq (hn : n ≠ 0) : queueCopy s i p a n m = (startOp (copyBase s i a n) i (copyOp s i p a n m)).1 := by
  unfold copyOp copyBase reserveWords queueCopy
  by_cases hd : a.dst = 2
  · simp only [hn, hd, if_true, if_false, onCore_onCore]
    rfl
  · simp only [hn, hd, if_false]
    rfl

theorem channelOf_restartChannel_self (tm : Team) : channelOf (restartChannel a tm) a.ch = { channelOf tm a.ch with stop := false } :=
  lookD_put_self _ _ _ _

theorem channelOf_restartChannel_ne (tm : Team) {ch : Nat} (h : ch ≠ a.ch) : channelOf (restartChannel a tm) ch = channelOf tm ch :=
  lookD_put_ne _ _ _ h

/-- Keeping words free changes the banks alone. -/
theorem reserveWords_frame (c : CoreState) : reserveWords i a n c = { c with banks := (reserveWords i a n c).banks } := by
  unfold reserveWords
  split
  · split <;> rfl
  · rfl

theorem bankOf_reserveWords {c : CoreState} {b : Nat} (hd : a.dst = 2) (hb : bankOfSlot c i.t a.da.toNat = some b) :
    bankOf (reserveWords i a n c) b = { bankOf c b with reserved := (bankOf c b).reserved + n / 8 } := by
  simp only [reserveWords, hd, hb, if_true]
  exact lookD_put_self _ _ _ _

theorem nextOp_copyBase : nextOp (copyBase s i a n) i = nextOp s i := by
  rw [nextOp, copyBase, coreOf_onCore_self, reserveWords_frame]
  rfl

theorem holds_copyBase {g : Group} (h : Holds s i g) : Holds (copyBase s i a n) i g :=
  holds_onCore h _ (by rw [reserveWords_frame])

theorem teamOf_copyBase {tm : Team} (h : teamOf (coreOf s i.k) i.t = some tm) :
    teamOf (coreOf (copyBase s i a n) i.k) i.t = some (restartChannel a tm) := by
  rw [copyBase, coreOf_onCore_self, reserveWords_frame]
  rw [teamOf] at h
  simp only [teamOf, look_alter, if_true, h, Option.map_some]

theorem bankOf_copyBase {b : Nat} (hd : a.dst = 2) (hb : bankOfSlot (coreOf s i.k) i.t a.da.toNat = some b) :
    bankOf (coreOf (copyBase s i a n) i.k) b = { bankOf (coreOf s i.k) b with reserved := (bankOf (coreOf s i.k) b).reserved + n / 8 } := by
  rw [copyBase, coreOf_onCore_self]
  exact bankOf_reserveWords hd hb

/-- The issuing core of a copy just queued. -/
theorem coreOf_queueCopy (hn : n ≠ 0) {g : Group} (h : Holds s i g) : coreOf (queueCopy s i p a n m) i.k =
    { setGroup (coreOf (copyBase s i a n) i.k) i.slot (countFlag g p.flag) with
      ops := put (coreOf (copyBase s i a n) i.k).ops (nextOp s i) (copyOp s i p a n m)
      nextOp := nextOp s i + 1 } := by
  rw [queueCopy_eq hn, coreOf_startOp (holds_copyBase h), nextOp_copyBase]
  rfl

theorem opOf_queueCopy (hn : n ≠ 0) {g : Group} (h : Holds s i g) : opOf (queueCopy s i p a n m) i.k (nextOp s i) = some (copyOp s i p a n m) := by
  rw [opOf, coreOf_queueCopy hn h]
  exact look_put_self _ _ _

theorem groupAt_queueCopy (hn : n ≠ 0) {g : Group} (h : Holds s i g) :
    groupAt (coreOf (queueCopy s i p a n m) i.k) i.slot = some (countFlag g p.flag) := by
  rw [coreOf_queueCopy hn h]
  exact look_put_self _ _ _

theorem mem_queueCopy (hn : n ≠ 0) {g : Group} (h : Holds s i g) : (queueCopy s i p a n m).mem = s.mem := by
  rw [queueCopy_eq hn, startOp, onIssuing_eq (holds_copyBase h)]
  rfl

end Queued

end Sys2Proof.Machine

namespace Sys2Proof.Proofs

open Sys2Proof Sys2Proof.Machine

/-- Settles O35: COPY and COPYF by the first check that fails or none; a queued copy is its operation started on a core whose channel goes on
and whose FIFO keeps the words free. -/
theorem copiesIssue : Obligations.CopiesIssue := by
  refine ⟨fun f s i => ⟨exec_copy_queues, fun x => exec_copy_faults, exec_copyf_queues, fun x => exec_copyf_faults, fun h => ?_⟩,
    fun s i p a n m hn hg ht => ?_⟩
  · obtain ⟨g, hissued, hscalar, hrest⟩ :=
      writeDest_issued_of_issuer (f := f) h.issuing true (i.active f) (fun _ => channelWord i.tm (f.modAt 0 3))
    exact ⟨_, g, exec_wptr_issues h, hissued, hscalar, hrest⟩
  · have hholds : Holds s i i.g := ⟨hg, rfl, rfl⟩
    have hcore := coreOf_queueCopy (p := p) (a := a) (m := m) hn hholds
    refine ⟨copyOp s i p a n m, restartChannel a i.tm, opOf_queueCopy hn hholds, rfl, rfl, rfl, ?team, channelOf_restartChannel_self i.tm,
      fun ch => channelOf_restartChannel_ne i.tm, groupAt_queueCopy hn hholds, fun hd b hb => ?bank, mem_queueCopy hn hholds⟩
    case team =>
      rw [hcore]
      exact teamOf_copyBase ht
    case bank =>
      rw [hcore]
      exact bankOf_copyBase hd hb

end Sys2Proof.Proofs
end

section
/-! PROOF. Ports, the packets that leave them, and the egress queues behind them (R138, R140 to R142, R144, R150, R156 to R158, R205, R208). -/

namespace Sys2Proof.Machine

/-! ### A port -/

@[simp] theorem portOf_onPort_self (s : State) (n : Nat) (f : Port → Port) : portOf (onPort s n f) n = f (portOf s n) := lookD_put_self _ _ _ _

theorem portOf_onPort_ne (s : State) {m n : Nat} (f : Port → Port) (h : m ≠ n) : portOf (onPort s n f) m = portOf s m := lookD_put_ne _ _ _ h

section Foldl

variable {f : Port → Port} {n : Nat}

theorem portOf_foldl_onPort_of_notMem {l : List Nat} (s : State) (h : n ∉ l) : portOf (l.foldl (fun s q => onPort s q f) s) n = portOf s n := by
  induction l generalizing s with
  | nil => rfl
  | cons q r ih =>
    rw [List.mem_cons, not_or] at h
    rw [List.foldl_cons, ih _ h.2, portOf_onPort_ne s f h.1]

/-- A change made once at each port of a list. -/
theorem portOf_foldl_onPort_of_mem {l : List Nat} (s : State) (hl : l.Nodup) (h : n ∈ l) :
    portOf (l.foldl (fun s q => onPort s q f) s) n = f (portOf s n) := by
  induction l generalizing s with
  | nil => cases h
  | cons q r ih =>
    obtain ⟨hq, hr⟩ := List.nodup_cons.mp hl
    rw [List.foldl_cons]
    rcases List.mem_cons.mp h with rfl | h
    · rw [portOf_foldl_onPort_of_notMem _ hq, portOf_onPort_self]
    · rw [ih _ hr h, portOf_onPort_ne s f (fun he => hq (by rwa [← he]))]

end Foldl

section Send

variable {s : State} {n : Nat}

/-! ### Whose turn it is (R138, R155) -/

theorem nextToSend_barred (h : (portOf s n).down = true ∨ (portOf s n).halt = true ∨ counterEnd ≤ (portOf s n).counter) : nextToSend s n = none := by
  have hbar : ((portOf s n).down || (portOf s n).halt || decide (counterEnd ≤ (portOf s n).counter)) = true := by
    rcases h with h | h | h <;> simp [h]
  simp only [nextToSend, hbar, if_true]

/-! ### Waiting for a token (R205) -/

theorem askTokens_idle (h : (portOf s n).waiting = []) : askTokens s n = s := by
  simp [askTokens, servedPackets, h]

section Alone

variable {w : Packet × Nat × Nat} (h : (portOf s n).waiting = [w])

include h

/-- A packet that waits alone is the one that is served, whosever context has the first service. -/
theorem servedPackets_alone : servedPackets s n = [w] := by
  have hsplit (b : Packet × Nat × Nat → Bool) : [w].filter b ++ [w].filter (fun v => !b v) = [w] := by cases hb : b w <;> simp [hb]
  rw [servedPackets, h]
  exact hsplit _

variable (hf : tokenFree s w = false)

include hf

theorem askTokens_waits (hd : (portOf s n).down = false) (hh : (portOf s n).halt = false) (hm : mayLeaveBut s n w = true)
    (ht : hasTokens s w = false) : askTokens s n = portWait s w.2.1 w.1.ctx (packetReq w) := by
  simp [askTokens, servedPackets_alone h, hd, hh, hf, hm, ht]

theorem askTokens_leaves (hm : mayLeaveBut s n w = false) : askTokens s n = portLeave s w.2.1 (packetReq w) := by
  simp [askTokens, servedPackets_alone h, hf, hm]

end Alone

/-! ### Leaving (R138, R141, R142, R150, R156, R208) -/

theorem exec_fabricSend_none {port : BitVec 4} (h : nextToSend (askTokens s port.toNat) port.toNat = none) :
    exec (.fabricSend port) s = .next (askTokens s port.toNat) := by
  simp only [exec_fabricSend, execFabricSend, h]

theorem exec_fabricSend_some {port : BitVec 4} {l : Leaving} (h : nextToSend (askTokens s port.toNat) port.toNat = some l) :
    exec (.fabricSend port) s = .next (sendNow (askTokens s port.toNat) port.toNat l) := by
  simp only [exec_fabricSend, execFabricSend, h]

/-- A packet of the source side leaves its place; a refill request is counted (R146, R210). -/
def takeWaiting (s : State) (n : Nat) (w : Packet × Nat × Nat) : State :=
  let a := onPort s n (fun x => { x with waiting := x.waiting.erase w })
  if w.1.kind == kRefillreq then bumpCounter a 2 1 else a

/-- What the source retains of a packet that leaves (R142). -/
def retainSent (s : State) (p : Packet) (core op : Nat) : State :=
  let wb := if wbBase ≤ op then some (op - wbBase) else none
  if retains p then
    onFabric s (fun f => { f with retained := f.retained ++ [{ pkt := p, core := core, op := op, wb := wb, sentAt := f.cyc, limit := f.ftimeout.toNat }] })
  else s

theorem sendNow_first_exempt {w : Packet × Nat × Nat} (h : exempt w.1 = true) :
    sendNow s n (.first w) = putOnLink (countRate (takeWaiting s n w) n w.1) n w.1 := if_pos h

theorem sendNow_first {w : Packet × Nat × Nat} (h : exempt w.1 = false) :
    let a := takeWaiting s n w
    let b := tagPacket (spendTok a w.2.1 w.1.ctx (packetTokens a w.2.1 w.1)) w.1
    let c := sealPacket b.1 b.2
    sendNow s n (.first w) = putOnLink (countRate (retainSent c.1 c.2 w.2.1 w.2.2) n c.2) n c.2 := if_neg (Bool.eq_false_iff.mp h)

theorem tagPacket_data {p : Packet} (h : 2 ≤ p.cls.toNat) :
    (tagPacket s p).2 = { p with stag := lookD s.fabric.tags (streamKey p.dst.toNat p.plane.toNat p.cls.toNat) 0 } ∧
    lookD (tagPacket s p).1.fabric.tags (streamKey p.dst.toNat p.plane.toNat p.cls.toNat) 0 =
      lookD s.fabric.tags (streamKey p.dst.toNat p.plane.toNat p.cls.toNat) 0 + 1 := by
  rw [tagPacket, if_neg (Nat.not_lt.mpr h)]
  exact ⟨rfl, lookD_put_self _ _ _ _⟩

/-- A packet on the link takes the port's next counter value, and goes under the link's key (R154). -/
theorem portOf_putOnLink (p : Packet) :
    let x := portOf s n
    let f := Config.hopSeal n x.keyNo (hopNonce n x.counter) (headerFlit { p with hopTag := 0 } :: p.payload)
    let y := portOf (putOnLink s n p) n
    y.counter = x.counter + 1 ∧ y.sent = { p with hopTag := f.2 } :: x.sent ∧ y.wire = f.1 :: x.wire := by
  simp only [putOnLink, portOf_onPort_self, onWire, and_self]

end Send

/-! ### The egress queue (R144, R157, R158) -/

section Egress

variable {s : State} {port : BitVec 4} {p : Packet}

/-- No packet of a list takes another in: it may not combine with it, or no record is free for it. -/
theorem findSome?_joinQueued_none {l : List Packet} {n : Nat} (h : ∀ q ∈ l, combines q p = false ∨ joinQueued s n q p = none) :
    (l.filter (fun q => combines q p)).findSome? (fun q => joinQueued s n q p) = none := by
  rw [List.findSome?_eq_none_iff]
  intro q hq
  obtain ⟨hmem, hc⟩ := List.mem_filter.mp hq
  exact (h q hmem).resolve_left (by simp [hc])

theorem exec_switchEgressEnqueue_queues
    (h : ∀ q ∈ (portOf s port.toNat).queue, combines q p = false ∨ joinQueued s port.toNat q p = none) :
    exec (.switchEgressEnqueue port p) s = .next (enqueue s port.toNat p) := by
  simp only [exec_switchEgressEnqueue, execSwitchEgressEnqueue, findSome?_joinQueued_none h]

/-- A packet joins the first of the queue that takes it in. -/
theorem exec_switchEgressEnqueue_joins {q : Packet} {before after : List Packet} {t : State} (hs : (portOf s port.toNat).queue = before ++ q :: after)
    (hb : ∀ r ∈ before, combines r p = false ∨ joinQueued s port.toNat r p = none) (hc : combines q p = true)
    (hj : joinQueued s port.toNat q p = some t) : exec (.switchEgressEnqueue port p) s = .next t := by
  have hfirst : ((portOf s port.toNat).queue.filter (fun r => combines r p)).findSome? (fun r => joinQueued s port.toNat r p) = some t := by
    rw [hs, List.filter_append, List.filter_cons_of_pos (by exact hc), List.findSome?_append, findSome?_joinQueued_none hb, Option.none_or,
      List.findSome?_cons, hj]
  simp only [exec_switchEgressEnqueue, execSwitchEgressEnqueue, hfirst]

theorem enqueue_whole {n : Nat} (ht : trims s (portOf s n) p = false) (hm : marks s (portOf s n) p = false)
    (hr : p.cls.toNat < 2 ∨ dataFlits (portOf s n) (fun _ => true) + flitsOf p ≤ 2048) (hk : p.kind ≠ kAtomreq ∨ p.sealed = false) :
    enqueue s n p = onPort s n (fun x => { x with queue := x.queue ++ [p] }) := by
  have hroom : (decide (2 ≤ p.cls.toNat) && decide (2048 < dataFlits (portOf s n) (fun _ => true) + flitsOf p)) = false := by
    rcases hr with hr | hr <;> simp [hr]
  have hopen : (p.kind == kAtomreq && p.sealed) = false := by rcases hk with hk | hk <;> simp [hk]
  simp only [enqueue, ht, hroom, hopen, egress, onPort, hm, Bool.not_false, Bool.true_and, Bool.false_eq_true, if_false]

/-! ### The members of a combined packet (R157) -/

theorem forward_eq (s : State) (p : Packet) :
    forward s p = if p.dst = s.fabric.node then respondTo (noteMark s p) p else egress s p.plane.toNat p := by
  simp only [forward, takeResponse, beq_iff_eq]

/-- The record that a response to a combined packet answers: that of the member which the packet left as. -/
def combineFor (s : State) (p : Packet) : Option (Nat × Combine) :=
  s.fabric.combines.find? (fun e => e.2.dst == p.src && e.2.members.head?.any (fun m =>
    m.src == p.dst && m.cont == p.cont && m.gen == p.gen && m.rcore == p.rcore && m.off == p.off))

/-- A packet that was merged is acknowledged: the switch's ACK goes to its source, marked as the queue marks it (log 32). -/
def ackMember (p : Packet) (s : State) (m : Packet) : State :=
  let a := memberAnswer p m kAck stApplied
  if m.src == s.fabric.node then ackTag (noteMark s a) a else egress s p.plane.toNat a

theorem exec_combinedResponse_answers {i : Nat} {r : Combine} (h : combineFor s p = some (i, r)) (hk : p.kind ≠ kNack) :
    exec (.combinedResponse p) s = .next ((r.members.drop 1).foldl (ackMember p)
      ((memberResponses (bitsAt (p.payload.headD 0).toNat 0 64) p r.members).foldl (fun s e => forward s e.2)
        (onFabric s (fun f => { f with combines := del f.combines i })))) := by
  rw [combineFor] at h
  rw [exec_combinedResponse, execCombinedResponse, if_neg (by simpa using hk), h]
  rfl

theorem exec_combinedResponse_nack (hk : p.kind = kNack) : exec (.combinedResponse p) s = .next (nackCombined s p) := by
  rw [exec_combinedResponse, execCombinedResponse, if_pos (by simpa using hk)]

end Egress

end Sys2Proof.Machine
end

section
/-! PROOF. Links: their keys and counters, and the planes that they make up (R138, R140, R154 to R156). -/

namespace Sys2Proof.Machine

/-! ### Keys (R154, R155) -/

section Link

variable {s : State} {port : BitVec 4}

theorem exec_keyswitch_next (h : (portOf s port.toNat).nextKey = true) : exec (.keyswitch port) s = .next (setPort s port.toNat
    { onWire port.toNat (portOf s port.toNat) (2 ^ 40 - 1) (endpointFlit s 1) with
      nextKey := false, counter := 0, control := 0, keyNo := (portOf s port.toNat).keyNo + 1 }) := by
  rw [exec_keyswitch, execKeyswitch, onPort, if_pos h]

theorem exec_keyswitch_none (h : (portOf s port.toNat).nextKey = false) : exec (.keyswitch port) s = .next (setPort s port.toNat (portOf s port.toNat)) := by
  rw [exec_keyswitch, execKeyswitch, onPort, h, if_neg Bool.false_ne_true]

theorem keyRunsOut_unreplaced_iff (x : Port) : (keyRunsOut x && !x.nextKey) = true ↔ 2 ^ 40 - 2 ≤ x.counter ∧ x.halt = false ∧ x.nextKey = false := by
  rw [keyRunsOut, counterEnd, Bool.and_eq_true, Bool.and_eq_true, decide_eq_true_iff, Bool.not_eq_true', Bool.not_eq_true', and_assoc]

theorem exec_keyhalt_eq (s : State) (port : BitVec 4) : let x := portOf s port.toNat
    exec (.keyhalt port) s = .next (setPort s port.toNat { (if 2 ^ 40 - 2 ≤ x.counter ∧ x.halt = false ∧ x.nextKey = false
        then controlFlit port.toNat x (endpointFlit s 2) else countControl x) with
      halt := true, haltFor := if x.halt then x.haltFor else 0, haltLimit := if x.halt then x.haltLimit else s.fabric.deadt.toNat }) := by
  simp only [exec_keyhalt, execKeyhalt, onPort, keyRunsOut_unreplaced_iff]

theorem exec_hopKeyInstall_running (h : (portOf s port.toNat).halt = false) :
    exec (.hopKeyInstall port) s = .next (setPort s port.toNat { portOf s port.toNat with nextKey := true }) := by
  rw [exec_hopKeyInstall, execHopKeyInstall, onPort, if_neg (Bool.eq_false_iff.mp h)]

theorem exec_hopKeyInstall_halted (h : (portOf s port.toNat).halt = true) : exec (.hopKeyInstall port) s = .next (setPort s port.toNat
    { onWire port.toNat (portOf s port.toNat) (2 ^ 40 - 1) (endpointFlit s 1) with
      halt := false, haltFor := 0, counter := 0, control := 0, keyNo := (portOf s port.toNat).keyNo + 1, nextKey := false }) := by
  rw [exec_hopKeyInstall, execHopKeyInstall, onPort, if_pos h]

theorem exec_hopAuthFail_replays {p : Packet} {r : List Packet} (h : (portOf s port.toNat).sent = p :: r) :
    exec (.hopAuthFail port) s = .next (bumpCounter (setPort s port.toNat
      { onWire port.toNat (portOf s port.toNat) (portOf s port.toNat).counter p with counter := (portOf s port.toNat).counter + 1 }) 10 1) := by
  simp only [exec_hopAuthFail, execHopAuthFail, onPort, replayed, h]

theorem exec_hopAuthFail_unsent (h : (portOf s port.toNat).sent = []) : exec (.hopAuthFail port) s = .next (bumpCounter (setPort s port.toNat
    { portOf s port.toNat with counter := (portOf s port.toNat).counter + 1 }) 10 1) := by
  simp only [exec_hopAuthFail, execHopAuthFail, onPort, replayed, h]

end Link

/-! ### The bits of FPLANE (R140) -/

theorem testBit_setField {lo len : Nat} (x : Word) (v i : Nat) (h : lo + len ≤ 64) :
    (setField x lo len v).toNat.testBit i = if lo ≤ i ∧ i < lo + len then v.testBit (i - lo) else x.toNat.testBit i := by
  rw [toNat_setField x v h, Nat.testBit_two_pow_mul_add _ (Nat.mod_lt _ (Nat.two_pow_pos lo))]
  by_cases hlo : i < lo
  · simp [hlo, Nat.testBit_mod_two_pow]
  rw [if_neg hlo, Nat.testBit_two_pow_mul_add _ (Nat.mod_lt _ (Nat.two_pow_pos len))]
  by_cases hhi : i < lo + len
  · simp [show i - lo < len by omega, show lo ≤ i by omega, hhi, Nat.testBit_mod_two_pow]
  · simp [show ¬ i - lo < len by omega, show lo ≤ i by omega, hhi, Nat.testBit_div_two_pow, show i - lo - len + (lo + len) = i by omega]

/-- A bit set in a word. -/
theorem testBit_setField_one (x : Word) {b : Nat} (i : Nat) (h : b < 64) :
    (setField x b 1 1).toNat.testBit i = (decide (i = b) || x.toNat.testBit i) := by
  rw [testBit_setField x 1 i h]
  by_cases hi : i = b
  · simp [hi]
  · rw [if_neg (by omega), decide_eq_false hi, Bool.false_or]

theorem fieldOf_congr {x y : Word} {lo len : Nat} (h : ∀ i, i < len → x.toNat.testBit (i + lo) = y.toNat.testBit (i + lo)) :
    fieldOf x lo len = fieldOf y lo len := by
  apply Nat.eq_of_testBit_eq
  intro i
  rw [testBit_fieldOf, testBit_fieldOf]
  by_cases hi : i < len
  · rw [h i hi]
  · simp [hi]

/-- FPLANE with PEND of the entries given that map to a plane. -/
def pendOn (p : Nat) (es : List Nat) (w : Word) : Word := es.foldl (fun w e => if fieldOf w (2 * e) 2 = p then setPend w e 1 else w) w

section PendOn

variable {p : Nat} {es : List Nat} (hes : ∀ e ∈ es, e < 4)

include hes

/-- MAP and DEAD lie below PEND. -/
theorem testBit_pendOn_low (w : Word) {i : Nat} (h : i < 12) : (pendOn p es w).toNat.testBit i = w.toNat.testBit i := by
  induction es generalizing w with
  | nil => rfl
  | cons e r ih =>
    obtain ⟨he, hr⟩ := List.forall_mem_cons.mp hes
    rw [pendOn, List.foldl_cons, ← pendOn, ih hr]
    split
    · rw [setPend, testBit_setField_one w i (by omega)]
      simp [show i ≠ 12 + e by omega]
    · rfl

theorem map_pendOn (w : Word) {e : Nat} (h : e < 4) : fieldOf (pendOn p es w) (2 * e) 2 = fieldOf w (2 * e) 2 :=
  fieldOf_congr (fun _ _ => testBit_pendOn_low hes w (by omega))

theorem pend_pendOn (w : Word) {e : Nat} (h : e < 4) :
    (pendOn p es w).toNat.testBit (12 + e) = (decide (e ∈ es) && fieldOf w (2 * e) 2 == p || w.toNat.testBit (12 + e)) := by
  induction es generalizing w with
  | nil => simp [pendOn]
  | cons d r ih =>
    obtain ⟨hd, hr⟩ := List.forall_mem_cons.mp hes
    have hone (v : Word) : pendOn p [d] v = if fieldOf v (2 * d) 2 = p then setPend v d 1 else v := rfl
    have hmap := map_pendOn (p := p) (es := [d]) (by simpa using hd) w h
    rw [pendOn, List.foldl_cons, ← pendOn, ← hone, ih hr, hmap, hone]
    by_cases hp : fieldOf w (2 * d) 2 = p
    · rw [if_pos hp, setPend, testBit_setField_one w _ (by omega)]
      by_cases he : e = d
      · simp [he, hp]
      · simp [he]
    · rw [if_neg hp]
      by_cases he : e = d
      · simp [he, beq_eq_false_iff_ne.mpr hp]
      · simp [he]

end PendOn

/-! ### Planes that die and recover (R140, R155) -/

/-- FPLANE when a plane is dead: its DEAD bit, and PEND of the entries that map to it. -/
def deadWord (s : State) (p : Nat) : Word := pendOn p [0, 1, 2, 3] (setField s.fabric.fplane (8 + p) 1 1)

section Dead

variable {s : State} {p : Nat} (hp : p < 4)

include hp

theorem testBit_deadWord_low {i : Nat} (h : i < 12) : (deadWord s p).toNat.testBit i = (decide (i = 8 + p) || s.fabric.fplane.toNat.testBit i) := by
  rw [deadWord, testBit_pendOn_low (by decide) _ h, testBit_setField_one _ _ (by omega)]

theorem dead_deadWord : bitAt (deadWord s p).toNat (8 + p) = true := by
  rw [bitAt_eq_testBit, testBit_deadWord_low hp (by omega)]
  simp

theorem dead_deadWord_ne {q : Nat} (hq : q < 4) (h : q ≠ p) : bitAt (deadWord s p).toNat (8 + q) = deadBit s q := by
  rw [deadBit, bitAt_eq_testBit, bitAt_eq_testBit, testBit_deadWord_low hp (by omega)]
  simp [h]

theorem map_setDead {e : Nat} (he : e < 4) : fieldOf (setField s.fabric.fplane (8 + p) 1 1) (2 * e) 2 = mapOf s e :=
  fieldOf_congr (fun i _ => by
    rw [testBit_setField_one _ _ (by omega)]
    simp [show i + 2 * e ≠ 8 + p by omega])

theorem map_deadWord {e : Nat} (he : e < 4) : fieldOf (deadWord s p) (2 * e) 2 = mapOf s e :=
  (map_pendOn (by decide) _ he).trans (map_setDead hp he)

theorem pend_deadWord {e : Nat} (he : e < 4) : bitAt (deadWord s p).toNat (12 + e) = (mapOf s e == p || entryPending s e) := by
  have hmem : e ∈ [0, 1, 2, 3] := by simp; omega
  rw [bitAt_eq_testBit, deadWord, pend_pendOn (by decide) _ he, map_setDead hp he, testBit_setField_one _ _ (by omega), entryPending, bitAt_eq_testBit]
  simp [hmem, show 12 + e ≠ 8 + p by omega]

end Dead

theorem planePorts_nodup (p : Nat) : (planePorts p).Nodup := List.nodup_range.map (fun a b h => by simpa using h)

section Plane

variable {s : State} {plane : BitVec 2}

theorem exec_planeDead_fails (hf : (planePorts plane.toNat).any (portFails s) = true) (hd : deadBit s plane.toNat = false) :
    exec (.planeDead plane) s = .next { s with fabric := { s.fabric with fplane := deadWord s plane.toNat } } := by
  simp only [exec_planeDead, execPlaneDead, hf, hd, Bool.not_false, Bool.and_self, if_true]
  rfl

theorem exec_planeDead_works (hf : (planePorts plane.toNat).any (portFails s) = false) : exec (.planeDead plane) s = .next s := by
  simp only [exec_planeDead, execPlaneDead, hf, Bool.false_and, Bool.false_eq_true, if_false]

/-- A port that comes up has accepted a flit. -/
def upAgain (x : Port) : Port := { x with down := false, idle := 0 }

theorem portFails_upAgain {t : State} {q : Nat} (ht : portOf t q = upAgain (portOf s q))
    (h : (portOf s q).halt = false ∨ (portOf s q).haltFor < (portOf s q).haltLimit) : portFails t q = false := by
  simp only [portFails, ht, upAgain]
  rcases h with h | h <;> simp [h]

theorem exec_planeRevive_recovers (hd : deadBit s plane.toNat = true)
    (h : ∀ q ∈ planePorts plane.toNat, (portOf s q).halt = false ∨ (portOf s q).haltFor < (portOf s q).haltLimit) :
    exec (.planeRevive plane) s = .next (onFabric ((planePorts plane.toNat).foldl (fun s q => onPort s q upAgain) s)
      (fun f => { f with fplane := setField f.fplane (8 + plane.toNat) 1 0 })) := by
  have hworks : (planePorts plane.toNat).any (portFails ((planePorts plane.toNat).foldl (fun s q => onPort s q upAgain) s)) = false := by
    rw [List.any_eq_false]
    intro q hq
    rw [portFails_upAgain (portOf_foldl_onPort_of_mem s (planePorts_nodup _) hq) (h q hq)]
    exact Bool.false_ne_true
  rw [exec_planeRevive, execPlaneRevive, if_pos hd]
  exact congrArg _ (if_neg (Bool.eq_false_iff.mp hworks))

end Plane

/-! ### Entries that go over to another plane (R140) -/

/-- An entry maps to a plane, its PEND is clear, and its waiting packets go over with it. -/
def mapTo (s : State) (e p : Nat) : State :=
  moveWaiting (onFabric s (fun f => { f with fplane := setPend (setField f.fplane (2 * e) 2 p) e 0, newMap := del f.newMap e })) e p

section Remap

variable {s : State} {entry : BitVec 2}

theorem exec_planeRemap_stays (h : entryPending s entry.toNat = false ∨ planeDrained s (mapOf s entry.toNat) = false) :
    exec (.planeRemap entry) s = .next s := by
  have hstay : (!entryPending s entry.toNat || !planeDrained s (mapOf s entry.toNat)) = true := by rcases h with h | h <;> simp [h]
  simp only [exec_planeRemap, execPlaneRemap, hstay, if_true]

variable (hp : entryPending s entry.toNat = true) (hd : planeDrained s (mapOf s entry.toNat) = true)

include hp hd

theorem exec_planeRemap_named {q : BitVec 2} (hq : look s.fabric.newMap entry.toNat = some q) (hl : deadBit s q.toNat = false) :
    exec (.planeRemap entry) s = .next (mapTo s entry.toNat q.toNat) := by
  simp [exec_planeRemap, execPlaneRemap, hp, hd, hq, hl, Option.filter, mapTo]

theorem exec_planeRemap_least {q : Nat} (hn : look s.fabric.newMap entry.toNat = none) (hl : leastPlane s = some q) :
    exec (.planeRemap entry) s = .next (mapTo s entry.toNat q) := by
  simp [exec_planeRemap, execPlaneRemap, hp, hd, hn, hl, mapTo]

theorem exec_planeRemap_nowhere (hn : look s.fabric.newMap entry.toNat = none) (hl : leastPlane s = none) : exec (.planeRemap entry) s = .next s := by
  simp [exec_planeRemap, execPlaneRemap, hp, hd, hn, hl]

end Remap

/-! ### Flow keys (R65, R156) -/

section FlowKey

variable {s : State} {host : Bool} {p : BitVec 6} {key : Word}

theorem exec_flowKeyInstall_named (h : (polderOf s p.toNat).hostKeyrot = host) : exec (.flowKeyInstall host p key) s = .next { s with
    polders := put s.polders p.toNat { polderOf s p.toNat with flowKey := some key } } := by
  rw [exec_flowKeyInstall, execFlowKeyInstall, if_pos (beq_iff_eq.mpr h)]
  rfl

theorem exec_flowKeyInstall_other (h : (polderOf s p.toNat).hostKeyrot ≠ host) : exec (.flowKeyInstall host p key) s = .next s := by
  rw [exec_flowKeyInstall, execFlowKeyInstall, if_neg (mt beq_iff_eq.mp h)]

end FlowKey

end Sys2Proof.Machine

namespace Sys2Proof.Proofs

open Sys2Proof Sys2Proof.Machine

/-- Settles O53: a port's turn by what stands at it, a packet by the way it leaves; a link and a plane by the equations of their events. -/
theorem fabricSource : Obligations.FabricSource := by
  refine ⟨fun s port => ⟨nextToSend_barred, exec_fabricSend_none, askTokens_idle,
      fun w hw hd hh hf => ⟨askTokens_waits hw hf hd hh, askTokens_leaves hw hf⟩,
      portOf_putOnLink,
      fun p h => exec_fabricSend_some h,
      fun p k op h => ⟨fun he => ?exempt, fun he => ?first⟩,
      fun r h => exec_fabricSend_some h,
      fun p h => tagPacket_data h,
      fun cls flits => rfl,
      fun y => rfl,
      fun p => exec_switchEgressEnqueue_queues,
      fun p q before after t => exec_switchEgressEnqueue_joins,
      fun p => enqueue_whole,
      fun p => rfl,
      fun p i r h hk => exec_combinedResponse_answers h hk,
      forward_eq s,
      fun p => exec_combinedResponse_nack⟩,
    fun s => ⟨fun port => ⟨exec_keyswitch_next, exec_keyswitch_none, exec_keyhalt_eq s port, exec_hopKeyInstall_running, fun f => rfl,
        exec_hopKeyInstall_halted, fun p r => exec_hopAuthFail_replays, exec_hopAuthFail_unsent, rfl⟩,
      fun plane => ⟨fun hf hd => ⟨deadWord s plane.toNat, exec_planeDead_fails hf hd, dead_deadWord plane.isLt,
          fun e he => ⟨map_deadWord plane.isLt he, pend_deadWord plane.isLt he⟩, fun q => dead_deadWord_ne plane.isLt⟩,
        exec_planeDead_works, exec_planeRevive_recovers⟩,
      fun entry => ⟨fun hp hd => ⟨fun q => exec_planeRemap_named hp hd, fun q => exec_planeRemap_least hp hd, exec_planeRemap_nowhere hp hd⟩,
        exec_planeRemap_stays⟩,
      fun host p key => ⟨exec_flowKeyInstall_named, exec_flowKeyInstall_other⟩⟩⟩
  case exempt =>
    rw [exec_fabricSend_some h, sendNow_first_exempt he]
    rfl
  case first =>
    rw [exec_fabricSend_some h, sendNow_first he]
    rfl

end Sys2Proof.Proofs
end

section
/-! PROOF. The source side's answers: responses and their continuations, ACK and NACK, refill requests, and the host's translations (R142,
R143, R146, R150, R151, R157, R158, R171, R172, R208, R230). -/

namespace Sys2Proof.Machine

/-- Only class 3 is received at once (R141): any other arrival goes to its kind's operation in the state that it found. -/
theorem Arrives.arrivePacket_unreceived {s : State} {p q : Packet} {kind : BitVec 8} (h : Arrives s p kind q) {c lo hi : Nat}
    (hr : kindRule kind = some (c, lo, hi)) (hc : c ≠ 3) (f : State → Packet → State) : arrivePacket s p kind f = f s q := by
  rw [h.arrivePacket_eq hr f, if_neg hc]

/-! ### Marks (R158, R208) -/

@[simp] theorem noteMark_fabric (s : State) (p : Packet) : (noteMark s p).fabric = s.fabric := by
  unfold noteMark
  split <;> rfl

@[simp] theorem retainedFor_noteMark (s : State) (p q : Packet) : retainedFor (noteMark s p) q = retainedFor s q := by
  rw [retainedFor, noteMark_fabric, retainedFor]

section Response

variable {s : State} {p q : Packet}

/-! ### Responses (R143, R151) -/

/-- A response is received, marks its polder, and goes to its continuation. -/
theorem responseEvent_responds {kind : BitVec 8} {i : Instr} (he : exec i s = .next (arrivePacket s p kind takeResponse)) {lo hi : Nat}
    (hk : kindRule kind = some (3, lo, hi)) (h : Arrives s p kind q) : exec i s = .next (respondTo (noteMark (receive s q) q) q) := by
  rw [he, h.arrivePacket_eq hk takeResponse, if_pos rfl, takeResponse]

theorem respondTo_unmatched (h : contOf s p = none) : respondTo s p = s := by
  simp only [respondTo, h]

section Matched

variable {k e : Nat} {x : Continuation} {o : Op} (hc : contOf s p = some (k, e, x)) (ho : opOf s k x.op = some o)

include hc ho

section Read

variable {getf : Bool} {accs : List LaneAcc} (hk : o.kind = .remoteRead getf accs) (hr : p.kind = if getf then kGetrsp else kRdrsp)

include hk hr

theorem respondTo_read (ht : p.trim = false) (hs : p.status ≠ stTag) :
    respondTo s p = served (endCont (deliver s x.op o ((contAccs o x).map (fun a => (a, lineValue p.payload a)))) k e) k x.op (contAccs o x) := by
  have hfit : (p.kind == if getf then kGetrsp else kRdrsp) = true := beq_iff_eq.mpr hr
  simp only [respondTo, hc, ho, hk, hfit, ht, beq_eq_false_iff_ne.mpr hs, Bool.not_true, Bool.false_eq_true, if_false]

/-- The skim of a response: its request is sent again, once (R151). -/
theorem respondTo_read_trimmed (ht : p.trim = true) :
    respondTo s p = onCore s k (fun c => { c with conts := alter c.conts e (fun x => { x with skimmed := !x.reissued }) }) := by
  have hfit : (p.kind == if getf then kGetrsp else kRdrsp) = true := beq_iff_eq.mpr hr
  simp only [respondTo, hc, ho, hk, hfit, ht, Bool.not_true, Bool.false_eq_true, if_false, if_true]

end Read

theorem respondTo_atomic {op : Nat} {t : Ty} {accs : List LaneAcc} (hk : o.kind = .remoteAtomic op t accs) (hr : p.kind = kAtomrsp)
    (ht : p.trim = false) (hs : p.status ≠ stTag) : respondTo s p = served (endCont (deliver s x.op o ((contAccs o x).map
      (fun a => (a, BitVec.ofNat 64 (bitsAt (p.payload.headD 0).toNat 0 (8 * a.n)))))) k e) k x.op (contAccs o x) := by
  simp only [respondTo, hc, ho, hk, hr, ht, beq_eq_false_iff_ne.mpr hs, beq_self_eq_true, Bool.not_true, Bool.false_eq_true, if_false]

end Matched

end Response

/-! ### Continuations that time out (R143) -/

section Timeout

variable {s : State} {k : BitVec 9} {entry : BitVec 10}

variable (s k entry) in
/-- The continuation of an entry of a core. -/
def contAt : Continuation := lookD (coreOf s k.toNat).conts entry.toNat {}

theorem exec_continuationTimeout_early (h : (coreOf s k.toNat).ccyc.toNat < (contAt s k entry).sent.toNat + (contAt s k entry).limit) :
    exec (.continuationTimeout k entry) s = .next s := by
  have hearly : (!(contAt s k entry).used || decide ((coreOf s k.toNat).ccyc.toNat < (contAt s k entry).sent.toNat + (contAt s k entry).limit)) = true := by
    simp [h]
  rw [contAt] at hearly
  simp only [exec_continuationTimeout, execContinuationTimeout, hearly, if_true]

/-- All ones for the lanes of a read, and the FSTAT bit of its instruction. -/
theorem exec_continuationTimeout_read {o : Op} {getf : Bool} {accs : List LaneAcc} (hu : (contAt s k entry).used = true)
    (h : (contAt s k entry).sent.toNat + (contAt s k entry).limit ≤ (coreOf s k.toNat).ccyc.toNat)
    (ho : opOf s k.toNat (contAt s k entry).op = some o) (hk : o.kind = .remoteRead getf accs) :
    exec (.continuationTimeout k entry) s = .next (served (endCont (onTeam (deliver s (contAt s k entry).op o (onesFor (contAccs o (contAt s k entry)))) o.uid
      (fun t => { t with fstat := t.fstat ||| (if getf then 2 else 1) })) k.toNat entry.toNat) k.toNat (contAt s k entry).op
      (contAccs o (contAt s k entry))) := by
  rw [contAt] at hu h ho ⊢
  simp only [exec_continuationTimeout, execContinuationTimeout, hu, Nat.not_lt.mpr h, ho, hk, Bool.not_true, Bool.false_or, decide_false,
    Bool.false_eq_true, if_false]
  cases getf <;> rfl

end Timeout

/-! ### Answers to what is retained (R142, R143, R146, R150) -/

section Answer

variable {s : State} {p q : Packet} {r : Retained}

theorem exec_ack_close (h : Arrives s p kAck q) (hc : q.ck = true) : exec (.ack p) s = .next (ackClose (noteMark s q) q) := by
  rw [exec_ack, execAck, h.arrivePacket_unreceived rfl (by decide), if_pos hc]

theorem exec_nack_cont (h : Arrives s p kNack q) (hc : q.ck = true) : exec (.nack p) s = .next (nackCont (noteMark s q) q) := by
  rw [exec_nack, execNack, h.arrivePacket_unreceived rfl (by decide), if_pos hc]

theorem nackCause_eq (st : BitVec 8) : nackCause st = if st = stTag then (causeTag, st.toNat)
    else if 0x11 ≤ st.toNat ∧ st.toNat ≤ 0x15 then (causeMerge, st.toNat - 0x10) else (causeFabric, st.toNat) := by
  simp only [nackCause, beq_iff_eq, Bool.and_eq_true, decide_eq_true_iff]

theorem exec_ack_tag (h : Arrives s p kAck q) (hc : q.ck = false) : exec (.ack p) s = .next (ackTag (noteMark s q) q) := by
  rw [exec_ack, execAck, h.arrivePacket_unreceived rfl (by decide), if_neg (Bool.eq_false_iff.mp hc)]

section Retained

variable (hr : retainedFor s q = some r)

include hr

theorem exec_nack_tag (h : Arrives s p kNack q) (hc : q.ck = false) : exec (.nack p) s = .next (failPacket (noteMark s q) r q.status) := by
  have hm : retainedFor (noteMark s q) q = some r := by rw [retainedFor_noteMark, hr]
  rw [exec_nack, execNack, h.arrivePacket_unreceived rfl (by decide), if_neg (Bool.eq_false_iff.mp hc), hm]

theorem exec_refillreq_resends (h : Arrives s p kRefillreq q) : exec (.refillreq p) s = .next (onPort s (retainedPort r) (fun x => { x with
    waiting := x.waiting ++ [({ r.pkt with refill := true, notrim := true }, r.core, r.op)] })) := by
  rw [exec_refillreq, execRefillreq, h.arrivePacket_unreceived rfl (by decide), hr]

theorem ackTag_applied (h : q.status = stApplied) : ackTag s q = performedAt s r false := by
  simp only [ackTag, hr, h, beq_self_eq_true, if_true]

theorem ackTag_appliedTag (h : q.status = stAppliedTag) : ackTag s q = performedAt s r true := by
  simp [ackTag, hr, h, stAppliedTag, stApplied]

/-- GAP and HELD: the packet has been received, and stays retained. -/
theorem ackTag_received (h : q.status = stGap ∨ q.status = stHeld) : ackTag s q = onFabric s (fun f => { f with
    retained := f.retained.map (fun o => if o = r then { o with received := true } else o) }) := by
  rcases h with h | h <;> simp [ackTag, hr, h, stGap, stHeld, stAppliedTag, stApplied]

/-- REJECT: the packet and every later one of its stream go out again. -/
theorem ackTag_rejected (h : q.status = stReject) : ackTag s q = onFabric s (fun f => { f with retained := f.retained.map (fun o =>
    if o.pkt.cls == 2 && o.pkt.dst == q.src && o.pkt.plane == q.plane && !tagBefore o.pkt.stag q.stag then { o with resend := true } else o) }) := by
  simp [ackTag, hr, h, stReject, stGap, stHeld, stAppliedTag, stApplied]

end Retained

end Answer

/-! ### The host's translations (R171, R172) -/

section Translation

variable {s : State} {p q : Packet}

/-- What is given up is retained no longer, nor does it wait at a port. -/
theorem dropRequests_gone (s : State) (give : Packet → Nat → Bool) :
    (∀ r ∈ (dropRequests s give).fabric.retained, give r.pkt r.core = false) ∧
    (∀ e ∈ (dropRequests s give).fabric.ports, ∀ w ∈ e.2.waiting, give w.1 w.2.1 = false) := by
  refine ⟨fun r hr => ?_, fun e he w hw => ?_⟩
  · simpa using (List.mem_filter.mp hr).2
  · obtain ⟨e, -, rfl⟩ := List.mem_map.mp he
    simpa using (List.mem_filter.mp hw).2

theorem look_cores_onCore_ne (s : State) {j k : Nat} (f : CoreState → CoreState) (h : j ≠ k) : look (onCore s k f).cores j = look s.cores j :=
  look_put_ne _ _ h

/-- No entry of the core waits for the request any more. -/
theorem wakeHost_awake (s : State) (core req : Nat) : ∀ e ∈ (coreOf (wakeHost s core req) core).groups, ∀ y ∈ e.2.entries, y.hold ≠ .host req := by
  intro e he y hy
  rw [wakeHost, coreOf_onCore_self] at he
  obtain ⟨g, -, rfl⟩ := List.mem_map.mp he
  obtain ⟨z, -, rfl⟩ := List.mem_map.mp hy
  split
  · simp
  · assumption

/-! ### Answers and requests that time out -/

variable (s) in
/-- The open request that a REQID names. -/
def requestFor (req : Nat) : Option (Nat × XlReq) := s.xlreqs.find? (fun e => e.1 % 2 ^ 32 == req)

variable (s) in
/-- A request of translation is given up wherever it is kept. -/
def dropXlreq (req : Nat) : State := dropRequests s (fun p _ => p.kind == kXlreq && bitsAt (p.payload.headD 0).toNat 32 32 == req)

variable (q) in
/-- The translation that an XLRSP gives: its address, the size of its page, W and X, and its status (R171). -/
def xlAnswer : Nat × Nat × Bool × Bool × BitVec 8 :=
  (xlField q 0x10 8 / 4096 * 4096, xlField q 0x18 1 % 4, bitAt (xlField q 0x19 1) 0, bitAt (xlField q 0x19 1) 1, BitVec.ofNat 8 (xlField q 1 1))

section Xlrsp

variable {n : Nat} {x : XlReq} (h : Arrives s p kXlrsp q) (hr : requestFor s (xlField q 4 4) = some (n, x))

include h hr

theorem exec_xlrsp_answers (hop : xlField q 0 1 = 2) (ha : x.answer = none) (ht : x.timedOut = false) :
    exec (.xlrsp p) s = .next (wakeHost { dropXlreq s (xlField q 4 4) with
      xlreqs := put (dropXlreq s (xlField q 4 4)).xlreqs n { x with answer := some (xlAnswer q) } } x.core n) := by
  rw [requestFor] at hr
  rw [exec_xlrsp, execXlrsp, h.arrivePacket_unreceived rfl (by decide)]
  simp only [hr, hop, ha, ht, bne_self_eq_false, Option.isSome_none, Bool.or_self, Bool.false_eq_true, if_false]
  rfl

theorem exec_xlrsp_late (hl : xlField q 0 1 ≠ 2 ∨ x.answer ≠ none ∨ x.timedOut = true) : exec (.xlrsp p) s = .next s := by
  have hlate : (xlField q 0 1 != 2 || x.answer.isSome || x.timedOut) = true := by
    rcases hl with hl | hl | hl
    · simp [hl]
    · simp [Option.isSome_iff_ne_none.mpr hl]
    · simp [hl]
  rw [requestFor] at hr
  rw [exec_xlrsp, execXlrsp, h.arrivePacket_unreceived rfl (by decide)]
  simp only [hr, hlate, if_true]

end Xlrsp

section Unanswered

variable {req : BitVec 32} {n : Nat} {x : XlReq} (hr : requestFor s req.toNat = some (n, x))

include hr

theorem exec_xlreqTimeout_over (ha : x.answer = none) (ho : x.sent.toNat + x.limit ≤ (coreOf s x.core).ccyc.toNat) :
    exec (.xlreqTimeout req) s = .next (wakeHost { dropXlreq s req.toNat with
      xlreqs := put (dropXlreq s req.toNat).xlreqs n { x with timedOut := true } } x.core n) := by
  rw [requestFor] at hr
  simp only [exec_xlreqTimeout, execXlreqTimeout, hr, ha, Nat.not_lt.mpr ho, Option.isSome_none, decide_false, Bool.or_self, Bool.false_eq_true, if_false]
  rfl

theorem exec_xlreqTimeout_early (h : x.answer ≠ none ∨ (coreOf s x.core).ccyc.toNat < x.sent.toNat + x.limit) : exec (.xlreqTimeout req) s = .next s := by
  have hearly : (x.answer.isSome || decide ((coreOf s x.core).ccyc.toNat < x.sent.toNat + x.limit)) = true := by
    rcases h with h | h
    · simp [Option.isSome_iff_ne_none.mpr h]
    · simp [h]
  rw [requestFor] at hr
  simp only [exec_xlreqTimeout, execXlreqTimeout, hr, hearly, if_true]

end Unanswered

/-! ### Invalidations that the host asks for -/

section Xlinv

variable (q) in
/-- What a context keeps of an invalidation: its VA, its pages, the REQID, the CONTEXT, and the die by which it came (log 30). -/
def xlinvOf : XlInv :=
  { va := BitVec.ofNat 64 (xlField q 8 8), n := BitVec.ofNat 64 (xlField q 0x10 8), req := BitVec.ofNat 32 (xlField q 4 4),
    context := BitVec.ofNat 16 (xlField q 2 2), die := q.inDie }

/-- A context begins an invalidation. -/
def beginIn (v : XlInv) (s : State) (c : Nat) : State := onCtx (xlinvRequests s c v.va v.n.toNat) c (fun x => { x with xlinv := some v })

theorem exec_xlinv_begins (h : Arrives s p kXlinv q) : exec (.xlinv p) s = .next (beginXlinv s q) := by
  rw [exec_xlinv, execXlinv, h.arrivePacket_unreceived rfl (by decide)]

theorem beginXlinv_waits (h : ∃ c ∈ xlinvCtxs s q, (ctxOf s c).xlinv ≠ none) :
    beginXlinv s q = { s with fabric := { s.fabric with waiting := s.fabric.waiting ++ [q] } } := by
  have hbusy : (xlinvCtxs s q).any (fun c => (ctxOf s c).xlinv.isSome) = true := by
    obtain ⟨c, hc, hx⟩ := h
    exact List.any_eq_true.mpr ⟨c, hc, Option.isSome_iff_ne_none.mpr hx⟩
  simp only [beginXlinv, hbusy, if_true]
  rfl

variable (h : ∀ c ∈ xlinvCtxs s q, (ctxOf s c).xlinv = none)

include h

theorem xlinv_idle : (xlinvCtxs s q).any (fun c => (ctxOf s c).xlinv.isSome) = false := by
  rw [List.any_eq_false]
  intro c hc
  simp [h c hc]

theorem beginXlinv_begins (hne : xlinvCtxs s q ≠ []) : beginXlinv s q = (xlinvCtxs s q).foldl (beginIn (xlinvOf q)) s := by
  have hsome : (xlinvCtxs s q).isEmpty = false := by simpa using hne
  simp only [beginXlinv, xlinv_idle h, hsome, Bool.false_eq_true, if_false]
  rfl

end Xlinv

theorem beginXlinv_nowhere (h : xlinvCtxs s q = []) : beginXlinv s q = xlinvAnswer s 0 (xlinvOf q) := by
  simp only [beginXlinv, h, List.any_nil, List.foldl_nil, List.isEmpty_nil, Bool.false_eq_true, if_false, if_true]
  rfl

end Translation

end Sys2Proof.Machine

namespace Sys2Proof.Proofs

open Sys2Proof Sys2Proof.Machine

/-- Settles O55: an answer by what it reaches, a continuation or a retained packet, and its status; a translation by the state of its request. -/
theorem fabricAnswers : Obligations.FabricAnswers := by
  refine ⟨fun s p q => ⟨fun h _ => responseEvent_responds (exec_rdrsp p s) rfl h, fun h _ => responseEvent_responds (exec_getrsp p s) rfl h,
      fun h _ => responseEvent_responds (exec_atomrsp p s) rfl h,
      respondTo_unmatched,
      fun k e x o getf accs hc ho hk hr => ⟨respondTo_read hc ho hk hr, respondTo_read_trimmed hc ho hk hr⟩,
      fun k e x o op t accs hc ho => respondTo_atomic hc ho,
      fun r h _ hc hr => ?ack,
      fun h _ => exec_ack_close h,
      fun r h _ hc hr => exec_nack_tag hr h hc,
      fun h _ => exec_nack_cont h,
      nackCause_eq,
      fun r h _ hr => exec_refillreq_resends hr h,
      fun k entry o getf accs => ⟨fun _ => exec_continuationTimeout_early, exec_continuationTimeout_read⟩⟩,
    fun s p q => ⟨fun n x h _ hr => ⟨exec_xlrsp_answers h hr, exec_xlrsp_late h hr⟩, fun h _ => ?xlinv,
      fun req n x hr => ⟨exec_xlreqTimeout_over hr, exec_xlreqTimeout_early hr⟩,
      fun core req => ⟨rfl, rfl, fun k => look_cores_onCore_ne s _, wakeHost_awake s core req⟩,
      dropRequests_gone s⟩⟩
  case ack =>
    have hm : retainedFor (noteMark s q) q = some r := by rw [retainedFor_noteMark, hr]
    rw [exec_ack_tag h hc]
    exact ⟨fun h => congrArg _ (ackTag_applied hm h), fun h => congrArg _ (ackTag_appliedTag hm h), fun h => congrArg _ (ackTag_received hm h),
      fun h => congrArg _ (ackTag_rejected hm h)⟩
  case xlinv =>
    rw [exec_xlinv_begins h]
    exact ⟨fun h => congrArg _ (beginXlinv_waits h), fun h hne => congrArg _ (beginXlinv_begins h hne), fun h => congrArg _ (beginXlinv_nowhere h)⟩

end Sys2Proof.Proofs
end

section
/-! PROOF. The gauge instructions at their issue (R193, R198, R374 to R376). -/

namespace Sys2Proof.Machine

section Gauge

variable {s : State} {f : Fx} {i : Issuer}

/-! ### VCOST (R374) -/

/-- The plan of VCOST, and the word that it reports. -/
def costPlan (f : Fx) (i : Issuer) : Plan := lanePlan i f 14 (fun i m => isFull i.g m)

def costReported (s : State) (f : Fx) (i : Issuer) : Word :=
  costWord s (coreOf s i.k) (uniformB i.g f % 32) ((uniformC i.g f).toNat % 2 ^ 25)

theorem exec_vcost_issues (h : Issues s i f false (costPlan f i)) : exec (.vcost f) s = .next (
    complete (writeDest (applyReleases s i (costPlan f i)) i f.d (isFull i.g (i.active f)) (i.active f) (fun _ => costReported s f i)) i []) := by
  rw [exec_vcost, execVcost, onIssue_effect h]
  exact congrArg Host.Outcome.next (passing_pass h.passes _)

/-! ### VCHK and VCKPT.poll (R375, R376) -/

theorem exec_vchk_issuing (hi : issuer s = some i) : exec (.vchk f) s = predOp s f (fun _ _ _ =>
    admits s i.k i.g.ctx (f.modAt 0 3) (uniformB i.g f % 2 ^ 32) (wordInt (uniformC i.g f)) (sluiceBound s i.k i.g.ctx)) := by
  rw [exec_vchk, execVchk, hi]

theorem exec_vckptPoll_issuing (hi : issuer s = some i) :
    exec (.vckptPoll f) s = predOp s f (fun _ _ _ => inSoftStage (coreOf s i.k) i.ctx) := by
  rw [exec_vckptPoll, execVckptPoll, hi]

/-! ### VCKPT (R198, R376) -/

section Vckpt

variable (h : Issues s i f false { cls := 14, active := i.active f })

include h

theorem exec_vckpt_outside (hsoft : inSoftStage (coreOf s i.k) i.ctx = false) : exec (.vckpt f) s = .next (complete s i []) := by
  rw [exec_vckpt, execVckpt, onIssue_effect h]
  refine congrArg Host.Outcome.next ((passing_pass h.passes _).trans ?_)
  rw [hsoft, if_neg Bool.false_ne_true]

theorem exec_vckpt_soft (hsoft : inSoftStage (coreOf s i.k) i.ctx = true) : exec (.vckpt f) s = .next (leaveCheck
    (endIssue s i true [{ i.onward (i.active f) with hold := .checkpoint }, i.onward (i.others (i.active f))] []) i.k i.g.uid) := by
  rw [exec_vckpt, execVckpt, onIssue_effect h]
  exact congrArg Host.Outcome.next ((passing_pass h.passes _).trans (if_pos hsoft))

end Vckpt

/-- An issue that does nothing but end leaves its group as it was, the frontier aside. -/
theorem complete_onlyFrontier (hi : issuer s = some i) : ∃ g, Issued s (complete s i []) i [i.onward i.e.mask] g ∧ OnlyFrontier g i.g :=
  ⟨_, complete_issued (onlyGroup_refl (issuer_slot hi).2.1) (holds_of_issuer hi) rfl, rfl⟩

end Gauge

end Sys2Proof.Machine

namespace Sys2Proof.Proofs

open Sys2Proof Sys2Proof.Machine

/-- Settles O31: VCOST is a write of its destination, VCHK and the poll are writes of a predicate whose bit their issuer decides, and VCKPT
parts by the soft stage. -/
theorem gaugeInstructions : Obligations.GaugeInstructions := by
  refine fun f s i => ⟨fun h => ?cost, fun h => ⟨?check, ?poll⟩, fun h => ⟨fun hsoft => ?outside, exec_vckpt_soft h⟩⟩
  case cost =>
    obtain ⟨g, hg⟩ := writeDest_issued h.issuing (fxPlan_gone i f (i.active f) 14 _) (isFull i.g (i.active f)) (i.active f) (fun _ => costReported s f i)
    exact ⟨_, g, exec_vcost_issues h, hg⟩
  case check =>
    rw [exec_vchk_issuing h.issuing]
    exact predOp_writes _ h
  case poll =>
    rw [exec_vckptPoll_issuing h.issuing]
    exact predOp_writes _ h
  case outside =>
    obtain ⟨g, hg⟩ := complete_onlyFrontier h.issuing
    exact ⟨_, g, exec_vckpt_outside h hsoft, hg⟩

end Sys2Proof.Proofs
end

section
/-! PROOF. A vacate: the writes of CVAC (R197, R203), the ladder of its stages on a core (R196 to R201), and the entry that the sluice has
refused for too long (R194). -/

namespace Sys2Proof.Machine

/-! ### CVAC (R197, R203) -/

section Cvac

variable {s t : State} {c : Nat} {v : Word}

theorem writeCvac_go (hgo : bitAt v.toNat 63 = true) (hkill : bitAt v.toNat 62 = false) (hresume : bitAt v.toNat 61 = false)
    (hbusy : (ctxOf s c).busy = false) : writeCvac s c v = some (requestVacate s c (fieldOf v 0 32)) := by
  simp [writeCvac, hgo, hkill, hresume, hbusy]

theorem writeCvac_go_busy (hgo : bitAt v.toNat 63 = true) (hbusy : (ctxOf s c).busy = true) : writeCvac s c v = none := by
  simp [writeCvac, hgo, hbusy]

theorem writeCvac_resume (hgo : bitAt v.toNat 63 = false) (hkill : bitAt v.toNat 62 = false) (hresume : bitAt v.toNat 61 = true)
    (h1 : (ctxOf s c).phase ≠ 1) (h2 : (ctxOf s c).phase ≠ 2) :
    writeCvac s c v = some (onCtx s c (fun x => { x with hold := false, phase := 0 })) := by
  have hphase : ((ctxOf s c).phase == 1 || (ctxOf s c).phase == 2) = false :=
    Bool.or_eq_false_iff.mpr ⟨beq_eq_false_iff_ne.mpr h1, beq_eq_false_iff_ne.mpr h2⟩
  simp only [writeCvac, hgo, hkill, hresume, hphase, Bool.false_and, Bool.and_false, Bool.or_false, Bool.false_eq_true, if_false, if_true]

theorem writeCvac_resume_early (hresume : bitAt v.toNat 61 = true) (h : (ctxOf s c).phase = 1 ∨ (ctxOf s c).phase = 2) : writeCvac s c v = none := by
  have hphase : ((ctxOf s c).phase == 1 || (ctxOf s c).phase == 2) = true :=
    Bool.or_eq_true_iff.mpr (h.imp beq_iff_eq.mpr beq_iff_eq.mpr)
  simp only [writeCvac, hresume, hphase, Bool.and_self, Bool.or_true, if_true]

theorem writeCvac_kill (hgo : bitAt v.toNat 63 = false) (hkill : bitAt v.toNat 62 = true) (hresume : bitAt v.toNat 61 = false) :
    writeCvac s c v = some (killContext s c) := by
  simp [writeCvac, hgo, hkill, hresume]

variable {w : CtlWrite} {ins : Instr} {b : Bool} (he : exec ins s = ctxWrite s w 0xC8 b) (h : Granted s w (.ctx c 0xC8)) (hb : b = true)

include he h hb

/-- An event of CVAC whose bit the data holds. -/
theorem exec_cvac_taken (ht : writeCvac s c w.data = some t) : exec ins s = .next t := by
  subst hb
  exact exec_write_taken (he.trans (ctxWrite_eq s w _ _)) h (ctxRegister_self c _) ht

theorem exec_cvac_refused (hn : writeCvac s c w.data = none) : exec ins s = .next (refused s w) := by
  subst hb
  exact exec_write_refused (he.trans (ctxWrite_eq s w _ _)) h (ctxRegister_self c _) hn

end Cvac

/-- GO with no placed team: there is nothing to wait for. -/
theorem requestVacate_nowhere {s : State} {c : Nat} (h : coresWith s c = []) (lns : Nat) :
    requestVacate s c lns = onCtx s c (fun x => { x with hold := true, phase := 3, lns := BitVec.ofNat 32 lns }) := by
  rw [requestVacate, h]
  rfl

theorem killContext_ctx (s : State) (c : Nat) : (ctxOf (killContext s c) c).phase = 4 ∧ (ctxOf (killContext s c) c).busy = false ∧
    (ctxOf (killContext s c) c).pending = [] := by
  rw [killContext, ctxOf_onCtx_self]
  exact ⟨rfl, rfl, rfl⟩

/-! ### The ladder on a core (R196 to R203) -/

section Ladder

variable {s : State} {k : BitVec 9} {c : BitVec 10} {v : VacateStage} {te : Word}

theorem exec_vacateStart_first {more : List (Nat × VacateStage)} (h : (coreOf s k.toNat).vacates = (c.toNat, v) :: more) (hbegun : v.begun = false) :
    exec (.vacateStart k c) s =
      .next (onStage s k.toNat c.toNat (fun v => { v with begun := true, start := (coreOf s k.toNat).ccyc })) := by
  simp [exec_vacateStart, execVacateStart, h, hbegun]

/-- What the end of the soft stage makes of a team: it is flushed, or to be saved, and its operations meet their fates (R199, R200). -/
def meetFate (k : Nat) (s : State) (e : Nat × Team) : State :=
  let fl := e.2.leaving.isNone && flushes s k e.1 e.2
  fateAll (onTeam s e.2.uid (fun t => { t with leaving := some (!fl) })) k e.2.uid fl

/-- What the end of the saves makes of a team: it goes back to its launch, or into its image (R201). -/
def leaveCore (k : Nat) (te : Word) (s : State) (e : Nat × Team) : State :=
  let tm := (teamOf (coreOf s k) e.1).getD e.2
  if tm.leaving = some false then flushTeam s k e.1 tm else saveTeam s k e.1 tm (tm.leftAt.getD te)

variable (hv : vacateOf (coreOf s k.toNat) c.toNat = some v)

include hv

theorem exec_softStageEnd_over (hbegun : v.begun = true) (hte : v.te = none) (h : softStageOver s k.toNat c.toNat v = true) :
    exec (.softStageEnd k c) s = .next (phaseCheck (onStage ((laddered s k.toNat c.toNat).foldl (meetFate k.toNat) s) k.toNat c.toNat
      (fun v => { v with te := some (coreOf s k.toNat).ccyc })) c.toNat) := by
  simp only [exec_softStageEnd, execSoftStageEnd, hv, hbegun, hte, h, Option.isNone_none, Bool.and_self, if_true]
  rfl

theorem exec_softStageEnd_goes_on (h : softStageOver s k.toNat c.toNat v = false) : exec (.softStageEnd k c) s = .next s := by
  simp [exec_softStageEnd, execSoftStageEnd, hv, h]

variable (hte : v.te = some te)

include hte

theorem exec_saveBegin_due (h : te.toNat + (ctxOf s c.toNat).q.toNat ≤ (coreOf s k.toNat).ccyc.toNat) :
    exec (.saveBegin k c) s = .next (onStage s k.toNat c.toNat (fun v => { v with saving := true })) := by
  simp [exec_saveBegin, execSaveBegin, hv, hte, h]

theorem exec_killTimerExpire_due (h : te.toNat + vbnd s k.toNat c + v.margin ≤ (coreOf s k.toNat).ccyc.toNat) :
    exec (.killTimerExpire k c) s = .next (killContext s c.toNat) := by
  simp [exec_killTimerExpire, execKillTimerExpire, hv, hte, h]

theorem exec_killTimerExpire_early (h : (coreOf s k.toNat).ccyc.toNat < te.toNat + vbnd s k.toNat c + v.margin) :
    exec (.killTimerExpire k c) s = .next s := by
  simp [exec_killTimerExpire, execKillTimerExpire, hv, hte, Nat.not_le.mpr h]

variable (hsaving : v.saving = true)
  (hdrained : ∀ e ∈ ctxTeams (coreOf s k.toNat) c, e.2.st ≠ .draining ∧ teamDrained (coreOf s k.toNat) e.2.uid = true)

include hsaving hdrained

/-- Once every team has drained, a save waits for the write-backs of the context alone. -/
theorem exec_saveComplete_drained : exec (.saveComplete k c) s = .next (
    if wbsLeft (coreOf (writeBackCtx s k.toNat c) k.toNat) c then writeBackCtx s k.toNat c
    else endStage ((ctxTeams (coreOf s k.toNat) c).foldl (leaveCore k.toNat te) (writeBackCtx s k.toNat c)) k.toNat c.toNat v) := by
  have hall : (ctxTeams (coreOf s k.toNat) c).all (fun e => e.2.st != .draining && teamDrained (coreOf s k.toNat) e.2.uid) = true := by
    simpa using hdrained
  simp only [exec_saveComplete, execSaveComplete, hv, hte, hsaving, hall, Bool.and_self, if_true]
  rfl

theorem exec_saveComplete_done (h : wbsLeft (coreOf (writeBackCtx s k.toNat c) k.toNat) c = false) : exec (.saveComplete k c) s =
    .next (endStage ((ctxTeams (coreOf s k.toNat) c).foldl (leaveCore k.toNat te) (writeBackCtx s k.toNat c)) k.toNat c.toNat v) := by
  rw [exec_saveComplete_drained hv hte hsaving hdrained, h, if_neg Bool.false_ne_true]

theorem exec_saveComplete_waits (h : wbsLeft (coreOf (writeBackCtx s k.toNat c) k.toNat) c = true) :
    exec (.saveComplete k c) s = .next (writeBackCtx s k.toNat c) := by
  rw [exec_saveComplete_drained hv hte hsaving hdrained, if_pos h]

end Ladder

/-! ### An entry that is refused still (R194) -/

section Stall

variable {s t : State} {k : BitVec 9} {slot : BitVec 5} {lanes : Mask} {e : Entry} {x : Word} {g : Group} {f : Instr} {n : Nat} {a : Asked} {i : Issuer}

/-- After VSTALLMAX cycles of refusal an entry is asked about once more, and its refused lanes trap with VBT unless they are admitted now. -/
theorem exec_vbtStallTimeout_due (he : entryNow s k.toNat slot.toNat lanes = some e) (hstall : e.stall = some x)
    (hlimit : e.limit ≤ ((coreOf s k.toNat).ccyc - x).toNat) (hg : groupAt (coreOf s k.toNat) slot.toNat = some g)
    (hfetch : fetchInstr s k.toNat slot.toNat g.ctx e.pc = (t, .inl (f, n))) (hasked : e.asked = some a)
    (hi : issuer (pointAt t k.toNat slot.toNat lanes n) = some i) : exec (.vbtStallTimeout k slot lanes) s = .next (
      if (a.plan e.refusedLanes).admitted t i (vbnd t k.toNat g.ctx) then t
      else trapAtIssue (countVbt (pointAt t k.toNat slot.toNat lanes n) i.ctx e.refusedLanes) i ((a.plan e.refusedLanes).vbt t i)) := by
  have hover : e.stall.any (fun t => e.limit ≤ ((coreOf s k.toNat).ccyc - t).toNat) = true := by
    rw [hstall]
    exact decide_eq_true hlimit
  simp only [exec_vbtStallTimeout, execVbtStallTimeout, he, hover, hg, hfetch, hasked, hi, Bool.not_true, Bool.false_eq_true, if_false, Option.map_some]
  rfl

end Stall

end Sys2Proof.Machine

namespace Sys2Proof.Proofs

open Sys2Proof Sys2Proof.Machine

/-- Settles O45: a write of CVAC by the bits that it sets, each event of the ladder by the stage it finds, and a refused entry by what the
sluice answers now. -/
theorem vacateLadder : Obligations.VacateLadder := by
  refine ⟨fun s w c h => ⟨fun hgo hkill hresume hbusy => ?go,
      fun hgo hbusy => exec_cvac_refused (exec_vacateGo w s) h hgo (writeCvac_go_busy hgo hbusy),
      fun hgo hkill hresume =>
        ⟨fun h1 h2 => exec_cvac_taken (exec_vacateResume w s) h hresume (writeCvac_resume hgo hkill hresume h1 h2),
          fun hphase => exec_cvac_refused (exec_vacateResume w s) h hresume (writeCvac_resume_early hresume hphase)⟩,
      fun hgo hkill hresume => exec_cvac_taken (exec_contextKill w s) h hkill (writeCvac_kill hgo hkill hresume),
      ⟨_, rfl, killContext_ctx s c⟩, fun k c10 v te hc hv hte => ?timer⟩,
    fun s k c => ⟨fun v more => exec_vacateStart_first,
      fun v hv => ⟨exec_softStageEnd_over hv, fun _ _ => exec_softStageEnd_goes_on hv, fun te hte => exec_saveBegin_due hv hte,
        fun te hte hsaving hdrained => ⟨exec_saveComplete_done hv hte hsaving hdrained, exec_saveComplete_waits hv hte hsaving hdrained⟩⟩,
      fun slot lanes e g n f t x a he hstall hlimit hg hfetch hasked i hi => ?stall⟩⟩
  case go =>
    have hgoes : exec (.vacateGo w) s = .next (requestVacate s c (fieldOf w.data 0 32)) :=
      exec_cvac_taken (exec_vacateGo w s) h hgo (writeCvac_go hgo hkill hresume hbusy)
    exact ⟨hgoes, fun hnone => hgoes.trans (congrArg _ (requestVacate_nowhere hnone _))⟩
  case timer =>
    subst hc
    exact ⟨exec_killTimerExpire_due hv hte, exec_killTimerExpire_early hv hte⟩
  case stall =>
    have hdue := exec_vbtStallTimeout_due he hstall hlimit hg hfetch hasked hi
    exact ⟨fun hadmitted => hdue.trans (congrArg _ (if_pos hadmitted)),
      fun hbarred => hdue.trans (congrArg _ (if_neg (Bool.eq_false_iff.mp hbarred)))⟩

end Sys2Proof.Proofs
end

section
/-! PROOF. Write-backs as they are acknowledged, and evictions; fences that begin, wait and complete (R209, R214, R219, R221, R230). -/

namespace Sys2Proof.Machine

/-! ### A write-back that the tables grant (R209, R219) -/

/-- A write-back may be written: it has not been sent, the tables grant it, and it is the oldest of its sector. -/
structure WbLands (s : State) (k n : Nat) (w : WriteBack) : Prop where
  unsent : w.sent = false
  granted : wbGranted s w = true
  oldest : (unsentOf (coreOf s k) w).head?.map (·.1) = some n

/-- The fences that wait on for a write-back which has left as a WR: those that wait for its home. -/
def fencesOnWire (c : CoreState) (w : WriteBack) : List (Nat × Op) :=
  (waitingFences c w).filter (fun e => match e.2.kind with | .fence what _ _ _ _ _ => needsApplied what | _ => false)

section Land

variable {s : State} {k n : Nat} {w : WriteBack} (hw : look (coreOf s k).wbs n = some w)

include hw

theorem landWb_younger (h : (unsentOf (coreOf s k) w).head?.map (·.1) ≠ some n) : landWb s k n = s := by
  simp [landWb, hw, h]

variable (hl : WbLands s k n w)

include hl

/-- One of a line in memory goes on by what holds it at its home and at the port. -/
theorem landWb_phys {l : Nat} (hh : w.home = .phys l) : landWb s k n =
    if lineFree s (dieOfCore k) (l * 256 + 64 * sectorIx w.va) = false then s
    else if portOpen s k w.ctx (.wb n) = false then portWait s k w.ctx (.wb n)
    else onCore (performWriteBack s k w (l * 256 + 64 * sectorIx w.va)) k (fun c => { c with wbs := del c.wbs n }) := by
  obtain ⟨hunsent, hgranted, holdest⟩ := hl
  simp [landWb, hw, hunsent, hgranted, holdest, hh]

theorem landWb_phys_held {l : Nat} (hh : w.home = .phys l) (hheld : lineFree s (dieOfCore k) (l * 256 + 64 * sectorIx w.va) = false) :
    landWb s k n = s := by
  rw [landWb_phys hw hl hh, if_pos hheld]

theorem landWb_phys_waits {l : Nat} (hh : w.home = .phys l) (hfree : lineFree s (dieOfCore k) (l * 256 + 64 * sectorIx w.va) = true)
    (hclosed : portOpen s k w.ctx (.wb n) = false) : landWb s k n = portWait s k w.ctx (.wb n) := by
  rw [landWb_phys hw hl hh, if_neg (by simp [hfree]), if_pos hclosed]

theorem landWb_phys_performs {l : Nat} (hh : w.home = .phys l) (hfree : lineFree s (dieOfCore k) (l * 256 + 64 * sectorIx w.va) = true)
    (hopen : portOpen s k w.ctx (.wb n) = true) : landWb s k n =
      onCore (performWriteBack s k w (l * 256 + 64 * sectorIx w.va)) k (fun c => { c with wbs := del c.wbs n }) := by
  rw [landWb_phys hw hl hh, if_neg (by simp [hfree]), if_neg (by simp [hopen])]

/-- One of a fabric line needs room at the port tracker. -/
theorem landWb_fabric (hh : w.home = .fabric) : landWb s k n =
    if trackerFree (coreOf s k) = 0 then s
    else onCore (sendWriteBack s k (wbBase + n) w) k (fun c => { c with wbs := alter c.wbs n (fun x =>
      { x with sent := true, refused := false, tokens := [], waiters := (fencesOnWire (coreOf s k) w).map (·.1) }) }) := by
  obtain ⟨hunsent, hgranted, holdest⟩ := hl
  simp only [landWb, hw, hunsent, hgranted, holdest, hh, bne_self_eq_false, Bool.or_self, Bool.not_true, Bool.false_eq_true, if_false]
  rfl

end Land

/-! ### The acknowledgement of a write-back (R219, R230) -/

section Ack

variable {s t : State} {k : BitVec 9} {n : Nat} {w : WriteBack} (hw : look (coreOf s k.toNat).wbs n = some w)

include hw

theorem exec_writebackAck_checks (h : ackWriteBack s k.toNat n = t) : exec (.writebackAck k n) s = .next (checkLaunches t w.ctx) := by
  simp only [exec_writebackAck, execWritebackAck, hw, h]

theorem exec_writebackAck_done (h : w.sent = true ∨ w.refused = true) : exec (.writebackAck k n) s = .next (checkLaunches s w.ctx) :=
  exec_writebackAck_checks hw (by simp [ackWriteBack, hw, h])

variable (hs : w.sent = false) (hr : w.refused = false)

include hs hr

theorem exec_writebackAck_refused (hg : wbGranted s w = false) :
    exec (.writebackAck k n) s = .next (checkLaunches (refuseWriteBack s k.toNat n causeAccess 0) w.ctx) :=
  exec_writebackAck_checks hw (by simp [ackWriteBack, hw, hs, hr, hg])

theorem exec_writebackAck_granted (hg : wbGranted s w = true) (h : landWb s k.toNat n = t) :
    exec (.writebackAck k n) s = .next (checkLaunches t w.ctx) :=
  exec_writebackAck_checks hw (by simp [ackWriteBack, hw, hs, hr, hg, h])

end Ack

/-- No launch of the context waits. -/
theorem checkLaunches_none {s : State} {ctx : BitVec 10} (h : s.launches.filter (fun e => e.2.ctx == ctx) = []) : checkLaunches s ctx = s := by
  rw [checkLaunches, h, List.foldl_nil]

/-! ### Fences (R214, R219, R282) -/

section Fence

variable {s : State} {k : BitVec 9} {n : Nat} {o : Op} (ho : opOf s k.toNat n = some o)

include ho

theorem exec_fenceComplete_launches {addr : Word} {q : Nat} (hk : o.kind = .launch addr q) :
    exec (.fenceComplete k n) s = .next (performLaunch s k.toNat n o addr q) := by
  simp only [exec_fenceComplete, execFenceComplete, performFence, ho, hk]

variable {w : FenceWhat} {wbs ops : List Nat} {tok : Word} {a : After}

theorem exec_fenceComplete_begins (hk : o.kind = .fence w wbs ops false tok a) :
    exec (.fenceComplete k n) s = .next (beginFence s k.toNat n) := by
  simp only [exec_fenceComplete, execFenceComplete, performFence, ho, hk]

variable (hk : o.kind = .fence w wbs ops true tok a)

include hk

theorem canComplete_iff : canComplete s k.toNat n = true ↔
    (∀ b ∈ wbs, wbDone (coreOf s k.toNat) n b = true) ∧ homesDone s k.toNat o.ctx w = true := by
  simp only [canComplete, ho, hk, Bool.and_eq_true, List.all_eq_true]

theorem exec_fenceComplete_completes (h : canComplete s k.toNat n = true) : exec (.fenceComplete k n) s =
    .next (afterFence (onGroup (fenceEffect s k.toNat o.ctx w) o.uid o.gid (fun g => unparkGroup g n)) k.toNat n o a) := by
  simp only [exec_fenceComplete, execFenceComplete, performFence, ho, hk, h, if_true]

theorem exec_fenceComplete_waits (h : ¬ canComplete s k.toNat n = true) : exec (.fenceComplete k n) s = .next s := by
  simp only [exec_fenceComplete, execFenceComplete, performFence, ho, hk, h, if_false, Bool.false_eq_true]

end Fence

end Sys2Proof.Machine

namespace Sys2Proof.Proofs

open Sys2Proof Sys2Proof.Machine

/-- Settles O48: a write-back by what holds it or lets it go to its home, a fence by what it still waits for. -/
theorem fencesComplete : Obligations.FencesComplete := by
  refine fun s k n => ⟨fun w hw => ⟨exec_writebackAck_done hw, fun hs hr => ⟨exec_writebackAck_refused hw hs hr,
        fun hg hyounger => exec_writebackAck_granted hw hs hr hg (landWb_younger hw hyounger), fun hg holdest => ?lands⟩,
      fun hnone t ht => checkLaunches_none (by rwa [ht])⟩,
    fun way line => rfl,
    fun o ho => ⟨fun w wbs ops tok a => exec_fenceComplete_begins ho, fun w wbs ops tok a hk => ?completes,
      fun addr q => exec_fenceComplete_launches ho⟩,
    fun ctx acq rel scope => rfl, fun o => rfl⟩
  case lands =>
    have hl : WbLands s k.toNat n w := ⟨hs, hg, holdest⟩
    have hack {t : State} : landWb s k.toNat n = t → exec (.writebackAck k n) s = .next (checkLaunches t w.ctx) :=
      exec_writebackAck_granted hw hs hr hg
    exact ⟨fun l hh => ⟨fun hfree hopen => hack (landWb_phys_performs hw hl hh hfree hopen),
        fun hfree hopen => hack (landWb_phys_waits hw hl hh hfree hopen), fun hheld => hack (landWb_phys_held hw hl hh hheld)⟩,
      fun hh => ⟨fun hroom => hack ((landWb_fabric hw hl hh).trans (if_neg hroom)), fun hfull => hack ((landWb_fabric hw hl hh).trans (if_pos hfull))⟩⟩
  case completes =>
    refine ⟨fun hwbs hhomes => exec_fenceComplete_completes ho hk ((canComplete_iff ho hk).mpr ⟨hwbs, hhomes⟩),
      fun hopen => exec_fenceComplete_waits ho hk fun hc => ?_⟩
    obtain ⟨hwbs, hhomes⟩ := (canComplete_iff ho hk).mp hc
    rcases hopen with ⟨b, hb, hundone⟩ | hundone
    · exact Bool.false_ne_true (hundone.symm.trans (hwbs b hb))
    · exact Bool.false_ne_true (hundone.symm.trans hhomes)

end Sys2Proof.Proofs
end

section
/-! PROOF. Messages between dies under the vector clocks (R209, R223, R224), and the intervals of tokens and rates (R205, R206, R208). -/

namespace Sys2Proof.Machine

/-! ### The head of a link (R209) -/

/-- The head of a link has left it: `rest` is behind it. -/
def offLink (s : State) (src dst : Nat) (rest : List LinkMsg) : State :=
  setDie s dst { dieOf s dst with link := putD (dieOf s dst).link src [] rest }

/-- A message that is held counts, a notice apart. -/
def countHeld (s : State) (m : LinkMsg) : State := match m with | .notice .. => s | _ => bumpCounter s 13 1

section Arrive

variable {s : State} {src dst : Nat} {m : LinkMsg} {rest : List LinkMsg} {kind : LinkMsg → Bool} (hhead : lookD (dieOf s dst).link src [] = m :: rest)
  (hkind : kind m = true)

include hhead hkind

theorem arriveLink_applies (ht : linkTest s dst m = true) : arriveLink s src dst kind = applyLink (offLink s src dst rest) dst m := by
  simp only [arriveLink, hhead, hkind, ht, Bool.not_true, Bool.false_eq_true, if_false, if_true, offLink]

variable (ht : linkTest s dst m = false)

include ht

theorem arriveLink_full (hfull : 4096 ≤ (lookD (dieOf s dst).held (linkSource m) []).length) : arriveLink s src dst kind = s := by
  simp only [arriveLink, hhead, hkind, ht, hfull, Bool.not_true, Bool.false_eq_true, if_false, if_true]

theorem arriveLink_holds (hroom : (lookD (dieOf s dst).held (linkSource m) []).length < 4096) : arriveLink s src dst kind =
    let u := countHeld (offLink s src dst rest) m
    setDie u dst { dieOf u dst with held := put (dieOf u dst).held (linkSource m) (lookD (dieOf u dst).held (linkSource m) [] ++ [m]) } := by
  simp only [arriveLink, hhead, hkind, ht, Nat.not_le.mpr hroom, Bool.not_true, Bool.false_eq_true, if_false]
  rfl

end Arrive

/-- The event of a message's kind takes it off its link. -/
theorem exec_arrives {src dst : BitVec 2} {m : LinkMsg} {ev : Instr} (s : State) (hnotice : ∀ w v, m = .notice w v → ev = .clockNotice src dst)
    (hsettle : ∀ h v l y c, m = .settle h v l y c → ev = .settle src dst)
    (hother : (∀ w v, m ≠ .notice w v) → (∀ h v l y c, m ≠ .settle h v l y c) → ev = .crossDieWrite src dst) :
    ∃ kind : LinkMsg → Bool, kind m = true ∧ exec ev s = .next (arriveLink s src.toNat dst.toNat kind) := by
  cases m with
  | notice w v =>
    rw [hnotice w v rfl]
    exact ⟨_, rfl, rfl⟩
  | settle h v l y c =>
    rw [hsettle h v l y c rfl]
    exact ⟨_, rfl, rfl⟩
  | _ =>
    rw [hother (by simp) (by simp)]
    exact ⟨_, rfl, rfl⟩

/-! ### Held messages (R209) -/

section Held

variable {s : State} {src dst : BitVec 2}

theorem exec_heldWriteApply_oldest {m : LinkMsg} {rest : List LinkMsg} (hheld : lookD (dieOf s dst.toNat).held src.toNat [] = m :: rest)
    (ht : linkTest s dst.toNat m = true) : exec (.heldWriteApply src dst) s = .next (applyLink (setDie s dst.toNat
      { dieOf s dst.toNat with held := putD (dieOf s dst.toNat).held src.toNat [] rest }) dst.toNat m) := by
  simp [exec_heldWriteApply, execHeldWriteApply, hheld, List.findIdx?_cons, ht]

theorem exec_heldWriteApply_none (h : ∀ m ∈ lookD (dieOf s dst.toNat).held src.toNat [], linkTest s dst.toNat m = false) :
    exec (.heldWriteApply src dst) s = .next s := by
  simp only [exec_heldWriteApply, execHeldWriteApply, List.findIdx?_eq_none_iff.mpr h]

end Held

theorem writeTest_iff (vc v : List Word) (w x : Nat) :
    writeTest vc v w x = true ↔ clk v w = clk vc w + 1 ∧ ∀ e, e < 4 → e ≠ w → e ≠ x → clk v e ≤ clk vc e := by
  simp only [writeTest, Bool.and_eq_true, beq_iff_eq, List.all_eq_true, List.mem_range, Bool.or_eq_true, decide_eq_true_eq, or_iff_not_imp_left,
    Classical.not_imp, and_imp, ne_eq]

/-! ### Refills (R205) -/

theorem refillDue_iff (c : CoreState) : refillDue c = true ↔ c.refillAt.toNat + 1024 ≤ c.ccyc.toNat := decide_eq_true_iff

section Refill

variable {s : State} {k : BitVec 9}

theorem exec_tokenRefill_due (h : (coreOf s k.toNat).refillAt.toNat + 1024 ≤ (coreOf s k.toNat).ccyc.toNat) :
    exec (.tokenRefill k) s = .next (onCore s k.toNat refilled) := by
  rw [exec_tokenRefill, execTokenRefill, if_pos ((refillDue_iff _).mpr h)]

theorem exec_tokenRefill_early (h : (coreOf s k.toNat).ccyc.toNat < (coreOf s k.toNat).refillAt.toNat + 1024) :
    exec (.tokenRefill k) s = .next s := by
  rw [exec_tokenRefill, execTokenRefill, if_neg (mt (refillDue_iff _).mp (Nat.not_le.mpr h))]

end Refill

/-! ### Requests at a port (R205) -/

theorem wbGranted_congr {s t : State} (h : t.device = s.device) : wbGranted t = wbGranted s := by
  funext w
  simp only [wbGranted, memGrants, tatGrants, tatByte, h]

/-- Which requests of a core wait does not depend on its refill. -/
theorem portQueue_congr {s t : State} {k : Nat} {r : BitVec 17} (hfabric : t.fabric = s.fabric) (hdevice : t.device = s.device)
    (hcore : { coreOf t k with rTok := r } = coreOf s k) : portQueue t k = portQueue s k := by
  have hlive : reqLive t k = reqLive s k := by
    funext q
    simp only [reqLive, ← hcore, hfabric, wbGranted_congr hdevice]
    rfl
  rw [portQueue, portQueue, hlive, ← hcore]

/-! ### What the next interval of a die's tokens leaves (R206) -/

/-- A state after registers of polders and refills of cores have been set for the next interval: every PCFG, all of a core but its refill,
and all that is neither polder nor core, are as they were. -/
structure Allotted (s t : State) : Prop where
  others : { t with polders := s.polders, cores := s.cores } = s
  pcfg : ∀ p, (polderOf t p).pcfg = (polderOf s p).pcfg
  core : ∀ k, { coreOf t k with rTok := (coreOf s k).rTok } = coreOf s k
  present : ∀ k, (look s.cores k).isSome = true → (look t.cores k).isSome = true

namespace Allotted

theorem refl (s : State) : Allotted s s := ⟨rfl, fun _ => rfl, fun _ => rfl, fun _ h => h⟩

theorem trans {s t u : State} (h : Allotted s t) (h' : Allotted t u) : Allotted s u where
  others := (congrArg (fun t : State => { t with polders := s.polders, cores := s.cores }) h'.others).trans h.others
  pcfg p := (h'.pcfg p).trans (h.pcfg p)
  core k := (congrArg (fun c : CoreState => { c with rTok := (coreOf s k).rTok }) (h'.core k)).trans (h.core k)
  present k hk := h'.present k (h.present k hk)

theorem of_setPolder (s : State) {p : Nat} {x : Polder} (hx : x.pcfg = (polderOf s p).pcfg) : Allotted s (setPolder s p x) where
  others := rfl
  pcfg q := by
    by_cases h : q = p
    · rw [h, polderOf_setPolder_self, hx]
    · rw [polderOf, polderOf, setPolder, lookD_put_ne _ _ _ h]
  core _ := rfl
  present _ hk := hk

theorem of_refill (s : State) (k : Nat) (r : BitVec 17) : Allotted s (onCore s k (fun c => { c with rTok := r })) where
  others := rfl
  pcfg _ := rfl
  core j := by
    by_cases h : j = k
    · rw [h, coreOf_onCore_self]
    · rw [coreOf_onCore_ne s _ h]
  present j hj := by
    by_cases h : j = k
    · rw [h]
      exact Option.isSome_iff_exists.mpr ⟨_, look_put_self _ _ _⟩
    · rwa [look_cores_onCore_ne s _ h]

theorem of_intervalPolder (s : State) (d : Nat) (l : List (Nat × Bool)) (e : Nat × Bool) : Allotted s (intervalPolder s d l e) :=
  foldl_invariant (of_setPolder s rfl) (fun t k _ ht => ht.trans (of_refill t k _))

theorem of_intervals (s : State) (d : Nat) (l es : List (Nat × Bool)) : Allotted s (es.foldl (fun t e => intervalPolder t d l e) s) :=
  foldl_invariant (refl s) (fun t e _ ht => ht.trans (of_intervalPolder t d l e))

variable {s t : State} (h : Allotted s t)

include h

theorem share_eq (p : Nat) : (polderOf t p).share = (polderOf s p).share := congrArg (fieldOf · 8 8) (h.pcfg p)

theorem state_eq (p : Nat) : (polderOf t p).state = (polderOf s p).state := congrArg (fieldOf · 0 2) (h.pcfg p)

theorem baseAllot_eq (p : Nat) : baseAllot (polderOf t p) = baseAllot (polderOf s p) := by
  rw [baseAllot, baseAllot, h.share_eq]

theorem effAllot_eq (l : List (Nat × Bool)) (e : Nat × Bool) : effAllot t l e = effAllot s l e := by
  simp only [effAllot, h.share_eq, h.state_eq, h.baseAllot_eq]

theorem device_eq : t.device = s.device := (congrArg State.device h.others :)

theorem fabric_eq : t.fabric = s.fabric := (congrArg State.fabric h.others :)

theorem dies_eq : t.dies = s.dies := (congrArg State.dies h.others :)

end Allotted

/-! ### A polder's allotment (R206) -/

/-- PTOK of a polder for the next interval, by the polders that share the pool. -/
def ptokOf (s : State) (l : List (Nat × Bool)) (e : Nat × Bool) : Word :=
  BitVec.ofNat 64 (baseAllot (polderOf s e.1) % 2 ^ 18 + effAllot s l e % 2 ^ 18 * 2 ^ 20 + if e.2 then 2 ^ 63 else 0)

theorem Allotted.ptokOf_eq {s t : State} (h : Allotted s t) (l : List (Nat × Bool)) (e : Nat × Bool) : ptokOf t l e = ptokOf s l e := by
  rw [ptokOf, ptokOf, h.baseAllot_eq, h.effAllot_eq]

theorem polders_refills (ks : List Nat) (f : CoreState → CoreState) (s : State) : (ks.foldl (fun s k => onCore s k f) s).polders = s.polders :=
  foldl_keeps State.polders (fun s k => onCore s k f) (fun _ _ => rfl) ks s

section Interval

variable (s : State) (d : Nat) (l : List (Nat × Bool))

theorem look_polders_intervalPolder_ne {p : Nat} {e : Nat × Bool} (h : p ≠ e.1) :
    look (intervalPolder s d l e).polders p = look s.polders p := by
  rw [intervalPolder, polders_refills]
  exact look_put_ne _ _ h

theorem ptok_intervalPolder (e : Nat × Bool) : look (polderOf (intervalPolder s d l e) e.1).ptok d = some (ptokOf s l e) := by
  rw [polderOf, intervalPolder, polders_refills, setPolder, lookD_put_self]
  exact look_put_self _ _ _

theorem look_polders_intervals_notMem {p : Nat} {es : List (Nat × Bool)} (h : p ∉ es.map (·.1)) :
    look (es.foldl (fun t e => intervalPolder t d l e) s).polders p = look s.polders p :=
  foldl_invariant (P := fun t => look t.polders p = look s.polders p) rfl
    (fun t e he ht => (look_polders_intervalPolder_ne t d l (fun hp => h (List.mem_map.mpr ⟨e, he, hp.symm⟩))).trans ht)

theorem ptok_intervals_mem {e : Nat × Bool} {es : List (Nat × Bool)} (hn : (es.map (·.1)).Nodup) (he : e ∈ es) :
    look (polderOf (es.foldl (fun t e => intervalPolder t d l e) s) e.1).ptok d = some (ptokOf s l e) := by
  induction es generalizing s with
  | nil => exact absurd he List.not_mem_nil
  | cons x r ih =>
    obtain ⟨hx, hr⟩ := List.nodup_cons.mp hn
    rw [List.foldl_cons]
    rcases List.mem_cons.mp he with rfl | he
    · rw [polderOf, lookD, look_polders_intervals_notMem _ d l hx]
      exact ptok_intervalPolder s d l e
    · rw [ih _ hr he, (Allotted.of_intervalPolder s d l x).ptokOf_eq]

end Interval

/-! ### The interval that begins on a die (R206) -/

/-- The polders of the device, with their idle flags at the boundary. -/
def boundary (s : State) (d : Nat) : List (Nat × Bool) := (List.range 64).map (fun p => (p, idleAfter s p d))

theorem boundary_keys (s : State) (d : Nat) : (boundary s d).map (·.1) = List.range 64 := by
  rw [boundary, List.map_map]
  exact List.map_id _

/-- The state in which the registers of every polder hold the next interval. -/
def allotted (s : State) (d : Nat) : State := (boundary s d).foldl (fun t e => intervalPolder t d (sharers s d) e) s

theorem allotted_spec (s : State) (d : Nat) : Allotted s (allotted s d) := Allotted.of_intervals s d _ _

/-- The interval has begun on the die's clock. -/
def flowStarted (s : State) (d : Nat) : State := onDie (allotted s d) d (fun x => { x with flowAt := x.flowAt + 1024 })

/-- A core of a die has taken nothing yet, and is dry while requests wait at its port. -/
def freshCounts (s : State) (d : Nat) (e : Nat × CoreState) : Nat × CoreState :=
  if e.1 / 80 = d then (e.1, { e.2 with took := false, dry := !(portQueue s e.1).isEmpty }) else e

theorem freshCounts_key (s : State) (d : Nat) (e : Nat × CoreState) : (freshCounts s d e).1 = e.1 := by
  unfold freshCounts
  split <;> rfl

theorem nextInterval_eq (s : State) (d : Nat) : nextInterval s d =
    { flowStarted s d with cores := (flowStarted s d).cores.map (freshCounts (flowStarted s d) d) } := rfl

/-- Reading a list whose every entry has been changed under its own key. -/
theorem look_map_entries {α : Type} (m : AMap α) (f : Nat × α → Nat × α) (hf : ∀ e, (f e).1 = e.1) (k : Nat) :
    look (m.map f) k = (look m k).map (fun x => (f (k, x)).2) := by
  induction m with
  | nil => rfl
  | cons e m ih =>
    rw [List.map_cons, look, look, hf, ih]
    split
    · subst_vars; rfl
    · rfl

section NextInterval

variable (s : State) (d : Nat)

theorem others_nextInterval : (nextInterval s d).mem = s.mem ∧ (nextInterval s d).device = s.device ∧ (nextInterval s d).fabric = s.fabric ∧
    (nextInterval s d).ctxs = s.ctxs := by
  have h := (allotted_spec s d).others
  simp only [nextInterval_eq, flowStarted, onDie, setDie_mem, setDie_device, setDie_fabric, setDie_ctxs]
  exact ⟨(congrArg State.mem h :), (congrArg State.device h :), (congrArg State.fabric h :), (congrArg State.ctxs h :)⟩

theorem flowAt_nextInterval : (dieOf (nextInterval s d) d).flowAt = (dieOf s d).flowAt + 1024 := by
  have hdie : dieOf (allotted s d) d = dieOf s d := by rw [dieOf, dieOf, (allotted_spec s d).dies_eq]
  have hflow : dieOf (nextInterval s d) d = dieOf (flowStarted s d) d := by simp only [dieOf, nextInterval_eq]
  rw [hflow, flowStarted, dieOf_onDie_self, hdie]

theorem core_nextInterval {k : Nat} (hk : k < 80) (hp : (look s.cores (d * 80 + k)).isSome = true) :
    (coreOf (nextInterval s d) (d * 80 + k)).took = false ∧ (coreOf (nextInterval s d) (d * 80 + k)).dry = !(portQueue s (d * 80 + k)).isEmpty := by
  have ha := allotted_spec s d
  obtain ⟨c, hc⟩ := Option.isSome_iff_exists.mp (ha.present _ hp)
  have hdie : (d * 80 + k) / 80 = d := by omega
  have hqueue : portQueue (flowStarted s d) (d * 80 + k) = portQueue s (d * 80 + k) := by
    refine portQueue_congr (r := (coreOf s (d * 80 + k)).rTok) ?_ ?_ ?_
    · rw [flowStarted, onDie, setDie_fabric, ha.fabric_eq]
    · rw [flowStarted, onDie, setDie_device, ha.device_eq]
    · rw [flowStarted, onDie, coreOf_setDie, ha.core]
  have hcore : coreOf (nextInterval s d) (d * 80 + k) = { c with took := false, dry := !(portQueue s (d * 80 + k)).isEmpty } := by
    have hlook : look (flowStarted s d).cores (d * 80 + k) = some c := by rw [flowStarted, onDie, setDie_cores, hc]
    rw [nextInterval_eq, coreOf, lookD, look_map_entries _ _ (freshCounts_key _ _), hlook, Option.map_some, freshCounts, if_pos hdie, hqueue]
    rfl
  rw [hcore]
  exact ⟨rfl, rfl⟩

theorem polders_nextInterval : (nextInterval s d).polders = (allotted s d).polders := by
  simp only [nextInterval_eq, flowStarted, onDie, setDie_polders]

theorem look_polders_nextInterval {p : Nat} (h : 64 ≤ p) : look (nextInterval s d).polders p = look s.polders p := by
  have hp : p ∉ (boundary s d).map (·.1) := by
    rw [boundary_keys, List.mem_range]
    exact Nat.not_lt.mpr h
  rw [polders_nextInterval]
  exact look_polders_intervals_notMem s d _ hp

theorem ptok_nextInterval {p : Nat} (h : p < 64) :
    look (polderOf (nextInterval s d) p).ptok d = some (ptokOf s (sharers s d) (p, idleAfter s p d)) := by
  have hn : ((boundary s d).map (·.1)).Nodup := by
    rw [boundary_keys]
    exact List.nodup_range
  have he : (p, idleAfter s p d) ∈ boundary s d := List.mem_map_of_mem (List.mem_range.mpr h)
  have hp : polderOf (nextInterval s d) p = polderOf (allotted s d) p := by rw [polderOf, polders_nextInterval, polderOf]
  rw [hp, allotted]
  exact ptok_intervals_mem s d _ (e := (p, idleAfter s p d)) hn he

end NextInterval

theorem intervalDue_iff (x : Die) : intervalDue x = true ↔ x.flowAt.toNat + 1024 ≤ x.cyc.toNat := decide_eq_true_iff

theorem exec_tokenInterval_early {s : State} {d : BitVec 2} (h : (dieOf s d.toNat).cyc.toNat < (dieOf s d.toNat).flowAt.toNat + 1024) :
    exec (.tokenInterval d) s = .next s := by
  rw [exec_tokenInterval, execTokenInterval, if_neg (mt (intervalDue_iff _).mp (Nat.not_le.mpr h))]

theorem exec_tokenInterval_due {s : State} {d : BitVec 2} (h : (dieOf s d.toNat).flowAt.toNat + 1024 ≤ (dieOf s d.toNat).cyc.toNat) :
    exec (.tokenInterval d) s = .next (nextInterval s d.toNat) := by
  rw [exec_tokenInterval, execTokenInterval, if_pos ((intervalDue_iff _).mpr h)]

/-- A polder is idle when it has taken no token for its idle window. -/
theorem idleAfter_iff (s : State) (p d : Nat) : idleAfter s p d = true ↔ (polderOf s p).idlew ≤
    if (coresOn s p d).any (fun k => (coreOf s k).took) then 0 else lookD (polderOf s p).quiet d 0 + 1 := by
  rw [idleAfter, decide_eq_true_iff, quietAfter]

/-! ### Rates (R208) -/

/-- Every polder's rate at a port for the next interval. -/
def nextRates (s : State) (n : Nat) : State := { s with polders := s.polders.map (fun e => (e.1, nextRate e.2 n)) }

theorem look_polders_nextRates {s : State} {p : Nat} {x : Polder} (h : look s.polders p = some x) (n : Nat) :
    look (nextRates s n).polders p = some (nextRate x n) :=
  (look_map s.polders (nextRate · n) p).trans (congrArg (Option.map (nextRate · n)) h)

section Rate

variable {s : State} {port : BitVec 4}

theorem exec_rateInterval_early (h : rateDue s port.toNat = false) : exec (.rateInterval port) s = .next s := by
  rw [exec_rateInterval, execRateInterval, h, if_neg Bool.false_ne_true]

theorem exec_rateInterval_due (h : rateDue s port.toNat = true) : exec (.rateInterval port) s =
    .next (onPort (nextRates s port.toNat) port.toNat (fun x => { x with rateAt := x.rateAt + 1024 })) := by
  rw [exec_rateInterval, execRateInterval, if_pos h]
  rfl

end Rate

end Sys2Proof.Machine

namespace Sys2Proof.Proofs

open Sys2Proof Sys2Proof.Machine

/-- Settles O51: a message by its test and the room for it, a refill and the two intervals by whether they are due; the polders of an
interval one after another, each reading what the others leave alone. -/
theorem diesAndTokens : Obligations.DiesAndTokens := by
  refine ⟨fun s src dst m rest => ⟨fun ev hnotice hsettle hother hhead => ?arrives, exec_heldWriteApply_oldest, exec_heldWriteApply_none,
      fun vc v w => writeTest_iff vc v w _, fun w v => rfl, fun h v line data c => rfl⟩,
    fun s => ⟨fun k => ⟨exec_tokenRefill_due, exec_tokenRefill_early⟩, fun d => ⟨exec_tokenInterval_early, fun hdue => ?interval⟩,
      fun port => exec_rateInterval_early, fun port p x hdue hx => ?rate⟩⟩
  case arrives =>
    obtain ⟨kind, hkind, hev⟩ := exec_arrives s hnotice hsettle hother
    exact ⟨fun ht => hev.trans (congrArg _ (arriveLink_applies hhead hkind ht)),
      fun ht hfull => hev.trans (congrArg _ (arriveLink_full hhead hkind ht hfull)),
      fun ht hroom => hev.trans (congrArg _ (arriveLink_holds hhead hkind ht hroom))⟩
  case interval =>
    obtain ⟨hmem, hdevice, hfabric, hctxs⟩ := others_nextInterval s d.toNat
    exact ⟨_, exec_tokenInterval_due hdue, hmem, hdevice, hfabric, hctxs, flowAt_nextInterval s d.toNat, fun k => core_nextInterval s d.toNat,
      fun p => look_polders_nextInterval s d.toNat, fun p hp => ⟨ptok_nextInterval s d.toNat hp, idleAfter_iff s p d.toNat⟩⟩
  case rate =>
    refine ⟨_, nextRate x port.toNat, exec_rateInterval_due hdue, look_polders_nextRates hx _, ?_, rfl, rfl⟩
    rw [portOf_onPort_self]
    rfl

end Sys2Proof.Proofs
end

section
/-! PROOF. The start of a fence (R200, R215, R219): the operations that the save of their team keeps. -/

namespace Sys2Proof.Machine

/-! ### The counterexample

The team of core 0 leaves in the soft stage of a vacate, its load kept for the resume (R198, R200). A fence of its group covers the load, but
does not wait for it: what is set aside is issued again only at the resume (log 47). With nothing else before it the fence starts its
write-backs at once. -/

/-- The load of the group, kept by the save of its team. -/
def keptLoad : Op :=
  { uid := 0, gid := 0, ctx := 0, polder := 0, lanes := 1, pc := probeAddr, seq := 1, kind := .load .keep [] false }

/-- The team that leaves, the load in flight as operation 1. -/
def leavingState : State :=
  onCore (State.reset.withFetchWord 64 0) 0
    (fun c => { c with teams := [(0, { probeTeam 0 0 with leaving := some true })], ops := [(1, keptLoad)], nextOp := 2 })

def leavingIssuer : Issuer :=
  { k := 0, slot := 0, g := probeGroup 0, e := { mask := 1, pc := probeAddr, left := 1 }, t := 0,
    tm := { probeTeam 0 0 with leaving := some true }, len := 8 }

/-- FENCE.ar at the scope of the system, which covers every earlier access. -/
def fullFence : FenceWhat := .fence true true 5

/-- The fence covers the load. -/
theorem earlierOps_leavingState : earlierOps (coreOf leavingState 0) 0 0 2 (fenceWaits fullFence) = [1] := by decide +kernel

/-- It has no operation left to wait for, and its write-backs have started. -/
theorem kind_startFence_leavingState :
    (opOf (startFence leavingState leavingIssuer { active := 1 } 1 fullFence .nothing).1 0 2).map (·.kind) =
      some (.fence fullFence [] [] true 0 .nothing) := by decide +kernel

end Sys2Proof.Machine

namespace Sys2Proof.Proofs

open Sys2Proof Sys2Proof.Machine

/-- Refutes O37: the statement makes a fence wait for every earlier operation that it covers, also where their team is leaving. A load that the
save of its team keeps for the resume (R200, log 47) is set aside, and the fence of the counterexample starts its write-backs without it. -/
theorem not_fencesIssue : ¬ Obligations.FencesIssue := by
  rintro ⟨-, hstarts⟩
  have hcovers : earlierOps (coreOf leavingState 0) 0 0 2 (fenceWaits fullFence) ≠ [] := by simp [earlierOps_leavingState]
  obtain ⟨op, hop, hkind, -⟩ := hstarts leavingState leavingIssuer { active := 1 } 1 fullFence .nothing
    (by decide +kernel) (by decide +kernel) hcovers
  have hbegun := kind_startFence_leavingState
  exact absurd (hbegun.symm.trans (congrArg (Option.map (·.kind)) hop)) (by simp [hkind])

end Sys2Proof.Proofs
end

section
/-! PROOF. Bytes written into a word or a sector, and read back (R79, R82, R232). -/

namespace Sys2Proof.Machine

/-! ### Bytes laid over a number -/

/-- A number with the byte at a bit position replaced. -/
theorem byte_replaced (old p b : Nat) : old - bitsAt old p 8 * 2 ^ p + b * 2 ^ p = old % 2 ^ p + 2 ^ p * (b + 256 * (old / 2 ^ p / 256)) := by
  have hsplit : old = old % 2 ^ p + 2 ^ p * (256 * (old / 2 ^ p / 256)) + bitsAt old p 8 * 2 ^ p := by
    calc old = old % 2 ^ p + 2 ^ p * (old / 2 ^ p) := (Nat.mod_add_div ..).symm
      _ = old % 2 ^ p + 2 ^ p * (old / 2 ^ p % 256 + 256 * (old / 2 ^ p / 256)) := by rw [Nat.mod_add_div (old / 2 ^ p) 256]
      _ = _ := by rw [bitsAt, show (2 : Nat) ^ 8 = 256 from rfl]; ring
  rw [Nat.sub_eq_of_eq_add hsplit]
  ring

/-- Bytes laid over a number leave those below them, and read as what was laid there. -/
theorem overlayBytes_reads (n old off v : Nat) : overlayBytes old n off (2 ^ n - 1) v % 2 ^ (8 * off) = old % 2 ^ (8 * off) ∧
    bitsAt (overlayBytes old n off (2 ^ n - 1) v) (8 * off) (8 * n) = v % 2 ^ (8 * n) := by
  induction n generalizing old off v with
  | zero => exact ⟨rfl, by simp [bitsAt, Nat.mod_one]⟩
  | succ n ih =>
    have hpos : 0 < 2 ^ n := Nat.two_pow_pos n
    have hodd : (2 ^ (n + 1) - 1) % 2 = 1 := by omega
    have hhalf : (2 ^ (n + 1) - 1) / 2 = 2 ^ n - 1 := by omega
    have hnext : 2 ^ (8 * (off + 1)) = 2 ^ (8 * off) * 256 := pow_add ..
    have hbytes : 2 ^ (8 * (n + 1)) = 256 * 2 ^ (8 * n) := by ring
    rw [overlayBytes, if_pos hodd, hhalf, byte_replaced]
    obtain ⟨hbelow, habove⟩ := ih (old % 2 ^ (8 * off) + 2 ^ (8 * off) * (v % 256 + 256 * (old / 2 ^ (8 * off) / 256))) (off + 1) (v / 256)
    rw [hnext] at hbelow
    rw [bitsAt, hnext, ← Nat.div_div_eq_div_mul] at habove
    generalize overlayBytes _ n (off + 1) (2 ^ n - 1) (v / 256) = x at hbelow habove ⊢
    have hlow := congrArg (· % 2 ^ (8 * off)) hbelow
    have hbyte := congrArg (· / 2 ^ (8 * off)) hbelow
    simp only [Nat.mod_mul_right_mod, Nat.mod_mul_right_div_self, Nat.add_mul_mod_self_left, Nat.mod_mod,
      Nat.add_mul_div_left _ _ (Nat.two_pow_pos (8 * off)), Nat.div_eq_of_lt (Nat.mod_lt old (Nat.two_pow_pos (8 * off))), Nat.zero_add] at hlow hbyte
    exact ⟨hlow, by rw [bitsAt, hbytes, Nat.mod_mul, Nat.mod_mul (x := v), hbyte, habove]⟩

/-- Bytes of a word of `w` bits, within it. -/
theorem bitsAt_ofNat {w lo len : Nat} (x : Nat) (h : lo + len ≤ w) : bitsAt (BitVec.ofNat w x).toNat lo len = bitsAt x lo len := by
  rw [BitVec.toNat_ofNat, bitsAt, bitsAt, ← Nat.add_sub_of_le h, Nat.add_assoc, Nat.pow_add, Nat.mod_mul_right_div_self, Nat.pow_add,
    Nat.mod_mul_right_mod]

/-- The bytes laid into a word, read again. -/
theorem bitsAt_overlayBytes {w n off : Nat} (old v : Nat) (h : 8 * off + 8 * n ≤ w) :
    bitsAt (BitVec.ofNat w (overlayBytes old n off (2 ^ n - 1) v)).toNat (8 * off) (8 * n) = v % 2 ^ (8 * n) := by
  rw [bitsAt_ofNat _ h, (overlayBytes_reads n old off v).2]

/-! ### Scratch (R82) -/

/-- What is written within a word of scratch is read there. -/
theorem scratchRead_scratchWrite (c : CoreState) {a m : Nat} (v : Nat) (h : a % 8 + m ≤ 8) :
    scratchRead (scratchWrite c a m v) a m = v % 2 ^ (8 * m) := by
  unfold scratchRead scratchWrite
  dsimp only
  rw [show ∀ x, bankOf (setBank c (a / 32768) x) (a / 32768) = x from fun x => lookD_put_self .., lookD_putD_self]
  exact bitsAt_overlayBytes _ _ (by omega)

end Sys2Proof.Machine
end

section
/-! PROOF. A store into a line of the L1, and a later load of the same bytes (R79, R216). -/

namespace Sys2Proof.Machine

/-! ### A line of the L1 that is changed in place -/

/-- A core with the line at a key changed. -/
def onLine (c : CoreState) (key : Nat) (f : L1Line → L1Line) : CoreState := { c with l1 := alter c.l1 key f }

theorem look_onLine (c : CoreState) (key : Nat) (f : L1Line → L1Line) : look (onLine c key f).l1 key = (look c.l1 key).map f :=
  (look_alter ..).trans (if_pos rfl)

/-- A line that keeps its context and address is found where it was. -/
theorem l1Find_onLine (c : CoreState) (key : Nat) {f : L1Line → L1Line} (hf : ∀ l, (f l).ctx = l.ctx ∧ (f l).va = l.va) (ctx : BitVec 10) (va : Word) :
    l1Find (onLine c key f) ctx va = l1Find c ctx va := by
  have hsame : ∀ j, (look (alter c.l1 key f) j).any (fun l => l.ctx == ctx && l.va == vLineOf va) =
      (look c.l1 j).any (fun l => l.ctx == ctx && l.va == vLineOf va) := by
    intro j
    rw [look_alter]
    split
    · cases look c.l1 j with
      | none => rfl
      | some l => simp [hf l]
    · rfl
  exact congrArg (fun p => ((cacheBanks c).map (fun b => b * 128 + setOf va)).find? p) (funext hsame)

theorem l1Sector_setSector (l : L1Line) {i : Nat} (x : Sector) (h : i < l.sectors.length) : l1Sector (setSector l i x) i = x := by
  simp [l1Sector, setSector, h]

theorem sectorIx_lt (va : Word) : sectorIx va < 4 := Nat.mod_lt _ (by decide)

/-- A core whose L1 holds a line has a cache bank. -/
theorem loadsHome_keep_of_found {c : CoreState} {ctx : BitVec 10} {va : Word} {key : Nat} (h : l1Find c ctx va = some key) :
    loadsHome c .keep = false := by
  cases hbanks : cacheBanks c with
  | nil => simp [l1Find, hbanks] at h
  | cons b r => simp [loadsHome, hbanks]

/-! ### A store into a line, and a load of the same bytes (R79) -/

/-- A sector with stored bytes in it, dirty. -/
def storedSector (x : Sector) (off n v : Nat) : Sector :=
  let d := x.dirty ||| BitVec.ofNat 64 ((2 ^ n - 1) * 2 ^ off)
  { x with dirty := d, poison := x.poison && d != BitVec.allOnes 64, data := BitVec.ofNat 512 (overlayBytes x.data.toNat n off (2 ^ n - 1) v) }

/-- A line as a store leaves it, write-checked. -/
def storedLine (i off n v : Nat) (first : Bool) (l : L1Line) : L1Line :=
  setSector { l with checked := l.checked || true, first := l.first || first } i (storedSector (l1Sector l i) off n v)

theorem l1Sector_storedLine {l : L1Line} {i : Nat} (off n v : Nat) (first : Bool) (h : i < l.sectors.length) :
    l1Sector (storedLine i off n v first l) i = storedSector (l1Sector l i) off n v :=
  l1Sector_setSector { l with checked := l.checked || true, first := l.first || first } _ h

theorem alter_alter {α : Type} (m : AMap α) (k : Nat) (f g : α → α) : alter (alter m k f) k g = alter m k (g ∘ f) := by
  rw [alter, alter, alter, List.map_map]
  refine List.map_congr_left fun e _ => ?_
  by_cases h : e.1 = k <;> simp [h]

/-- A store into a line that the L1 holds. -/
theorem storeOne_line {s : State} {k n : Nat} {o : Op} {a : LaneAcc} {key : Nat} (path : Path) (hspace : a.space = .hbm)
    (hfound : l1Find (coreOf s k) o.ctx a.va = some key) :
    storeOne s k n o path none a =
      onCore s k (fun c => onLine c key (storedLine (sectorIx a.va) (a.va.toNat % 64) a.n a.data.toNat (path = .pass))) := by
  simp only [storeOne, hspace, allocLine, hfound, markLine, storeSector, onCore_onCore]
  exact congrArg (onCore s k) (funext fun c => by simp only [alter_alter]; rfl)

/-- A load of bytes that a line of the L1 holds. -/
theorem loadOne_line {s : State} {k : Nat} {o : Op} {a : LaneAcc} {key : Nat} {l : L1Line} (hspace : a.space = .hbm) (hn : a.n ≠ 0)
    (hfound : l1Find (coreOf s k) o.ctx a.va = some key) (hl : look (coreOf s k).l1 key = some l)
    (hbytes : holdsBytes (l1Sector l (sectorIx a.va)) a.va a.n = true) :
    loadOne s k o .keep a = (s, loadValue a (bitsAt (l1Sector l (sectorIx a.va)).data.toNat (8 * (a.va.toNat % 64)) (8 * a.n))) := by
  have hhas : l1Has (coreOf s k) o.ctx a = true := by simp [l1Has, hfound, hl, hn, hbytes]
  simp [loadOne, hspace, loadsHome_keep_of_found hfound, allocLine, hfound, hhas, hl, hn]

/-- The bytes that a store has made dirty are held. -/
theorem holdsBytes_dirty {x : Sector} {va : Word} {n : Nat} (y : BitVec 64) (hn : va.toNat % 64 + n ≤ 64)
    (hd : x.dirty = y ||| BitVec.ofNat 64 ((2 ^ n - 1) * 2 ^ (va.toNat % 64))) : holdsBytes x va n = true := by
  have hfits : (2 ^ n - 1) * 2 ^ (va.toNat % 64) < 2 ^ 64 :=
    calc (2 ^ n - 1) * 2 ^ (va.toNat % 64) < 2 ^ n * 2 ^ (va.toNat % 64) :=
          Nat.mul_lt_mul_of_pos_right (Nat.sub_lt (Nat.two_pow_pos n) Nat.one_pos) (Nat.two_pow_pos _)
      _ = 2 ^ (n + va.toNat % 64) := (Nat.pow_add ..).symm
      _ ≤ 2 ^ 64 := Nat.pow_le_pow_right (by decide) (by omega)
  have hmask : x.dirty.toNat &&& byteMask va n = byteMask va n := by
    rw [hd, byteMask, BitVec.toNat_or, BitVec.toNat_ofNat, Nat.mod_eq_of_lt hfits, Nat.and_comm, Nat.and_or_distrib_left, Nat.and_self]
    exact Nat.eq_of_testBit_eq fun i => by simp only [Nat.testBit_or, Nat.testBit_and]; cases Nat.testBit _ i <;> simp
  simp [holdsBytes, hmask]

/-- A load of the bytes that a store has put into a line of the L1 has the stored value, and memory stands. -/
theorem loadOne_storeOne_line {s : State} {k : Nat} {o : Op} {a : LaneAcc} {key : Nat} {l : L1Line} (n : Nat) (hspace : a.space = .hbm)
    (hpos : 0 < a.n) (hfits : a.va.toNat % 64 + a.n ≤ 64) (hfound : l1Find (coreOf s k) o.ctx a.va = some key)
    (hl : look (coreOf s k).l1 key = some l) (hlen : l.sectors.length = 4) :
    (storeOne s k n o .keep none a).mem = s.mem ∧
      (loadOne (storeOne s k n o .keep none a) k o .keep { a with sgn := false }).2 = BitVec.ofNat 64 (a.data.toNat % 2 ^ (8 * a.n)) := by
  rw [storeOne_line .keep hspace hfound]
  refine ⟨rfl, ?_⟩
  have hsector := l1Sector_storedLine (a.va.toNat % 64) a.n a.data.toNat (Path.keep = .pass) (hlen ▸ sectorIx_lt a.va)
  have hstill := (l1Find_onLine (coreOf s k) key (f := storedLine (sectorIx a.va) (a.va.toNat % 64) a.n a.data.toNat (Path.keep = .pass))
    (fun _ => ⟨rfl, rfl⟩) o.ctx a.va).trans hfound
  have hline := (look_onLine (coreOf s k) key (storedLine (sectorIx a.va) (a.va.toNat % 64) a.n a.data.toNat (Path.keep = .pass))).trans
    (congrArg _ hl)
  rw [← coreOf_onCore_self s k (fun c => onLine c key _)] at hstill hline
  rw [loadOne_line (a := { a with sgn := false }) hspace (Nat.ne_of_gt hpos) hstill hline
    (holdsBytes_dirty (l1Sector l (sectorIx a.va)).dirty hfits (by rw [hsector]; rfl))]
  simp only [hsector, loadValue, storedSector]
  rw [bitsAt_overlayBytes _ _ (by omega)]
  rfl

end Sys2Proof.Machine
end

section
/-! PROOF. Loads as they return, and the values that they take (R6, R14, R205, R216, R218, R223, R335). -/

namespace Sys2Proof.Machine

/-! ### The return of a load (R216, R218, R205) -/

section Return

variable {s : State} {k : BitVec 9} {n : Nat} {o : Op} {path : Path} {accs : List LaneAcc} {w : Bool}

/-- A load whose values are fixed in a state: its registers or its window take them, and it is over. -/
def loadReturned (u : State) (k n : Nat) (o : Op) (path : Path) (accs : List LaneAcc) (w : Bool) : State :=
  let r := loadAll u k o path accs
  let v := loadFree r.1 k o r.2
  let bad := accs.filter (loadPoison v.1 k o path)
  finishOp (if w then deliverWindow v.1 k o v.2 bad else spoilDest (deliver v.1 n o v.2) n o bad) k n

variable (ho : opOf s k.toNat n = some o) (hk : o.kind = .load path accs w)

include ho hk

theorem canReturn_load : canReturn s k.toNat n =
    (!opLeaves (coreOf s k.toNat) o.uid && !mustFollow (coreOf s k.toNat) n o && loadAllowed s k.toNat o path accs) := by
  simp only [canReturn, ho, hk]

/-- A load by what it waits for: its turn, the port, and what must go home ahead of its fills. -/
theorem exec_loadReturn_load : exec (.loadReturn k n) s = .next (
    let u := accs.foldl (fun s a => loadFirst s k.toNat o path a) s
    if canReturn s k.toNat n = false then s
    else if loadNeedsPort s k.toNat o path accs = true ∧ portOpen s k.toNat o.ctx (.op n) = false then portWait s k.toNat o.ctx (.op n)
    else if loadAllowed u k.toNat o path accs = false then u
    else loadReturned u k.toNat n o path accs w) := by
  simp only [exec_loadReturn, execLoadReturn, ho, hk, Bool.not_eq_true', Bool.and_eq_true]
  rfl

theorem exec_loadReturn_follows (h : mustFollow (coreOf s k.toNat) n o = true) : exec (.loadReturn k n) s = .next s := by
  rw [exec_loadReturn_load ho hk]
  exact congrArg _ (if_pos (by simp [canReturn_load ho hk, h]))

variable (hr : canReturn s k.toNat n = true)

include hr

theorem exec_loadReturn_closed (hp : loadNeedsPort s k.toNat o path accs = true) (hclosed : portOpen s k.toNat o.ctx (.op n) = false) :
    exec (.loadReturn k n) s = .next (portWait s k.toNat o.ctx (.op n)) := by
  rw [exec_loadReturn_load ho hk]
  exact congrArg _ ((if_neg (by simp [hr])).trans (if_pos ⟨hp, hclosed⟩))

theorem exec_loadReturn_open (hp : loadNeedsPort s k.toNat o path accs = false ∨ portOpen s k.toNat o.ctx (.op n) = true) :
    exec (.loadReturn k n) s = .next (
      let u := accs.foldl (fun s a => loadFirst s k.toNat o path a) s
      if loadAllowed u k.toNat o path accs = false then u else loadReturned u k.toNat n o path accs w) := by
  rw [exec_loadReturn_load ho hk]
  exact congrArg _ ((if_neg (by simp [hr])).trans (if_neg (fun ⟨hneeds, hclosed⟩ => by rcases hp with hp | hp <;> simp [hp] at hneeds hclosed)))

end Return

/-! ### The value of an access -/

/-- No byte of an argument block has changed: the values are those of the accesses. -/
theorem loadFree_unchanged {s : State} {k : Nat} {o : Op} (vs : List (LaneAcc × Word)) (h : ∀ e ∈ vs, argChanged s k o.uid e.1 = false) :
    loadFree s k o vs = (s, vs) := by
  induction vs using List.reverseRecOn with
  | nil => rfl
  | append_singleton vs e ih =>
    obtain ⟨hvs, he⟩ := List.forall_mem_append.mp h
    have hbefore := ih hvs
    rw [loadFree] at hbefore ⊢
    rw [List.foldl_append, hbefore]
    simp [he e (List.mem_singleton_self e)]

/-- Nothing of a sector leaves a core that holds nothing of it (R218). -/
theorem homeFirst_clear {s : State} {k : Nat} {ctx : BitVec 10} {home : LineHome} {va : Word}
    (hheld : l1Holding (coreOf s k) ctx home va = none) (hleaves : leavesFirst (coreOf s k) ctx home va = []) :
    homeFirst s k ctx home va = s := by
  have hnone : unsentOf (coreOf s k) (writeBackOf { ctx := ctx, va := vLineOf va, home := home, sectors := [] } 0 (sectorIx va)) = [] := by
    rw [leavesFirst, hheld, List.append_eq_nil_iff] at hleaves
    exact List.map_eq_nil_iff.mp hleaves.1
  simp only [homeFirst, hheld, landSector, hnone, List.foldl_nil]

theorem fillCopy_home {s : State} {d pa : Nat} (h : homeDie pa = d) : fillCopy s d pa = s := by simp [fillCopy, h]

theorem dieRead_home {s : State} {d pa : Nat} (n : Nat) (h : homeDie pa = d) : dieRead s d pa n = homeRead s pa n := by
  cases hcopy : look (dieOf s d).copies (lineOf pa) <;> simp [dieRead, hcopy, h]

section Home

variable {s : State} {k : Nat} {o : Op} {path : Path} {a : LaneAcc} (hspace : a.space = .hbm) (hn : a.n ≠ 0)
  (hhome : loadsHome (coreOf s k) path = true)

include hspace hn hhome

/-- Past the L1 a load sees what its die sees, once the context's dirty bytes have gone home (R218). -/
theorem loadOne_home : loadOne s k o path a =
    (fillCopy (homeFirst s k o.ctx (.phys (lineOf a.pa)) a.va) (dieOfCore k) a.pa,
      loadValue a (dieRead (fillCopy (homeFirst s k o.ctx (.phys (lineOf a.pa)) a.va) (dieOfCore k) a.pa) (dieOfCore k) a.pa a.n)) := by
  simp [loadOne, hspace, hn, hhome]

/-- Of a line homed on the die that the core holds nothing of, it sees the home. -/
theorem loadOne_home_clear (hdie : homeDie a.pa = dieOfCore k) (hheld : l1Holding (coreOf s k) o.ctx (.phys (lineOf a.pa)) a.va = none)
    (hleaves : leavesFirst (coreOf s k) o.ctx (.phys (lineOf a.pa)) a.va = []) :
    loadOne s k o path a = (s, loadValue a (homeRead s a.pa a.n)) := by
  rw [loadOne_home hspace hn hhome, homeFirst_clear hheld hleaves, fillCopy_home hdie, dieRead_home _ hdie]

end Home

end Sys2Proof.Machine
end

section
/-! PROOF. Stores and atomics as they perform, in the order of their group's accesses (R14, R128, R205, R216, R339). -/

namespace Sys2Proof.Machine

/-! ### What an event has written (R14) -/

/-- With no team to start, nothing is noted. -/
theorem noteArgs_started {s : State} (h : ∀ l ∈ s.launches, starting s l.1 l.2 = false) (spans : List (Nat × Nat)) : noteArgs s spans = s := by
  rw [noteArgs]
  split
  · rfl
  · exact congrArg (fun x => { s with launches := x })
      ((List.map_congr_left (g := id) fun e he => if_neg (Bool.eq_false_iff.mp (h e he))).trans (List.map_id _))

/-- An operation that is as it was has written nothing. -/
theorem wroteSpans_unmoved {s t : State} {k n : Nat} (h : opOf t k n = opOf s k n) : wroteSpans s t k n = [] := by
  have hleft : accsLeft t k n = accsLeft s k n := by rw [accsLeft, accsLeft, h]
  have hnone : (accsLeft s k n).filter (fun a => !(accsLeft s k n).contains a) = [] := by simp [List.filter_eq_nil_iff]
  rw [wroteSpans, hleft, hnone]
  rfl

theorem noteArgs_unmoved {s t : State} {k n : Nat} (h : opOf t k n = opOf s k n) : noteArgs t (wroteSpans s t k n) = t := by
  rw [wroteSpans_unmoved h]
  rfl

theorem opOf_portWait (s : State) (k n : Nat) (ctx : BitVec 10) (r : PortReq) : opOf (portWait s k ctx r) k n = opOf s k n := by
  rw [opOf, portWait, coreOf_onCore_self]
  rfl

/-! ### Stores -/

section Store

variable {s t : State} {k : BitVec 9} {n : Nat} {o : Op}

theorem exec_storePerform_noted (h : performStore s k.toNat n = t) : exec (.storePerform k n) s = .next (noteArgs t (wroteSpans s t k.toNat n)) := by
  rw [exec_storePerform, execStorePerform, storeNoted, h]

theorem exec_storePerform_unmoved (h : performStore s k.toNat n = t) (hop : opOf t k.toNat n = opOf s k.toNat n) :
    exec (.storePerform k n) s = .next t := by
  rw [exec_storePerform_noted h, noteArgs_unmoved hop]

variable (ho : opOf s k.toNat n = some o)

include ho

/-- An earlier access of the group goes first. -/
theorem performStore_follows (h : mustFollow (coreOf s k.toNat) n o = true) : performStore s k.toNat n = s := by
  have hheld : canPerform s k.toNat n = false := by simp [canPerform, ho, h]
  simp only [performStore, ho, hheld, Bool.not_false, if_true]

section OnCore

variable {path : Path} {accs : List LaneAcc} {tag : Option Bool} {x : Nat} (hk : o.kind = .store path accs tag x)
  (hfree : mustFollow (coreOf s k.toNat) n o = false)

include hk hfree

theorem performStore_store (hfill : tag ≠ some false ∨ ∀ a ∈ accs, canFill s (dieOfCore k.toNat) a.pa = true)
    (hhome : loadsHome (coreOf s k.toNat) path = false ∨ ∀ a ∈ accs, a.space = .hbm → lineFree s (dieOfCore k.toNat) a.pa = true) :
    performStore s k.toNat n = finishOp (accs.foldl (fun s a => storeOne s k.toNat n o path tag a) (countStore s k.toNat o path tag accs)) k.toNat n := by
  have hcan : canPerform s k.toNat n = true := by
    simp only [canPerform, ho, hk, hfree, Bool.not_false, Bool.true_and, Bool.and_eq_true, Bool.or_eq_true, List.all_eq_true, bne_iff_ne,
      Bool.not_eq_true']
    exact ⟨hfill, hhome.imp_right fun h a ha => Decidable.or_iff_not_imp_left.mpr fun hspace => h a ha (not_not.mp hspace)⟩
  simp only [performStore, ho, hk, hcan, storeNeedsPort, Bool.not_true, Bool.false_and, Bool.false_eq_true, if_false]

end OnCore

section AtHome

variable {accs : List LaneAcc} {tag : Option Bool} (hk : o.kind = .homeStore accs tag)

include hk

/-- The port tracker's completion of a store is the same step (R128). -/
theorem exec_portTrackerComplete_homeStore : exec (.portTrackerComplete k n) s = exec (.storePerform k n) s := by
  simp only [exec_portTrackerComplete, execPortTrackerComplete, ho, hk, exec_storePerform, execStorePerform]

variable (hfree : mustFollow (coreOf s k.toNat) n o = false)
  (hfill : tag ≠ some false ∨ ∀ a ∈ accs, canFill s (dieOfCore k.toNat) a.pa = true) (hline : ∀ a ∈ accs, lineFree s (dieOfCore k.toNat) a.pa = true)

include hfree hfill hline

theorem canPerform_homeStore : canPerform s k.toNat n = true := by
  simp only [canPerform, ho, hk, hfree, Bool.not_false, Bool.true_and, List.all_eq_true, Bool.and_eq_true, Bool.or_eq_true, bne_iff_ne]
  exact fun a ha => ⟨hline a ha, hfill.imp_right (· a ha)⟩

theorem performStore_homeStore_closed (hclosed : ¬ portOpen s k.toNat o.ctx (.op n) = true) :
    performStore s k.toNat n = portWait s k.toNat o.ctx (.op n) := by
  simp only [performStore, ho, hk, canPerform_homeStore ho hk hfree hfill hline, storeNeedsPort, hclosed, Bool.not_true, Bool.not_false,
    Bool.false_eq_true, if_false, Bool.and_self, if_true]

theorem performStore_homeStore_open (hopen : portOpen s k.toNat o.ctx (.op n) = true) :
    performStore s k.toNat n = finishOp (accs.foldl (fun s a => match a.space with
        | .host => homeWrite s a.pa a.n a.data.toNat
        | _ => storeHome s k.toNat n o tag a)
      ((perSector accs).foldl (fun s a => heatOne (takeSector s k.toNat o.ctx a.pa) k.toNat o.polder.toNat a) s)) k.toNat n := by
  simp only [performStore, ho, hk, canPerform_homeStore ho hk hfree hfill hline, storeNeedsPort, hopen, Bool.not_true, Bool.and_false,
    Bool.false_eq_true, if_false] <;> rfl

end AtHome

end Store

/-! ### Atomics -/

section Atomic

variable {s t : State} {k : BitVec 9} {n op : Nat} {o : Op} {ty : Ty} {accs : List LaneAcc}

theorem exec_atomicPerform_noted (h : performAtomic s k.toNat n = t) : exec (.atomicPerform k n) s = .next (noteArgs t (wroteSpans s t k.toNat n)) := by
  rw [exec_atomicPerform, execAtomicPerform, atomicNoted, h]

theorem exec_atomicPerform_unmoved (h : performAtomic s k.toNat n = t) (hop : opOf t k.toNat n = opOf s k.toNat n) :
    exec (.atomicPerform k n) s = .next t := by
  rw [exec_atomicPerform_noted h, noteArgs_unmoved hop]

variable (ho : opOf s k.toNat n = some o) (hk : o.kind = .atomic op ty accs)

include ho hk

/-- The port tracker's completion of an atomic is the same step (R128). -/
theorem exec_portTrackerComplete_atomic : exec (.portTrackerComplete k n) s = exec (.atomicPerform k n) s := by
  simp only [exec_portTrackerComplete, execPortTrackerComplete, ho, hk, exec_atomicPerform, execAtomicPerform]

variable (hfree : mustFollow (coreOf s k.toNat) n o = false) (hready : ∃ a ∈ accs, a.reg = 0 ∧ lineFree s (dieOfCore k.toNat) a.pa = true)

include hfree hready

theorem performAtomic_ready : performAtomic s k.toNat n =
    if portOpen s k.toNat o.ctx (.op n) = false then portWait s k.toNat o.ctx (.op n)
    else (((atomicTodo accs).map (·.pa)).eraseDups).foldl
      (fun s pa => atomicLocation s k.toNat n o op ty ((atomicTodo accs).filter (fun a => a.pa == pa))) (portLeave s k.toNat (.op n)) := by
  have hcan : canAtomic s k.toNat n = true := by simpa [canAtomic, ho, hk, hfree] using hready
  simp only [performAtomic, ho, hk, hcan, Bool.not_true, Bool.false_eq_true, if_false, Bool.not_eq_true']

end Atomic

end Sys2Proof.Machine

namespace Sys2Proof.Proofs

open Sys2Proof Sys2Proof.Machine

/-- Settles O47: a load by what it waits for, each kind of access by where its bytes are; a store and an atomic by their turn and the port. -/
theorem accessesPerform : Obligations.AccessesPerform := by
  refine ⟨fun s k n o path accs w ho hk => ⟨fun hstays hturn hallowed => ?returns, exec_loadReturn_follows ho hk, loadFree_unchanged,
      fun a hspace => ?scratch, fun a hspace => ?host,
      fun a hspace hn hhome => ⟨loadOne_home hspace hn hhome, loadOne_home_clear hspace hn hhome⟩,
      fun a key l hspace hpos hfits hfound hl hlen => loadOne_storeOne_line n hspace hpos hfits hfound hl hlen, fun a v => rfl⟩,
    fun s k n o ho => ⟨fun path accs tag x hk => ⟨fun hfree hfill hhome => exec_storePerform_noted (performStore_store ho hk hfree hfill hhome),
        fun hheld => exec_storePerform_unmoved (performStore_follows ho (Bool.of_not_eq_false hheld)) rfl⟩,
      fun accs tag hk hfree hfill hline => ?homeStore, fun op ty accs hk hfree hready => ?atomic, noteArgs_started, fun accs hk => ?answered,
      fun path tag a hspace => ?scratchStore, fun a m v => scratchRead_scratchWrite _ v⟩⟩
  case returns =>
    have hready : canReturn s k.toNat n = true := by simp [canReturn_load ho hk, hstays, hturn, hallowed]
    refine ⟨fun hport => ?_, exec_loadReturn_closed ho hk hready⟩
    have hgoes := exec_loadReturn_open ho hk hready hport
    exact ⟨fun hfills => hgoes.trans (congrArg _ (if_neg (by simp [hfills]))), fun hwaits => hgoes.trans (congrArg _ (if_pos hwaits))⟩
  case scratch => simp only [loadOne, hspace]
  case host => simp only [loadOne, hspace]
  case homeStore =>
    have hboth {t : State} (h : exec (.storePerform k n) s = .next t) := And.intro h ((exec_portTrackerComplete_homeStore ho hk).trans h)
    exact ⟨fun hopen => hboth (exec_storePerform_noted (performStore_homeStore_open ho hk hfree hfill hline hopen)),
      fun hclosed => hboth (exec_storePerform_unmoved (performStore_homeStore_closed ho hk hfree hfill hline hclosed) (opOf_portWait ..))⟩
  case atomic =>
    have hboth {t : State} (h : exec (.atomicPerform k n) s = .next t) := And.intro h ((exec_portTrackerComplete_atomic ho hk).trans h)
    have hperforms := performAtomic_ready ho hk hfree hready
    exact ⟨fun hopen => hboth (exec_atomicPerform_noted (hperforms.trans (if_neg (by simp [hopen])))),
      fun hclosed => hboth (exec_atomicPerform_unmoved (hperforms.trans (if_pos (Bool.eq_false_iff.mpr hclosed))) (opOf_portWait ..))⟩
  case answered => simp only [exec_portTrackerComplete, execPortTrackerComplete, ho, hk]
  case scratchStore =>
    simp only [storeOne, hspace]
    rfl

end Sys2Proof.Proofs
end

section
/-! PROOF. The round trip of the encoding, by the format that an instruction has (R249 to R263). -/

namespace Sys2Proof.Laws.DecodeEncode

/-! ### What the table of each format says of its instructions -/

/-- An instruction of formats F and X is encoded with its opcode and fields, and is well formed when they are. -/
theorem fx_coded {i : Instr} {op8 : Nat} {f : Fx} (h : i.fx? = some (op8, f)) :
    op8 < 2 ^ 8 ∧ op8 ≠ 0 ∧ encode i = fxParcels op8 f ∧ i.wf = (fxOk op8 f && decide (fxInstr op8 f = some i)) := by
  cases i <;> cases h <;> exact ⟨by decide, by decide, rfl, rfl⟩

/-- The same of format C, whose table gives the instruction back. -/
theorem c_coded {i : Instr} {opc : Nat} {c : CForm} (h : i.c? = some (opc, c)) :
    opc < 2 ^ 6 ∧ cInstr opc c = some i ∧ encode i = [cParcel opc c] ∧ i.wf = cOk opc c := by
  cases i <;> cases h <;> exact ⟨by decide, rfl, rfl, rfl⟩

/-- The same of format I. -/
theorem i_coded {i : Instr} {opi : Nat} {j : IForm} (h : i.i? = some (opi, j)) :
    opi < 2 ^ 6 ∧ iInstr opi j = some i ∧ encode i = [iParcel opi j] ∧ i.wf = iOk opi j := by
  cases i <;> cases h <;> exact ⟨by decide, rfl, rfl, rfl⟩

/-- The same of pairs, whose half 0 has an operation of its own. -/
theorem p_coded {i : Instr} {opp : Nat} {h0 h1 : PHalf} {o1 : PairOp} (h : i.p? = some (opp, h0, o1, h1)) :
    opp < 2 ^ 6 ∧ (∃ o0, PairOp.ofCode opp = some o0) ∧ pInstr opp h0 o1 h1 = some i ∧ encode i = pairParcels opp h0 o1 h1 ∧ i.wf = pairOk h0 h1 := by
  cases i <;> cases h <;> exact ⟨by decide, ⟨_, rfl⟩, rfl, rfl, rfl⟩

/-- What is of no format is a header, a pattern that is no instruction, or an event, which has no encoding. -/
theorem encode_of_no_format {i : Instr} (hfx : i.fx? = none) (hc : i.c? = none) (hi : i.i? = none) (hp : i.p? = none) :
    (∃ h, i = .clause h) ∨ (∃ r, i = .reservedOpcode r) ∨ encode i = [] := by
  unfold encode
  split
  · exact .inl ⟨_, rfl⟩
  · exact .inr (.inl ⟨_, rfl⟩)
  · simp only [hfx, hc, hi, hp, or_true]

end Sys2Proof.Laws.DecodeEncode

namespace Sys2Proof.Proofs

open Sys2Proof Sys2Proof.Laws.DecodeEncode

/-- Settles O1: an instruction has one of the formats F and X, C, I and P, or it is a header, an illegal pattern or an event. -/
theorem decodeOfEncode : Obligations.DecodeOfEncode := by
  intro i
  match hfx : i.fx?, hc : i.c?, hi : i.i?, hp : i.p? with
  | some (op8, f), _, _, _ =>
    obtain ⟨hlt, hne, he, hw⟩ := fx_coded hfx
    exact of_fx he hw hlt hne
  | none, some (opc, c), _, _ =>
    obtain ⟨hlt, hback, he, hw⟩ := c_coded hc
    exact of_c he hw hback hlt
  | none, none, some (opi, j), _ =>
    obtain ⟨hlt, hback, he, hw⟩ := i_coded hi
    exact of_i he hw hback hlt
  | none, none, none, some (opp, h0, o1, h1) =>
    obtain ⟨hlt, ⟨o0, ho⟩, hback, he, hw⟩ := p_coded hp
    exact of_p he hw hback ho hlt
  | none, none, none, none =>
    obtain ⟨h, rfl⟩ | ⟨r, rfl⟩ | he := encode_of_no_format hfx hc hi hp
    · exact clause h
    · exact of_illegal r
    · exact of_event he

/-- Settles O14: each word is evaluated. -/
theorem decodedWords : Obligations.DecodedWords := ⟨rfl, rfl, rfl, rfl, rfl, rfl, rfl, rfl⟩

end Sys2Proof.Proofs
end

section
/-! PROOF. The integer, logic, bit-field and width instructions of class 0, element by element (R287 to R301). -/

namespace Sys2Proof.Machine

/-! ### The shared shapes, with a value of the statement's own form -/

/-- A lane-independent class 0 instruction, whose value equals the given one in every lane. -/
theorem laneOp_law {ins : Instr} {f : Fx} {w : Group → Nat → Word} {val : Group → Mask → Nat → Word} (he : ∀ s, exec ins s = laneOp s f w)
    (hv : ∀ g m l, w g l = val g m l) : LaneLaw ins f (uniformly f) val := by
  obtain rfl : (fun g _ l => w g l) = val := funext fun g => funext fun m => funext fun l => hv g m l
  exact lane_law _ he

/-- The same of one that can saturate. -/
theorem laneOpSat_law {ins : Instr} {f : Fx} {w : Group → Nat → Word × Bool} {val : Group → Mask → Nat → Word} {sat : Group → Mask → Nat → Bool}
    (he : ∀ s, exec ins s = laneOpSat s f w) (hv : ∀ g m l, w g l = (val g m l, sat g m l)) : SatLaw ins f (uniformly f) val sat := by
  obtain rfl : (fun g m l => (w g l).1) = val := funext fun g => funext fun m => funext fun l => congrArg Prod.fst (hv g m l)
  obtain rfl : (fun g m l => (w g l).2) = sat := funext fun g => funext fun m => funext fun l => congrArg Prod.snd (hv g m l)
  exact sat_law _ he

/-! ### Elements -/

/-- A field is empty when it begins above the element or has no bits, and reaches to the end of the element at most (R296). -/
theorem fieldLen_eq (w ctl : Nat) : fieldLen w ctl =
    if (w ≤ ctl % 256 || ctl / 256 % 256 == 0) = true then 0 else min (ctl / 256 % 256) (w - ctl % 256) := by
  unfold fieldLen
  by_cases hp : w ≤ ctl % 256
  · simp [hp]
  · by_cases hl : ctl / 256 % 256 = 0 <;> simp [hp, hl]

/-- A field is empty exactly when it has no length. -/
theorem fieldLen_eq_zero_iff (w ctl : Nat) : fieldLen w ctl = 0 ↔ (w ≤ ctl % 256 || ctl / 256 % 256 == 0) = true := by
  rw [fieldLen_eq]
  split
  · simp [*]
  · rename_i h
    simp only [Bool.or_eq_true, decide_eq_true_eq, beq_iff_eq, not_or] at h ⊢
    omega

theorem extractElem_eq (t : Ty) (x ctl : Nat) : extractElem t x ctl =
    if (t.width ≤ ctl % 256 || ctl / 256 % 256 == 0) = true then 0
    else wrapTo t.width (asInt t.signed (min (ctl / 256 % 256) (t.width - ctl % 256))
      (x / 2 ^ (ctl % 256) % 2 ^ min (ctl / 256 % 256) (t.width - ctl % 256))) := by
  simp only [extractElem, fieldLen_eq_zero_iff]
  split
  · rfl
  · rw [fieldLen_eq, if_neg ‹_›]

theorem insertElem_eq (w x y ctl : Nat) : insertElem w x y ctl =
    if (w ≤ ctl % 256 || ctl / 256 % 256 == 0) = true then x
    else x - x / 2 ^ (ctl % 256) % 2 ^ min (ctl / 256 % 256) (w - ctl % 256) * 2 ^ (ctl % 256) +
      y % 2 ^ min (ctl / 256 % 256) (w - ctl % 256) * 2 ^ (ctl % 256) := by
  simp only [insertElem, fieldLen_eq_zero_iff]
  split
  · rfl
  · rw [fieldLen_eq, if_neg ‹_›]
    rfl

/-- The lookup reads the bit that its operands' bits name, that of c the highest (R294). -/
theorem lutWord_eq (lut : BitVec 8) (a b c : Word) : lutWord lut a b c = packElems 1 (fun i =>
    if lut.getLsbD (4 * bool1 (c.getLsbD i) + 2 * bool1 (b.getLsbD i) + bool1 (a.getLsbD i)) then 1 else 0) := by
  have hix (i : Nat) : bool1 (a.getLsbD i) + 2 * bool1 (b.getLsbD i) + 4 * bool1 (c.getLsbD i) =
      4 * bool1 (c.getLsbD i) + 2 * bool1 (b.getLsbD i) + bool1 (a.getLsbD i) := by omega
  simp only [lutWord, lutBit, hix, packElems, Nat.div_one]
  rfl

/-! ### Saturation -/

/-- A value that is clamped on request, and whether it was: only a request saturates (R299, R301). -/
theorem saturates_eq (sat signed : Bool) (w n : Nat) (v : Nat → Int) :
    (sat && (List.range n).any (fun k => (if sat then clampTo signed w (v k) else v k) != v k)) =
      (sat && (List.range n).any (fun k => clampTo signed w (v k) != v k)) := by
  cases sat <;> rfl

end Sys2Proof.Machine

namespace Sys2Proof.Proofs

open Sys2Proof Sys2Proof.Machine

/-- Settles O2: each is a lane-independent instruction of class 0, with the value of its element function. -/
theorem integerResults : Obligations.IntegerResults := fun f =>
  ⟨laneOp_law (exec_iadd f) fun _ _ _ => rfl, laneOp_law (exec_isub f) fun _ _ _ => rfl, laneOp_law (exec_imul f) fun _ _ _ => rfl,
    laneOp_law (exec_imulh f) fun _ _ _ => rfl, laneOp_law (exec_imad f) fun _ _ _ => rfl, laneOp_law (exec_imin f) fun _ _ _ => rfl,
    laneOp_law (exec_imax f) fun _ _ _ => rfl, laneOp_law (exec_iabs f) fun _ _ _ => rfl, laneOp_law (exec_ineg f) fun _ _ _ => rfl,
    laneOp_law (exec_isad f) fun _ _ _ => rfl⟩

/-- Settles O3: each by its element function, a rotation by its direction. -/
theorem shiftResults : Obligations.ShiftResults := by
  refine fun f => ⟨laneOp_law (exec_shl f) fun _ _ _ => rfl, laneOp_law (exec_shr f) fun _ _ _ => rfl, laneOp_law (exec_sar f) fun _ _ _ => rfl,
    laneOp_law (exec_rot f) fun g m l => ?rotates, laneOp_law (exec_fshf f) fun _ _ _ => rfl⟩
  case rotates =>
    unfold rotWord
    cases f.modAt 0 1 == 1 <;> rfl

/-- Settles O4: the lookup by the order of its index's bits, the others as they are. -/
theorem logicResults : Obligations.LogicResults := fun f =>
  ⟨laneOp_law (exec_andBits f) fun _ _ _ => rfl, laneOp_law (exec_orBits f) fun _ _ _ => rfl, laneOp_law (exec_xorBits f) fun _ _ _ => rfl,
    laneOp_law (exec_notBits f) fun _ _ _ => rfl, laneOp_law (exec_blut f) fun _ _ _ => lutWord_eq .., laneOp_law (exec_ipick f) fun _ _ _ => rfl⟩

/-- Settles O5: the counts as they are, the fields by their length. -/
theorem bitResults : Obligations.BitResults := by
  refine fun f => ⟨laneOp_law (exec_popc f) fun _ _ _ => rfl, laneOp_law (exec_clz f) fun _ _ _ => rfl, laneOp_law (exec_ctz f) fun _ _ _ => rfl,
    laneOp_law (exec_brev f) fun _ _ _ => rfl, laneOp_law (exec_bfx f) fun g m l => ?extracts, laneOp_law (exec_bfi f) fun g m l => ?inserts⟩
  case extracts => exact congrArg (zipElems f.ty.width · (aAt g f l) (bAt g f l)) (funext fun x => funext fun ctl => extractElem_eq f.ty x ctl)
  case inserts =>
    exact congrArg (zipElems3 f.ty.width · (aAt g f l) (bAt g f l) (cAt g f l))
      (funext fun x => funext fun y => funext fun ctl => insertElem_eq f.ty.width x y ctl)

/-- Settles O6: each by its word function. -/
theorem widthResults : Obligations.WidthResults := fun f =>
  ⟨laneOp_law (exec_imadw f) fun _ _ _ => rfl, laneOp_law (exec_idot f) fun _ _ _ => rfl, laneOp_law (exec_mov f) fun _ _ _ => rfl,
    laneOp_law (exec_lea f) fun _ _ _ => rfl, laneOp_law (exec_tags f) fun _ _ _ => rfl, laneOp_law (exec_tagg f) fun _ _ _ => rfl,
    laneOp_law (exec_unpk f) fun _ _ _ => rfl⟩

end Sys2Proof.Proofs
end

section
/-! PROOF. The conversions that saturate, the instructions that write a predicate, those that read other lanes, and those of the vector
engine (R233, R281, R290, R291, R299 to R322). -/

namespace Sys2Proof.Machine

/-! ### Exchanges, reductions and scans (R317, R320 to R322) -/

/-- A lane that is read when it lies in the segment, and c when it does not. -/
theorem laneOrFill_ite (g : Group) (f : Fx) (l k : Nat) (p : Prop) [Decidable p] :
    (match (if p then some k else none) with | some k => aAt g f k | none => cAt g f l) = if p then aAt g f k else cAt g f l := by
  by_cases hp : p
  · rw [if_pos hp, if_pos hp]
  · rw [if_neg hp, if_neg hp]

theorem lxchVal_eq (g : Group) (f : Fx) (l : Nat) : lxchVal g f l =
    let sz := 2 ^ f.modAt 2 3
    let base := l / sz * sz
    let i := (bAt g f l).toNat % 2 ^ 32
    match f.modAt 0 2 with
    | 0 => aAt g f (base + i % sz)
    | 1 => if base + i ≤ l then aAt g f (l - i) else cAt g f l
    | 2 => if l + i < base + sz then aAt g f (l + i) else cAt g f l
    | _ => aAt g f (base + ((l - base) ^^^ (i % sz))) := by
  unfold lxchVal
  match f.modAt 0 2 with
  | 0 | _ + 3 => rfl
  | 1 | 2 => exact laneOrFill_ite ..

/-- The lanes that a scan runs over: those of the segment up to the lane, without it when the scan is exclusive (R321). -/
theorem scanVal_eq (g : Group) (f : Fx) (m : Mask) (l : Nat) : scanVal g f m l = packElems f.ty.width (fun k =>
    (List.range (l - l / 2 ^ f.modAt 4 3 * 2 ^ f.modAt 4 3 + (if f.modAt 3 1 == 1 then 0 else 1))).foldl (fun acc j => reduceOp f.ty (f.modAt 0 3) acc
      (if inMask m (l / 2 ^ f.modAt 4 3 * 2 ^ f.modAt 4 3 + j) then elemAt f.ty.width (aAt g f (l / 2 ^ f.modAt 4 3 * 2 ^ f.modAt 4 3 + j)) k
        else reduceUnit f.ty (f.modAt 0 3))) (reduceUnit f.ty (f.modAt 0 3))) := by
  unfold scanVal
  cases f.modAt 3 1 == 1 <;> rfl

theorem redcVal_tree {g : Group} {f : Fx} {m : Mask} (h : f.modAt 0 3 < 6) : redcVal g f m = packElems f.ty.width (fun k =>
    treeReduce (reduceOp f.ty (f.modAt 0 3)) (laneNums.map (fun l =>
      if inMask m l then elemAt f.ty.width (aAt g f l) k else reduceUnit f.ty (f.modAt 0 3)))) := if_neg (Nat.not_le.mpr h)

/-- With an index, the winner of the active lanes stands beside its value (R245). -/
theorem redcVal_index {g : Group} {f : Fx} {m : Mask} (h : 6 ≤ f.modAt 0 3) : redcVal g f m =
    (let x := pickIndex f.ty (f.modAt 0 3 == 7) ((lanesIn m).map (fun l => (l, elemAt f.ty.width (aAt g f l) 0)))
    BitVec.ofNat 64 (x.2 + 2 ^ 32 * x.1)) := if_pos h

/-- MATCH writes full form, or a predicate when it asks for equality of all (R322). -/
theorem exec_matchLanes_masks {f : Fx} (h : f.modAt 0 1 = 0) (s : State) : exec (.matchLanes f) s = writeLanes s f inFull (fun g m l =>
    (BitVec.ofNat 64 (maskWhere (fun j => inMask m j && matchVal g f j == matchVal g f l)).toNat, false)) := by
  simp only [exec_matchLanes, execMatchLanes, h]
  rfl

theorem exec_matchLanes_all {f : Fx} (h : f.modAt 0 1 = 1) (s : State) : exec (.matchLanes f) s =
    predOp s f (fun g m _ => (lanesIn m).all (fun l => matchVal g f l == matchVal g f (lowestLane m))) := by
  simp only [exec_matchLanes, execMatchLanes, h]
  rfl

/-- What BXENC writes of the blocks of its group, and the lanes of which an element saturated (R242, R313). -/
def bxencVal (f : Fx) (g : Group) (m : Mask) (l : Nat) : Word × Bool :=
  let src := floatSource (f.modAt 3 2)
  let bs := (List.range (64 / src.width)).map (bxBlock (f.ty == .bx8) src (f.modAt 0 3 + 1) (aAt g f) m)
  (bxLane (f.ty == .bx8) bs l, bs.any (fun b => (b.2.getD l (0, false)).2))

theorem exec_bxenc_writes (f : Fx) (s : State) : exec (.bxenc f) s = writeLanes s f inFull (bxencVal f) := rfl

/-! ### Full form -/

/-- A class 0 instruction that writes full form, whose value equals the given one in every lane. -/
theorem fullOp_law {ins : Instr} {f : Fx} {w val : Group → Mask → Nat → Word} (he : ∀ s, exec ins s = writeLanes s f inFull (fun g m l => (w g m l, false)))
    (hv : ∀ g m l, w g m l = val g m l) : LaneLaw ins f inFull val := by
  obtain rfl : w = val := funext fun g => funext fun m => funext fun l => hv g m l
  exact lane_law _ he

/-! ### Division corners (R233) -/

/-- The most negative element over -1, whose quotient does not fit. -/
def overflows (t : Ty) (x y : Int) : Bool := t.signed && x == -(2 ^ (t.width - 1) : Int) && y == -1

theorem badDiv_eq (t : Ty) (x y : Int) : badDiv t x y = (y == 0 || overflows t x y) := rfl

theorem divElem_eq (t : Ty) (x y : Int) : divElem t x y =
    if y = 0 then -1 else if overflows t x y then -(2 ^ (t.width - 1) : Int) else x.tdiv y := by
  unfold divElem
  by_cases h : y = 0
  · simp only [h, if_true]
  · simp only [h, if_false, badDiv_eq, beq_false_of_ne h, Bool.false_or]
    rfl

theorem remElem_eq (t : Ty) (x y : Int) : remElem t x y = if y = 0 then x else if overflows t x y then 0 else x - x.tdiv y * y := by
  unfold remElem
  by_cases h : y = 0
  · simp only [h, if_true]
  · simp only [h, if_false, badDiv_eq, beq_false_of_ne h, Bool.false_or]

end Sys2Proof.Machine

namespace Sys2Proof.Proofs

open Sys2Proof Sys2Proof.Machine

/-- Settles O7: each writes its elements and the lanes in which one saturated; only a request saturates in CVTI and PACK. -/
theorem saturatingResults : Obligations.SaturatingResults := fun f =>
  ⟨laneOpSat_law (exec_cvti f) fun _ _ _ => Prod.ext rfl (saturates_eq ..), laneOpSat_law (exec_pack f) fun _ _ _ => Prod.ext rfl (saturates_eq ..),
    laneOpSat_law (exec_f2i f) fun _ _ _ => rfl, sat_law (bxencVal f) (exec_bxenc_writes f)⟩

/-- Settles O10: each is a write of a predicate, MATCH when it asks for equality of all. -/
theorem predicateResults : Obligations.PredicateResults := fun f =>
  ⟨pred_law (exec_icmp f), pred_law (exec_fsetp f), pred_law (exec_fcls f), pred_law (exec_voteAny f), pred_law (exec_voteAll f),
    pred_law (exec_plop f), pred_law (exec_pmov f), fun h => pred_law (exec_matchLanes_all h)⟩

/-- Settles O9: each is a write in full form, but PRM and LBC; a reduction by whether it keeps the index. -/
theorem crossLaneResults : Obligations.CrossLaneResults := fun f =>
  ⟨fullOp_law (exec_lxch f) fun g _ l => lxchVal_eq g f l, laneOp_law (exec_prm f) fun _ _ _ => rfl, lane_law _ (exec_lbc f),
    fun h => fullOp_law (exec_redc f) fun _ _ _ => redcVal_tree h, fun h => fullOp_law (exec_redc f) fun _ _ _ => redcVal_index h,
    fullOp_law (exec_scan f) fun g m l => scanVal_eq g f m l, fun h => fullOp_law (exec_matchLanes_masks h) fun _ _ _ => rfl,
    lane_law _ (exec_voteBal f), lane_law _ (exec_bxdec f)⟩

/-- Settles O11: each starts an operation of the vector engine with its values; division by its corners. -/
theorem vectorResults : Obligations.VectorResults := by
  refine fun f => ⟨?quotient, ?remainder, vector_law (exec_frcp f), vector_law (exec_frsq f), vector_law (exec_fsqrt f), vector_law (exec_fdiv f),
    vector_law (exec_fex2 f), vector_law (exec_flg2 f), vector_law (exec_fsin f), vector_law (exec_fcos f), vector_law (exec_ftanh f),
    vector_law (exec_fsig f)⟩
  case quotient =>
    refine vector_law fun s => (exec_idiv f s).trans ?_
    rw [execIdiv, show divElem f.ty = _ from funext fun x => funext fun y => divElem_eq f.ty x y]
    rfl
  case remainder =>
    refine vector_law fun s => (exec_irem f s).trans ?_
    rw [execIrem, show remElem f.ty = _ from funext fun x => funext fun y => remElem_eq f.ty x y]
    rfl

end Sys2Proof.Proofs
end

section
/-! PROOF. The compact, immediate and pair forms as the F instructions that they name (R250, R251, R256 to R259). -/

namespace Sys2Proof.Machine

/-- Two instructions that are one lane-independent instruction of class 0, wherever it issues. -/
theorem laneOp_runsAs {ins fins : Instr} {f : Fx} {w : Group → Nat → Word} (he : ∀ s, exec ins s = laneOp s f w)
    (hf : ∀ s, exec fins s = laneOp s f w) : RunsAs ins fins f := by
  intro s i h
  obtain ⟨t, g, hnext, hissued, _⟩ := lane_law _ he s i h
  exact ⟨t, g, hnext, (hf s).trans ((he s).symm.trans hnext), hissued⟩

/-- A pair of halves that are legal together, its destinations apart (R259). -/
theorem runPair_law {ins : Instr} {o0 o1 : PairOp} {h0 h1 : PHalf} (hok : pairOk h0 h1 = true) (he : ∀ s, exec ins s = runPair o0 h0 o1 h1 s) :
    PairLaw ins (halfFx o0 h0) (halfFx o1 h1) (halfVal o0 (halfFx o0 h0)) (halfVal o1 (halfFx o1 h1)) :=
  pair_law rfl rfl (pairOk_dest hok) he

end Sys2Proof.Machine

namespace Sys2Proof.Proofs

open Sys2Proof Sys2Proof.Machine

/-- Settles O12: a short form and the instruction that it names are one lane-independent instruction. -/
theorem shortForms : Obligations.ShortForms :=
  ⟨fun c => ⟨
    laneOp_runsAs (exec_iaddI32C c) (exec_iadd _), laneOp_runsAs (exec_isubI32C c) (exec_isub _), laneOp_runsAs (exec_imulI32C c) (exec_imul _),
    laneOp_runsAs (exec_iminI32C c) (exec_imin _), laneOp_runsAs (exec_imaxI32C c) (exec_imax _), laneOp_runsAs (exec_iaddI64C c) (exec_iadd _),
    laneOp_runsAs (exec_isubI64C c) (exec_isub _), laneOp_runsAs (exec_andB64C c) (exec_andBits _), laneOp_runsAs (exec_orB64C c) (exec_orBits _),
    laneOp_runsAs (exec_xorB64C c) (exec_xorBits _), laneOp_runsAs (exec_shlB32C c) (exec_shl _), laneOp_runsAs (exec_shrN32C c) (exec_shr _),
    laneOp_runsAs (exec_sarI32C c) (exec_sar _), laneOp_runsAs (exec_shlB64C c) (exec_shl _), laneOp_runsAs (exec_shrN64C c) (exec_shr _),
    laneOp_runsAs (exec_iminN32C c) (exec_imin _), laneOp_runsAs (exec_imaxN32C c) (exec_imax _), laneOp_runsAs (exec_faddF32C c) (exec_fadd _),
    laneOp_runsAs (exec_fsubF32C c) (exec_fsub _), laneOp_runsAs (exec_fmulF32C c) (exec_fmul _), laneOp_runsAs (exec_fminF32C c) (exec_fmin _),
    laneOp_runsAs (exec_fmaxF32C c) (exec_fmax _), laneOp_runsAs (exec_faddF16C c) (exec_fadd _), laneOp_runsAs (exec_fmulF16C c) (exec_fmul _),
    laneOp_runsAs (exec_faddBf16C c) (exec_fadd _), laneOp_runsAs (exec_fmulBf16C c) (exec_fmul _), laneOp_runsAs (exec_faddF64C c) (exec_fadd _),
    laneOp_runsAs (exec_fmulF64C c) (exec_fmul _), laneOp_runsAs (exec_fminF64C c) (exec_fmin _), laneOp_runsAs (exec_fmaxF64C c) (exec_fmax _),
    laneOp_runsAs (exec_movB64C c) (exec_mov _)⟩,
  fun j => ⟨
    laneOp_runsAs (exec_iaddI32I j) (exec_iadd _), laneOp_runsAs (exec_iaddI64I j) (exec_iadd _), laneOp_runsAs (exec_andB32I j) (exec_andBits _),
    laneOp_runsAs (exec_orB32I j) (exec_orBits _), laneOp_runsAs (exec_xorB32I j) (exec_xorBits _), laneOp_runsAs (exec_shlB32I j) (exec_shl _),
    laneOp_runsAs (exec_shrN32I j) (exec_shr _), laneOp_runsAs (exec_sarI32I j) (exec_sar _), laneOp_runsAs (exec_shlB64I j) (exec_shl _),
    laneOp_runsAs (exec_shrN64I j) (exec_shr _), laneOp_runsAs (exec_imulI32I j) (exec_imul _), laneOp_runsAs (exec_iminI32I j) (exec_imin _),
    laneOp_runsAs (exec_imaxI32I j) (exec_imax _), laneOp_runsAs (exec_movI32I j) (exec_mov _), laneOp_runsAs (exec_movI64I j) (exec_mov _)⟩⟩

/-- Settles O13: every pair is `runPair` of its two halves. -/
theorem pairResults : Obligations.PairResults := by
  intro h0 o1 h1 hok form mov one
  have hone : one = (halfFx o1 h1, halfVal o1 (halfFx o1 h1)) := by cases o1 <;> rfl
  clear_value one
  subst hone
  exact ⟨runPair_law hok (exec_iaddI32P h0 o1 h1), runPair_law hok (exec_isubI32P h0 o1 h1), runPair_law hok (exec_iaddI64P h0 o1 h1), runPair_law hok (exec_andB64P h0 o1 h1),
    runPair_law hok (exec_orB64P h0 o1 h1), runPair_law hok (exec_xorB64P h0 o1 h1), runPair_law hok (exec_iminI32P h0 o1 h1), runPair_law hok (exec_imaxI32P h0 o1 h1),
    runPair_law hok (exec_faddF32P h0 o1 h1), runPair_law hok (exec_fmulF32P h0 o1 h1), runPair_law hok (exec_fminF32P h0 o1 h1), runPair_law hok (exec_fmaxF32P h0 o1 h1),
    runPair_law hok (exec_faddBf16P h0 o1 h1), runPair_law hok (exec_fmulBf16P h0 o1 h1), runPair_law hok (exec_faddF16P h0 o1 h1), runPair_law hok (exec_fmulF16P h0 o1 h1),
    runPair_law hok (exec_movB64P h0 o1 h1), runPair_law hok (exec_faddF64P h0 o1 h1), runPair_law hok (exec_fmulF64P h0 o1 h1)⟩

end Sys2Proof.Proofs
end

section
/-! PROOF. Instructions that write their destination and something beside it: IADDC, CSAMP and RNG (R247, R248, R288, R323, R324), and the
transfers of control (R273). -/

namespace Sys2Proof.Machine

/-! ### Register files -/

theorem writePred_frame (g : Group) (n : Nat) (m : Mask) (b : Nat → Bool) : writePred g n m b = { g with p := (writePred g n m b).p } := by
  unfold writePred setP
  split <;> rfl

theorem pReg_writePred (g : Group) (n : Nat) (m : Mask) (b : Nat → Bool) {k : Nat} (hk : k ≠ 7) :
    pReg (writePred g n m b) k = if k = n then (pReg g k &&& ~~~ m) ||| (maskWhere b &&& m) else pReg g k := by
  rw [writePred, pReg_setP _ _ _ _ hk]
  split
  · rw [‹k = n›]
  · rfl

/-- The mask of a test that no lane decides. -/
theorem maskWhere_const_and (b : Bool) (m : Mask) : maskWhere (fun _ => b) &&& m = if b then m else 0 := by
  refine mask_ext fun l hl => ?_
  have hb := inMask_maskWhere (fun _ => b) l hl
  unfold inMask at hb ⊢
  rw [BitVec.getLsbD_and, hb]
  cases b <;> simp

/-- What a vector result says is about the names alone. -/
theorem VectorResult.of_v {i : Issuer} {g h : Group} {f : Fx} {uni : Bool} {m : Mask} {val : Nat → Word} (r : VectorResult i g f uni m val)
    (hv : h.v = g.v) : VectorResult i h f uni m val := by
  have hlane (n l : Nat) : vLane h n l = vLane g n l := by rw [vLane, hv, vLane]
  exact ⟨fun n hd hp l hl hm => (hlane ..).trans (r.written n hd hp l hl hm), fun n hd hp hu => hv ▸ r.uniform n hd hp hu,
    fun n hd hp hu l hl hm => (hlane ..).trans (r.inactive n hd hp hu l hl hm), fun n hn => hv ▸ r.others n hn⟩

theorem ScalarResult.of_s {i : Issuer} {g h : Group} {f : Fx} {m : Mask} {val : Nat → Word} (r : ScalarResult i g f m val) (hs : h.s = g.s) :
    ScalarResult i h f m val := by
  have hreg (n : Nat) : sReg h n = sReg g n := by rw [sReg, hs, sReg]
  exact ⟨fun n hd => (hreg _).trans (r.written n hd), fun n hn => (hreg n).trans (r.others n hn)⟩

/-! ### The state once d is written -/

/-- On the way to the end of an issue: the sources are read, the last-use names released and d written; of the rest of the group only the
predicates and RNGCTR may have changed since. -/
structure Wrote (s t : State) (i : Issuer) (g : Group) (f : Fx) (uni : Bool) (m : Mask) (val : Nat → Word) : Prop where
  only : OnlyGroup s t i
  holds : Holds t i g
  frame : g = { i.g with v := g.v, badV := g.badV, s := g.s, badS := g.badS, pend := g.pend, p := g.p, rngctr := g.rngctr }
  vector : VectorResult i g f uni m val
  scalar : ScalarResult i g f m val

section

variable {s t : State} {i : Issuer} {f : Fx} {uni : Bool} {m : Mask} {val : Nat → Word} {g : Group}

theorem wrote_writeDest (hk : OnlyGroup s t i) (hg : Holds t i i.g) {p : Plan} (hp : released p.rel (p.dst.map (·.1)) = goneNames f)
    (uni : Bool) (m : Mask) (val : Nat → Word) :
    ∃ g, Wrote s (writeDest (applyReleases t i p) i f.d uni m val) i g f uni m val ∧ g.p = i.g.p ∧ g.rngctr = i.g.rngctr := by
  have hreleased := holds_applyReleases hg p
  rw [hp] at hreleased
  obtain ⟨g, honly, hholds, hframe, hothers, hwritten, hs, hsOthers, -⟩ := writeDest_spec (onlyGroup_applyReleases hk hg p) hreleased f.d uni m val
  refine ⟨g, ⟨honly, hholds, ?_, vectorResult_of hothers fun n hd hn => congrArg Group.v (hwritten n hd hn), ⟨hs, hsOthers⟩⟩, ?_, ?_⟩
  all_goals
    rw [hframe]
    rfl

/-- The sources read before it. -/
theorem wrote_readView (hi : issuer s = some i) {p : Plan} (hp : released p.rel (p.dst.map (·.1)) = goneNames f) (names : List Nat)
    (uni : Bool) (m : Mask) (val : Nat → Word) :
    ∃ g, Wrote s (writeDest (applyReleases (readView s i.g names).1 i p) i f.d uni m val) i g f uni m val ∧ g.p = i.g.p ∧ g.rngctr = i.g.rngctr :=
  wrote_writeDest (onlyGroup_readView (onlyGroup_refl (issuer_slot hi).2.1) i.g names) (holds_readView (holds_of_issuer hi) i.g names) hp uni m val

/-- A further write of predicates or RNGCTR. -/
theorem Wrote.onIssuing (w : Wrote s t i g f uni m val) (F : Group → Group) (hF : F g = { g with p := (F g).p, rngctr := (F g).rngctr }) :
    Wrote s (onIssuing t i F) i (F g) f uni m val := by
  refine ⟨onlyGroup_onIssuing w.only w.holds F, holds_onIssuing w.holds F ?_ ?_, ?_, w.vector.of_v ?_, w.scalar.of_s ?_⟩
  case refine_3 =>
    rw [hF]
    exact congrArg (fun x : Group => { x with p := (F g).p, rngctr := (F g).rngctr }) w.frame
  all_goals rw [hF]

/-- The end of the issue. -/
theorem Wrote.endIssue (w : Wrote s t i g f uni m val) (parts : List Entry) : ∃ h, Issued s (endIssue t i true parts []) i parts h ∧
    VectorResult i h f uni m val ∧ ScalarResult i h f m val ∧ h.p = g.p ∧ h.rngctr = g.rngctr ∧ h.astat = i.g.astat ∧
    { h with rngctr := i.g.rngctr }.besides i.g = i.g := by
  refine ⟨_, endIssue_issued w.only w.holds (by rw [w.frame]) parts, w.vector.of_v rfl, w.scalar.of_s rfl, rfl, rfl, ?_, ?_⟩
  all_goals
    rw [w.frame]
    rfl

/-- The group beside its registers when RNGCTR stands. -/
theorem besides_of_rngctr {h : Group} (hr : h.rngctr = i.g.rngctr) (hb : { h with rngctr := i.g.rngctr }.besides i.g = i.g) : h.besides i.g = i.g := by
  rwa [← hr] at hb

end

/-! ### IADDC, CSAMP and RNG -/

section Extra

variable {f : Fx} {s : State} {i : Issuer}

/-- The sum of a lane, with the carry that the predicate c gives (R288). -/
def carrySum (f : Fx) (g : Group) (l : Nat) : Nat :=
  (aAt g f l).toNat + (bAt g f l).toNat + match f.c with | .p n => bool1 (inMask (pReg g n.toNat) l) | _ => 0

/-- IADDC with d written, and its end: a predicate c takes the carry out. -/
theorem exec_iaddc_issues (h : Issues s i f false (lanePlan i f 0 (uniformly f))) : exec (.iaddc f) s = .next (
    let v := readView s i.g (srcNames f)
    let t := writeDest (applyReleases v.1 i (lanePlan i f 0 (uniformly f))) i f.d (uniformResult i.g f (i.active f)) (i.active f)
      (fun l => BitVec.ofNat 64 (carrySum f v.2 l))
    complete (match f.c with
      | .p n => onIssuing t i (fun x => writePred x n.toNat (i.active f) (fun l => carrySum f v.2 l / 2 ^ 64 == 1))
      | _ => t) i []) := by
  rw [exec_iaddc, execIaddc, onIssue_effect h]
  exact congrArg Host.Outcome.next (passing_pass h.passes _)

/-- What CSAMP picks (R247). -/
def sampledLane (f : Fx) (g : Group) (m : Mask) : Nat × Bool :=
  csampPick (laneNums.map (fun l => if inMask m l then elemAt 32 (aAt g f l) 0 else 0))
    (match f.lit? with | some x => x.toNat | none => (bAt g f (lowestLane m)).toNat % 2 ^ 32)

theorem exec_csamp_issues (h : Issues s i f false (lanePlan i f 0 inFull)) : exec (.csamp f) s = .next (
    let v := readView s i.g (srcNames f)
    let t := writeDest (applyReleases v.1 i (lanePlan i f 0 inFull)) i f.d false (i.active f) (fun _ => BitVec.ofNat 64 (sampledLane f v.2 (i.active f)).1)
    complete (if f.modAt 0 3 = 7 then t
      else onIssuing t i (fun x => writePred x (f.modAt 0 3) (i.active f) (fun _ => (sampledLane f v.2 (i.active f)).2))) i []) := by
  rw [exec_csamp, execCsamp, onIssue_effect h]
  exact congrArg Host.Outcome.next (passing_pass h.passes _)

theorem exec_rng_issues (h : Issues s i f false (lanePlan i f 0 inFull)) : exec (.rng f) s = .next (
    let t := writeDest (applyReleases s i (lanePlan i f 0 inFull)) i f.d false (i.active f)
      (fun l => rngForm f.ty (rngOut i.g.rngkey i.g.rngctr l))
    complete (onIssuing t i (fun g => { g with rngctr := g.rngctr + 1 })) i []) := by
  rw [exec_rng, execRng, onIssue_effect h]
  exact congrArg Host.Outcome.next (passing_pass h.passes _)

/-- The end of an issue that writes d and a predicate. -/
theorem Wrote.predicate {t : State} {uni : Bool} {m : Mask} {val : Nat → Word} {g : Group} (w : Wrote s t i g f uni m val) (hp : g.p = i.g.p)
    (hr : g.rngctr = i.g.rngctr) (n : Nat) (b : Nat → Bool) :
    ∃ h, Issued s (complete (Machine.onIssuing t i (fun x => writePred x n m b)) i []) i [i.onward i.e.mask] h ∧
      VectorResult i h f uni m val ∧ ScalarResult i h f m val ∧
      (∀ k, k ≠ 7 → pReg h k = if k = n then (pReg i.g k &&& ~~~ m) ||| (maskWhere b &&& m) else pReg i.g k) ∧
      h.astat = i.g.astat ∧ { h with p := i.g.p }.besides i.g = i.g := by
  have hframe := writePred_frame g n m b
  obtain ⟨h, hissued, hvector, hscalar, hpred, hctr, hastat, hbesides⟩ :=
    (w.onIssuing (fun x => writePred x n m b) (by rw [hframe])).endIssue [i.onward i.e.mask]
  have hstands : h.rngctr = i.g.rngctr := by rw [hctr, hframe]; exact hr
  have hreg (k : Nat) : pReg g k = pReg i.g k := by rw [pReg, hp, pReg]
  rw [complete_noTraps]
  refine ⟨h, hissued, hvector, hscalar, fun k hk => ?_, hastat, besides_of_rngctr hstands hbesides⟩
  rw [← hreg k, ← pReg_writePred g n m b hk, pReg, hpred, pReg]

/-- The end of one that writes d alone. -/
theorem Wrote.complete {t : State} {uni : Bool} {m : Mask} {val : Nat → Word} {g : Group} (w : Wrote s t i g f uni m val) (hp : g.p = i.g.p)
    (hr : g.rngctr = i.g.rngctr) : ∃ h, Issued s (complete t i []) i [i.onward i.e.mask] h ∧ VectorResult i h f uni m val ∧ ScalarResult i h f m val ∧
      (∀ k, pReg h k = pReg i.g k) ∧ h.astat = i.g.astat ∧ { h with p := i.g.p }.besides i.g = i.g := by
  obtain ⟨h, hissued, hvector, hscalar, hpred, hctr, hastat, hbesides⟩ := w.endIssue [i.onward i.e.mask]
  rw [complete_noTraps]
  exact ⟨h, hissued, hvector, hscalar, fun k => by rw [pReg, hpred, hp, pReg], hastat, besides_of_rngctr (hctr.trans hr) hbesides⟩

end Extra

/-! ### Transfers (R273) -/

section Transfer

variable {f : Fx} {s : State} {i : Issuer} {target : Issuer → Group → Nat → Word}

theorem transfer_issues (h : Issues s i f true (lanePlan i f 0 (fun i m => isFull i.g m))) : transfer s f target = .next (
    let v := readView s i.g (srcNames f)
    endIssue (writeDest (applyReleases v.1 i (lanePlan i f 0 (fun i m => isFull i.g m))) i f.d (isFull i.g (i.active f)) (i.active f)
        (fun _ => (followPlace i.e i.len).pc)) i true
      ((byTarget (i.active f) (target i v.2)).map (fun e => i.enter e.2 e.1) ++ [i.onward (i.others (i.active f))]) []) := by
  rw [transfer, onIssue_effect h]
  exact congrArg Host.Outcome.next (passing_pass h.passes _)

theorem transfer_law {ins : Instr} (he : ∀ s, exec ins s = transfer s f target) : TransferLaw ins f target := by
  intro s i h
  obtain ⟨g, w, hp, hr⟩ := wrote_readView h.issuing (fxPlan_gone i f (i.active f) 0 (isFull i.g (i.active f))) (srcNames f)
    (isFull i.g (i.active f)) (i.active f) (fun _ => (followPlace i.e i.len).pc)
  obtain ⟨x, hissued, hvector, hscalar, hpred, hctr, hastat, hbesides⟩ := w.endIssue _
  exact ⟨_, x, (he s).trans (transfer_issues h), hissued, hvector, hscalar, hpred.trans hp, hastat, besides_of_rngctr (hctr.trans hr) hbesides⟩

/-- Every lane is in the part of its own target. -/
theorem byTarget_covers {m : Mask} (t : Nat → Word) {l : Nat} (hl : l < 32) (hm : inMask m l = true) : ∃ e ∈ byTarget m t, e.1 = t l ∧ inMask e.2 l = true := by
  refine ⟨_, List.mem_map_of_mem (List.mem_eraseDups.mpr (List.mem_map_of_mem ((mem_lanesIn m l).mpr ⟨hl, hm⟩))), rfl, ?_⟩
  simp [inMask_maskWhere _ l hl, hm]

/-- A part holds lanes of its own target alone. -/
theorem byTarget_sound {m : Mask} {t : Nat → Word} {e : Word × Mask} (he : e ∈ byTarget m t) {l : Nat} (hl : l < 32) (hm : inMask e.2 l = true) :
    inMask m l = true ∧ t l = e.1 := by
  obtain ⟨a, _, rfl⟩ := List.mem_map.mp he
  simpa [inMask_maskWhere _ l hl] using hm

end Transfer

end Sys2Proof.Machine

namespace Sys2Proof.Proofs

open Sys2Proof Sys2Proof.Machine

/-- Settles O18: each writes d, and then its predicate or RNGCTR. -/
theorem carrySampleRandom : Obligations.CarrySampleRandom := by
  refine fun f s i => ⟨fun h => ?carry, fun h => ?sample, fun h => ?random⟩
  case carry =>
    obtain ⟨g, w, hp, hr⟩ := wrote_readView h.issuing (fxPlan_gone i f (i.active f) 0 (uniformResult i.g f (i.active f))) (srcNames f)
      (uniformResult i.g f (i.active f)) (i.active f) (fun l => BitVec.ofNat 64 (carrySum f (readView s i.g (srcNames f)).2 l))
    have hnext := exec_iaddc_issues h
    unfold carrySum at hnext w
    cases hc : f.c
    case p q =>
      simp only [hc] at hnext w ⊢
      obtain ⟨x, hx⟩ := w.predicate hp hr q.toNat _
      exact ⟨_, x, hnext, hx⟩
    all_goals
      simp only [hc] at hnext w ⊢
      obtain ⟨x, hissued, hvector, hscalar, hpred, hrest⟩ := w.complete hp hr
      exact ⟨_, x, hnext, hissued, hvector, hscalar, fun n _ => hpred n, hrest⟩
  case sample =>
    obtain ⟨g, w, hp, hr⟩ := wrote_readView h.issuing (fxPlan_gone i f (i.active f) 0 false) (srcNames f) false (i.active f)
      (fun _ => BitVec.ofNat 64 (sampledLane f (readView s i.g (srcNames f)).2 (i.active f)).1)
    have hnext := exec_csamp_issues h
    by_cases h7 : f.modAt 0 3 = 7
    · obtain ⟨x, hissued, hvector, hscalar, hpred, hrest⟩ := w.complete hp hr
      refine ⟨_, x, hnext.trans (congrArg (fun t => Host.Outcome.next (complete t i [])) (if_pos h7)), hissued, hvector, hscalar, fun n hn => ?_, hrest⟩
      rw [hpred n, if_neg (h7 ▸ hn)]
    · obtain ⟨x, hissued, hvector, hscalar, hpred, hrest⟩ := w.predicate hp hr (f.modAt 0 3) _
      refine ⟨_, x, hnext.trans (congrArg (fun t => Host.Outcome.next (complete t i [])) (if_neg h7)), hissued, hvector, hscalar, fun n hn => ?_, hrest⟩
      rw [hpred n hn, maskWhere_const_and]
      rfl
  case random =>
    obtain ⟨g, w, hp, hr⟩ := wrote_writeDest (onlyGroup_refl (issuer_slot h.issuing).2.1) (holds_of_issuer h.issuing)
      (fxPlan_gone i f (i.active f) 0 false) false (i.active f) (fun l => rngForm f.ty (rngOut i.g.rngkey i.g.rngctr l))
    obtain ⟨x, hissued, hvector, hscalar, hpred, hctr, hastat, hbesides⟩ := (w.onIssuing (fun g => { g with rngctr := g.rngctr + 1 }) rfl).endIssue
      [i.onward i.e.mask]
    refine ⟨_, x, (exec_rng_issues h).trans (congrArg _ (complete_noTraps ..)), hissued, hvector, hscalar, hpred.trans hp, hastat, ?_, hbesides⟩
    rw [hctr, ← hr]

/-- Settles O19: the five are one operation, each with its own target; the parts are the lanes by their targets. -/
theorem transfers : Obligations.Transfers := fun f =>
  ⟨transfer_law (exec_bra f), transfer_law (exec_brx f), transfer_law (exec_call f), transfer_law (exec_callx f), transfer_law (exec_ret f),
    fun _ t _ hl hm => byTarget_covers t hl hm, fun _ _ _ he _ hl hm => byTarget_sound he hl hm⟩

end Sys2Proof.Proofs
end

section
/-! PROOF. The instructions of control that change the frontier alone, traps from code, and the return from a trap (R31, R275, R278, R279,
R284, R380, R381). -/

namespace Sys2Proof.Machine

section

variable {f : Fx} {s : State} {i : Issuer}

/-! ### NOP, YIELD and WAITF -/

theorem exec_nop_reaches (h : Reaches s i f false) : exec (.nop f) s = .next (complete s i []) :=
  (exec_nop f s).trans (onIssue_reaches h _)

theorem exec_yield_reaches (h : Reaches s i f false) : exec (.yield f) s =
    .next (endIssue s i true [{ i.onward i.e.mask with hold := .yielded (otherSlots i.slot) }] []) :=
  (exec_yield f s).trans (onIssue_reaches h _)

theorem exec_waitf_reaches (h : Reaches s i f false) : exec (.waitf f) s =
    .next (if mustWait (coreOf s i.k) i.g (lanePlan i f 0 inFull) || !flagsClear i.g (uniformB i.g f % 4096) then s else complete s i []) :=
  (exec_waitf f s).trans (onIssue_reaches h _)

/-- The mask of WAITF has the twelve flags' bits. -/
theorem testBit_waitMask {w n : Nat} (hn : n < 12) : (w % 4096).testBit n = w.testBit n := by
  rw [show 4096 = 2 ^ 12 from rfl, Nat.testBit_mod_two_pow]
  simp [hn]

/-! ### Traps from code -/

theorem exec_trap_issues (h : Issues s i f false (lanePlan i f 14 inFull)) : exec (.trap f) s =
    .next (complete s i [{ cause := causeTrapi, addr := BitVec.ofNat 64 (uniformB i.g f), lanes := i.active f, next := true }]) := by
  rw [exec_trap, execTrap, codeTrap, onIssue_effect h]
  exact congrArg Host.Outcome.next (passing_pass h.passes _)

theorem exec_bkpt_issues (h : Issues s i f false (lanePlan i f 14 inFull)) : exec (.bkpt f) s =
    .next (complete s i [{ cause := causeBkpt, lanes := i.active f, next := true }]) := by
  rw [exec_bkpt, execBkpt, codeTrap, onIssue_effect h]
  exact congrArg Host.Outcome.next (passing_pass h.passes _)

theorem exec_sysc_issues (h : Issues s i f false (lanePlan i f 14 inFull)) : exec (.sysc f) s =
    .next (complete s i [{
      cause := causeTrapi, sub := 1, addr := BitVec.ofNat 64 (uniformB i.g f % 2 ^ 16), ipa := (uniformC i.g f).toNat, lanes := i.active f,
      next := true, report := true, toPolder := true }]) := by
  rw [exec_sysc, execSysc, onIssue_effect h]
  exact congrArg Host.Outcome.next (passing_pass h.passes _)

/-- The entry that enters the handler (R31). -/
def handlerEntry (s : State) (i : Issuer) (m : Mask) : Entry :=
  { ((issuedAge i.e).at' { pc := trapHandler s i.tm, left := 0 }) with mask := m, st := .ready, token := 0, hold := .none, pri := 255, keep := true }

/-- One trap in handler mode, with none in service: the trap registers are loaded and its lanes enter the handler. -/
theorem takeTraps_handler (hi : issuer s = some i) (hmode : handlerMode s i.tm = true) (hserv : i.g.service = none) (tr : Trap)
    (hrep : tr.report = false) (hhold : tr.hold = .none) : takeTraps s i [tr] =
    (onIssuing s i (fun g => loadTrap g i.e tr (if tr.next then followPlace i.e i.len else placeOf i.e)), [handlerEntry s i tr.lanes]) := by
  have hlanes : handlerLanes i.g = 0 := by simp [handlerLanes, hserv]
  have hparts : trapParts 0 tr = [tr] := by simp [trapParts]
  have hapart : tr.lanes &&& 0 = 0 := BitVec.and_zero
  have htake : takeTrap s i tr =
      (onIssuing s i (fun g => loadTrap g i.e tr (if tr.next then followPlace i.e i.len else placeOf i.e)), handlerEntry s i tr.lanes) := by
    unfold takeTrap
    simp only [groupNow_of_holds (holds_of_issuer hi), hhold, hrep, hmode, hlanes, hserv, hapart, bne_self_eq_false, Bool.not_true,
      Bool.or_self, Bool.false_eq_true, Option.isSome_none, if_false]
    rfl
  simp only [takeTraps, groupNow_of_holds (holds_of_issuer hi), hlanes, List.flatMap_cons, List.flatMap_nil, List.append_nil, hparts,
    List.foldl_cons, List.foldl_nil, htake, List.nil_append]

/-- Traps that are taken first, and then an end without them. -/
theorem endIssue_traps {trs : List Trap} {u : State} {es : List Entry} (h : takeTraps s i trs = (u, es)) (issued : Bool) (parts : List Entry) :
    endIssue s i issued parts trs = endIssue u i issued (parts ++ es) [] := by
  have hnone : takeTraps u i [] = (u, []) := rfl
  simp only [endIssue, h, hnone, List.append_nil]

/-- The end of an instruction whose one trap enters the handler. -/
theorem complete_handler (hi : issuer s = some i) (hmode : handlerMode s i.tm = true) (hserv : i.g.service = none) (tr : Trap)
    (hrep : tr.report = false) (hhold : tr.hold = .none) :
    ∃ g, Issued s (complete s i [tr]) i [i.onward (i.others tr.lanes), handlerEntry s i tr.lanes] g ∧
      g = { loadTrap i.g i.e tr (if tr.next then followPlace i.e i.len else placeOf i.e) with
        entries := (replaceEntry i.g i.e [i.onward (i.others tr.lanes), handlerEntry s i tr.lanes]).entries, begun := true } := by
  have hout : (0 : Mask) ||| tr.lanes = tr.lanes := BitVec.zero_or
  rw [complete, List.foldl_cons, List.foldl_nil, hout, endIssue_traps (takeTraps_handler hi hmode hserv tr hrep hhold)]
  have hg := holds_of_issuer hi
  exact ⟨_, endIssue_issued (onlyGroup_onIssuing (onlyGroup_refl (issuer_slot hi).2.1) hg _) (holds_onIssuing hg _ rfl rfl) rfl _, rfl⟩

/-! ### The return from a trap -/

/-- Lanes of TLANES that have issued a TRET are marked as done (R381). -/
def markDone (m : Mask) (g : Group) : Group := { g with service := g.service.map (fun v => { v with done := v.done ||| (m &&& g.tlanes) }) }

/-- The group of a TRET whose lanes wait. -/
def returning (i : Issuer) (m : Mask) : Group :=
  markDone m { replaceEntry i.g i.e [issuedAge { i.e with mask := m, hold := .tret, skip := i.len }, i.onward (i.others m)] with begun := true }

theorem exec_tret_issues (hserv : i.g.service.isSome = true) (h : Issues s i f true { cls := 14, active := i.active f }) : exec (.tret f) s = .next (
    onIssuing (endIssue s i true [issuedAge { i.e with mask := i.active f, hold := .tret, skip := i.len }, i.onward (i.others (i.active f))] []) i
      (fun g => finishService (markDone (i.active f) g))) := by
  rw [exec_tret, execTret, onIssue_effect h]
  simp only [hserv, if_true]
  exact congrArg Host.Outcome.next (passing_pass h.passes _)

/-- The end of a service changes the frontier and the service alone. -/
theorem finishService_frame (g : Group) : finishService g = { g with entries := (finishService g).entries, service := (finishService g).service } := by
  unfold finishService
  split
  · rfl
  · split <;> rfl

theorem finishService_waits {g : Group} {sv : Service} (hs : g.service = some sv) (hd : serviceLanes g &&& ~~~ sv.done ≠ 0) : finishService g = g := by
  simp only [finishService, hs, beq_iff_eq, hd, if_false]

/-- An entry that takes the age of others changes in nothing else. -/
theorem ageOf_frame (e : Entry) (l : List Entry) : e.ageOf l = { e with age := (e.ageOf l).age, aged := (e.ageOf l).aged } := by
  have hkeeps : { e.ageOf l with age := 0, aged := none } = { e with age := 0, aged := none } := by
    cases l with
    | nil => rfl
    | cons a r => exact foldl_keeps (fun e : Entry => { e with age := 0, aged := none }) Entry.ageWith (fun _ _ => rfl) r _
  exact congrArg (fun x : Entry => { x with age := (e.ageOf l).age, aged := (e.ageOf l).aged }) hkeeps

/-- Once every lane that has not exited is done, the service ends, and the lanes resume at TPC in an entry of their own. -/
theorem finishService_ends {g : Group} {sv : Service} (hs : g.service = some sv) (hlive : serviceLanes g ≠ 0) (hd : serviceLanes g &&& ~~~ sv.done = 0) :
    (finishService g).service = none ∧ ∃ l, (resumeEntry g sv).ageOf l ∈ (finishService g).entries := by
  have hmask (l : List Entry) : ((resumeEntry g sv).ageOf l).mask ≠ 0 := by
    rw [ageOf_mask, resumeEntry]
    split <;> exact hlive
  simp only [finishService, hs, beq_iff_eq, hd, if_true, hmask, if_false]
  exact ⟨trivial, _, List.mem_append_right _ (List.mem_singleton.mpr rfl)⟩

theorem resumeEntry_common (g : Group) (sv : Service) : (resumeEntry g sv).mask = serviceLanes g ∧
    (resumeEntry g sv).pc = BitVec.ofNat 64 (g.tpc.toNat / 4 * 4) ∧ (resumeEntry g sv).pri = sv.pri ∧ (resumeEntry g sv).st = .ready := by
  unfold resumeEntry
  split <;> exact ⟨rfl, rfl, rfl, rfl⟩

/-- ENTRY is bit 0 of TPC (R56). -/
theorem bitAt_entry (x : Word) : bitAt x.toNat 0 = x.getLsbD 0 := by rw [bitAt_eq_testBit, BitVec.testBit_toNat]

theorem resumeEntry_header {g : Group} (h : g.tpc.getLsbD 0 = true) (sv : Service) :
    resumeEntry g sv = { mask := serviceLanes g, pc := BitVec.ofNat 64 (g.tpc.toNat / 4 * 4), pri := sv.pri, left := 0 } :=
  if_pos ((bitAt_entry _).trans h)

theorem resumeEntry_body {g : Group} (h : g.tpc.getLsbD 0 = false) (sv : Service) : resumeEntry g sv =
    { mask := serviceLanes g, pc := BitVec.ofNat 64 (g.tpc.toNat / 4 * 4), pri := sv.pri, fa := sv.fa, fav := sv.fav, fb := sv.fb, fbv := sv.fbv,
      left := max 1 sv.left } := if_neg (by rw [bitAt_entry, h]; decide)

end

end Sys2Proof.Machine

namespace Sys2Proof.Proofs

open Sys2Proof Sys2Proof.Machine

/-- Settles O20: an issue that ends at once, with the flags of the mask at 0, or is held. -/
theorem waitingInstructions : Obligations.WaitingInstructions := by
  refine fun f s i h => ⟨?nop, ?yield, fun hfree hclear => ?goes, fun hraised => ?held⟩
  case nop =>
    obtain ⟨g, hg⟩ := complete_onlyFrontier h.issuing
    exact ⟨_, g, exec_nop_reaches h, hg⟩
  case yield => exact ⟨_, _, exec_yield_reaches h, endIssue_issued_of_issuer h.issuing _, rfl⟩
  case goes =>
    have hflags : flagsClear i.g (uniformB i.g f % 4096) = true :=
      (flagsClear_iff ..).mpr fun n hn ht => hclear n hn ((testBit_waitMask hn).symm.trans ht)
    obtain ⟨g, hg⟩ := complete_onlyFrontier h.issuing
    exact ⟨_, g, (exec_waitf_reaches h).trans (congrArg _ (if_neg (by simp [hfree, hflags]))), hg⟩
  case held =>
    obtain ⟨n, hn, ht, hf⟩ := hraised
    have hflags : flagsClear i.g (uniformB i.g f % 4096) = false := flagsClear_eq_false ⟨n, hn, (testBit_waitMask hn).trans ht, hf⟩
    exact (exec_waitf_reaches h).trans (congrArg _ (if_pos (by simp [hflags])))

/-- Settles O23: the three take their traps at the end of the issue; in handler mode the trap of TRAP enters the handler. -/
theorem trapInstructions : Obligations.TrapInstructions := by
  refine ⟨fun f s i h => ⟨exec_trap_issues h, exec_bkpt_issues h, exec_sysc_issues h⟩, fun f s i h hmode hserv => ?_⟩
  obtain ⟨_, hissued, rfl⟩ := complete_handler h.issuing hmode hserv
    { cause := causeTrapi, addr := BitVec.ofNat 64 (uniformB i.g f), lanes := i.active f, next := true } rfl rfl
  exact ⟨_, _, exec_trap_issues h, hissued, rfl, rfl, rfl, rfl, rfl, rfl⟩

/-- Settles O25: the waiting lanes by the end of the issue; the end of the service by whether all are done. -/
theorem trapReturn : Obligations.TrapReturn := by
  refine ⟨fun f s i hserv h => ?waits, fun g sv hs => ⟨finishService_waits hs, fun hlive hd => ?resumes⟩⟩
  case waits =>
    have hissued := endIssue_issued_of_issuer h.issuing
      [issuedAge { i.e with mask := i.active f, hold := .tret, skip := i.len }, i.onward (i.others (i.active f))]
    have hholds : Holds _ i _ := ⟨hissued.group, rfl, rfl⟩
    have hframe := finishService_frame (returning i (i.active f))
    have huid : (finishService (returning i (i.active f))).uid = i.g.uid := by rw [hframe]; rfl
    have hgid : (finishService (returning i (i.active f))).gid = i.g.gid := by rw [hframe]; rfl
    have heq := onIssuing_eq hholds (fun g => finishService (markDone (i.active f) g))
    have hafter := holds_onIssuing hholds (fun g => finishService (markDone (i.active f) g)) huid hgid
    refine ⟨_, finishService (returning i (i.active f)), exec_tret_issues hserv h, ?_, ?_, onlyGroup_onIssuing hissued.only hholds _, hafter.1, ?_, ?_, rfl⟩
    · exact (congrArg State.issued heq).trans hissued.issued
    · exact (congrArg State.cur heq).trans hissued.done
    · rw [hframe]
      rfl
    · rw [hframe]
      rfl
  case resumes =>
    obtain ⟨hends, l, hmem⟩ := finishService_ends hs hlive hd
    obtain ⟨hmask, hpc, hpri, hst⟩ := resumeEntry_common g sv
    refine ⟨hends, _, hmem, ?_⟩
    rw [ageOf_frame]
    refine ⟨hmask, hpc, hpri, hst, fun hentry => ?_, fun hentry => ?_⟩
    · rw [resumeEntry_header hentry]
      exact ⟨rfl, rfl, rfl⟩
    · rw [resumeEntry_body hentry]
      exact ⟨rfl, rfl, rfl, rfl, rfl⟩

end Sys2Proof.Proofs
end

section
/-! PROOF. OPRF, MMA and MMAW at their issue (R355, R357, R359). -/

namespace Sys2Proof.Machine

/-! ### Names that become pending -/

/-- Names become pending for an operation: nothing of the state changes but the counter of free values, nothing of the group but its vector
registers and their results to come, and every other name stands. -/
structure Pends (ns : List Nat) (op : Nat) (fl : Option Nat) (a r : State × Group) : Prop where
  state : r.1 = { a.1 with fresh := r.1.fresh }
  group : r.2 = { a.2 with v := r.2.v, badV := r.2.badV, pend := r.2.pend }
  keeps : ∀ q : Nat → Nat → Option Nat → Bool, a.2.pend.any (fun x => q x.name x.op x.flag) = true → r.2.pend.any (fun x => q x.name x.op x.flag) = true
  await : ∀ n ∈ ns, r.2.pend.any (fun x => x.name == n && x.op == op && x.flag == fl) = true
  others : ∀ n, n ∉ ns → look r.2.v n = look a.2.v n

theorem Pends.nil (op : Nat) (fl : Option Nat) (a : State × Group) : Pends [] op fl a a :=
  ⟨rfl, rfl, fun _ h => h, fun _ h => absurd h (List.not_mem_nil), fun _ _ => rfl⟩

theorem Pends.cons {n : Nat} {ns : List Nat} {op : Nat} {fl : Option Nat} {a b c : State × Group} (h : Pends [n] op fl a b) (t : Pends ns op fl b c) :
    Pends (n :: ns) op fl a c where
  state := by rw [t.state, h.state]
  group := by rw [t.group, h.group]
  keeps q hq := t.keeps q (h.keeps q hq)
  await m hm := by
    rcases List.mem_cons.mp hm with rfl | hm
    · exact t.keeps (fun x y z => x == m && y == op && z == fl) (h.await m List.mem_cons_self)
    · exact t.await m hm
  others m hm := by
    rw [t.others m (fun h => hm (List.mem_cons_of_mem _ h)), h.others m (fun h => hm (List.mem_singleton.mp h ▸ List.mem_cons_self))]

/-- A fold whose every step makes its name pending. -/
theorem pends_foldl {op : Nat} {fl : Option Nat} (step : State × Group → Nat → State × Group) (hstep : ∀ a n, Pends [n] op fl a (step a n)) (ns : List Nat)
    (a : State × Group) : Pends ns op fl a (ns.foldl step a) := by
  induction ns generalizing a with
  | nil => exact .nil op fl a
  | cons n r ih => exact .cons (hstep a n) (ih (step a n))

theorem pends_pendName (a : State × Group) (n op : Nat) (fl : Option Nat) : Pends [n] op fl a (pendName (a.1, allocName a.2 n) n op fl) :=
  have ⟨hs, hg, hk, ha, ho⟩ := pendAll_spec [n] op fl a
  ⟨hs, hg, hk, ha, ho⟩

/-- An accumulator name that becomes pending, whether its operation is chained or not. -/
theorem pends_pendAcc (d : Nat) (a : State × Group) (n op : Nat) (fl : Option Nat) : Pends [n] op fl a (pendAcc d (a.1, allocName a.2 n) n op fl) := by
  unfold pendAcc
  split
  · exact pends_pendName a n op fl
  · refine ⟨rfl, rfl, fun q hq => ?_, fun m hm => ?_, fun m hm => ?_⟩
    · rw [List.any_append]
      exact Bool.or_eq_true_iff.mpr (.inl hq)
    · rw [List.mem_singleton.mp hm, List.any_append]
      simp
    · exact look_put_ne _ _ (fun h => hm (List.mem_singleton.mpr h))

/-- The start of an operation and its results to come: what the group is when the issue ends. -/
theorem startOp_pends_startsOp {base s : State} {i : Issuer} {p : Plan} (hb : OnlyGroup base s i)
    (hg : Holds s i (releaseNames i.g (released p.rel (p.dst.map (·.1))))) (o : Op) (ho : o.flag = p.flag) (ns : List Nat) {r : State × Group}
    (hr : Pends ns (nextOp base i) p.flag ((startOp s i o).1, groupNow (startOp s i o).1 i) r) (f : CoreState → CoreState)
    (hf : ∀ c, f c = { c with latches := (f c).latches }) :
    StartsOp base i p.flag o (fun g => Pending i g p ns (nextOp base i)) (.next (complete (onCore (onIssuing r.1 i (fun _ => r.2)) i.k f) i [])) := by
  obtain ⟨hadd, hcount, hop, -⟩ := startOp_spec hb hg o
  rw [groupNow_of_holds hcount, ho] at hr
  rw [ho] at hcount
  generalize startOp s i o = so at *
  have hflags : countFlag (releaseNames i.g (released p.rel (p.dst.map (·.1)))) p.flag =
      { countFlag i.g p.flag with
        v := (releaseNames i.g (released p.rel (p.dst.map (·.1)))).v
        badV := (releaseNames i.g (released p.rel (p.dst.map (·.1)))).badV
        pend := (releaseNames i.g (released p.rel (p.dst.map (·.1)))).pend } := by
    cases p.flag <;> rfl
  have hframe := hr.group
  have hothers := hr.others
  simp only [hflags] at hframe hothers
  have hc := countFlag_frame i.g p.flag
  have honly : OnlyGroup (addOp base i.k o).1 r.1 i := by
    rw [hr.state]
    exact onlyGroup_fresh hadd _
  have hholds : Holds r.1 i (countFlag (releaseNames i.g (released p.rel (p.dst.map (·.1)))) p.flag) := by
    rw [hr.state]
    exact holds_fresh hcount _
  have honly' := onlyGroup_onIssuing honly hholds (fun _ => r.2)
  have hholds' := holds_onIssuing hholds (fun _ => r.2) (by rw [hframe, hflags]) (by rw [hframe, hflags])
  have hcore : OnlyGroup (addOp base i.k o).1 (onCore (onIssuing r.1 i (fun _ => r.2)) i.k f) i := by
    refine onlyGroup_onCore honly' f ?_ (fun n _ => ?_) (fun n _ => ?_) (fun tm htm => ⟨tm, ?_, rfl⟩) ?_
    · rw [hf]
      rfl
    · rw [hf]
      rfl
    · rw [hf]
      rfl
    · rw [hf]
      exact htm
    · rw [hf]
      rfl
  have hcoreHolds := holds_onCore hholds' f (by rw [hf])
  refine ⟨_, _, rfl, complete_issued hcore hcoreHolds (by rw [hframe, hc]), ?_, ?_, ?_, ?_, hr.await, fun n hn => ?_⟩
  · rw [opOf_complete hcoreHolds]
    refine Eq.trans ?_ ((opOf_onIssuing hholds (fun _ => r.2) (nextOp base i)).trans ?_)
    · unfold opOf
      rw [coreOf_onCore_self, hf]
    · rw [hr.state]
      exact hop
  · rw [hframe]
    rfl
  · rw [hframe, hc]
    rfl
  · rw [hframe, hc]
    rfl
  · exact (hothers n hn).trans (look_releaseNames _ _ _)

/-! ### OPRF -/

section

variable {f : Fx} {s : State} {i : Issuer}

/-- When the format is valid and every lane gives it, OPRF meets no fault: its plan is that of an instruction of class 0. -/
theorem exec_oprf_sets {g : Group} {w : Word} (hg : (readView s i.g (srcNames f)).2 = g) (hw : formatWord g f (i.active f) = w) (ok : formatOk w = true)
    (same : f.b.isV = true → ∀ l, l < 32 → inMask (i.active f) l → opndAt g .b64 f.b f.smb l = w) (h : Issues s i f false (lanePlan i f 0 inFull)) :
    exec (.oprf f) s = .next (complete (onIssuing (applyReleases (readView s i.g (srcNames f)).1 i (lanePlan i f 0 inFull)) i
      (fun g => { g with mfmt := BitVec.ofNat 16 (2 ^ 15 + w.toNat) })) i []) := by
  have hdiffer : (if f.b.isV then maskWhere (fun l => inMask (i.active f) l && opndAt g .b64 f.b f.smb l != w) else 0) = 0 := by
    split
    case isFalse => rfl
    case isTrue hv =>
      refine mask_ext fun l hl => ?_
      rw [inMask_maskWhere _ _ hl]
      cases hm : inMask (i.active f) l
      · simp [inMask]
      · simp [same hv l hl hm, inMask]
  rw [exec_oprf, execOprf, onIssue_effect h]
  simp only [hg, hw, hdiffer, ok, beq_self_eq_true, Bool.not_true, Bool.and_false, Bool.false_eq_true, if_false, bne_self_eq_false]
  exact congrArg Host.Outcome.next (passing_pass h.passes _)

/-! ### MMA and MMAW -/

/-- The names that a matrix operation reads when it issues: those that its predecessors in the chain do not write. -/
def matrixSrcs (s : State) (f : Fx) (wide : Bool) (i : Issuer) : List Nat :=
  (matrixPlan s f wide i (i.active f)).srcs.filter (fun n => !(accNames f.d.num).contains n)

/-- The A operand: the latched one when the latch applies. -/
def matrixA (s : State) (f : Fx) (wide : Bool) (i : Issuer) : List (List Word) :=
  (latchedA (coreOf s i.k) i.slot f wide).getD (spanValues (readView s i.g (matrixSrcs s f wide i)).2 f.a.num (aSpan wide))

def matrixKind (s : State) (f : Fx) (wide : Bool) (i : Issuer) : OpKind :=
  let g := (readView s i.g (matrixSrcs s f wide i)).2
  .mma wide (f.modAt 0 1 == 1) i.g.mfmt f.d.num (matrixA s f wide i) (spanValues g f.b.num (bSpan wide)) (if f.c.isV then spanValues g f.c.num 4 else [])
    (matrixSrcs s f wide i) false

/-- The state in which the operation starts, and the operation. -/
def matrixBase (s : State) (f : Fx) (wide : Bool) (i : Issuer) : State :=
  applyReleases (readView s i.g (matrixSrcs s f wide i)).1 i (matrixPlan s f wide i (i.active f))

def matrixStarted (s : State) (f : Fx) (wide : Bool) (i : Issuer) : Op :=
  { newOp (matrixBase s f wide i) i (matrixPlan s f wide i (i.active f)) (i.active f) (matrixKind s f wide i) with dest := .v f.d.num, regs := 32 }

/-- The names of D become pending. -/
def matrixPends (s : State) (f : Fx) (wide : Bool) (i : Issuer) (n : Nat) : State × Group :=
  let u := (startOp (matrixBase s f wide i) i (matrixStarted s f wide i)).1
  (accNames f.d.num).foldl (fun a x => pendAcc f.d.num (a.1, allocName a.2 x) x n (matrixPlan s f wide i (i.active f)).flag) (u, groupNow u i)

theorem matrixOp_issues {wide : Bool} (h : Issues s i f false (matrixPlan s f wide i (i.active f))) : matrixOp s f wide = .next (
    let r := matrixPends s f wide i (startOp (matrixBase s f wide i) i (matrixStarted s f wide i)).2
    complete (onCore (onIssuing r.1 i (fun _ => r.2)) i.k (fun c => latchAfter c i.slot f wide (matrixA s f wide i))) i []) := by
  have hcore : ∀ ns, coreOf (readView s i.g ns).1 i.k = coreOf s i.k := fun ns => by
    rw [readView_state]
    rfl
  rw [matrixOp, onIssue_effect h _ (matrixRel f wide)]
  refine congrArg Host.Outcome.next ((passing_pass h.passes _).trans ?_)
  simp only [hcore]
  rfl

theorem latchAfter_frame (c : CoreState) (slot : Nat) (f : Fx) (wide : Bool) (av : List (List Word)) :
    latchAfter c slot f wide av = { c with latches := (latchAfter c slot f wide av).latches } := by
  unfold latchAfter
  split <;> rfl

theorem matrixOp_startsOp {wide : Bool} (h : Issues s i f false (matrixPlan s f wide i (i.active f))) :
    StartsOp s i (matrixPlan s f wide i (i.active f)).flag (matrixStarted s f wide i)
      (fun g => Pending i g (matrixPlan s f wide i (i.active f)) (accNames f.d.num) (nextOp s i)) (matrixOp s f wide) := by
  have hread := holds_readView (holds_of_issuer h.issuing) i.g (matrixSrcs s f wide i)
  have hb : OnlyGroup s (matrixBase s f wide i) i :=
    onlyGroup_applyReleases (onlyGroup_readView (onlyGroup_refl (issuer_slot h.issuing).2.1) _ _) hread _
  have hg := holds_applyReleases hread (matrixPlan s f wide i (i.active f))
  have hpends : Pends (accNames f.d.num) (nextOp s i) (matrixPlan s f wide i (i.active f)).flag
      ((startOp (matrixBase s f wide i) i (matrixStarted s f wide i)).1, groupNow (startOp (matrixBase s f wide i) i (matrixStarted s f wide i)).1 i)
      (matrixPends s f wide i (nextOp s i)) :=
    pends_foldl _ (fun a n => pends_pendAcc f.d.num a n _ _) _ _
  rw [matrixOp_issues h, startOp_number_of_onlyGroup hb hg]
  exact startOp_pends_startsOp hb hg (matrixStarted s f wide i) rfl _ hpends _ (fun c => latchAfter_frame c i.slot f wide _)

end

end Sys2Proof.Machine

namespace Sys2Proof.Proofs

open Sys2Proof Sys2Proof.Machine

/-- Settles O38: OPRF meets no fault and sets MFMT alone; a matrix operation starts with the operands that its reads find, and each name of D becomes
pending, whether a chained result was to come there or not. -/
theorem matrixIssues : Obligations.MatrixIssues := by
  intro f s i
  refine ⟨fun ok same h => ?_, fun wide h _ => ?_⟩
  · have hread := holds_readView (holds_of_issuer h.issuing) i.g (srcNames f)
    have honly := onlyGroup_applyReleases (onlyGroup_readView (onlyGroup_refl (issuer_slot h.issuing).2.1) _ _) hread (lanePlan i f 0 inFull)
    have hholds := holds_applyReleases hread (lanePlan i f 0 inFull)
    refine ⟨_, _, exec_oprf_sets rfl rfl ok same h,
      complete_issued (onlyGroup_onIssuing honly hholds _) (holds_onIssuing hholds (fun g => { g with mfmt := _ }) rfl rfl) rfl, rfl, rfl, rfl, rfl, fun n => ?_⟩
    exact (look_releaseNames _ _ n).trans (by rw [fxPlan_gone]; rfl)
  · refine ⟨matrixStarted s f wide i, ?_, rfl, ?_⟩
    · cases wide
      · exact matrixOp_startsOp h
      · exact matrixOp_startsOp h
    · exact opOf_newOp (onlyGroup_applyReleases (onlyGroup_readView (onlyGroup_refl (issuer_slot h.issuing).2.1) _ _)
        (holds_readView (holds_of_issuer h.issuing) _ _) _) _ _ (matrixKind s f wide i)

end Sys2Proof.Proofs
end

section
/-! PROOF. What the fills and the evictions of an L1 leave of the groups of the cores (R79, R219, R347): a prefetch touches no group. -/

namespace Sys2Proof.Machine

/-- The groups of the cores. -/
def groupsOf (s : State) (k : Nat) : AMap Group := (coreOf s k).groups

theorem blindToWalks_groupsOf : BlindToWalks groupsOf := fun _ _ _ _ _ _ _ _ _ _ _ => rfl

/-- A change of a core outside its groups. -/
theorem groupsOf_onCore (s : State) (k : Nat) (f : CoreState → CoreState)
    (h : ∀ c, (f c).groups = c.groups := by intro c; rfl) : groupsOf (onCore s k f) = groupsOf s := by
  funext j
  unfold groupsOf
  by_cases hj : j = k
  · subst hj
    rw [coreOf_onCore_self, h]
  · rw [coreOf_onCore_ne _ _ hj]

/-! ### Counts, tokens and records -/

theorem groupsOf_countEvent (s : State) (k : Nat) (ctx : Option (BitVec 10)) (code n : Nat) : groupsOf (countEvent s k ctx code n) = groupsOf s := by
  unfold countEvent countFor
  dsimp only
  split
  · rfl
  split
  · rfl
  · exact groupsOf_onCore ..

theorem groupsOf_takeSector (s : State) (k : Nat) (ctx : BitVec 10) (pa : Nat) : groupsOf (takeSector s k ctx pa) = groupsOf s := by
  have hspend : groupsOf (spendTok s k ctx 1) = groupsOf s := groupsOf_onCore _ _ _ fun c => by split <;> rfl
  unfold takeSector
  dsimp only
  split
  · exact hspend
  · exact hspend

theorem groupsOf_appendCtx (s : State) (c : Nat) (r : RecordBytes) : groupsOf (appendCtx s c r) = groupsOf s := by
  have hforward : ∀ q, groupsOf (forwardRecord s q r) = groupsOf s := fun q => by
    unfold forwardRecord
    split <;> rfl
  unfold appendCtx
  dsimp only
  split
  · rfl
  split
  · exact hforward _
  · exact (blindToWalks_groupsOf.deviceWrite ..).trans (hforward _)

/-! ### Write-backs -/

theorem groupsOf_dieWriteP (s : State) (d pa n mask v : Nat) (tag : Option (BitVec 4)) (bad : Bool) (org : Option Origin) :
    groupsOf (dieWriteP s d pa n mask v tag bad org) = groupsOf s := by
  have hspoil : ∀ s, groupsOf (spoilHome s pa bad) = groupsOf s := fun s => by
    unfold spoilHome
    split <;> rfl
  have happly : ∀ s, groupsOf (spoilHome (applyHome s pa n mask v tag) pa bad) = groupsOf s := fun s =>
    (hspoil _).trans (blindToWalks_groupsOf.applyHome ..)
  have hnote : ∀ s a v, groupsOf (noteLast s (lineOf pa) a v) = groupsOf s := fun s a v => by
    unfold noteLast
    split <;> rfl
  unfold dieWriteP
  dsimp only
  split
  · rfl
  split
  · exact happly s
  refine (foldl_keeps groupsOf _ (fun s e => ?_) _ _).trans ?_
  · split
    · rfl
    · split <;> rfl
  · split
    · exact (hnote ..).trans (happly _)
    · rfl

theorem groupsOf_performWriteBack (s : State) (k : Nat) (w : WriteBack) (pa : Nat) : groupsOf (performWriteBack s k w pa) = groupsOf s := by
  have hmark : ∀ b : Bool, groupsOf (if b then markWritten s (homeDie pa) w.polder.toNat w.ipa else s) = groupsOf s := fun b => by cases b <;> rfl
  exact (groupsOf_dieWriteP ..).trans ((groupsOf_countEvent ..).trans ((groupsOf_takeSector ..).trans (hmark _)))

theorem groupsOf_landWb (s : State) (k n : Nat) (now : Bool) : groupsOf (landWb s k n now) = groupsOf s := by
  unfold landWb
  dsimp only
  split
  · rfl
  split
  · rfl
  split
  · split
    · rfl
    split
    · exact groupsOf_onCore ..
    · exact (groupsOf_onCore ..).trans (groupsOf_performWriteBack ..)
  · split
    · rfl
    · exact (groupsOf_onCore ..).trans (groupsOf_countEvent ..)

theorem groupsOf_landSector (s : State) (k : Nat) (w : WriteBack) (now : Bool) : groupsOf (landSector s k w now) = groupsOf s :=
  foldl_keeps groupsOf _ (fun _ _ => groupsOf_landWb ..) _ _

theorem groupsOf_sendOff (s : State) (k : Nat) (w : WriteBack) : groupsOf (sendOff s k w) = groupsOf s := by
  unfold sendOff
  dsimp only
  split
  · split
    · exact (groupsOf_onCore ..).trans (groupsOf_landSector ..)
    · exact (groupsOf_onCore ..).trans ((groupsOf_appendCtx ..).trans (groupsOf_landSector ..))
  · exact (groupsOf_landWb ..).trans ((groupsOf_onCore ..).trans (groupsOf_landSector ..))

theorem groupsOf_writeBackNow (s : State) (k key j : Nat) : groupsOf (writeBackNow s k key j) = groupsOf s := by
  unfold writeBackNow
  split
  · rfl
  dsimp only
  split
  · rfl
  · exact (groupsOf_sendOff ..).trans (groupsOf_onCore ..)

/-! ### Allocation and fills -/

theorem groupsOf_evictLine (s : State) (k key : Nat) : groupsOf (evictLine s k key) = groupsOf s :=
  (groupsOf_onCore ..).trans (foldl_keeps groupsOf _ (fun _ _ => groupsOf_writeBackNow ..) _ _)

theorem groupsOf_allocLine (s : State) (k : Nat) (ctx : BitVec 10) (va : Word) (home : LineHome) (ipa : Nat) :
    groupsOf (allocLine s k ctx va home ipa).1 = groupsOf s := by
  have hsyn : groupsOf (match synonymKey (coreOf s k) home with | some key => evictLine s k key | none => s) = groupsOf s := by
    split
    · exact groupsOf_evictLine ..
    · rfl
  unfold allocLine
  split
  · rfl
  · dsimp only
    split
    · exact hsyn
    · dsimp only
      exact (groupsOf_onCore ..).trans ((groupsOf_evictLine ..).trans hsyn)

theorem groupsOf_fillCopy (s : State) (d pa : Nat) : groupsOf (fillCopy s d pa) = groupsOf s := by
  unfold fillCopy
  dsimp only
  split <;> rfl

theorem groupsOf_fillSector (s : State) (k key j : Nat) : groupsOf (fillSector s k key j) = groupsOf s := by
  unfold fillSector
  split
  · rfl
  dsimp only
  split
  · rfl
  · exact (groupsOf_onCore ..).trans ((groupsOf_fillCopy ..).trans ((groupsOf_countEvent ..).trans (groupsOf_takeSector ..)))

/-! ### Prefetches -/

theorem groupsOf_prefFill (s : State) (i : Issuer) (l2 : Bool) (a : Word) (pa ipa : Nat) : groupsOf (prefFill s i l2 a pa ipa) = groupsOf s := by
  unfold prefFill
  dsimp only
  split
  · rfl
  split
  · exact groupsOf_fillCopy ..
  have halloc := groupsOf_allocLine s i.k i.g.ctx a (.phys (lineOf pa)) ipa
  split <;> rename_i he <;> rw [he] at halloc
  · refine (groupsOf_fillSector ..).trans ?_
    split <;> exact halloc
  · exact halloc

theorem groupsOf_prefLane (i : Issuer) (l2 : Bool) (r : State × Probe) (e : Nat × Word) : groupsOf (prefLane i l2 r e).1 = groupsOf r.1 := by
  have hcheck := fun q : Need => blindToWalks_groupsOf.checkAccess r.1 i.k i.g.ctx q r.2.walks r.2.pages e.2
  unfold prefLane
  dsimp only
  split
  · rfl
  · split
    · exact (groupsOf_prefFill ..).trans (hcheck _)
    · exact hcheck _

end Sys2Proof.Machine
end

section
/-! PROOF. Loads, stores and atomics at their issue, and PREF (R328 to R340, R347, R348). -/

namespace Sys2Proof.Machine

section

variable {f : Fx} {s : State} {i : Issuer}

/-! ### Loads -/

/-- The destination of a load. -/
def loadDest (d : Opnd) : Dest := match d with | .v n => .v n.toNat | .s n => .s n.toNat | _ => .none

/-- The operation that a load starts, the accesses found. -/
def loadedOp (s : State) (i : Issuer) (p : Plan) (q : Need) (m : Mask) (ea : Group → Nat → Word) (d : Opnd) (k : Nat) (path : Path)
    (accs : List LaneAcc) (ok : Mask) : Op :=
  { newOp (applyReleases (found s i p q m ea).1 i p) i p ok (.load path accs false) with dest := loadDest d, regs := k }

/-- A load that has begun: its operation is in flight, and its destinations are to come. -/
theorem startLoad_startsOp (h : issuer s = some i) (p : Plan) (q : Need) (m : Mask) (ea : Group → Nat → Word) (d : Opnd) (k : Nat) (path : Path)
    (accs : List LaneAcc) (ok : Mask) :
    StartsOp (found s i p q m ea).1 i p.flag (loadedOp s i p q m ea d k path accs ok) (fun g => Pending i g p (runNames d k) (nextOp s i))
      (.next (complete (startLoad i p d k path accs ok (applyReleases (found s i p q m ea).1 i p)) i [])) := by
  have hheld := holds_found h p q m ea
  have hstart := start_pending (onlyGroup_applyReleases (onlyGroup_found h p q m ea) hheld p) (holds_applyReleases hheld p)
    (loadedOp s i p q m ea d k path accs ok) (runNames d k) p.flag rfl (.inr rfl)
  rw [nextOp_found] at hstart
  exact hstart

theorem opOf_loadedOp (h : issuer s = some i) (p : Plan) (q : Need) (m : Mask) (ea : Group → Nat → Word) (d : Opnd) (k : Nat) (path : Path)
    (accs : List LaneAcc) (ok : Mask) : OpOf s i (loadedOp s i p q m ea d k path accs ok) ok p.flag :=
  ⟨rfl, rfl, rfl, rfl, rfl, rfl, ccyc_applyReleases_found h p q m ea⟩

/-- A load whose issue ends in `startLoad` wherever its accesses go through. -/
theorem loadLaw_of_starts {ins : Instr} {p : State → Issuer → Plan} {q : Need} {once : Bool} {regs : Nat} {path : Path}
    {parts : Mask → List LaneAcc → List LaneAcc}
    (hexec : ∀ s i, let m := i.active f
      let lanes := if once then maskOfLanes [lowestLane m] else m
      let watch (s : State) (accs : List LaneAcc) : Option Trap := if !q.data then none else if once then onceWatch s i .read m accs else watchTrap s i .read accs
      let fd := found s i (p s i) q lanes (fun g => eaAt g f q.scratch)
      Issues s i f false (p s i) → Clear s i (p s i) q lanes (fun g => eaAt g f q.scratch) watch →
        exec ins s = .next (complete (startLoad i (p s i) f.d regs path (parts m fd.2.byLane) m (applyReleases fd.1 i (p s i))) i [])) :
    LoadLaw ins f p q once regs path parts := by
  intro s i m lanes ea watch fd h hc
  refine ⟨loadedOp s i (p s i) q lanes ea f.d regs path (parts m fd.2.byLane) m, ?_, rfl, rfl, opOf_loadedOp h.issuing .., rfl⟩
  rw [hexec s i h hc]
  exact startLoad_startsOp h.issuing (p s i) q lanes ea f.d regs path (parts m fd.2.byLane) m

/-! ### PREF -/

/-- The plan of PREF, and the state once its lanes have been looked at. -/
def prefPlan (s : State) (f : Fx) (i : Issuer) : Plan := { loadPlan s f false 1 i (i.active f) with dst := [] }

def prefDone (s : State) (f : Fx) (i : Issuer) : State :=
  let v := readView s i.g (prefPlan s f i).srcs
  ((laneAddrs (i.active f) (eaAt v.2 f false)).foldl (prefLane i (f.modAt 0 1 == 1)) (v.1, ({} : Probe))).1

theorem exec_pref_issues (h : Issues s i f false (prefPlan s f i)) :
    exec (.pref f) s = .next (complete (applyReleases (prefDone s f i) i (prefPlan s f i)) i []) := by
  unfold prefDone prefPlan at *
  rw [exec_pref, execPref, onIssue_effect h]
  exact congrArg Host.Outcome.next (passing_pass h.passes _)

theorem holds_prefDone (h : issuer s = some i) : Holds (prefDone s f i) i i.g := by
  have hgroups : groupsOf (prefDone s f i) = groupsOf s := by
    refine (foldl_keeps (fun r : State × Probe => groupsOf r.1) (prefLane i (f.modAt 0 1 == 1)) (fun r e => groupsOf_prefLane ..) _ _).trans ?_
    rw [readView_state]
    rfl
  have hg := (holds_of_issuer h).1
  refine ⟨?_, rfl, rfl⟩
  unfold groupAt at hg ⊢
  rw [← hg]
  exact congrArg (fun m => look m i.slot) (congrFun hgroups i.k)

/-! ### Stores -/

/-- The common beginning with the names of a run released: the effect runs. -/
theorem onIssue_reaches_releasing {transfer : Bool} (h : Reaches s i f transfer) (effect : Issuer → Mask → State) (rel : List Nat) :
    onIssue s f transfer effect rel = .next (effect i (i.active f)) := by
  rw [onIssue, whenIssuing, h.issuing]
  simp only [h.legal]
  rw [if_neg (by simpa using h.active), if_neg (by simp [h.clean])]

/-- An instruction whose plan is not ready is held. -/
theorem passing_held {p : Plan} (h : p.ready = false) (effect : State → State) : passing s i p effect = s := by
  simp [passing, gate, h, held]

/-- A memory instruction whose plan is not ready is held. -/
theorem memOp_held {plan : Issuer → Mask → Plan} {q : Need} {watch : Option WatchKind}
    {effect : Issuer → Group → Plan → Mask → List LaneAcc → State → State} {rel : List Nat} (h : Reaches s i f false)
    (hr : (plan i (i.active f)).ready = false) : memOp s f plan q watch effect rel = .next s := by
  rw [memOp, onIssue_reaches_releasing h]
  exact congrArg Host.Outcome.next (passing_held hr _)

theorem bxShift_none (h : isBx f.ty = false) : bxShift f.ty = none := by
  unfold bxShift
  split
  · rename_i ht
    rw [ht] at h
    cases h
  · rename_i ht
    rw [ht] at h
    cases h
  · rfl

/-- The accesses of a store that all leave the core take a port tracker entry each. -/
theorem storePlan_not_ready (hbx : isBx f.ty = false)
    (hout : ∀ l ∈ lanesIn (i.active f), intoL1 (coreOf s i.k) (memPath f) (eaAt i.g f false l) = false)
    (hfull : trackerFree (coreOf s i.k) < countMask (i.active f)) :
    (storePlan s f (storeNeed f false (memCount f)) (memCount f) false i (i.active f)).ready = false := by
  have htouch : (lanesIn (i.active f)).flatMap (storeTouches i.g f (storeNeed f false (memCount f))) = (lanesIn (i.active f)).map (eaAt i.g f false) := by
    rw [List.map_eq_flatMap]
    congr 1
    funext l
    simp [storeTouches, storeNeed, bxShift_none hbx]
  have hnear : ((lanesIn (i.active f)).map (eaAt i.g f false)).filter
      (fun a => intoL1 (coreOf s i.k) (memPath f) a && !hostBound s i (storeNeed f false (memCount f)) a) = [] :=
    List.filter_eq_nil_iff.mpr fun a ha => by
      obtain ⟨l, hl, rfl⟩ := List.mem_map.mp ha
      simp [hout l hl]
  have hready : ∀ as n, countMask (i.active f) ≤ n → fabricReady (coreOf s i.k) i.g as n = false := fun as n hn => by
    rw [fabricReady, Bool.and_eq_false_iff]
    exact .inl (decide_eq_false (by omega))
  unfold storePlan
  simp only [Bool.false_eq_true, if_false, show (storeNeed f false (memCount f)).scratch = false from rfl,
    show (storeNeed f false (memCount f)).path = memPath f from rfl, htouch, hnear]
  rw [hready _ _ (by simp [countMask]), Bool.and_false]

/-- The operations of a store: in the L1 or in scratch, and at homes. -/
def nearOp (s : State) (i : Issuer) (p : Plan) (path : Path) (tag : Option Bool) (accs : List LaneAcc) (ok : Mask) : Op :=
  newOp s i p ok (.store path accs tag ((accs.filter (·.space != .scratch)).map (fun a => sectorKey a.va)).eraseDups.length)

def homeOp (s : State) (i : Issuer) (p : Plan) (tag : Option Bool) (accs : List LaneAcc) (ok : Mask) : Op :=
  let o := newOp s i (if tag.isSome then p else { p with flag := none }) ok (.homeStore accs tag)
  { o with tracker := (accs.map (fun a => a.pa / 64)).eraseDups.length, charge := o.charge }

theorem startStore_near {p : Plan} {path : Path} {tag : Option Bool} {accs : List LaneAcc} {ok : Mask} (hne : accs ≠ [])
    (hin : ∀ a ∈ accs, inL1 (coreOf s i.k) path a = true) : startStore i p path tag accs ok s = (startOp s i (nearOp s i p path tag accs ok)).1 := by
  have hl1 : accs.filter (inL1 (coreOf s i.k) path) = accs := List.filter_eq_self.mpr hin
  have hout : accs.filter (fun a => !inL1 (coreOf s i.k) path a) = [] := List.filter_eq_nil_iff.mpr (by simpa using hin)
  have hempty : accs.isEmpty = false := by simpa using hne
  unfold startStore nearOp
  simp only [hl1, hout, hempty]
  rfl

theorem startStore_home {p : Plan} {path : Path} {tag : Option Bool} {accs : List LaneAcc} {ok : Mask} (hne : accs ≠ [])
    (hout : ∀ a ∈ accs, inL1 (coreOf s i.k) path a = false ∧ a.space ≠ .fabric) :
    startStore i p path tag accs ok s = (startOp s i (homeOp s i p tag accs ok)).1 := by
  have hl1 : accs.filter (inL1 (coreOf s i.k) path) = [] := List.filter_eq_nil_iff.mpr fun a ha => by simp [(hout a ha).1]
  have hoff : accs.filter (fun a => !inL1 (coreOf s i.k) path a) = accs := List.filter_eq_self.mpr fun a ha => by simp [(hout a ha).1]
  have hhomes : accs.filter (·.space != .fabric) = accs := List.filter_eq_self.mpr fun a ha => by simp [(hout a ha).2]
  have hfab : accs.filter (·.space == .fabric) = [] := List.filter_eq_nil_iff.mpr fun a ha => by simp [(hout a ha).2]
  have hempty : accs.isEmpty = false := by simpa using hne
  unfold startStore homeOp
  simp only [hl1, hoff, hhomes, hfab, hempty]
  rfl

/-- An operation that starts where the issuing group is held: it is in flight, the flag has risen, and memory stands. -/
theorem startOp_held {g : Group} (hg : Holds s i g) (o : Op) : opOf (startOp s i o).1 i.k (coreOf s i.k).nextOp = some o ∧
    groupAt (coreOf (startOp s i o).1 i.k) i.slot = some (countFlag g o.flag) ∧ (startOp s i o).1.mem = s.mem := by
  have hflag := holds_onIssuing hg (fun g => countFlag g o.flag) (by rw [countFlag_frame]) (by rw [countFlag_frame])
  have hnext : (coreOf (onIssuing s i (fun g => countFlag g o.flag)) i.k).nextOp = (coreOf s i.k).nextOp := by
    rw [onIssuing_eq hg, coreOf_onCore_self]
    rfl
  refine ⟨?_, (holds_addOp hflag o).1, ?_⟩
  · rw [← hnext]
    exact opOf_addOp _ _ _
  · rw [startOp, onIssuing_eq hg]
    rfl

/-! ### Atomics -/

/-- What the lanes of an atomic find, and the operation that it starts. -/
def atomicFound (s : State) (f : Fx) (ret : Bool) (i : Issuer) : State × Probe :=
  found s i (atomicPlan s f ret i (i.active f)) (atomicNeed f ret) (i.active f) (fun g => eaAt g f false)

def atomicOp (s : State) (f : Fx) (ret : Bool) (i : Issuer) : Op :=
  let p := atomicPlan s f ret i (i.active f)
  let words := (ofLanes (i.active f) (atomicFound s f ret i).2.byLane).map (atomicPart (readView s i.g p.srcs).2 f)
  { newOp (applyReleases (atomicFound s f ret i).1 i p) i (if ret then p else { p with flag := none }) (i.active f)
      (.atomic (f.modAt 0 3) f.ty (words.flatMap (atomicHalves f.ty))) with
    tracker := (words.map (·.pa)).eraseDups.length, dest := if ret then .v f.d.num else .none }

theorem atomicPlan_not_ready {ret : Bool} (hfull : trackerFree (coreOf s i.k) < countMask (i.active f)) :
    (atomicPlan s f ret i (i.active f)).ready = false := by
  have h : decide (countMask (i.active f) ≤ trackerFree (coreOf s i.k)) = false := decide_eq_false (by omega)
  simp only [atomicPlan, h, Bool.and_false]

/-- The state in which an atomic has begun. -/
def atomicBegun (s : State) (f : Fx) (ret : Bool) (i : Issuer) : State :=
  startAtomic i (readView s i.g (atomicPlan s f ret i (i.active f)).srcs).2 f ret (atomicPlan s f ret i (i.active f)) (i.active f)
    (atomicFound s f ret i).2.byLane (applyReleases (atomicFound s f ret i).1 i (atomicPlan s f ret i (i.active f)))

theorem atomicBegun_startsOp (h : issuer s = some i) (ret : Bool) :
    StartsOp (atomicFound s f ret i).1 i (if ret then (atomicPlan s f ret i (i.active f)).flag else none) (atomicOp s f ret i)
      (fun g => Pending i g (atomicPlan s f ret i (i.active f)) (if ret then opNames f.d else []) (nextOp s i))
      (.next (complete (atomicBegun s f ret i) i [])) := by
  cases ret
  case true =>
    have hheld := holds_found h (atomicPlan s f true i (i.active f)) (atomicNeed f true) (i.active f) (fun g => eaAt g f false)
    have hstart := start_pending (onlyGroup_applyReleases (onlyGroup_found h _ _ _ _) hheld _) (holds_applyReleases hheld _)
      (atomicOp s f true i) (opNames f.d) (atomicPlan s f true i (i.active f)).flag rfl (.inr rfl)
    rw [nextOp_found] at hstart
    exact hstart
  case false =>
    have hstart := (startOp_startsOpAt_found h (atomicPlan s f false i (i.active f)) (atomicNeed f false) (i.active f) (fun g => eaAt g f false)
      (atomicOp s f false i) [i.onward i.e.mask]).weaken
      (Q := fun g => Pending i g (atomicPlan s f false i (i.active f)) [] (nextOp s i)) (fun g hg => ⟨fun n hn => absurd hn List.not_mem_nil, fun n _ => hg n⟩)
    rw [← complete_noTraps] at hstart
    exact hstart

theorem opOf_atomicOp (h : issuer s = some i) (ret : Bool) :
    OpOf s i (atomicOp s f ret i) (i.active f) (if ret then (atomicPlan s f ret i (i.active f)).flag else none) := by
  refine ⟨rfl, rfl, rfl, rfl, ?_, rfl, ccyc_applyReleases_found h ..⟩
  cases ret <;> rfl

theorem exec_atom_clear (h : Issues s i f false (atomicPlan s f true i (i.active f)))
    (hc : Clear s i (atomicPlan s f true i (i.active f)) (atomicNeed f true) (i.active f) (fun g => eaAt g f false) (fun s a => watchTrap s i .atomic a)) :
    exec (.atom f) s = .next (complete (atomicBegun s f true i) i []) := by
  rw [exec_atom, execAtom]
  exact memOp_clear (watch := some .atomic) rfl h hc (relRun f (atomicRegs f))

theorem exec_red_clear (h : Issues s i f false (atomicPlan s f false i (i.active f)))
    (hc : Clear s i (atomicPlan s f false i (i.active f)) (atomicNeed f false) (i.active f) (fun g => eaAt g f false) (fun s a => watchTrap s i .atomic a)) :
    exec (.red f) s = .next (complete (atomicBegun s f false i) i []) := by
  rw [exec_red, execRed]
  exact memOp_clear (watch := some .atomic) rfl h hc (relRun f (atomicRegs f))

end

end Sys2Proof.Machine

namespace Sys2Proof.Proofs

open Sys2Proof Sys2Proof.Machine

/-- Settles O32: each load is a start of its operation with the accesses that its lanes find; a prefetch touches no group but for the releases. -/
theorem loadsIssue : Obligations.LoadsIssue := by
  refine ⟨fun f => ⟨?ld, ?lds, ?ldu, ?ldbxs, ?ldtag⟩, ?pref⟩
  case ld =>
    refine loadLaw_of_starts fun s i h hc => ?_
    rw [exec_ld, execLd, loadOp]
    exact memOp_clear (watch := some .read) rfl h hc
  case lds =>
    refine loadLaw_of_starts fun s i h hc => ?_
    rw [exec_lds, execLds, loadOp]
    exact memOp_clear (watch := some .read) rfl h hc
  case ldu =>
    refine loadLaw_of_starts fun s i h hc => ?_
    rw [exec_ldu, execLdu]
    exact onceOp_clear (watch := some .read) rfl h hc
  case ldbxs =>
    refine loadLaw_of_starts fun s i h hc => ?_
    rw [exec_ldbxs, execLdbxs]
    exact memOp_clear (watch := some .read) rfl h hc
  case ldtag =>
    refine loadLaw_of_starts fun s i h hc => ?_
    rw [exec_ldtag, execLdtag]
    exact memOp_clear (watch := none) rfl h hc
  case pref =>
    intro f s i p h
    obtain ⟨t, ht, hissued, hcur, hg⟩ := endIssue_noTraps (holds_applyReleases (holds_prefDone (f := f) h.issuing) (prefPlan s f i)) true [i.onward i.e.mask]
    refine ⟨t, _, ?_, hissued, hcur, hg.1, rfl, rfl, rfl, rfl, fun n => look_releaseNames _ _ n⟩
    rw [exec_pref_issues h, complete_noTraps, ht]

/-- Settles O33: a store whose accesses go through is `startStore`, and the accesses of one kind are one operation. -/
theorem storesIssue : Obligations.StoresIssue := by
  refine ⟨fun f s i => ⟨?st, ?sts, ?stu, ?sttag, ?held⟩, fun s i p path tag accs ok hgrp hne => ⟨fun hin => ?near, fun hout => ?home⟩⟩
  case st =>
    intro h hc
    rw [exec_st, execSt, storeOp]
    exact memOp_clear (watch := some .write) rfl h hc (relRun f (memCount f))
  case sts =>
    intro h hc
    rw [exec_sts, execSts, storeOp]
    exact memOp_clear (watch := some .write) rfl h hc (relRun f (memCount f))
  case stu =>
    intro h hc
    rw [exec_stu, execStu]
    exact onceOp_clear (watch := some .write) rfl h hc
  case sttag =>
    intro h hc
    rw [exec_sttag, execSttag]
    exact memOp_clear (watch := some .write) rfl h hc
  case held =>
    intro hr hbx hout hfull
    rw [exec_st, execSt, storeOp]
    exact memOp_held hr (storePlan_not_ready hbx hout hfull)
  case near =>
    obtain ⟨hop, hg, hmem⟩ := startOp_held ⟨hgrp, rfl, rfl⟩ (nearOp s i p path tag accs ok)
    exact ⟨_, _, startStore_near hne hin, hop, rfl, rfl, rfl, hg, hmem⟩
  case home =>
    obtain ⟨hop, hg, hmem⟩ := startOp_held ⟨hgrp, rfl, rfl⟩ (homeOp s i p tag accs ok)
    have hflag : (homeOp s i p tag accs ok).flag = if tag.isSome then p.flag else none := by
      unfold homeOp
      cases tag <;> rfl
    rw [hflag] at hg
    exact ⟨_, _, startStore_home hne hout, hop, rfl, hflag, rfl, rfl, hg, hmem⟩

/-- Settles O34: an atomic is held while the tracker has too few entries; else it is one operation with the operands of its lanes. -/
theorem atomics : Obligations.Atomics := by
  intro f s i
  refine ⟨⟨fun hr hfull => ?_, fun h hc => ?_⟩, ⟨fun hr hfull => ?_, fun h hc => ?_⟩⟩
  · exact (exec_atom f s).trans (memOp_held hr (atomicPlan_not_ready hfull))
  · refine ⟨atomicOp s f true i, ?_, rfl, rfl, opOf_atomicOp h.issuing true, rfl⟩
    rw [exec_atom_clear h hc]
    exact atomicBegun_startsOp h.issuing true
  · exact (exec_red f s).trans (memOp_held hr (atomicPlan_not_ready hfull))
  · refine ⟨atomicOp s f false i, ?_, rfl, rfl, opOf_atomicOp h.issuing false, rfl⟩
    rw [exec_red_clear h hc]
    exact atomicBegun_startsOp h.issuing false

end Sys2Proof.Proofs
end

section
/-! PROOF. The fabric instructions at their issue, and the checks of their lanes (R368 to R373). -/

namespace Sys2Proof.Machine

/-! ### What the checks pass -/

/-- An instruction that acts once meets no trap where no lane of its probe faults. -/
theorem onceTraps_nil {r : Probe} (h : r.bad = []) (q : Need) (m : Mask) : onceTraps m (r.traps q) = [] := by
  rw [traps_nil q h]
  rfl

section

variable {f : Fx} {s : State} {i : Issuer}

/-! ### Reads -/

/-- The plan of a fabric read of `k` registers. -/
def readPlan (s : State) (f : Fx) (k conts : Nat) (once : Bool) (i : Issuer) : Plan :=
  { fabricPlan s f 8 1 conts 0 once i (i.active f) with dst := (runNames f.d k).map (fun x => (x, false)) }

/-- A fabric read of which no lane faults: its operation starts, its requests go, and its lanes park. -/
theorem fabricRead_clear {k n : Nat} {getf : Bool} {r : State → Issuer → Group → Mask → Probe} {accsOf : Mask → List LaneAcc → List LaneAcc}
    {conts : Mask → Nat} {once : Bool} (h : Issues s i f false (readPlan s f k (conts (i.active f)) once i))
    (hbad : (r (readView s i.g (readPlan s f k (conts (i.active f)) once i).srcs).1 i
      (readView s i.g (readPlan s f k (conts (i.active f)) once i).srcs).2 (i.active f)).bad = []) :
    fabricRead s f k n getf r accsOf conts once = .next (
      let p := readPlan s f k (conts (i.active f)) once i
      let v := readView s i.g p.srcs
      let accs := accsOf (i.active f) (r v.1 i v.2 (i.active f)).byLane
      let ready := fabricFirst (applyReleases v.1 i p) i accs
      let begun := startOp ready i { newOp ready i p (i.active f) (.remoteRead getf accs) with dest := .v f.d.num, regs := k }
      parkRemote (sendReads (allocFor begun.1 i (runNames f.d k) begun.2 p.flag) i begun.2 (if getf then kGetreq else kRdreq) accs) i (i.active f) begun.2 []) := by
  have hm : (i.active f == 0) = false := by simpa using h.active
  have htraps : ∀ q m, (if once then onceTraps m ((r (readView s i.g (readPlan s f k (conts (i.active f)) once i).srcs).1 i
      (readView s i.g (readPlan s f k (conts (i.active f)) once i).srcs).2 (i.active f)).traps q) else
      (r (readView s i.g (readPlan s f k (conts (i.active f)) once i).srcs).1 i
      (readView s i.g (readPlan s f k (conts (i.active f)) once i).srcs).2 (i.active f)).traps q) = [] := fun q m => by
    rw [onceTraps_nil hbad, traps_nil q hbad, ite_self]
  have hlanes : i.active f &&& ~~~ trapLanes [] = i.active f := and_not_zero _
  unfold readPlan at *
  rw [fabricRead, onIssue_effect h]
  refine congrArg Host.Outcome.next ((passing_pass h.passes _).trans ?_)
  simp only [htraps, hlanes, hm, Bool.false_eq_true, if_false]

/-! ### Writes -/

theorem exec_rst_clear (h : Issues s i f false (fabricPlan s f 9 (memCount f) 0 (countMask (i.active f)) false i (i.active f)))
    (hbad : (fabricProbe (readView s i.g (fabricPlan s f 9 (memCount f) 0 (countMask (i.active f)) false i (i.active f)).srcs).1 i 1 (i.active f)
      (eaAt (readView s i.g (fabricPlan s f 9 (memCount f) 0 (countMask (i.active f)) false i (i.active f)).srcs).2 f false)
      (memBytes f (memCount f))).bad = []) : exec (.rst f) s = .next (
      let p := fabricPlan s f 9 (memCount f) 0 (countMask (i.active f)) false i (i.active f)
      let v := readView s i.g p.srcs
      let accs := (ofLanes (i.active f) (fabricProbe v.1 i 1 (i.active f) (eaAt v.2 f false) (memBytes f (memCount f))).byLane).flatMap (storeParts v.2 f)
      let t := fabricFirst (applyReleases v.1 i p) i accs
      if f.modAt 4 1 == 1 then complete (startFence t i p (i.active f) sysRelease (.rst accs)).1 i []
      else
        let r := startOp t i (newOp t i p (i.active f) (.remoteWrite 0 []))
        complete (sendStores r.1 i.k r.2 i.g.ctx false accs) i []) := by
  have hm : (i.active f == 0) = false := by simpa using h.active
  have hlanes : i.active f &&& ~~~ trapLanes [] = i.active f := and_not_zero _
  rw [exec_rst, execRst, onIssue_effect h _ (relRun f (memCount f))]
  refine congrArg Host.Outcome.next ((passing_pass h.passes _).trans ?_)
  simp only [traps_nil _ hbad, hlanes, hm, Bool.false_eq_true, if_false]

theorem exec_puts_clear {a : LaneAcc} (h : Issues s i f false (fabricPlan s f 9 1 0 1 true i (i.active f)))
    (hbad : (fabricProbe s i 1 (maskOfLanes [lowestLane (i.active f)]) (eaAt i.g f false) 8).bad = [])
    (hacc : (fabricProbe s i 1 (maskOfLanes [lowestLane (i.active f)]) (eaAt i.g f false) 8).accs = [a]) : exec (.puts f) s = .next (complete
      (startFence (fabricFirst s i [a]) i (fabricPlan s f 9 1 0 1 true i (i.active f)) (i.active f) sysRelease
        (.puts a.va (dataAt i.g f.ty f.c 0 (lowestLane (i.active f))))).1 i []) := by
  rw [exec_puts, execPuts, onIssue_effect h]
  refine congrArg Host.Outcome.next ((passing_pass h.passes _).trans ?_)
  simp only [onceTraps_nil hbad, hacc]

/-! ### Atomics -/

/-- The plan of RATOM. -/
def ratomPlan (s : State) (f : Fx) (i : Issuer) : Plan :=
  { fabricPlan s f 9 (atomicRegs f) (if f.d.isV then countMask (i.active f) else 0) (countMask (i.active f)) false i (i.active f) with
    dst := if f.d.isV then (opNames f.d).map (fun x => (x, false)) else [] }

/-- The accesses of RATOM with their operands, the state once the bytes of their lines have left, its destination, and the names of its result. -/
def ratomAccs (s : State) (f : Fx) (i : Issuer) : List LaneAcc :=
  let v := readView s i.g (ratomPlan s f i).srcs
  (ofLanes (i.active f) (fabricProbe v.1 i 2 (i.active f) (eaAt v.2 f false) (atomicBytes f.ty)).byLane).map (atomicPart v.2 f)

def ratomBase (s : State) (f : Fx) (i : Issuer) : State :=
  fabricFirst (applyReleases (readView s i.g (ratomPlan s f i).srcs).1 i (ratomPlan s f i)) i (ratomAccs s f i)

def ratomDest (f : Fx) : Dest := if f.d.isV then .v f.d.num else .none

def ratomAlloc (s : State) (f : Fx) (i : Issuer) (t : State) (n : Nat) : State := if f.d.isV then allocFor t i (opNames f.d) n (ratomPlan s f i).flag else t

/-- RATOM's fence, and the state in which the fence waits with its destination; its operation without a fence. -/
def ratomFence (s : State) (f : Fx) (i : Issuer) : State × Nat :=
  startFence (ratomBase s f i) i (ratomPlan s f i) (i.active f) sysRelease (.ratom (f.modAt 0 3) f.ty (ratomAccs s f i))

def ratomFenced (s : State) (f : Fx) (i : Issuer) : State := onOp (ratomFence s f i).1 i.k (ratomFence s f i).2 (fun o => { o with dest := ratomDest f })

def ratomOp (s : State) (f : Fx) (i : Issuer) : Op :=
  { newOp (ratomBase s f i) i (ratomPlan s f i) (i.active f) (.remoteWrite 0 []) with dest := ratomDest f, tracker := (ratomAccs s f i).length }

theorem exec_ratom_clear (h : Issues s i f false (ratomPlan s f i))
    (hbad : (fabricProbe (readView s i.g (ratomPlan s f i).srcs).1 i 2 (i.active f) (eaAt (readView s i.g (ratomPlan s f i).srcs).2 f false)
      (atomicBytes f.ty)).bad = []) : exec (.ratom f) s = .next (complete (
        if f.modAt 4 1 == 1 then ratomAlloc s f i (ratomFenced s f i) (ratomFence s f i).2
        else
          let r := startOp (ratomBase s f i) i (ratomOp s f i)
          sendAtomics (ratomAlloc s f i r.1 r.2) i.k r.2 i.g.ctx (f.modAt 0 3) f.ty false f.d.isV (ratomAccs s f i)) i []) := by
  have hm : (i.active f == 0) = false := by simpa using h.active
  have hlanes : i.active f &&& ~~~ trapLanes [] = i.active f := and_not_zero _
  unfold ratomFenced ratomFence ratomOp ratomAlloc ratomBase ratomDest ratomAccs ratomPlan at *
  rw [exec_ratom, execRatom, onIssue_effect h _ (relRun f (atomicRegs f))]
  refine congrArg Host.Outcome.next ((passing_pass h.passes _).trans ?_)
  simp only [traps_nil _ hbad, hlanes, hm, Bool.false_eq_true, if_false]

/-! ### FSTATC -/

/-- The plan of FSTATC, the bits that it clears, and its team and issuer afterwards. -/
def fstatcPlan (f : Fx) (i : Issuer) : Plan := { cls := 14, active := i.active f, sNames := sSrcNames f ++ opSNames f.d }

def clearFstat (f : Fx) (i : Issuer) (t : Team) : Team := { t with fstat := t.fstat &&& ~~~ BitVec.ofNat 4 (uniformB i.g f) }

def clearedIssuer (f : Fx) (i : Issuer) : Issuer := { i with tm := clearFstat f i i.tm }

/-- The state before the end of its issue. -/
def fstatcDone (s : State) (f : Fx) (i : Issuer) : State :=
  onCore (writeDest s i f.d true (i.active f) (fun _ => BitVec.ofNat 64 i.tm.fstat.toNat)) i.k (fun c => { c with teams := alter c.teams i.t (clearFstat f i) })

theorem exec_fstatc_clears (h : Issues s i f false (fstatcPlan f i)) : exec (.fstatc f) s = .next (complete (fstatcDone s f i) i []) := by
  rw [exec_fstatc, execFstatc, onIssue_effect h]
  exact congrArg Host.Outcome.next (passing_pass h.passes _)

/-- What FSTATC leaves of its group and its team when it writes an s register. -/
theorem fstatcDone_spec (hi : issuer s = some i) {x : BitVec 6} (hd : f.d = .s x) :
    Holds (fstatcDone s f i) (clearedIssuer f i) (setS i.g x.toNat (BitVec.ofNat 64 i.tm.fstat.toNat)) ∧
      teamOf (coreOf (fstatcDone s f i) i.k) i.t = some (clearFstat f i i.tm) ∧ (fstatcDone s f i).mem = s.mem := by
  have hg := holds_of_issuer hi
  have hdone : fstatcDone s f i = onCore (onIssuing s i (fun g => setS g x.toNat (BitVec.ofNat 64 i.tm.fstat.toNat))) i.k
      (fun c => { c with teams := alter c.teams i.t (clearFstat f i) }) := by
    rw [fstatcDone, hd]
    rfl
  rw [hdone]
  refine ⟨holds_onCore (holds_onIssuing hg (fun g => setS g x.toNat _) rfl rfl) _ rfl, ?_, ?_⟩
  · rw [coreOf_onCore_self, teamOf, look_alter, if_pos rfl, onIssuing_eq hg, coreOf_onCore_self]
    exact congrArg (Option.map _) (issuer_slot hi).2.1
  · rw [onIssuing_eq hg]
    rfl

/-- The end of an issue reads nothing of the team. -/
theorem complete_clearedIssuer (t : State) : complete t (clearedIssuer f i) [] = complete t i [] := rfl

end

/-! ### The check of one lane -/

theorem fabricLane_misaligned (grant : Bool) {n l : Nat} (p : Probe) {a : Word} (h : a.toNat % n ≠ 0) :
    fabricLane grant n p (l, a) = p.fail l a { cause := causeAlign } := by
  simp [fabricLane, h]

theorem fabricLane_outside (grant : Bool) {n l : Nat} (p : Probe) {a : Word} (h : a.toNat % n = 0) (hv : isFabricVa a = false) :
    fabricLane grant n p (l, a) = p.fail l a { cause := causeAccess, sub := 2 } := by
  simp [fabricLane, h, hv, subSpace]

theorem fabricLane_refused {n l : Nat} (p : Probe) {a : Word} (h : a.toNat % n = 0) (hv : isFabricVa a = true) :
    fabricLane false n p (l, a) = p.fail l a { cause := causeAccess } := by
  simp [fabricLane, h, hv]

theorem fabricLane_granted {n l : Nat} (p : Probe) {a : Word} (h : a.toNat % n = 0) (hv : isFabricVa a = true) :
    fabricLane true n p (l, a) = p.note l 0 n a { found := .ok .fabric 0 0 } := by
  simp [fabricLane, h, hv]

end Sys2Proof.Machine

namespace Sys2Proof.Proofs

open Sys2Proof Sys2Proof.Machine

/-- Settles O40: with no lane at fault each instruction is its operation or its fence started behind the bytes that leave first; the check of a lane by
its branches; FSTATC with its team as it leaves it. -/
theorem fabricInstructions : Obligations.FabricInstructions := by
  refine ⟨fun f s i => ⟨?rld, ?getf⟩, fun f s i => ⟨?rst, ?puts, ?ratom⟩, ?lanes, ?fstatc⟩
  case rld =>
    intro h hbad
    rw [exec_rld, execRld]
    exact fabricRead_clear (conts := fun m => countMask m) (once := false) (r := fun s i g m => fabricProbe s i 0 m (eaAt g f false) _) h hbad
  case getf =>
    intro h hbad
    rw [exec_getf, execGetf]
    exact fabricRead_clear (conts := fun _ => 1) (once := true) (r := fun s i g m => fabricProbe s i 0 (maskOfLanes [lowestLane m]) (eaAt g f false) 256) h hbad
  case rst =>
    intro h hbad
    have hexec := exec_rst_clear h hbad
    refine ⟨fun hrel => hexec.trans ?_, fun hrel => ⟨_, _, rfl, hexec.trans ?_⟩⟩
    · dsimp only
      rw [if_pos hrel]
      rfl
    · dsimp only
      rw [if_neg (ne_true_of_eq_false hrel)]
      rfl
  case puts =>
    intro a h hbad hacc
    exact exec_puts_clear h hbad hacc
  case ratom =>
    intro h hbad
    have hexec := exec_ratom_clear h hbad
    refine ⟨fun hrel => ?_, fun hrel => ?_⟩
    · rw [if_pos hrel, ratomFenced] at hexec
      generalize hr : ratomFence s f i = r at hexec
      exact ⟨r.1, r.2, hr, hexec⟩
    · rw [if_neg (ne_true_of_eq_false hrel)] at hexec
      generalize hr : startOp (ratomBase s f i) i (ratomOp s f i) = r at hexec
      exact ⟨r.1, r.2, hr, hexec⟩
  case lanes =>
    intro grant n p l a
    refine ⟨fabricLane_misaligned grant p, fabricLane_outside grant p, fun h hv hg => ?_, fun h hv hg => ?_⟩
    · rw [hg, fabricLane_refused p h hv]
    · rw [hg, fabricLane_granted p h hv]
      exact ⟨rfl, rfl⟩
  case fstatc =>
    intro f s i x hd h
    obtain ⟨hholds, hteam, hmem⟩ := fstatcDone_spec h.issuing hd
    obtain ⟨honly, hissued, hcur, hgroup⟩ := complete_spec (onlyGroup_refl (i := clearedIssuer f i) hteam) hholds
    rw [complete_clearedIssuer] at honly hissued hcur hgroup
    obtain ⟨tm, htm, hst⟩ := honly.team
    refine ⟨_, _, tm, exec_fstatc_clears h, hissued, hcur, hmem, hgroup.1, ?_, ?_, fun n hn => ?_, rfl, rfl, rfl, htm, hst⟩
    · rw [← others_zero i]
      rfl
    · exact (sReg_setS _ _ _ _).trans (if_pos rfl)
    · exact (sReg_setS _ _ _ _).trans (if_neg hn)

end Sys2Proof.Proofs
end

section
/-! PROOF. The float arithmetic of class 0: what a datum is worth, rounding past the largest finite value, zeros, NaNs, order and comparison
(R234, R236, R237, R305 to R308, R311, R312). -/

namespace Sys2Proof.Machine

/-! ### The value of a finite datum -/

/-- The number that a finite datum stands for. -/
def finValue (s : Bool) (m : Nat) (e : Int) : ℚ := (if s then -1 else 1) * (m : ℚ) * 2 ^ e

theorem finValue_false (m : Nat) (e : Int) : finValue false m e = m * 2 ^ e := by simp [finValue]

theorem finValue_not (s : Bool) (m : Nat) (e : Int) : finValue (!s) m e = -finValue s m e := by cases s <;> simp [finValue]

theorem finValue_zero (s : Bool) (e : Int) : finValue s 0 e = 0 := by simp [finValue]

theorem finValue_pos {m : Nat} (h : m ≠ 0) (e : Int) : 0 < finValue false m e := by
  rw [finValue_false]
  have : (0 : ℚ) < m := by exact_mod_cast Nat.pos_of_ne_zero h
  positivity

theorem finValue_neg {m : Nat} (h : m ≠ 0) (e : Int) : finValue true m e < 0 := by
  have := finValue_pos h e
  have hn := finValue_not false m e
  rw [Bool.not_false] at hn
  linarith

/-- The integer of a datum over a unit no greater than its own. -/
theorem scaledInt_mul {s : Bool} {m : Nat} {e q : Int} (h : q ≤ e) : (scaledInt s m e q : ℚ) * 2 ^ q = finValue s m e := by
  have hpow : (2 : ℚ) ^ (e - q).toNat * 2 ^ q = 2 ^ e := by
    rw [← zpow_natCast, ← zpow_add₀ (by norm_num)]
    congr 1
    omega
  have hcast : ((m * 2 ^ (e - q).toNat : Nat) : ℚ) * 2 ^ q = m * 2 ^ e := by
    push_cast
    rw [mul_assoc, hpow]
  unfold scaledInt finValue
  cases s
  · simpa using hcast
  · simp only [if_true]
    push_cast at hcast ⊢
    linarith

theorem scaledInt_lt_iff {s t : Bool} {m n : Nat} {e d : Int} :
    scaledInt s m e (min e d) < scaledInt t n d (min e d) ↔ finValue s m e < finValue t n d := by
  have hp : (0 : ℚ) < 2 ^ (min e d) := by positivity
  rw [← scaledInt_mul (min_le_left e d), ← scaledInt_mul (min_le_right e d), mul_lt_mul_iff_left₀ hp]
  exact_mod_cast Iff.rfl

/-! ### Order -/

theorem cmpV_zeros (s t : Bool) (e d : Int) : cmpV (.fin s 0 e) (.fin t 0 d) = 0 := by simp [cmpV]

/-- The order of two finite data is that of their values. -/
theorem cmpV_of_lt {s t : Bool} {m n : Nat} {e d : Int} (h : finValue s m e < finValue t n d) :
    cmpV (.fin s m e) (.fin t n d) = -1 ∧ cmpV (.fin t n d) (.fin s m e) = 1 := by
  have hlt := scaledInt_lt_iff.mpr h
  have hlt' := hlt
  rw [min_comm e d] at hlt'
  by_cases hm : m = 0
  · subst hm
    rw [finValue_zero] at h
    have hn : n ≠ 0 := fun hn => by rw [hn, finValue_zero] at h; exact lt_irrefl _ h
    have ht : t = false := by
      cases t
      · rfl
      · exact absurd h (not_lt.mpr (finValue_neg hn d).le)
    simp [cmpV, hn, ht]
  by_cases hn : n = 0
  · subst hn
    rw [finValue_zero] at h
    have hs : s = true := by
      cases s
      · exact absurd h (not_lt.mpr (finValue_pos hm e).le)
      · rfl
    simp [cmpV, hm, hs]
  cases s <;> cases t
  · simp [cmpV, hm, hn, hlt, hlt', not_lt.mpr hlt'.le]
  · exact absurd h (not_lt.mpr ((finValue_neg hn d).trans (finValue_pos hm e)).le)
  · simp [cmpV, hm, hn]
  · simp [cmpV, hm, hn, hlt, hlt', not_lt.mpr hlt'.le]

theorem cmpV_inf_fin (s t : Bool) (n : Nat) (d : Int) :
    cmpV (.inf s) (.fin t n d) = (if s then -1 else 1) ∧ cmpV (.fin t n d) (.inf s) = if s then 1 else -1 := by
  by_cases hn : n = 0
  · cases s <;> simp [cmpV, hn]
  · cases s <;> cases t <;> simp [cmpV, hn]

theorem isNan_eq_true_iff (x : FVal) : isNan x = true ↔ x = .nan := by simp [isNan]

/-- FMIN and FMAX of data that are not NaN, one below the other. -/
theorem minF_maxF_of_cmpV {f : FloatFmt} {a b : Nat} {x y : FVal} (hx : unpackF f a = x) (hy : unpackF f b = y) (hnx : isNan x = false) (hny : isNan y = false)
    (hxy : cmpV x y = -1) (hyx : cmpV y x = 1) : (minF f a b = a ∧ maxF f a b = b) ∧ (minF f b a = a ∧ maxF f b a = b) := by
  simp [minF, maxF, hx, hy, hnx, hny, belowV, hxy, hyx]

theorem minF_maxF_of_lt {f : FloatFmt} {a b : Nat} {s t : Bool} {m n : Nat} {e d : Int} (ha : unpackF f a = .fin s m e) (hb : unpackF f b = .fin t n d)
    (h : finValue s m e < finValue t n d) : (minF f a b = a ∧ maxF f a b = b) ∧ (minF f b a = a ∧ maxF f b a = b) := by
  obtain ⟨hxy, hyx⟩ := cmpV_of_lt h
  exact minF_maxF_of_cmpV ha hb rfl rfl hxy hyx

/-- −0 lies below +0. -/
theorem minF_maxF_zeros {f : FloatFmt} {a b : Nat} {s t : Bool} {e d : Int} (ha : unpackF f a = .fin s 0 e) (hb : unpackF f b = .fin t 0 d) (hst : s ≠ t) :
    minF f a b = (if s then a else b) ∧ maxF f a b = if s then b else a := by
  have hn : ∀ s e, isNan (.fin s 0 e) = false := fun _ _ => rfl
  cases s <;> cases t
  · exact absurd rfl hst
  · simp [minF, maxF, ha, hb, hn, belowV, cmpV_zeros, signV]
  · simp [minF, maxF, ha, hb, hn, belowV, cmpV_zeros, signV]
  · exact absurd rfl hst

theorem minF_maxF_inf {f : FloatFmt} {a b : Nat} {s t : Bool} {n : Nat} {d : Int} (ha : unpackF f a = .inf s) (hb : unpackF f b = .fin t n d) :
    minF f a b = (if s then a else b) ∧ minF f b a = (if s then a else b) ∧ maxF f a b = (if s then b else a) ∧ maxF f b a = if s then b else a := by
  obtain ⟨hxy, hyx⟩ := cmpV_inf_fin s t n d
  cases s
  · obtain ⟨⟨h1, h2⟩, h3, h4⟩ := minF_maxF_of_cmpV hb ha rfl rfl hyx hxy
    exact ⟨h3, h1, h4, h2⟩
  · obtain ⟨⟨h1, h2⟩, h3, h4⟩ := minF_maxF_of_cmpV ha hb rfl rfl hxy hyx
    exact ⟨h1, h3, h2, h4⟩

/-! ### Zeros, NaNs and infinities -/

/-- A zero is packed as its sign. -/
theorem packF_zero (f : FloatFmt) (r : RMode) (s : Bool) (e : Int) : packF f r (.fin s 0 e) = if s then f.signBit else 0 := by simp [packF, roundF]

/-- An exact zero sum. -/
theorem addV_cancels (r : RMode) {s t : Bool} {m n : Nat} {e d : Int} (h : finValue s m e = -finValue t n d) :
    addV r (.fin s m e) (.fin t n d) = .fin (if m = 0 ∧ n = 0 then zeroSum r s t else r == .rdn) 0 (min e d) := by
  have hsum : scaledInt s m e (min e d) + scaledInt t n d (min e d) = 0 := by
    have hp : (2 : ℚ) ^ (min e d) ≠ 0 := by positivity
    have hq : ((scaledInt s m e (min e d) + scaledInt t n d (min e d) : Int) : ℚ) * 2 ^ (min e d) = 0 := by
      push_cast
      rw [add_mul, scaledInt_mul (min_le_left e d), scaledInt_mul (min_le_right e d), h, neg_add_cancel]
    exact_mod_cast (mul_eq_zero.mp hq).resolve_right hp
  simp [addV, hsum]

theorem zeroSum_of_ne (r : RMode) {s t : Bool} (h : s ≠ t) : zeroSum r s t = (r == .rdn) := by simp [zeroSum, h]

theorem zeroSum_self (r : RMode) (s : Bool) : zeroSum r s s = s := by simp [zeroSum]

/-- The sum of two data of unlike signs and equal magnitudes. -/
theorem packF_addV_cancels (f : FloatFmt) (r : RMode) {s t : Bool} {m n : Nat} {e d : Int} (hst : s ≠ t) (h : finValue false m e = finValue false n d) :
    packF f r (addV r (.fin s m e) (.fin t n d)) = if r == .rdn then f.signBit else 0 := by
  have hopp : finValue s m e = -finValue t n d := by
    rw [← finValue_not]
    cases s <;> cases t
    · exact absurd rfl hst
    · exact h
    · exact (finValue_not false m e).trans ((congrArg Neg.neg h).trans (finValue_not false n d).symm)
    · exact absurd rfl hst
  rw [addV_cancels r hopp, packF_zero, zeroSum_of_ne r hst, ite_self]

/-- The sum of two zeros of one sign. -/
theorem packF_addV_zeros (f : FloatFmt) (r : RMode) (s : Bool) (e d : Int) :
    packF f r (addV r (.fin s 0 e) (.fin s 0 d)) = if s then f.signBit else 0 := by
  rw [addV_cancels r (by rw [finValue_zero, finValue_zero, neg_zero]), packF_zero]
  simp only [and_self, if_true, zeroSum_self]

theorem addV_nan_right (r : RMode) (x : FVal) : addV r x .nan = .nan := by cases x <;> rfl

theorem mulV_nan_right (x : FVal) : mulV x .nan = .nan := by cases x <;> rfl

theorem divF_nan_right (f : FloatFmt) (r : RMode) (x : FVal) : divF f r x .nan = f.nanBits := by cases x <;> rfl

/-- Whatever meets a NaN gives the canonical one. -/
theorem nan_of_nan (f : FloatFmt) (r : RMode) (a b c : Nat) (h : isNan (unpackF f a) = true ∨ isNan (unpackF f b) = true) :
    addF f r a b = f.nanBits ∧ subF f r a b = f.nanBits ∧ mulF f r a b = f.nanBits ∧ divF f r (unpackF f a) (unpackF f b) = f.nanBits ∧
      fmaF f r a b c = f.nanBits ∧ fmaF f r c a b = f.nanBits := by
  simp only [isNan_eq_true_iff] at h
  unfold addF subF mulF fmaF
  rcases h with h | h
  · rw [h, mulV_nan_right]
    exact ⟨rfl, rfl, rfl, rfl, rfl, rfl⟩
  · rw [h, addV_nan_right, mulV_nan_right, divF_nan_right]
    exact ⟨rfl, congrArg (packF f r) (addV_nan_right r _), rfl, rfl, rfl, congrArg (packF f r) (addV_nan_right r _)⟩

/-! ### Rounding past the largest finite value (R236) -/

/-- A format with a fraction and at least two exponent bits. -/
structure FloatFmt.Proper (f : FloatFmt) : Prop where
  exponent : 2 ≤ f.eb
  fraction : 1 ≤ f.fb

/-- The largest finite value of a format, and half the unit of its last place. -/
def FloatFmt.largest (f : FloatFmt) : ℚ := (2 ^ (f.fb + 1) - 1) * 2 ^ (f.bias - (f.fb : Int))
def FloatFmt.halfUlp (f : FloatFmt) : ℚ := 2 ^ (f.bias - (f.fb : Int) - 1)

section

variable {f : FloatFmt}

/-- The units of the largest finite values lie 2^eb − 3 above those of the subnormals. -/
theorem FloatFmt.Proper.span (hf : f.Proper) : f.bias - f.fb - f.qmin = 2 ^ f.eb - 3 := by
  obtain ⟨k, hk⟩ : ∃ k, f.eb = k + 1 := ⟨f.eb - 1, by have := hf.exponent; omega⟩
  simp only [FloatFmt.qmin, FloatFmt.bias, hk, Nat.add_sub_cancel, pow_succ]
  ring

/-- The magnitude that rounding starts from, its unit, and the place of its highest bit. -/
def wideMag (f : FloatFmt) (m : Nat) : Nat := m * 2 ^ (f.fb + 4)
def wideUnit (f : FloatFmt) (e : Int) : Int := e - (f.fb + 4 : Nat)
def topBit (f : FloatFmt) (m : Nat) (e : Int) : Int := wideUnit f e + Nat.log2 (wideMag f m)

/-- The unit that rounding keeps, and the bits below it. -/
def keptUnit (f : FloatFmt) (m : Nat) (e : Int) : Int := max (topBit f m e - f.fb) f.qmin
def dropped (f : FloatFmt) (m : Nat) (e : Int) : Nat := (keptUnit f m e - wideUnit f e).toNat

theorem roundF_eq {r : RMode} {s : Bool} {m : Nat} {e : Int} (hm : m ≠ 0) : roundF f r s m e false =
    (if s then f.signBit else 0) +
      (let kept := wideMag f m / 2 ^ dropped f m e
       let bits := (if roundsUp r s kept (wideMag f m % 2 ^ dropped f m e) (dropped f m e) false then kept + 1 else kept) +
        (keptUnit f m e - f.qmin).toNat * 2 ^ f.fb
       if f.infBits ≤ bits then overflowBits f r s else bits) := by
  unfold roundF
  simp only [hm, Bool.not_false, Bool.and_true, decide_false, Bool.false_eq_true, if_false]
  rfl

theorem log2_wideMag {m : Nat} (hm : m ≠ 0) : 2 ^ Nat.log2 (wideMag f m) ≤ wideMag f m ∧ wideMag f m < 2 ^ (Nat.log2 (wideMag f m) + 1) ∧
    f.fb + 4 ≤ Nat.log2 (wideMag f m) := by
  have hne : wideMag f m ≠ 0 := Nat.mul_ne_zero hm (by positivity)
  exact ⟨Nat.log2_self_le hne, Nat.lt_log2_self, (Nat.le_log2 hne).mpr (Nat.le_mul_of_pos_left _ (Nat.pos_of_ne_zero hm))⟩

theorem finValue_eq_wide (m : Nat) (e : Int) : finValue false m e = wideMag f m * 2 ^ wideUnit f e := by
  rw [finValue_false, wideMag, wideUnit, Nat.cast_mul, mul_assoc, Nat.cast_pow, Nat.cast_ofNat, ← zpow_natCast, ← zpow_add₀ (by norm_num)]
  congr 2
  ring

theorem dropped_cast {m : Nat} (hm : m ≠ 0) (e : Int) : (dropped f m e : Int) = keptUnit f m e - wideUnit f e := by
  obtain ⟨-, -, hlog⟩ := log2_wideMag (f := f) hm
  unfold dropped keptUnit topBit
  omega

/-- A magnitude of 2^k or more has its highest bit at k or above. -/
theorem le_topBit {m : Nat} (hm : m ≠ 0) {e k : Int} (h : (2 : ℚ) ^ k ≤ finValue false m e) : k ≤ topBit f m e := by
  obtain ⟨-, hlt, -⟩ := log2_wideMag (f := f) hm
  have hbound : finValue false m e < 2 ^ (topBit f m e + 1) := by
    have hcast : ((wideMag f m : Nat) : ℚ) < 2 ^ (Nat.log2 (wideMag f m) + 1) := by exact_mod_cast hlt
    calc finValue false m e = wideMag f m * 2 ^ wideUnit f e := finValue_eq_wide m e
      _ < 2 ^ (Nat.log2 (wideMag f m) + 1) * 2 ^ wideUnit f e := mul_lt_mul_of_pos_right hcast (by positivity)
      _ = 2 ^ (topBit f m e + 1) := by
        rw [← zpow_natCast, ← zpow_add₀ (by norm_num), topBit]
        congr 1
        push_cast
        ring
  have := (zpow_lt_zpow_iff_right₀ (by norm_num : (1 : ℚ) < 2)).mp (h.trans_lt hbound)
  omega

theorem FloatFmt.Proper.four_le (hf : f.Proper) : 4 ≤ 2 ^ f.eb := (show 4 = 2 ^ 2 from rfl) ▸ Nat.pow_le_pow_right (by norm_num) hf.exponent

theorem infBits_eq (f : FloatFmt) (h : 4 ≤ 2 ^ f.eb) : f.infBits = 2 ^ (f.fb + 1) + (2 ^ f.eb - 3) * 2 ^ f.fb := by
  obtain ⟨k, hk⟩ := Nat.exists_eq_add_of_le h
  rw [FloatFmt.infBits, hk, pow_succ, show 4 + k - 1 = 3 + k by omega, show 4 + k - 3 = 1 + k by omega]
  ring

/-- A magnitude whose highest bit lies above the largest exponent overflows under every mode. -/
theorem roundF_above (hf : f.Proper) {m : Nat} (hm : m ≠ 0) {e : Int} (h : f.bias < topBit f m e) (r : RMode) (s : Bool) :
    roundF f r s m e false = (if s then f.signBit else 0) + overflowBits f r s := by
  obtain ⟨hle, -, hlog⟩ := log2_wideMag (f := f) hm
  have hspan := hf.span
  have hfour := hf.four_le
  have hfour' : (4 : Int) ≤ 2 ^ f.eb := by exact_mod_cast hfour
  have hunit : keptUnit f m e = topBit f m e - f.fb := max_eq_left (by omega)
  have hdrop : dropped f m e = Nat.log2 (wideMag f m) - f.fb := by
    have := dropped_cast (f := f) hm e
    rw [hunit, topBit] at this
    omega
  have hkept : 2 ^ f.fb ≤ wideMag f m / 2 ^ dropped f m e := by
    rw [Nat.le_div_iff_mul_le (by positivity), hdrop, ← pow_add, Nat.add_sub_cancel' (by omega)]
    exact hle
  have hunits : 2 ^ f.eb - 2 ≤ (keptUnit f m e - f.qmin).toNat := by
    zify [show 2 ≤ 2 ^ f.eb by omega]
    rw [Int.toNat_of_nonneg (by omega)]
    omega
  have hbits : f.infBits ≤ wideMag f m / 2 ^ dropped f m e + (keptUnit f m e - f.qmin).toNat * 2 ^ f.fb := by
    have := Nat.mul_le_mul_right (2 ^ f.fb) hunits
    have hinf : f.infBits = 2 ^ f.fb + (2 ^ f.eb - 2) * 2 ^ f.fb := by
      rw [FloatFmt.infBits, show 2 ^ f.eb - 1 = 1 + (2 ^ f.eb - 2) by omega, Nat.add_mul, Nat.one_mul]
    omega
  rw [roundF_eq hm]
  refine congrArg (HAdd.hAdd _) (if_pos (hbits.trans (Nat.add_le_add_right ?_ _)))
  split
  · exact Nat.le_succ _
  · exact le_rfl

/-- Where the highest bit is at the largest exponent and every kept bit is set, rounding up overflows, and rounding down gives the largest value. -/
theorem roundF_top (hf : f.Proper) {m : Nat} (hm : m ≠ 0) {e : Int} (h : topBit f m e = f.bias)
    (hk : wideMag f m / 2 ^ dropped f m e = 2 ^ (f.fb + 1) - 1) (r : RMode) (s : Bool) :
    roundF f r s m e false = (if s then f.signBit else 0) +
      (if roundsUp r s (2 ^ (f.fb + 1) - 1) (wideMag f m % 2 ^ dropped f m e) (dropped f m e) false then overflowBits f r s else f.maxBits) := by
  have hspan := hf.span
  have hfour := hf.four_le
  have hfour' : (4 : Int) ≤ 2 ^ f.eb := by exact_mod_cast hfour
  have hunits : (keptUnit f m e - f.qmin).toNat = 2 ^ f.eb - 3 := by
    have hunit : keptUnit f m e = topBit f m e - f.fb := max_eq_left (by omega)
    rw [hunit, h, hspan]
    zify [show 3 ≤ 2 ^ f.eb by omega]
    rw [Int.toNat_of_nonneg (by omega)]
  have hinf := infBits_eq f hfour
  have hpos : 0 < 2 ^ (f.fb + 1) := by positivity
  rw [roundF_eq hm, hk, hunits, FloatFmt.maxBits]
  refine congrArg (HAdd.hAdd _) ?_
  dsimp only
  cases roundsUp r s (2 ^ (f.fb + 1) - 1) (wideMag f m % 2 ^ dropped f m e) (dropped f m e) false
  · simp only [Bool.false_eq_true, if_false]
    rw [if_neg (by omega)]
    omega
  · simp only [if_true]
    rw [if_pos (by omega)]

/-- The modes that round a magnitude of a sign away from zero whenever a tail is left. -/
def RMode.away (r : RMode) (s : Bool) : Prop := (r = .rup ∧ s = false) ∨ (r = .rdn ∧ s = true)

/-- A magnitude no less than the largest finite value gives that value or what the table of overflows names; it overflows when a mode rounds every
tail of its sign away from zero and there is one, and when a mode rounds to nearest and the tail is half a unit or more. -/
theorem roundF_large (hf : f.Proper) {m : Nat} {e : Int} (h : f.largest ≤ finValue false m e) (r : RMode) (s : Bool) : ∃ up : Bool,
    roundF f r s m e false = (if s then f.signBit else 0) + (if up then overflowBits f r s else f.maxBits) ∧
      (r.away s → f.largest < finValue false m e → up = true) ∧
      (r = .rne ∨ r = .rna → f.largest + f.halfUlp ≤ finValue false m e → up = true) := by
  have hM : (1 : ℚ) ≤ 2 ^ f.fb := one_le_pow₀ (by norm_num)
  have hbase : (2 : ℚ) ^ f.bias ≤ f.largest := by
    have hsplit : (2 : ℚ) ^ f.bias = 2 ^ f.fb * 2 ^ (f.bias - (f.fb : Int)) := by
      rw [← zpow_natCast, ← zpow_add₀ (by norm_num)]
      congr 1
      ring
    rw [hsplit, FloatFmt.largest, pow_succ]
    exact mul_le_mul_of_nonneg_right (by linarith) (by positivity)
  have hm : m ≠ 0 := by
    rintro rfl
    rw [finValue_zero] at h
    have : (0 : ℚ) < 2 ^ f.bias := by positivity
    linarith
  obtain htop | htop := (le_topBit (f := f) hm (hbase.trans h)).lt_or_eq
  · exact ⟨true, roundF_above hf hm htop r s, fun _ _ => rfl, fun _ _ => rfl⟩
  have hspan := hf.span
  have hfour : (4 : Int) ≤ 2 ^ f.eb := by exact_mod_cast hf.four_le
  have hunit : keptUnit f m e = f.bias - f.fb := by
    unfold keptUnit
    omega
  have hdrop := dropped_cast (f := f) hm e
  rw [hunit] at hdrop
  have hc : (0 : ℚ) < 2 ^ wideUnit f e := by positivity
  have hlast : (2 : ℚ) ^ (f.bias - (f.fb : Int)) = (2 ^ dropped f m e : Nat) * 2 ^ wideUnit f e := by
    rw [Nat.cast_pow, Nat.cast_ofNat, ← zpow_natCast, ← zpow_add₀ (by norm_num), hdrop]
    congr 1
    ring
  have hlargest : f.largest = ((2 ^ (f.fb + 1) - 1) * (2 ^ dropped f m e : Nat) : ℚ) * 2 ^ wideUnit f e := by
    rw [FloatFmt.largest, hlast, mul_assoc]
  have hhalf : f.halfUlp = ((2 ^ dropped f m e : Nat) : ℚ) / 2 * 2 ^ wideUnit f e := by
    rw [FloatFmt.halfUlp, zpow_sub_one₀ (by norm_num), hlast]
    ring
  obtain ⟨-, hlt, hlog⟩ := log2_wideMag (f := f) hm
  have hupper : wideMag f m < 2 ^ (f.fb + 1) * 2 ^ dropped f m e := by
    rw [← pow_add]
    convert hlt using 2
    unfold topBit at htop
    omega
  have hdown : (2 ^ (f.fb + 1) - 1) * 2 ^ dropped f m e ≤ wideMag f m := by
    rw [finValue_eq_wide (f := f), hlargest, mul_le_mul_iff_left₀ hc] at h
    rw [← Nat.cast_le (α := ℚ)]
    push_cast [Nat.one_le_two_pow] at h ⊢
    exact h
  have hkept : wideMag f m / 2 ^ dropped f m e = 2 ^ (f.fb + 1) - 1 := Nat.div_eq_of_lt_le hdown (by rwa [Nat.sub_add_cancel Nat.one_le_two_pow])
  have hrem := Nat.div_add_mod (wideMag f m) (2 ^ dropped f m e)
  rw [hkept, mul_comm] at hrem
  refine ⟨_, roundF_top hf hm htop.symm hkept r s, fun hr htail => ?_, fun hr htail => ?_⟩
  · rw [finValue_eq_wide (f := f), hlargest, mul_lt_mul_iff_left₀ hc] at htail
    have htail' : (2 ^ (f.fb + 1) - 1) * 2 ^ dropped f m e < wideMag f m := by
      rw [← Nat.cast_lt (α := ℚ)]
      push_cast [Nat.one_le_two_pow] at htail ⊢
      exact htail
    have hne : wideMag f m % 2 ^ dropped f m e ≠ 0 := by omega
    rcases hr with ⟨rfl, rfl⟩ | ⟨rfl, rfl⟩ <;> simp [roundsUp, hne]
  · rw [finValue_eq_wide (f := f), hlargest, hhalf, ← add_mul, mul_le_mul_iff_left₀ hc] at htail
    have htail' : 2 * ((2 ^ (f.fb + 1) - 1) * 2 ^ dropped f m e) + 2 ^ dropped f m e ≤ 2 * wideMag f m := by
      rw [← Nat.cast_le (α := ℚ)]
      push_cast [Nat.one_le_two_pow] at htail ⊢
      linarith
    have htwice : 2 ^ dropped f m e ≤ 2 * (wideMag f m % 2 ^ dropped f m e) := by omega
    have hodd : (2 ^ (f.fb + 1) - 1) % 2 = 1 := by
      rw [pow_succ]
      have : 0 < 2 ^ f.fb := by positivity
      omega
    rcases hr with rfl | rfl
    · rcases htwice.lt_or_eq with h | h
      · simp [roundsUp, h]
      · simp [roundsUp, ← h, hodd]
    · simp [roundsUp, htwice]

end

/-! ### Comparison -/

theorem floatCond_unordered {c : Nat} (hc : c ≤ 13) {x y : FVal} (h : isNan x = true ∨ isNan y = true) : floatCond c x y = decide (7 ≤ c) := by
  have hun : (isNan x || isNan y) = true := Bool.or_eq_true_iff.mpr h
  unfold floatCond
  interval_cases c <;> simp [hun]

theorem floatCond_zeros {c : Nat} (hc : c ≤ 13) (s t : Bool) (e d : Int) :
    floatCond c (.fin s 0 e) (.fin t 0 d) = [0, 3, 5, 6, 8, 11, 13].contains c := by
  have hn : ∀ s e, isNan (.fin s 0 e) = false := fun _ _ => rfl
  unfold floatCond
  interval_cases c <;> simp [cmpV_zeros, hn]

end Sys2Proof.Machine

namespace Sys2Proof.Proofs

open Sys2Proof Sys2Proof.Machine

theorem proper_of_mem {f : FloatFmt} (h : f ∈ [fmtF16, fmtBf16, fmtF32, fmtF64]) : f.Proper := by
  fin_cases h <;> exact ⟨by decide, by decide⟩

/-- Settles O8: the lanes by their element functions; overflow by what rounding a large magnitude can give; zeros, infinities and NaNs by cases of the
exact operations; the order of data by their values. -/
theorem floatResults : Obligations.FloatResults := by
  intro f
  refine ⟨laneOp_law (exec_fadd f) fun _ _ _ => rfl, laneOp_law (exec_fsub f) fun _ _ _ => rfl, laneOp_law (exec_fmul f) fun _ _ _ => rfl,
    laneOp_law (exec_ffma f) fun _ _ _ => rfl, laneOp_law (exec_fmin f) fun _ _ _ => rfl, laneOp_law (exec_fmax f) fun _ _ _ => rfl,
    laneOp_law (exec_frnd f) fun _ _ _ => rfl, laneOp_law (exec_cvtf f) fun _ _ _ => rfl, laneOp_law (exec_i2f f) fun _ _ _ => rfl, ?nans,
    fun fm hfm r => ⟨fun m e => ⟨?nearest, ?zero, ?up, ?down⟩, nan_of_nan fm r, ?nan1, ?fin, ?infs, ?inf, ?minNan⟩, fun c hc => ⟨?unordered, floatCond_zeros hc⟩⟩
  case nans => decide
  case nearest =>
    intro hr h s
    have hhalf : (0 : ℚ) < fm.halfUlp := by unfold FloatFmt.halfUlp; positivity
    have h' : fm.largest + fm.halfUlp ≤ finValue false m e := h
    obtain ⟨up, hround, -, hup⟩ := roundF_large (proper_of_mem hfm) (by linarith) r s
    rw [hup hr h'] at hround
    refine hround.trans (congrArg (HAdd.hAdd _) ?_)
    rcases hr with rfl | rfl <;> cases s <;> rfl
  case zero =>
    rintro rfl h s
    obtain ⟨up, hround, -, -⟩ := roundF_large (proper_of_mem hfm) h .rtz s
    refine hround.trans (congrArg (HAdd.hAdd _) ?_)
    cases up <;> cases s <;> rfl
  case up =>
    rintro rfl
    refine ⟨fun h => ?_, fun h => ?_⟩
    · obtain ⟨up, hround, hup, -⟩ := roundF_large (proper_of_mem hfm) (le_of_lt h) .rup false
      rw [hup (.inl ⟨rfl, rfl⟩) h] at hround
      exact hround.trans (Nat.zero_add _)
    · obtain ⟨up, hround, -, -⟩ := roundF_large (proper_of_mem hfm) h .rup true
      refine hround.trans (congrArg (HAdd.hAdd _) ?_)
      cases up <;> rfl
  case down =>
    rintro rfl
    refine ⟨fun h => ?_, fun h => ?_⟩
    · obtain ⟨up, hround, hup, -⟩ := roundF_large (proper_of_mem hfm) (le_of_lt h) .rdn true
      rw [hup (.inr ⟨rfl, rfl⟩) h] at hround
      exact hround
    · obtain ⟨up, hround, -, -⟩ := roundF_large (proper_of_mem hfm) h .rdn false
      refine hround.trans ((Nat.zero_add _).trans ?_)
      cases up <;> rfl
  case nan1 =>
    intro a h
    rw [isNan_eq_true_iff] at h
    rw [frndF, h]
    exact ⟨rfl, rfl⟩
  case fin =>
    intro a b s t m n e d ha hb
    refine ⟨fun h => ⟨fun hst => ?_, fun hst => ?_⟩, fun hm hn => ⟨fun hst => ?_, fun hst => ?_⟩, fun h => ?_, fun hm hn => ?_, fun hm hn => ?_,
      fun h => (minF_maxF_of_lt ha hb h).1, fun h => (minF_maxF_of_lt hb ha h).2, fun hm hn hst => ?_, fun hm => ?_, fun hm => ?_⟩
    · rw [addF, ha, hb]
      exact packF_addV_cancels fm r hst h
    · subst hst
      rw [subF, ha, hb]
      exact packF_addV_cancels fm r (by cases s <;> decide) h
    · subst hm hn hst
      rw [addF, ha, hb]
      exact packF_addV_zeros fm r s e d
    · subst hm hn
      obtain rfl : s = !t := Bool.eq_not_of_ne hst
      rw [subF, ha, hb]
      exact packF_addV_zeros fm r (!t) e d
    · have hmn : m * n = 0 := Nat.mul_eq_zero.mpr h
      rw [mulF, ha, hb, mulV, hmn]
      exact packF_zero ..
    · rw [divF, if_neg hn, if_pos hm]
      exact packF_zero ..
    · rw [divF, if_pos hn, if_pos hm]
    · subst hm hn
      exact minF_maxF_zeros ha hb hst
    · rw [sqrtF, if_neg hm, if_pos rfl]
    · rw [sqrtF, if_pos hm]
      exact packF_zero ..
  case infs =>
    intro a b s t ha hb
    refine ⟨rfl, fun hst => ?_, fun hst => ?_⟩
    · rw [addF, ha, hb, addV, if_neg (by simpa using hst)]
      rfl
    · subst hst
      rw [subF, ha, hb, negV, addV, if_neg (by simp)]
      rfl
  case inf =>
    intro a b s t n d ha hb
    refine ⟨fun hn => ?_, minF_maxF_inf ha hb⟩
    rw [mulF, mulF, ha, hb, mulV, mulV, if_pos hn, if_pos hn]
    exact ⟨rfl, rfl⟩
  case minNan =>
    intro a b x y
    refine ⟨fun hx hy => ?_, fun hx hy => ?_, fun hx hy => ?_⟩ <;> simp [minF, maxF, x, y, hx, hy]
  case unordered =>
    intro x y h
    exact floatCond_unordered hc h

end Sys2Proof.Proofs
end
